-- ==== Sys2Proof/Word.lean ====
section
/-! DEFINITION. The word types of the model and their plainest helpers: bytes, 16, 32, 64, 128 and 512 bit words, and bit-field extraction. -/

namespace Sys2Proof

/-- One byte. -/
abbrev Byte := BitVec 8
/-- A 16-bit field. -/
abbrev W16 := BitVec 16
/-- A 32-bit field. -/
abbrev W32 := BitVec 32
/-- A 64-bit field. -/
abbrev W64 := BitVec 64
/-- An engine instruction word (R129). -/
abbrev IWord := BitVec 128
/-- A 64-byte descriptor, command or submission entry. -/
abbrev Desc := BitVec 512

/-- Bits [hi:lo] of a word as a number (R8: bit 0 is the least significant bit). -/
def fld {n : Nat} (w : BitVec n) (hi lo : Nat) : Nat := (w.toNat >>> lo) % 2 ^ (hi + 1 - lo)

/-- One bit of a word. -/
def bitOf {n : Nat} (w : BitVec n) (i : Nat) : Bool := w.getLsbD i

/-- Byte `i` of a word, the least significant byte first (R9). -/
def byteOf {n : Nat} (w : BitVec n) (i : Nat) : Nat := (w.toNat >>> (8 * i)) % 256

/-- `k` bytes of a word from byte `i`, little-endian (R9). -/
def bytesAt {n : Nat} (w : BitVec n) (i k : Nat) : Nat := (w.toNat >>> (8 * i)) % 2 ^ (8 * k)

/-- A number read as a signed two's complement value of `n` bits. -/
def signed (n x : Nat) : Int := if x < 2 ^ (n - 1) then (x : Int) else (x : Int) - (2 : Int) ^ n

/-- A signed value as the `n`-bit two's complement number. -/
def unsigned (n : Nat) (x : Int) : Nat := (x % (2 : Int) ^ n).toNat

end Sys2Proof
end

