-- ==== Sys2Proof/Syntax.lean ====
section
/-! DEFINITION. The commands of the block: one constructor per row of the table of operations and events, each with the raw bits it carries. -/

namespace Sys2Proof

/-- The register bus a register write goes to: the BAR0 of a PF1 function (0: PF1, n + 1: virtual function n), its MSI-X table, the admin queue registers of an NVMe controller, or the Reeve's register space. -/
inductive RegBus where
  | bar (f : Fin 33)
  | msix (f : Fin 33)
  | nvme (k : Fin 33)
  | reeve
  deriving DecidableEq, Repr

/-- A ring that signals interrupts: a completion ring by number (0xFFFF: admin) or a croft's event ring (R316). -/
inductive RingRef where
  | completion (n : Nat)
  | event (c : Fin 32)
  deriving DecidableEq, Repr

/-- A dictionary message: its transport (0: 10BASE-T1S, 1: MCTP over PCIe, 2: MCTP over I3C), its source address, and its bytes from the PDU on (R389, R393). -/
structure OdReq where
  transport : Fin 3
  source : W64
  pdu : List Byte
  deriving DecidableEq, Repr

/-- What a re-learn procedure measured: the bank's capacitance and ESR as FP32, the eleven valve positions, or a failure (R425). -/
inductive Relearn where
  | bank (farads milliohms : W32)
  | valve (points : List W16)
  | failed
  deriving DecidableEq, Repr

/-- One Bell exchange: the four time stamps, the neighbour's own estimate in ps, its hops, Bell state and offered master (priority, serial, address), and whether either direction retried (R249, R302, R303). -/
structure BellX where
  t1 : W64
  t2 : W64
  t3 : W64
  t4 : W64
  estimate : W32
  hops : Byte
  state : Byte
  priority : Byte
  serial : W64
  address : Byte
  retried : Bool
  deriving DecidableEq, Repr

/-- The commands, one constructor per row of the table. Engine rows carry the croft, the virtual engine and the instruction word; ring rows the function, the ring and the 64-byte descriptor; frame rows the port and the frame's bytes. -/
inductive Instr where
  | nop (c : Fin 32) (v : Fin 64) (q : Fin 4) (w : IWord)
  | signal (c : Fin 32) (v : Fin 64) (q : Fin 4) (w : IWord)
  | gate (c : Fin 32) (v : Fin 64) (q : Fin 4) (w : IWord)
  | step (c : Fin 32) (v : Fin 64) (q : Fin 4) (w : IWord)
  | fetch (c : Fin 32) (v : Fin 64) (w : IWord)
  | ldsh (c : Fin 32) (v : Fin 64) (w : IWord)
  | swap (c : Fin 32) (v : Fin 64) (w : IWord)
  | mac (c : Fin 32) (v : Fin 64) (w : IWord)
  | tload (c : Fin 32) (v : Fin 64) (w : IWord)
  | preload (c : Fin 32) (v : Fin 64) (w : IWord)
  | tag (c : Fin 32) (v : Fin 64) (w : IWord)
  | vop (c : Fin 32) (v : Fin 64) (w : IWord)
  | vfn (c : Fin 32) (v : Fin 64) (w : IWord)
  | vred (c : Fin 32) (v : Fin 64) (w : IWord)
  | vcvt (c : Fin 32) (v : Fin 64) (w : IWord)
  | vupd (c : Fin 32) (v : Fin 64) (w : IWord)
  | select (c : Fin 32) (v : Fin 64) (w : IWord)
  | vpos (c : Fin 32) (v : Fin 64) (w : IWord)
  | psum (c : Fin 32) (v : Fin 64) (w : IWord)
  | drain (c : Fin 32) (v : Fin 64) (w : IWord)
  | wcvt (c : Fin 32) (v : Fin 64) (w : IWord)
  | store (c : Fin 32) (v : Fin 64) (w : IWord)
  | send (c : Fin 32) (v : Fin 64) (w : IWord)
  | reduce (c : Fin 32) (v : Fin 64) (w : IWord)
  | tally (c : Fin 32) (v : Fin 64) (w : IWord)
  | wpos (c : Fin 32) (v : Fin 64) (w : IWord)
  | instructionComplete (c : Fin 32) (v : Fin 64) (q : Fin 4) (ix : Nat)
  | promotionComplete (c : Fin 32) (ix : Nat)
  | stepStart (c : Fin 32)
  | batchStepEnd (c : Fin 32)
  | stepTimeLimit (c : Fin 32)
  | preemptionDeadline (c : Fin 32)
  | launchCountReached (c : Fin 32) (job : Nat)
  | batchWaitExpiry (c : Fin 32) (job : Nat)
  | arrayIdleTimeout (e : Fin 64) (a : Fin 8)
  | rampPhaseEnd (e : Fin 64) (a : Fin 8)
  | ballastPhaseEnd (e : Fin 64) (a : Fin 8)
  | rampUpStart (n : Fin 8)
  | openJob (f : Fin 33) (ring : Nat) (d : Desc)
  | stepDescriptor (f : Fin 33) (ring : Nat) (d : Desc)
  | request (f : Fin 33) (ring : Nat) (d : Desc)
  | closeJob (f : Fin 33) (ring : Nat) (d : Desc)
  | search (f : Fin 33) (ring : Nat) (d : Desc)
  | setcreate (f : Fin 33) (ring : Nat) (d : Desc)
  | compact (f : Fin 33) (ring : Nat) (d : Desc)
  | compactionTrigger (c : Fin 32) (set : Nat)
  | droverReadsReturned (c : Fin 32) (m : Nat)
  | write (f : Fin 33) (ring : Nat) (d : Desc)
  | persist (f : Fin 33) (ring : Nat) (d : Desc)
  | read (f : Fin 33) (ring : Nat) (d : Desc)
  | truncate (f : Fin 33) (ring : Nat) (d : Desc)
  | update (f : Fin 33) (ring : Nat) (d : Desc)
  | copy (f : Fin 33) (ring : Nat) (d : Desc)
  | commit (f : Fin 33) (ring : Nat) (d : Desc)
  | commitSealed (c : Fin 32)
  | discard (f : Fin 33) (ring : Nat) (d : Desc)
  | snapshot (f : Fin 33) (ring : Nat) (d : Desc)
  | release (f : Fin 33) (ring : Nat) (d : Desc)
  | rollback (f : Fin 33) (ring : Nat) (d : Desc)
  | manifest (f : Fin 33) (ring : Nat) (d : Desc)
  | hold (f : Fin 33) (ring : Nat) (d : Desc)
  | resume (f : Fin 33) (ring : Nat) (d : Desc)
  | unhold (f : Fin 33) (ring : Nat) (d : Desc)
  | secdealloc (f : Fin 33) (ring : Nat) (d : Desc)
  | mkwr (f : Fin 33) (d : Desc)
  | rmwr (f : Fin 33) (d : Desc)
  | mkcr (f : Fin 33) (d : Desc)
  | rmcr (f : Fin 33) (d : Desc)
  | setev (f : Fin 33) (d : Desc)
  | ldimg (f : Fin 33) (d : Desc)
  | rmimg (f : Fin 33) (d : Desc)
  | ldalm (f : Fin 33) (d : Desc)
  | mkbnd (f : Fin 33) (d : Desc)
  | rmbnd (f : Fin 33) (d : Desc)
  | exportSet (f : Fin 33) (d : Desc)
  | unexportSet (f : Fin 33) (d : Desc)
  | workRingTailDoorbell (f : Fin 33) (n : Nat) (v : W32)
  | completionRingHeadDoorbell (f : Fin 33) (n : Nat) (v : W32)
  | eventRingHeadDoorbell (f : Fin 33) (c : Fin 32) (v : W32)
  | ctrlEnSet (f : Fin 33)
  | ctrlEnClear (f : Fin 33)
  | registerWrite (b : RegBus) (offset width : Nat) (v : W64)
  | interruptTimeThreshold (f : Fin 33) (r : RingRef)
  | msixUnmask (f : Fin 33) (vector : Nat)
  | pf1Flr (f : Fin 33)
  | pf0Flr (k : Fin 33)
  | hotReset (port : Fin 2)
  | ccEnSet (k : Fin 33)
  | ccEnClear (k : Fin 33)
  | createIoSubmissionQueue (k : Fin 33) (e : Desc)
  | deleteIoSubmissionQueue (k : Fin 33) (e : Desc)
  | createIoCompletionQueue (k : Fin 33) (e : Desc)
  | deleteIoCompletionQueue (k : Fin 33) (e : Desc)
  | getLogPage (k : Fin 33) (e : Desc)
  | identify (k : Fin 33) (e : Desc)
  | abortCmd (k : Fin 33) (e : Desc)
  | setFeatures (k : Fin 33) (e : Desc)
  | getFeatures (k : Fin 33) (e : Desc)
  | asynchronousEventRequest (k : Fin 33) (e : Desc)
  | namespaceManagement (k : Fin 33) (e : Desc)
  | namespaceAttachment (k : Fin 33) (e : Desc)
  | firmwareImageDownload (k : Fin 33) (e : Desc)
  | firmwareCommit (k : Fin 33) (e : Desc)
  | formatNvm (k : Fin 33) (e : Desc)
  | sanitize (k : Fin 33) (e : Desc)
  | flush (k : Fin 33) (q : Nat) (e : Desc)
  | nvmeWrite (k : Fin 33) (q : Nat) (e : Desc)
  | nvmeRead (k : Fin 33) (q : Nat) (e : Desc)
  | compare (k : Fin 33) (q : Nat) (e : Desc)
  | writeZeroes (k : Fin 33) (q : Nat) (e : Desc)
  | datasetManagement (k : Fin 33) (q : Nat) (e : Desc)
  | verify (k : Fin 33) (q : Nat) (e : Desc)
  | secureDeallocation (k : Fin 33) (q : Nat) (e : Desc)
  | secdeallocEraseDone (seq : Nat)
  | odOpen (r : OdReq)
  | odRead (r : OdReq)
  | odWrite (r : OdReq)
  | compareWrite (r : OdReq)
  | readSegment (r : OdReq)
  | writeSegment (r : OdReq)
  | subscribe (r : OdReq)
  | notifyAck (r : OdReq)
  | odClose (r : OdReq)
  | notifyResend (se : Fin 16) (seq : W16)
  | sessionSupervisionExpiry (se : Fin 16)
  | stagingBufferTimeout
  | dictionarySave
  | saveNow
  | restoreDefaults
  | croftCreate (c : Fin 32)
  | croftApply (c : Fin 32)
  | croftRemove (c : Fin 32)
  | croftRemoveAndPurge (c : Fin 32)
  | scrubStart (st : Fin 8)
  | scrubStop (st : Fin 8)
  | scrubEnd (st : Fin 8)
  | patrolScrub (st : Fin 8)
  | correctedRateThreshold (st : Fin 8) (ch : Fin 32)
  | hotChannelWindow (st : Fin 8) (ch : List (Fin 32)) (bytes : List Nat) (own ms : Nat) (c : List (Fin 32))
  | hbmTemperatureReading (st : Fin 8) (ch : Fin 32) (t : W32)
  | hbmSelfRefreshEntry (st : Fin 8)
  | clusterGate (n : Fin 8)
  | clusterWake (n : Fin 8)
  | arm
  | clearPlantStop
  | clearBankFault
  | clearFault (ix : Fin 6)
  | relearnValveCurve
  | relearnBank
  | bankRelearnInterval
  | relearnComplete (r : Relearn)
  | moduleRestart
  | advanceNow
  | firmwareReplace (path : Fin 34) (slot : Nat)
  | firmwareReplaceActivate (path : Fin 34) (slot : Nat)
  | firmwareActivate (path : Fin 34) (slot : Nat)
  | authorisationNonceRead (se : Fin 16)
  | authorisationRecord (se : Fin 16) (b : List Byte)
  | authorisationExpiry (se : Fin 16)
  | attestationNonce (se : Fin 16) (b : List Byte)
  | attestationReport (se : Fin 16)
  | kamlinPortConfig (p : Fin 8) (item : Fin 3) (v : Byte)
  | getVersion (f : Fin 2) (m : List Byte)
  | getCapabilities (f : Fin 2) (m : List Byte)
  | negotiateAlgorithms (f : Fin 2) (m : List Byte)
  | getDigests (f : Fin 2) (m : List Byte)
  | getCertificate (f : Fin 2) (m : List Byte)
  | challenge (f : Fin 2) (m : List Byte)
  | getMeasurements (f : Fin 2) (m : List Byte)
  | setEndpointId (b : Fin 2) (m : List Byte)
  | getEndpointId (b : Fin 2) (m : List Byte)
  | getMctpVersionSupport (b : Fin 2) (m : List Byte)
  | getMessageTypeSupport (b : Fin 2) (m : List Byte)
  | getVendorDefinedMessageSupport (b : Fin 2) (m : List Byte)
  | entdaa (a : Fin 128)
  | flitReceive (p : Fin 8) (flit : List Byte) (decoded : Bool) (symbols : Nat)
  | retryRequest (p : Fin 8) (seq : Fin 4096)
  | ackTimeout (p : Fin 8)
  | creditReturnTimeout (p : Fin 8)
  | recoveryComplete (p : Fin 8) (good : Fin 16) (neighbour : Byte)
  | trainingComplete (p : Fin 8) (good : Fin 16) (neighbour : Byte)
  | trainingFailTimeout (p : Fin 8)
  | downRetryTimeout (p : Fin 8)
  | creditReturnSend (p : Fin 8)
  | sendFrame (p : Fin 8) (frame : List Byte)
  | reductionPartial (p : Fin 8) (frame : List Byte)
  | reductionResult (p : Fin 8) (frame : List Byte)
  | stepEndFrame (p : Fin 8) (frame : List Byte)
  | listImageFrame (p : Fin 8) (frame : List Byte)
  | tpRead (p : Fin 8) (frame : List Byte)
  | tpData (p : Fin 8) (frame : List Byte)
  | tpWrite (p : Fin 8) (frame : List Byte)
  | tpWriteDone (p : Fin 8) (frame : List Byte)
  | groupCheck (p : Fin 8) (frame : List Byte)
  | groupCheckTimeout (c : Fin 32) (job : Nat)
  | cancel (p : Fin 8) (frame : List Byte)
  | creditReturn (p : Fin 8) (frame : List Byte)
  | bell (p : Fin 8) (frame : List Byte)
  | linkManagement (p : Fin 8) (frame : List Byte)
  | bellExchange (p : Fin 8) (x : BellX)
  | holdoverEntry
  | holdoverLimit
  | bellPpsEdge
  | pwrfailNAssert
  | flushComplete
  | pwrfailNRelease
  | leakNAssert
  | leakNRelease
  | perstNAssert
  | perstNRelease
  | wakeNAssert
  | wakeNRelease
  | inputFault (ix : Fin 6) (chatter : Bool)
  | enableMate
  | enableBreak
  | powerOn (slotId : Fin 64)
  | inputUndervoltage
  | inputOvervoltage (volts : W32)
  | stage1Reached (ms : W32)
  | stage2Reached (ms : W32)
  | stage3Reached (ms : W32)
  | startStalled (part : Fin 4) (index : Byte)
  | powerLimitWindow (watts : W32)
  | dieThrottle (n : Fin 8)
  | coreRailDroop
  | plantLoop (raw : List W32) (pos : W16)
  | sensorFault (j : Fin 24)
  | valveFault (pos : W16)
  | bankEnergyUpdate (volts : W32)
  | bankFault (cause : Fin 4)
  | plantTakeoverTimeout
  | reeveRestart (cause : Fin 3) (slotId : Fin 64)
  | watchdogService (v : W32)
  | watchdogTimeout
  | fkey (v : W32)
  | flashProgram (v : W32)
  | flashErase (v : W32)
  | flashBlankCheck (v : W32)
  | flashOperationDone
  | cvctlInit (n : Fin 3) (v : W32)
  | cvctlFin (n : Fin 3) (v : W32)
  | cvdata (n : Fin 3) (width : Fin 3) (v : W32)
  | cvalive (n : Fin 3) (v : W32)
  | gleanerCollect (p : Fin 48)
  | relocation (p : Fin 48) (ix : Nat)
  | blockErase (p : Fin 48) (blk : Nat)
  | wearLevel (p : Fin 48)
  | disturbRefresh (p : Fin 48) (blk : Nat)
  | patrolRead (p : Fin 48) (blk page : Nat) (level : Fin 5)
  | retentionRefresh (p : Fin 48) (blk : Nat)
  | mapPageWriteback (p : Fin 48) (page : Nat)
  | metadataRollover (p : Fin 48)
  | programFail (p : Fin 48) (blk : Nat)
  | eraseFail (p : Fin 48) (blk : Nat) (blank : Bool)
  | suspectBlock (p : Fin 48) (blk : Nat)
  | readSuspend (p : Fin 48) (die : Fin 12)
  | nandProgramComplete (p : Fin 48) (ix : Nat)
  | pageReadComplete (p : Fin 48) (blk page : Nat) (level : Fin 5)
  | sanitizeComplete (failed : Bool)
  | valveSettled (pos : W16)
  | bankChargeTargetReached
  | dieThrottleEnd (n : Fin 8)
  | droopEnd
  | coreRailSettled
  | flushPowerLoss
  | frameForward (p : Fin 8) (frame : List Byte)
  | fcmdWrite (v : W32)
  deriving DecidableEq, Repr

end Sys2Proof
end

