-- ==== Sys2Proof/Decode.lean ====
section
/-! DEFINITION. The command a table word spells: the table of this hardware gives no row any bits, so no word spells a command. -/

namespace Sys2Proof

/-- The command that a word spells by the table's bits. No row of the table carries bits (every command comes with the operands of its constructor), so there is none. -/
def decodeTableWord (_nbits _w : Nat) : Option Instr := none

end Sys2Proof
end

