-- ==== Sys2Proof/Config.lean ====
section
/-! DEFINITION. What an implementation fixes and the spec leaves open: free values without a body. -/

namespace Sys2Proof.Config

/-- A fresh value the spec leaves open, by the counter of the state that numbers them (random keys and nonces of R461, R459; SPDM nonces). -/
opaque freeValue : Nat → BitVec 64

/-- The fill of data delivered uncorrected or unread, where the spec says the values of poisoned data are not defined (R375), by the counter of the state. -/
opaque poisonFill : Nat → BitVec 8

/-- The rounding of a plant quantity to its register unit, which the spec does not state: numerator and denominator of the exact value (R420, R425). -/
opaque plantRound : Int → Nat → Nat

/-- The bytes the boot ROM is measured as, fixed per silicon revision (R453). -/
opaque romMeasure : Nat → BitVec 8

/-- Whether a signature of another module over a digest verifies against the vendor's identity chain (R237): the record carries no certificate. Digest, then signature. -/
opaque foreignVerify : BitVec 512 → BitVec 912 → Bool

/-- The image digest of an image written at manufacture, by its kind (R444, R453). -/
opaque factoryDigest : Nat → BitVec 512

/-- The version string of an image written at manufacture, by its kind (R444). -/
opaque factoryVersion : Nat → BitVec 256

/-- The certificate chain written at manufacture (R452), byte by byte, and its length. -/
opaque chainByte : Nat → BitVec 8
opaque chainLength : BitVec 12

/-- The do-not-retry bit of an NVMe status where the spec does not state it, by status code and type. -/
opaque nvmeDnr : Nat → Bool

/-- Bytes of Identify data the spec states no value for, by CNS value and offset. -/
opaque identifyByte : Nat → Nat → BitVec 8

/-- Bytes of log pages the spec states no value for, by page and offset. -/
opaque logByte : Nat → Nat → BitVec 8

/-- The composite temperature in K, which the spec does not define, from the temperatures of the sensors. -/
opaque compositeKelvin : List (BitVec 32) → BitVec 16

/-- The board revision and the date of manufacture, written at manufacture (R404 table, OD 0x1000.07 and .08). -/
opaque boardRevision : BitVec 8
opaque madeOn : BitVec 80

/-- A saved dictionary copy as bytes, whose layout the spec does not state (OD 0x5400.02 and .03): length and bytes, from the copy's content as numbers. -/
opaque copyLength : List Nat → BitVec 16
opaque copyByte : List Nat → Nat → BitVec 8

/-- What SPDM leaves to the responder and the spec does not state (R455): the CT exponent, the transfer and message sizes, and the DMTF value type of each measurement. -/
opaque spdmExponent : BitVec 8
opaque spdmSizes : BitVec 64
opaque spdmValueType : Nat → BitVec 7

/-- The hash of the root certificate, written at manufacture, as SPDM's chain carries it. -/
opaque spdmRootHash : BitVec 512

/-- The MCTP versions reported for a message type, which the spec does not state (R400): one version entry. -/
opaque mctpVersion : Nat → BitVec 32

/-- The bits of a media key, drawn from the random bit generator (R461), by the key's number. -/
opaque mediaKey : Nat → BitVec 512

/-- Whether the 8 check bits of a code-flash double word programmed with all ones are all ones, so that it still reads as erased (R409); the spec does not state the code. -/
opaque onesErased : Bool

/-- The body bytes of a flit that no frame fills (R283), by the counter of the state and the byte. -/
opaque flitFill : Nat → Nat → BitVec 8

end Sys2Proof.Config
end

