-- ==== Sys2Proof/Machine/Bytes.lean ====
section
/-! DEFINITION. Finite maps and byte memories in one canonical form, little-endian fields, and the cyclic checks of the spec. -/

namespace Sys2Proof.Machine

/-- A finite map: key and value pairs with strictly rising keys. -/
abbrev FMap (α : Type) := List (Nat × α)

/-- The value at a key, if the map lists it. -/
def mapGet? {α : Type} (m : FMap α) (k : Nat) : Option α := m.lookup k

/-- The value at a key, or the given value where the map lists none. -/
def mapGet {α : Type} (m : FMap α) (k : Nat) (d : α) : α := (m.lookup k).getD d

/-- The map with one key set: the lower keys, the new pair, the higher keys. -/
def mapSet {α : Type} (m : FMap α) (k : Nat) (v : α) : FMap α :=
  m.filter (fun p => p.1 < k) ++ (k, v) :: m.filter (fun p => k < p.1)

/-- The map without one key. -/
def mapDel {α : Type} (m : FMap α) (k : Nat) : FMap α := m.filter (fun p => p.1 != k)

/-- The map with one value changed where it is listed. -/
def mapMod {α : Type} (m : FMap α) (k : Nat) (f : α → α) : FMap α :=
  m.map (fun p => if p.1 = k then (p.1, f p.2) else p)

/-- The map with every value changed. -/
def mapAll {α : Type} (m : FMap α) (f : α → α) : FMap α := m.map (fun p => (p.1, f p.2))

/-- A byte memory: address and byte pairs, addresses strictly rising, no entry equal to the default byte. -/
abbrev Memory := List Host.Cell

/-- The byte at an address, the default byte where none is listed. -/
def memGet (d : Byte) (m : Memory) (a : Nat) : Byte := (m.lookup a).getD d

/-- The memory with one byte written: the default byte is never listed. -/
def memPut (d : Byte) (m : Memory) (a : Nat) (b : Byte) : Memory :=
  m.filter (fun c => c.1 < a) ++ (if b = d then [] else [(a, b)]) ++ m.filter (fun c => a < c.1)

/-- The listed cells of a run of bytes from an address. -/
def cellsOf (d : Byte) : Nat → List Byte → Memory
  | _, [] => []
  | a, b :: bs => if b = d then cellsOf d (a + 1) bs else (a, b) :: cellsOf d (a + 1) bs

/-- The memory with a run of bytes written from an address. -/
def memPutL (d : Byte) (m : Memory) (a : Nat) (bs : List Byte) : Memory :=
  m.filter (fun c => c.1 < a) ++ cellsOf d a bs ++ m.filter (fun c => a + bs.length ≤ c.1)

/-- `n` bytes from an address. -/
def memGetL (d : Byte) (m : Memory) (a n : Nat) : List Byte :=
  (List.range n).map (fun i => memGet d m (a + i))

/-- The memory with the range of `n` bytes from `a` set to the default byte. -/
def memClear (m : Memory) (a n : Nat) : Memory := m.filter (fun c => c.1 < a || a + n ≤ c.1)

/-- The cells of a range, shifted so that address `a` becomes address `b`. -/
def memSlice (m : Memory) (a n b : Nat) : Memory :=
  (m.filter (fun c => a ≤ c.1 && c.1 < a + n)).map (fun c => (c.1 - a + b, c.2))

/-- The destination with `n` bytes copied from `src` at `a` to address `b`, both with default byte 0. -/
def memBlit (dst : Memory) (b : Nat) (src : Memory) (a n : Nat) : Memory :=
  dst.filter (fun c => c.1 < b) ++ memSlice src a n b ++ dst.filter (fun c => b + n ≤ c.1)

/-- The canonical form of a memory: rising addresses and no default byte listed. -/
def memWf (d : Byte) (m : Memory) : Bool :=
  (m.map (·.1)).Pairwise (· < ·) && m.all (fun c => c.2 != d)

/-- Bytes as one little-endian number (R9). -/
def leNat : List Byte → Nat
  | [] => 0
  | b :: bs => b.toNat + 256 * leNat bs

/-- Bytes as one big-endian number. -/
def beNat (bs : List Byte) : Nat := leNat bs.reverse

/-- `k` little-endian bytes of a number (R9). -/
def leBytes : Nat → Nat → List Byte
  | 0, _ => []
  | k + 1, x => BitVec.ofNat 8 x :: leBytes k (x / 256)

/-- `k` big-endian bytes of a number. -/
def beBytes (k x : Nat) : List Byte := (leBytes k x).reverse

/-- The little-endian number of `k` bytes at an address (default byte 0). -/
def memLe (m : Memory) (a k : Nat) : Nat := leNat (memGetL 0 m a k)

/-- The memory with a `k`-byte little-endian number written (default byte 0). -/
def memPutLe (m : Memory) (a k x : Nat) : Memory := memPutL 0 m a (leBytes k x)

/-- Bytes `i` to `i + n - 1` of a list, zeros beyond its end. -/
def sub (bs : List Byte) (i n : Nat) : List Byte :=
  let t := (bs.drop i).take n
  t ++ List.replicate (n - t.length) 0

/-- The little-endian number of `k` bytes of a list from byte `i`. -/
def leAt (bs : List Byte) (i k : Nat) : Nat := leNat (sub bs i k)

/-- Whether bytes `i` to `j` of a list are all zero (a reserved field of R10). -/
def zerosAt (bs : List Byte) (i j : Nat) : Bool := (sub bs i (j + 1 - i)).all (· == 0)

/-- The list with `new` written over it from byte `i`. -/
def patch (bs : List Byte) (i : Nat) (new : List Byte) : List Byte :=
  bs.take i ++ new ++ bs.drop (i + new.length)

/-- Insertion into a sorted list of numbers without repeats. -/
def setIns (s : List Nat) (k : Nat) : List Nat :=
  s.filter (· < k) ++ k :: s.filter (k < ·)

/-- Every number of the range `a` to `a + n - 1` inserted. -/
def setInsRange (s : List Nat) (a n : Nat) : List Nat :=
  s.filter (· < a) ++ (List.range n).map (a + ·) ++ s.filter (a + n ≤ ·)

/-- Every number of the range removed. -/
def setDelRange (s : List Nat) (a n : Nat) : List Nat := s.filter (fun k => k < a || a + n ≤ k)

/-- Whether a sorted list holds any number of the range. -/
def setAny (s : List Nat) (a n : Nat) : Bool := s.any (fun k => a ≤ k && k < a + n)

/-- One step of a reflected cyclic check. -/
def crcRefl (poly : Nat) (c : Nat) : Nat → Nat
  | 0 => c
  | k + 1 => crcRefl poly (if c % 2 = 1 then (c / 2) ^^^ poly else c / 2) k

/-- CRC-32C (Castagnoli, reflected, initial value and final xor all ones), the check named by R150, R213 and R219. -/
def crc32c (bs : List Byte) : Nat :=
  (bs.foldl (fun c b => crcRefl 0x82F63B78 (c ^^^ b.toNat) 8) 0xFFFFFFFF) ^^^ 0xFFFFFFFF

/-- One step of an unreflected cyclic check of width `w`. -/
def crcFwd (w poly : Nat) (c : Nat) : Nat → Nat
  | 0 => c
  | k + 1 => crcFwd w poly
      (if c / 2 ^ (w - 1) % 2 = 1 then ((c * 2) % 2 ^ w) ^^^ poly else (c * 2) % 2 ^ w) k

/-- An unreflected cyclic check of width `w` over bytes. -/
def crcBytes (w poly init : Nat) (bs : List Byte) : Nat :=
  bs.foldl (fun c b => crcFwd w poly (c ^^^ (b.toNat * 2 ^ (w - 8))) 8) init

/-- CRC-64 with the ECMA-182 polynomial (R283). -/
def crc64 (bs : List Byte) : Nat := crcBytes 64 0x42F0E1EBA9EA3693 0 bs

end Sys2Proof.Machine
end

