-- ==== Sys2Proof/Machine/Num.lean ====
section
/-! DEFINITION. Number formats and rounding: exact values, decoding, rounding to nearest even and stochastically, the generator, conversions, and exact arithmetic with special values (R69 to R84). -/

namespace Sys2Proof.Machine

/-- An exact value: NaN, an infinity, a signed zero, or a non-zero dyadic `m * 2^e`. -/
inductive XV where
  | nan
  | inf (neg : Bool)
  | zero (neg : Bool)
  | num (m : Int) (e : Int)
  deriving DecidableEq, Repr

/-- A dyadic as a value; a zero has the given sign. -/
def xvOf (zneg : Bool) (m e : Int) : XV := if m = 0 then .zero zneg else .num m e

/-- Sign of a value (false for NaN). -/
def xvNeg : XV → Bool
  | .nan => false
  | .inf n => n
  | .zero n => n
  | .num m _ => m < 0

/-- Whether a value is finite. -/
def xvFinite : XV → Bool
  | .zero _ => true
  | .num _ _ => true
  | _ => false

/-- The dyadic of a finite value as a pair, zero for the others. -/
def xvDy : XV → Int × Int
  | .num m e => (m, e)
  | _ => (0, 0)

/-- Dyadic addition. -/
def dyAdd (a b : Int × Int) : Int × Int :=
  let e := min a.2 b.2
  (a.1 * 2 ^ (a.2 - e).toNat + b.1 * 2 ^ (b.2 - e).toNat, e)

/-- Dyadic comparison `a ≤ b`. -/
def dyLe (a b : Int × Int) : Bool :=
  let e := min a.2 b.2
  a.1 * 2 ^ (a.2 - e).toNat ≤ b.1 * 2 ^ (b.2 - e).toNat

/-- A binary floating-point format (R69). -/
structure Fmt where
  width : Nat
  fb : Nat
  bias : Nat
  maxMag : Nat
  infMag : Option Nat
  nanBits : Nat
  deriving DecidableEq, Repr

/-- The formats of R69, and the FP64 of R208. -/
def fp32 : Fmt := ⟨32, 23, 127, 0x7F7FFFFF, some 0x7F800000, 0x7FC00000⟩
def bf16 : Fmt := ⟨16, 7, 127, 0x7F7F, some 0x7F80, 0x7FC0⟩
def fp16 : Fmt := ⟨16, 10, 15, 0x7BFF, some 0x7C00, 0x7E00⟩
def pt22 : Fmt := ⟨22, 13, 127, 0x1FDFFF, some 0x1FE000, 0x1FF000⟩
def e4m3 : Fmt := ⟨8, 3, 7, 0x7E, none, 0x7F⟩
def e5m2 : Fmt := ⟨8, 2, 15, 0x7B, some 0x7C, 0x7E⟩
def e2m1 : Fmt := ⟨4, 1, 1, 7, none, 0⟩
def fp64 : Fmt := ⟨64, 52, 1023, 0x7FEFFFFFFFFFFFFF, some 0x7FF0000000000000, 0x7FF8000000000000⟩

/-- The least exponent of a format's last place: `1 - bias - fraction width`. -/
def fmtEmin (f : Fmt) : Int := 1 - (f.bias : Int) - (f.fb : Int)

/-- The exact value of an encoding (R69 to R71). -/
def decodeF (f : Fmt) (bits : Nat) : XV :=
  let neg := bits / 2 ^ (f.width - 1) % 2 = 1
  let mag := bits % 2 ^ (f.width - 1)
  if f.infMag = some mag then .inf neg
  else if f.maxMag < mag then .nan
  else
    let ex := mag / 2 ^ f.fb
    let fr := mag % 2 ^ f.fb
    let n : Nat := if ex = 0 then fr else fr + 2 ^ f.fb
    let e : Int := fmtEmin f + (if ex = 0 then 0 else (ex : Int) - 1)
    if n = 0 then .zero neg else .num (if neg then -(n : Int) else n) e

/-- `floor(log2 (num / den))` for positive numbers. -/
def log2Q (num den : Nat) : Int :=
  let k : Int := (Nat.log2 num : Int) - (Nat.log2 den : Int)
  -- num / den lies in (2^(k-1), 2^(k+1))
  let ge := if 0 ≤ k then den * 2 ^ k.toNat ≤ num else den ≤ num * 2 ^ (-k).toNat
  if ge then k else k - 1

/-- The quantum exponent of a format at a magnitude `num / den`. -/
def quantum (f : Fmt) (num den : Nat) : Int := max (log2Q num den - f.fb) (fmtEmin f)

/-- `num / den` in units of `2^q`: quotient, remainder and divisor. -/
def unitsOf (num den : Nat) (q : Int) : Nat × Nat × Nat :=
  let n := if q < 0 then num * 2 ^ (-q).toNat else num
  let d := if q < 0 then den else den * 2 ^ q.toNat
  (n / d, n % d, d)

/-- The magnitude code of `n` units of `2^q`: a carry moves into the exponent field. -/
def magCode (f : Fmt) (n : Nat) (q : Int) : Nat := (q - fmtEmin f).toNat * 2 ^ f.fb + n

/-- Round to nearest even of the positive rational `num / den`, as a magnitude code with unbounded exponent (R79). -/
def rneMag (f : Fmt) (num den : Nat) : Nat :=
  let q := quantum f num den
  let (n, r, d) := unitsOf num den q
  let up := d < 2 * r || (2 * r = d && n % 2 = 1)
  magCode f (if up then n + 1 else n) q

/-- A positive dyadic as numerator and denominator. -/
def dyQ (m : Nat) (e : Int) : Nat × Nat :=
  if 0 ≤ e then (m * 2 ^ e.toNat, 1) else (m, 2 ^ (-e).toNat)

/-- The result of a rounding: the encoding and whether a finite value overflowed. -/
structure Rnd where
  bits : Nat
  ovr : Bool
  deriving DecidableEq, Repr

/-- An encoding with a sign. -/
def withSign (f : Fmt) (neg : Bool) (mag : Nat) : Nat := mag + (if neg then 2 ^ (f.width - 1) else 0)

/-- The infinity of a format with infinities, its canonical NaN otherwise. -/
def infBits (f : Fmt) (neg : Bool) : Nat :=
  match f.infMag with
  | some i => withSign f neg i
  | none => f.nanBits

/-- A signed rational rounded to nearest even; overflow gives the infinity of the format (R79). -/
def rneQ (f : Fmt) (neg : Bool) (num den : Nat) : Rnd :=
  if num = 0 then ⟨withSign f neg 0, false⟩
  else
    let g := rneMag f num den
    if f.maxMag < g then ⟨infBits f neg, true⟩ else ⟨withSign f neg g, false⟩

/-- A value rounded to nearest even in a format with infinities (R79, R71). -/
def rne (f : Fmt) : XV → Rnd
  | .nan => ⟨f.nanBits, false⟩
  | .inf n => ⟨infBits f n, false⟩
  | .zero n => ⟨withSign f n 0, false⟩
  | .num m e => let (a, b) := dyQ m.natAbs e; rneQ f (m < 0) a b

/-- The stochastic rounding of R80 of a non-zero dyadic by the random word `g`: a magnitude code, or none where the magnitude exceeds the largest finite value. -/
def srMag (f : Fmt) (m : Int) (e : Int) (g : Nat) : Option Nat :=
  let (a, b) := dyQ m.natAbs e
  let q := quantum f a b
  let (n, r, d) := unitsOf a b q
  let c := magCode f n q
  if f.maxMag < c || (c = f.maxMag && r ≠ 0) then none
  else if r = 0 then some c
  else
    let rr := g / 2 ^ 32 % 2 ^ 32
    if m < 0 then
      -- lo is the greater magnitude
      let dd := (d - r) * 2 ^ 32 / d
      some (if 2 ^ 32 ≤ dd + rr then c else c + 1)
    else
      let dd := r * 2 ^ 32 / d
      some (if 2 ^ 32 ≤ dd + rr then c + 1 else c)

/-- A value rounded stochastically, beyond the largest finite value as nearest even does (R58, R80). -/
def srRound (f : Fmt) (v : XV) (g : Nat) : Rnd :=
  match v with
  | .num m e =>
    match srMag f m e g with
    | some c => ⟨withSign f (m < 0) c, false⟩
    | none => rne f v
  | _ => rne f v

/-- Constants of the generator (R81). -/
def mixM : List Nat :=
  [0x9F4A2C17D3E586B1, 0xD1B54A329C6FE085, 0xB7E151634A2D9C3B, 0xE4C90F2A6B8D1357]
def mixKI : Nat := 0x8D3A5E17C6F249B5

/-- The stochastic generator mix64 (R81). -/
def mix64 (key ctr : Nat) : Nat :=
  (mixM.foldl (fun (p : Nat × Nat) m =>
    let x := (p.1 + p.2) % 2 ^ 64
    let x := x ^^^ (x >>> 29)
    let x := (x * m) % 2 ^ 64
    let x := x ^^^ (x >>> 32)
    (x, (p.2 + mixKI) % 2 ^ 64)) (ctr % 2 ^ 64, key % 2 ^ 64)).1

/-- The step key of R103. -/
def stepKey (opSeed base step : Nat) : Nat := (opSeed + base + step * 0xA5F13C7B5E92D04B) % 2 ^ 64

/-- Counter word of rounding point AS (R58). -/
def ctrAS (ttag chunk row col : Nat) : Nat :=
  1 * 2 ^ 60 + ttag % 2 ^ 16 * 2 ^ 41 + chunk % 2 ^ 24 * 2 ^ 17 + row % 2 ^ 11 * 2 ^ 6 + col % 2 ^ 6

/-- Counter words of WS (site 2) and VS (site 3) (R82). -/
def ctrElem (site tag elem : Nat) : Nat := site * 2 ^ 60 + tag % 2 ^ 16 * 2 ^ 44 + elem % 2 ^ 44

/-- Exact sum of two values; an exact zero of opposite signs is +0 (R60). -/
def xAdd (a b : XV) : XV :=
  match a, b with
  | .nan, _ => .nan
  | _, .nan => .nan
  | .inf x, .inf y => if x = y then .inf x else .nan
  | .inf x, _ => .inf x
  | _, .inf y => .inf y
  | .zero x, .zero y => .zero (x && y)
  | .zero _, v => v
  | v, .zero _ => v
  | .num m e, .num n f => let r := dyAdd (m, e) (n, f); xvOf false r.1 r.2

/-- The value with its sign changed. -/
def xNeg : XV → XV
  | .nan => .nan
  | .inf n => .inf (!n)
  | .zero n => .zero (!n)
  | .num m e => .num (-m) e

/-- The absolute value. -/
def xAbs : XV → XV
  | .nan => .nan
  | .inf _ => .inf false
  | .zero _ => .zero false
  | .num m e => .num m.natAbs e

/-- Exact product; infinity times zero is NaN, the sign of a zero product is the exclusive-or of the signs (R42, R72). -/
def xMul (a b : XV) : XV :=
  match a, b with
  | .nan, _ => .nan
  | _, .nan => .nan
  | .inf _, .zero _ => .nan
  | .zero _, .inf _ => .nan
  | .num m e, .num n f => .num (m * n) (e + f)
  | .inf x, v => .inf (xor x (xvNeg v))
  | v, .inf y => .inf (xor (xvNeg v) y)
  | u, v => .zero (xor (xvNeg u) (xvNeg v))

/-- The value times a power of two. -/
def xScale (k : Int) : XV → XV
  | .num m e => .num m (e + k)
  | v => v

/-- The value of a scale code (R74): none for NaN. -/
def e8m0 (c : Nat) : Option Int := if c = 0xFF then none else some ((c : Int) - 127)

/-- The value times the scale of a code (R35, R74). -/
def xScaleCode (c : Nat) (v : XV) : XV :=
  match e8m0 c with
  | none => .nan
  | some k => xScale k v

/-- Comparison by value with -0 equal to +0, of values that are not NaN. -/
def xLt (a b : XV) : Bool :=
  match a, b with
  | .nan, _ => false
  | _, .nan => false
  | .inf x, .inf y => x && !y
  | .inf x, _ => x
  | _, .inf y => !y
  | u, v => !dyLe (xvDy v) (xvDy u)

/-- Equality by value with -0 equal to +0, of values that are not NaN. -/
def xEq (a b : XV) : Bool :=
  match a, b with
  | .nan, _ => false
  | _, .nan => false
  | u, v => !xLt u v && !xLt v u

/-- The greater of two values, NaN for a NaN input, +0 above -0 (R66). -/
def xMax (a b : XV) : XV :=
  match a, b with
  | .nan, _ => .nan
  | _, .nan => .nan
  | .zero x, .zero y => .zero (x && y)
  | u, v => if xLt u v then v else u

/-- The lesser of two values, NaN for a NaN input, -0 below +0 (R66). -/
def xMin (a b : XV) : XV :=
  match a, b with
  | .nan, _ => .nan
  | _, .nan => .nan
  | .zero x, .zero y => .zero (x || y)
  | u, v => if xLt v u then v else u

/-- Whether a result is an infinity or NaN that its finite inputs were not (R60, R83): the condition of the step-overflow flag. -/
def special32 (bits : Nat) : Bool := bits / 2 ^ 23 % 256 = 255

/-- An FP32 result with its step-overflow condition. -/
structure FRes where
  bits : Nat
  ovf : Bool
  deriving DecidableEq, Repr

/-- An exact result rounded to FP32 at VA, RT or RP: overflow when the inputs were all finite and the result is not (R60, R83). -/
def fin32 (ins : List XV) (v : XV) : FRes :=
  let r := rne fp32 v
  ⟨r.bits, special32 r.bits && ins.all xvFinite⟩

/-- FP32 addition at VA. -/
def vaAdd (a b : XV) : FRes := fin32 [a, b] (xAdd a b)

/-- FP32 multiplication at VA. -/
def vaMul (a b : XV) : FRes := fin32 [a, b] (xMul a b)

/-- Fused multiply and add: `a * b + c` formed exactly and rounded once (R83). -/
def vaFma (a b c : XV) : FRes := fin32 [a, b, c] (xAdd (xMul a b) c)

/-- Division at VA, correctly rounded (R83), special values as IEEE 754. -/
def vaDiv (a b : XV) : FRes :=
  let sgn := xor (xvNeg a) (xvNeg b)
  match a, b with
  | .nan, _ => ⟨fp32.nanBits, false⟩
  | _, .nan => ⟨fp32.nanBits, false⟩
  | .inf _, .inf _ => ⟨fp32.nanBits, false⟩
  | .inf _, _ => ⟨infBits fp32 sgn, false⟩
  | _, .inf _ => ⟨withSign fp32 sgn 0, false⟩
  | .zero _, .zero _ => ⟨fp32.nanBits, true⟩
  | .zero _, _ => ⟨withSign fp32 sgn 0, false⟩
  | _, .zero _ => ⟨infBits fp32 sgn, true⟩
  | .num m e, .num n f =>
    let (p, q) := dyQ m.natAbs e
    let (r, t) := dyQ n.natAbs f
    let x := rneQ fp32 sgn (p * t) (q * r)
    ⟨x.bits, x.ovr⟩

/-- A root of the rational `num / den` with 96 bits or more and a sticky bit, as numerator and denominator that round as the exact root does. -/
def sqrtSticky (num den : Nat) : Nat × Nat :=
  -- sqrt(num/den) = sqrt(num*den)/den; scale by 2^(2k)
  let k := 192
  let n := num * den * 2 ^ (2 * k)
  let r := Nat.sqrt n
  (2 * r + (if r * r = n then 0 else 1), 2 * den * 2 ^ k)

/-- Square root at VA, correctly rounded (R83). -/
def vaSqrt : XV → FRes
  | .nan => ⟨fp32.nanBits, false⟩
  | .inf true => ⟨fp32.nanBits, false⟩
  | .inf false => ⟨infBits fp32 false, false⟩
  | .zero n => ⟨withSign fp32 n 0, false⟩
  | .num m e =>
    if m < 0 then ⟨fp32.nanBits, true⟩
    else
      let (p, q) := dyQ m.natAbs e
      let (a, b) := sqrtSticky p q
      ⟨(rneQ fp32 false a b).bits, false⟩

/-- FP32 bits read as a value. -/
def x32 (b : Nat) : XV := decodeF fp32 b

/-- The outcome of one conversion of R84: the code, and which conditions it met. -/
structure Cvt where
  bits : Nat
  ovf : Bool
  sat : Bool
  overflowed : Bool
  nanIn : Bool
  deriving DecidableEq, Repr

/-- Format code to floating-point layout (R77). -/
def fmtOf : Nat → Option Fmt
  | 1 => some fp32
  | 2 => some bf16
  | 3 => some fp16
  | 4 => some e4m3
  | 5 => some e5m2
  | 6 => some e2m1
  | _ => none

/-- Bits per element of a format code (R77, R132). -/
def fmtBits : Nat → Nat
  | 1 => 32
  | 2 => 16
  | 3 => 16
  | 6 => 4
  | 0xD => 64
  | _ => 8

/-- Whether an overflow option saturates for a format (R84): default saturates in E4M3, E2M1 and INT8, which alone treat non-saturating E2M1 and INT8 as saturating. -/
def saturates (code opt : Nat) : Bool :=
  if code = 6 || code = 7 then true
  else if opt = 1 then true
  else if opt = 2 then false
  else code = 4

/-- The INT8 code of an integer quotient rounded to nearest even or stochastically, clamped (R73, R84). -/
def cvtInt8 (v : XV) (sr : Option Nat) : Cvt :=
  match v with
  | .nan => ⟨0, false, false, false, true⟩
  | .inf n => ⟨if n then 0x80 else 0x7F, false, true, false, false⟩
  | .zero _ => ⟨0, false, false, false, false⟩
  | .num m e =>
    let neg : Bool := m < 0
    let (a, b) := dyQ m.natAbs e
    let n := a / b
    let r := a % b
    let rneN := if b < 2 * r || (2 * r = b && n % 2 = 1) then n + 1 else n
    let lim := if neg then 128 else 127
    let big := lim < n || (n = lim && r ≠ 0)
    let k := match sr with
      | none => rneN
      | some g =>
        if big || r = 0 then rneN
        else
          let rr := g / 2 ^ 32 % 2 ^ 32
          if neg then (if 2 ^ 32 ≤ (b - r) * 2 ^ 32 / b + rr then n else n + 1)
          else (if 2 ^ 32 ≤ r * 2 ^ 32 / b + rr then n + 1 else n)
    let s := lim < k
    let k := min k lim
    ⟨if neg then (256 - k) % 256 else k, false, s, false, false⟩

/-- The conversion of an exact value to a format code at WN (no random word) or WS and VS (a random word) under an overflow option (R84, R80). A NaN counts as an input converted at every format, FP32 included, where nothing is narrowed (DESIGN CHOICE, log entry 94). -/
def convert (code opt : Nat) (v : XV) (sr : Option Nat) : Cvt :=
  if code = 7 then cvtInt8 v sr
  else
    match fmtOf code with
    | none => ⟨0, false, false, false, false⟩
    | some f =>
      let sat := saturates code opt
      match v with
      | .nan => ⟨f.nanBits, false, false, false, true⟩
      | .inf n =>
        if sat && f.infMag.isNone then ⟨withSign f n f.maxMag, false, true, false, false⟩
        else ⟨infBits f n, false, false, false, false⟩
      | .zero n => ⟨withSign f n 0, false, false, false, false⟩
      | .num m e =>
        let r := match sr with
          | none => rne f v
          | some g => srRound f v g
        if r.ovr then
          if sat then ⟨withSign f (m < 0) f.maxMag, false, true, false, false⟩
          else ⟨infBits f (m < 0), true, false, true, false⟩
        else ⟨r.bits, false, false, false, false⟩

/-- The exact value of an element of a format code (R69, R73, R77). -/
def elemVal (code bits : Nat) : XV :=
  if code = 7 then
    let k := signed 8 bits
    if k = 0 then .zero false else .num k 0
  else
    match fmtOf code with
    | some f => decodeF f bits
    | none => .nan

/-- Element exponent of block-scale selection (R87). -/
def emaxOf : Nat → Int
  | 4 => 8
  | 5 => 15
  | 6 => 2
  | 7 => 6
  | 3 => 15
  | _ => 0

/-- `floor(log2 |v|)` of a non-zero dyadic. -/
def xLog2 (m e : Int) : Int := (Nat.log2 m.natAbs : Int) + e

/-- The greatest exponent of the finite non-zero values of a block, none when all are zero. -/
def amaxLog (vs : List XV) : Option Int :=
  vs.foldl (fun acc v =>
    match v with
    | .num m e =>
      let k := xLog2 m e
      match acc with
      | none => some k
      | some j => some (max j k)
    | _ => acc) none

/-- The scale code of a block (R87, steps 2 to 4): BF16 always takes 127, whatever the block holds (R141). -/
def blockCode (code headroom : Nat) (vs : List XV) : Nat :=
  if code = 2 then 127
  else if vs.any (fun v => v = .nan) then 0xFF
  else
    match amaxLog vs with
    | none => 127
    | some k => (min (max (k - emaxOf code + headroom + 127) 0) 254).toNat

/-- The PT22 value of an FP32 table entry at QT (R39), with its overflow condition. -/
def roundPT (v : XV) : XV × Bool :=
  let r := rne pt22 v
  (decodeF pt22 r.bits, r.ovr)

/-- The quern product of CB16 mode at QP (R36), with its overflow condition. -/
def quernCB (x c : XV) : XV × Bool := roundPT (xMul x c)

/-- The product of FP4 mode (R37): exact, infinite beyond the PT22 range. -/
def quernFP4 (x : XV) (code : Nat) : XV × Bool :=
  let p := xMul x (decodeF e2m1 code)
  match p with
  | .num m e =>
    let mx : Int × Int := ((2 ^ 14 - 1 : Int), 114)
    if dyLe ((m.natAbs : Int), e) mx then (p, false) else (.inf (m < 0), true)
  | _ => (p, false)

/-- A delivered column sum: a special value, or a window value with its sticky half place (R41, R78). -/
structure ColSum where
  val : XV
  stickyE : Option Int
  deriving DecidableEq, Repr

/-- The column sum of contributions: exact in the 8-bit modes, windowed in the others (R41, R42, R78). -/
def colSum (windowed : Bool) (cs : List XV) : ColSum :=
  if cs.any (fun v => v = .nan) then ⟨.nan, none⟩
  else
    let pinf := cs.any (fun v => v = .inf false)
    let ninf := cs.any (fun v => v = .inf true)
    if pinf && ninf then ⟨.nan, none⟩
    else if pinf then ⟨.inf false, none⟩
    else if ninf then ⟨.inf true, none⟩
    else
      let s := cs.foldl (fun acc v => dyAdd acc (xvDy v)) ((0, 0) : Int × Int)
      let allNeg := cs.all (fun v => v = .zero true)
      match amaxLog cs with
      | none => ⟨.zero allNeg, none⟩
      | some k =>
        if windowed then
          let u := k - 90
          if s.2 < u then
            let d : Int := 2 ^ (u - s.2).toNat
            let w := s.1.fdiv d
            let sticky := s.1.fmod d ≠ 0
            ⟨xvOf false w u, if sticky then some (u - 1) else none⟩
          else ⟨xvOf false s.1 s.2, none⟩
        else ⟨xvOf false s.1 s.2, none⟩

/-- The exact value taken to rounding: the entry plus the column sum plus the sticky half place (R57). -/
def accExact (a : XV) (c : ColSum) : XV :=
  let v := xAdd a c.val
  match c.stickyE with
  | none => v
  | some k => xAdd v (.num 1 k)

/-- Step-overflow of an accumulation: an infinity or NaN from an entry and a column sum that were neither (R60). -/
def accOvf (a : XV) (c : ColSum) (bits : Nat) : Bool := special32 bits && xvFinite a && xvFinite c.val

/-- A chunk into an FP32 entry at AC or AS (R57, R58). -/
def accFP32 (a : Nat) (c : ColSum) (sr : Option Nat) : FRes :=
  let x := x32 a
  let v := accExact x c
  let r := match sr with
    | none => rne fp32 v
    | some g => srRound fp32 v g
  ⟨r.bits, accOvf x c r.bits⟩

/-- The pair of an exact value at AP: hi to nearest even, then lo (R59). -/
def pairOf (v : XV) : Nat × Nat :=
  let hi := (rne fp32 v).bits
  if special32 hi then (hi, 0)
  else (hi, (rne fp32 (xAdd v (xNeg (x32 hi)))).bits)

/-- A chunk into a pair entry at AP (R59). -/
def accPair (hi lo : Nat) (c : ColSum) : Nat × Nat × Bool :=
  let a := xAdd (x32 hi) (x32 lo)
  let v := accExact a c
  let p := pairOf v
  (p.1, p.2, accOvf a c p.1)

/-- A pair read as FP32 at PD, with the step-overflow condition of a rounding point (R59, R83, R104). -/
def pairPD (hi lo : Nat) : FRes := vaAdd (x32 hi) (x32 lo)

/-- FP32 bits as a unit that copies a value writes them: any NaN becomes the canonical one (R71). -/
def canon32 (b : Nat) : Nat := if x32 b = .nan then fp32.nanBits else b

end Sys2Proof.Machine
end

