-- ==== Sys2Proof/Machine/OdTable.lean ====
section
/-! DEFINITION. The table of dictionary entries: index range, subindex range, type, access, default and range, from the entry tables of every chapter (R386, R404). -/

namespace Sys2Proof.Machine

/-- One row of the entry tables: first index, how many indices (32 for +c, 8 for +s and +p, 6 for +i), first subindex, how many subindices, type code of R386, access (0 ro, 1 wo, 2 rw, 3 rws, 4 const), default as raw bits, and the range in units of 1/den. -/
structure OdEntry where
  index : Nat
  count : Nat
  sub : Nat
  subs : Nat
  ty : Nat
  acc : Nat
  dflt : Nat
  lo : Int
  hi : Int
  den : Nat
  deriving DecidableEq, Repr

/-- A counter row: U64, read only, 0 at module start. -/
def odCounter (index count sub subs : Nat) : OdEntry := ⟨index, count, sub, subs, 5, 0, 0, 0, 0, 1⟩

/-- A read-only row. -/
def odRo (index count sub subs ty dflt : Nat) : OdEntry := ⟨index, count, sub, subs, ty, 0, dflt, 0, 0, 1⟩

/-- A write-only row of a command. -/
def odWo (index count sub ty : Nat) (lo hi : Int) : OdEntry := ⟨index, count, sub, 1, ty, 1, 0, lo, hi, 1⟩

/-- A saved row. -/
def odRws (index count sub ty dflt : Nat) (lo hi : Int) : OdEntry := ⟨index, count, sub, 1, ty, 3, dflt, lo, hi, 1⟩

/-- A saved FP32 row with its range in units of 1/den. -/
def odF32 (index count sub dflt : Nat) (lo hi : Int) (den : Nat) : OdEntry := ⟨index, count, sub, 1, 0x0A, 3, dflt, lo, hi, den⟩

/-- Largest U64. -/
def maxU64 : Int := 0xFFFFFFFFFFFFFFFF

/-- Identity, communication, module and croft entries (R404, R405, R48, R247, R306, R263). -/
def odTableA : List OdEntry :=
  [⟨0x1000, 1, 1, 1, 3, 4, 0xAC1C, 0, 0, 1⟩, ⟨0x1000, 1, 2, 1, 3, 4, 0x6408, 0, 0, 1⟩,
   ⟨0x1000, 1, 3, 1, 0x0B, 4, 0, 0, 0, 1⟩, ⟨0x1000, 1, 4, 1, 5, 4, 0, 0, 0, 1⟩, ⟨0x1000, 1, 5, 1, 2, 4, 0, 0, 0, 1⟩,
   ⟨0x1000, 1, 6, 1, 5, 4, 0, 0, 0, 1⟩, ⟨0x1000, 1, 7, 1, 2, 4, 0, 0, 0, 1⟩, ⟨0x1000, 1, 8, 1, 0x0B, 4, 0, 0, 0, 1⟩,
   odRo 0x1000 1 9 3 0x0B 0, odRo 0x1000 1 0x0C 1 2 1, odRo 0x1010 1 1 1 2 0,
   odRo 0x1040 1 1 1 3 1, odRo 0x1040 1 2 1 3 2,
   odRws 0x1100 1 1 1 1 0 1, odRws 0x1100 1 2 2 0xFF 1 255, odRws 0x1100 1 3 2 32 1 255,
   odRws 0x1100 1 4 5 0 0 0xFFFFFFFFFFFF, odRo 0x1100 1 5 1 5 0, odRo 0x1110 1 1 3 2 0,
   odRws 0x1120 1 1 2 7 0 7, odRo 0x1120 1 2 1 2 0, odRws 0x1120 1 3 3 10 1 3600,
   odWo 0x2000 1 1 2 1 2, odRo 0x2000 1 2 1 2 0, odRo 0x2000 1 3 1 4 0,
   odRws 0x2210 1 1 3 256 0 4096, odRws 0x2210 1 2 3 256 0 4096, odRws 0x2210 1 3 3 64 8 4096, odRws 0x2210 1 4 2 4 0 64,
   odRws 0x2300 1 1 3 0 0 0xFFFF,
   ⟨0x2400, 1, 1, 32, 2, 3, 0xFF, 0, 255, 1⟩, ⟨0x2401, 1, 1, 32, 2, 3, 0xFF, 0, 255, 1⟩,
   odRws 0x2410 1 1 2 0 0 1, odRo 0x2410 1 2 1 3 0,
   odRo 0x3000 32 1 1 2 0, odRws 0x3000 32 2 5 0 0 maxU64, odRws 0x3000 32 3 4 0x00FAC688 0 0xFFFFFFFF,
   odRws 0x3000 32 4 2 0 0 100, odRws 0x3000 32 5 4 5000 100 1000000, odRws 0x3000 32 6 3 32 32 2048,
   odRws 0x3000 32 7 4 200 0 100000, odWo 0x3000 32 8 2 1 4, odRo 0x3000 32 9 1 2 0, odRws 0x3000 32 0x0A 2 2 0 6,
   odRws 0x3500 32 1 1 1 0 1, odRws 0x3500 32 2 7 15 (-126) 127, odRws 0x3500 32 3 7 0xFFF0 (-126) 127,
   odRws 0x3500 32 4 7 32 (-126) 127, odRws 0x3500 32 5 6 0xFF (-8) (-1), odRws 0x3500 32 6 6 1 1 8,
   odRws 0x3500 32 7 4 2000 1 1000000, odRws 0x3540 32 1 4 1000 1 60000,
   odRws 0x3580 32 1 2 25 0 90, odRws 0x3580 32 2 3 128 1 1024, odRws 0x3580 32 3 4 1024 1 1048576,
   odRws 0x3580 32 4 4 65536 64 1048576,
   odRo 0x3600 32 1 1 5 0, odRo 0x3600 32 2 1 3 0, odRo 0x3600 32 3 1 2 0, odRo 0x3600 32 4 1 1 0,
   odRws 0x3620 32 1 3 0 0 0xFFFF]

/-- Tier, media, scrub, plant, power, calibration and security entries. -/
def odTableB : List OdEntry :=
  [odRws 0x4000 1 1 4 2000 500 8000, odRo 0x4000 1 2 2 5 0, odRws 0x4010 1 1 4 0 0 0xFFFFFFFF, odRo 0x4010 1 2 1 4 0,
   odRws 0x4020 1 1 3 10 1 1000, odRws 0x4020 1 2 2 16 10 64, odRws 0x4020 1 3 2 10 0 100, odRws 0x4020 1 4 3 1000 10 60000,
   odF32 0x4020 1 5 0x42BE0000 85 105 1,
   odRws 0x4100 32 1 5 0 0 16777216, odRws 0x4100 32 2 5 0 0 549755813888, odRws 0x4100 32 3 5 0 0 maxU64,
   odRws 0x4100 32 4 5 0 0 maxU64, odRws 0x4100 32 5 5 0 0 maxU64, odRws 0x4100 32 6 2 7 0 7, odRws 0x4100 32 7 4 50 1 1000000,
   odRo 0x4180 32 1 7 5 0, odRws 0x4200 32 1 2 1 0 1, odRws 0x4200 32 2 2 0 0 1,
   odRo 0x5000 1 1 2 4 0, odRo 0x5000 1 3 1 2 100, odRws 0x5000 1 4 2 10 3 50, odRo 0x5000 1 5 1 1 0, odRo 0x5000 1 6 1 0x0C 0,
   odRo 0x5010 1 1 1 3 0,
   odRws 0x5100 1 1 3 24 12 256, odRws 0x5100 1 2 3 96 20 512, odRws 0x5100 1 3 2 10 1 50, odRws 0x5100 1 4 4 50000 10000 500000,
   odRws 0x5100 1 5 4 100000 10000 200000, odRws 0x5100 1 6 4 1000000 100000 2000000, odRws 0x5100 1 7 3 168 24 720,
   odRws 0x5100 1 8 3 90 7 365, odRo 0x5100 1 9 2 5 0,
   ⟨0x5200, 8, 1, 1, 5, 2, 0, 0, 68719476704, 1⟩, ⟨0x5200, 8, 2, 1, 5, 2, 0, 32, 68719476736, 1⟩, odWo 0x5200 8 3 2 1 2,
   odRo 0x5200 8 4 1 2 0, odRo 0x5200 8 5 2 0x0C 0,
   odRws 0x5208 1 1 2 5 1 50, odRws 0x5208 1 2 3 24 0 720, odRws 0x5208 1 3 4 1000 1 1000000000,
   odRo 0x5400 1 1 1 3 0, odRo 0x5400 1 2 2 0x0C 0,
   odRo 0x6000 1 1 24 0x0A 0, odRws 0x6001 1 1 1 1 0 1, odWo 0x6001 1 2 1 1 1, odWo 0x6001 1 3 1 1 1, odRo 0x6001 1 4 1 2 0,
   odRws 0x6010 1 1 2 0 0 1, ⟨0x6010, 1, 2, 1, 3, 2, 10000, 0, 10000, 1⟩, odRo 0x6010 1 3 2 3 10000, odRo 0x6010 1 5 1 3 0,
   odRo 0x6010 1 6 1 2 0, odF32 0x6010 1 7 0x40000000 0 50 1, odF32 0x6010 1 8 0x3E4CCCCD 0 10 1, odRws 0x6010 1 9 3 1500 0 10000,
   odF32 0x6020 1 1 0x42AA0000 30 110 1, odF32 0x6020 1 2 0x42B40000 30 110 1, odF32 0x6020 1 3 0x42AA0000 30 110 1,
   odF32 0x6020 1 4 0x42C80000 30 110 1, odF32 0x6020 1 5 0x428C0000 30 110 1, odF32 0x6020 1 6 0x42700000 30 110 1,
   odF32 0x6020 1 7 0x42700000 30 110 1,
   odRo 0x6100 6 1 1 2 0, odWo 0x6100 6 2 1 1 1,
   odRo 0x6200 1 1 1 0x0A 0, odRo 0x6200 1 2 1 4 0, odRws 0x6200 1 3 2 8 1 10, odF32 0x6200 1 4 0x41800000 12 16 1,
   odRo 0x6200 1 5 1 2 0, odWo 0x6200 1 6 1 1 1,
   odRo 0x6300 1 1 2 0x0A 0, odRws 0x6300 1 3 3 1500 400 1500, odRo 0x6300 1 4 2 0x0A 0,
   odRws 0x6310 1 1 2 0 0 3, odRo 0x6310 1 2 8 2 0, odF32 0x6310 1 0x0A 0x42C80000 90 105 1,
   odRws 0x6320 1 1 3 2 0 1000, odRo 0x6320 1 2 1 2 0,
   odRws 0x6330 1 1 4 6144 512 6144, odRws 0x6330 1 2 3 10 5 50, odRo 0x6330 1 3 1 4 58318, odRo 0x6330 1 4 1 5 0, odRo 0x6330 1 5 1 2 0,
   odWo 0x6400 1 1 2 1 1, odRo 0x6400 1 2 1 2 0, odRo 0x6400 1 3 2 4 0,
   odF32 0x7000 24 1 0 (-10) 10 1, odF32 0x7000 24 2 0x3F800000 9 11 10, odRo 0x7000 24 3 1 2 0,
   odF32 0x7100 6 1 0x3F800000 95 105 100, odRws 0x7100 6 2 7 0 (-50) 50, odRo 0x7100 6 3 1 2 0,
   ⟨0x7200, 1, 1, 1, 0x0C, 3, 0, 0, 22, 1⟩, odRo 0x7200 1 2 1 2 0,
   odF32 0x7300 1 1 0x4019999A 5 50 10, odF32 0x7300 1 2 0x41A00000 1 200 1, odRo 0x7300 1 3 1 2 0,
   odF32 0x7400 1 1 0x3F800000 9 11 10, odRo 0x7400 1 2 1 2 0,
   odWo 0x7500 1 1 2 1 2, odRo 0x7500 1 2 1 2 0, odRws 0x7500 1 3 3 30 0 365,
   ⟨0x8000, 1, 1, 1, 0x0C, 4, 0, 0, 64, 1⟩, odRo 0x8000 1 2 1 3 0, odRo 0x8000 1 3 1 1 0, odRo 0x8010 1 1 64 2 0,
   odRws 0x8011 1 1 2 0 0 1, odWo 0x8011 1 2 1 1 1, odRo 0x8020 1 1 2 0x0C 0,
   ⟨0x8200, 1, 1, 1, 0x0C, 1, 0, 0, 8388608, 1⟩, odWo 0x8200 1 2 2 0 255, odRo 0x8200 1 3 1 2 0, odRo 0x8200 1 4 1 2 1,
   odRo 0x8300 1 1 1 0x0C 0, ⟨0x8300, 1, 2, 1, 0x0C, 1, 0, 0, 576, 1⟩, odRo 0x8300 1 3 1 4 0,
   ⟨0x8400, 1, 1, 1, 0x0C, 1, 0, 0, 32, 1⟩, odRo 0x8400 1 2 1 0x0C 0]

/-- Kamlin and Bell entries and every counter. -/
def odTableC : List OdEntry :=
  [odRws 0x9000 1 1 2 0 0 255, odRws 0x9020 8 1 1 1 0 1, odRws 0x9020 8 2 2 1 1 4, odRws 0x9020 8 3 2 0 0 1,
   odRo 0x9020 8 4 2 2 0, odRo 0x9020 8 6 1 3 0xFFFF,
   odRws 0x9100 1 1 2 1 0 2, odRws 0x9100 1 2 2 128 0 255, odRo 0x9100 1 3 1 5 0, odRo 0x9100 1 4 1 2 0,
   odRws 0x9100 1 5 1 0 0 1, odRo 0x9100 1 6 1 5 0, odRo 0x9100 1 7 1 8 0,
   ⟨0x9110, 1, 1, 8, 7, 3, 0, -5000, 5000, 1⟩, ⟨0x9200, 1, 1, 1, 0x0C, 3, 0, 0, 512, 1⟩,
   odCounter 0xA210 1 1 1, odCounter 0xA220 1 1 4, odCounter 0xA240 32 1 3, odCounter 0xA260 32 1 3, odCounter 0xA280 32 1 10,
   odCounter 0xA2C0 1 1 1, odRo 0xA2C0 1 2 1 3 0xFFFF, odCounter 0xA2C0 1 3 1, odCounter 0xA300 32 1 10, odCounter 0xA320 32 1 7,
   odCounter 0xA340 32 1 4, odRo 0xA340 32 5 1 4 0, odCounter 0xA360 1 1 5,
   odCounter 0xA380 32 1 6, odRo 0xA380 32 7 1 4 0, odCounter 0xA380 32 8 8, odCounter 0xA3A0 8 1 6, odCounter 0xA3C0 1 1 3,
   odCounter 0xA400 1 1 12, odCounter 0xA420 8 1 5, odCounter 0xA440 6 1 2, odCounter 0xA460 1 1 6, odCounter 0xA480 1 1 2,
   odCounter 0xA4A0 1 1 5, odCounter 0xA4C0 1 1 3, odCounter 0xA500 1 1 6]

/-- Every entry. -/
def odTable : List OdEntry := odTableA ++ odTableB ++ odTableC

/-- Whether an entry covers an index. -/
def odHasIndex (i : Nat) (e : OdEntry) : Bool := e.index ≤ i && i < e.index + e.count

/-- Whether an entry covers an index and subindex. -/
def odHas (i sub : Nat) (e : OdEntry) : Bool := odHasIndex i e && e.sub ≤ sub && sub < e.sub + e.subs

/-- The entry of an index and subindex. -/
def odFind (i sub : Nat) : Option OdEntry := odTable.find? (odHas i sub)

/-- Bytes of a scalar type (R386). -/
def odTyLen : Nat → Nat
  | 1 => 1 | 2 => 1 | 3 => 2 | 4 => 4 | 5 => 8 | 6 => 1 | 7 => 2 | 8 => 4 | 9 => 8 | 0x0A => 4 | _ => 0

/-- Whether a type code is STR or DOMAIN. -/
def odIsBytes (ty : Nat) : Bool := ty = 0x0B || ty = 0x0C

/-- The key of an entry: index times 256 plus subindex. -/
def odKey (i sub : Nat) : Nat := i * 256 + sub

end Sys2Proof.Machine
end

