-- ==== Sys2Proof/Machine/StateHost.lean ====
section
/-! DEFINITION. State of the host side: PF1 functions with their work, completion and event rings, tickets of fetched descriptors, NVMe controllers with their queues and namespaces, and host memory. -/

namespace Sys2Proof.Machine

/-- A fetched work descriptor that owes a completion: function, work ring (0xFFFF: admin), tag, the ring head after its fetch, the IOC flag, its ordinal on the function, and the completion entries reserved for it (R310, R312, R313). -/
structure Ticket where
  fn : Nat
  ring : Nat
  tag : Nat
  head : Nat
  ioc : Bool
  ord : Nat
  need : Nat
  deriving DecidableEq, Repr

/-- A work ring (R308 to R311): entries, base, croft, completion ring, head, the last tail written, ring-error, the ordinals of fetched descriptors not yet completed, and a pending RMWR. -/
structure WRing where
  size : Nat
  base : Nat
  croft : Nat
  comp : Nat
  head : Nat
  tail : Nat
  error : Bool
  outstanding : List Nat
  removing : Option Ticket
  deriving DecidableEq, Repr

/-- A completion ring (R308, R310, R313, R316): entries, base, vector, thresholds, entries posted since creation, the host's head, entries reserved, entries posted and not signalled, ring-error. -/
structure CRing where
  size : Nat
  base : Nat
  vector : Nat
  countTh : Nat
  timeTh : Nat
  posted : Nat
  head : Nat
  reserved : Nat
  unsignalled : Nat
  error : Bool
  deriving DecidableEq, Repr

/-- A croft's event ring (R315): owner function, entries, base, vector, entries posted, the host's head, ring-error. -/
structure ERing where
  fn : Nat
  size : Nat
  base : Nat
  vector : Nat
  posted : Nat
  head : Nat
  error : Bool
  deriving DecidableEq, Repr

/-- A PF1 function's registers and rings (R307): CTRL.EN, STS.FATAL, STS.RERR, AQA, AWQ, ACQ, rings by number (0xFFFF: admin), the words of the MSI-X table other than its masks, masked vectors, PBA bits, interrupts sent per vector, the croft bound since its last FLR (PF1: none), and the next ticket ordinal. -/
structure Pf1 where
  en : Bool
  fatal : Bool
  rerr : Bool
  aqa : W32
  awq : W64
  acq : W64
  wr : FMap WRing
  cr : FMap CRing
  msix : FMap Nat
  masked : List Nat
  pba : List Nat
  interrupts : FMap Nat
  scope : Nat
  nextOrd : Nat
  deriving DecidableEq, Repr

/-- A PF1 function at reset (R307). -/
def pf1Reset : Pf1 := ⟨false, false, false, 0, 0, 0, [], [], [], [], [], [], 0xFF, 0⟩

/-- An NVMe submission queue: entries, base, completion queue, head. -/
structure NSq where
  size : Nat
  base : Nat
  cq : Nat
  head : Nat
  deriving DecidableEq, Repr

/-- An NVMe completion queue: entries, base, entries posted, interrupt vector and enable. -/
structure NCq where
  size : Nat
  base : Nat
  posted : Nat
  vector : Nat
  ien : Bool
  deriving DecidableEq, Repr

/-- An NVMe controller (R320 to R322, R326): CC.EN, CSTS.RDY, admin queue registers, queues, outstanding Asynchronous Event Requests by command identifier, events not yet reported, feature values, the firmware staging buffer, the last 64 error entries and how many there have been, data units and commands counted, the interrupts sent per vector, and the croft bound at its function's last FLR (R306). -/
structure Nvme where
  en : Bool
  rdy : Bool
  aqa : W32
  asq : W64
  acq : W64
  sq : FMap NSq
  cq : FMap NCq
  aers : List Nat
  aens : List Nat
  maskedAens : List Nat
  feats : FMap Nat
  savedFeats : FMap Nat
  staging : Memory
  errors : List (List Byte)
  errCount : Nat
  unitsRead : Nat
  unitsWritten : Nat
  reads : Nat
  writes : Nat
  interrupts : FMap Nat
  scope : Nat
  deriving DecidableEq, Repr

/-- A controller at reset. -/
def nvmeReset : Nvme := ⟨false, false, 0, 0, 0, [], [], [], [], [], [], [], [], [], 0, 0, 0, 0, 0, [], 0xFF⟩

/-- A namespace (R324, R460): size in sectors, the controller it is attached to, its key, the croft recorded as key owner, its sectors' bytes, the sectors mapped, and sectors whose slot is poisoned. -/
structure Namespace where
  size : Nat
  ctrl : Option Nat
  key : Nat
  owner : Nat
  data : Memory
  mapped : List Nat
  poisoned : List Nat
  deriving DecidableEq, Repr

/-- An NVMe command that waits for its data to be durable: controller, submission queue, command identifier and head. -/
structure NTicket where
  ctrl : Nat
  sq : Nat
  cid : Nat
  head : Nat
  deriving DecidableEq, Repr

/-- Sanitize progress (R327): idle, running with its action, or failed. -/
structure SanState where
  running : Bool
  action : Nat
  failed : Bool
  done : Nat
  deriving DecidableEq, Repr

/-- A secure deallocation between its steps (R330): sequence, form, early, resumed, croft, NSID, key, count removed, the blocks left to erase (package and block), blocks erased, pages relocated, copies in retired blocks, the Bell counter at unmap, who waits for it, and the controller it came from (0 in the segment form). -/
structure Dealloc where
  seq : Nat
  segment : Bool
  early : Bool
  resumed : Bool
  croft : Nat
  nsid : Nat
  key : Nat
  removed : Nat
  blocks : List (Nat × Nat)
  erased : Nat
  moved : Nat
  stuck : Nat
  unmapped : Nat
  gone : List Nat
  ticket : Option Ticket
  nticket : Option NTicket
  recordAt : Option Nat
  format : Bool
  ctrl : Nat
  deriving DecidableEq, Repr

/-- Memory of the host as the module sees it over PCIe: its bytes, ranges (start, length) whose access faults, and ranges whose TLPs carry EP (R376). -/
structure HostMem where
  bytes : Memory
  faults : List (Nat × Nat)
  ep : List (Nat × Nat)
  deriving DecidableEq, Repr

end Sys2Proof.Machine
end

