-- ==== Sys2Proof/Machine/StateLink.lean ====
section
/-! DEFINITION. State of the Kamlin ports and of the Bell counter. -/

namespace Sys2Proof.Machine

/-- A frame that waits for transmission on a port: its bytes, its class (8: control), the croft whose share it uses (0xFF: module traffic), and the port it came in by, whose buffer it holds until it is sent on (R294). -/
structure TxFrame where
  bytes : List Byte
  cls : Nat
  croft : Nat
  inbound : Option Nat
  deriving DecidableEq, Repr

/-- A frame-data flit kept for replay (R283, R284): where in its body the first frame header starts, and the body. -/
structure TxFlit where
  first : Nat
  body : List Byte
  deriving DecidableEq, Repr

/-- Credits of a sent frame that the neighbour has not returned (R278, R293): class, count, the croft that sent it (0xFF: module traffic), and the job tag, step and attempt the frame carries. -/
structure OutCredit where
  cls : Nat
  cost : Nat
  croft : Nat
  tag : Nat
  step : Nat
  attempt : Nat
  deriving DecidableEq, Repr

/-- A group OR this module has combined or passed on (R287): job tag, step, attempt, croft, the OR, the children's addresses, and the ranks of the group. -/
structure OrDone where
  tag : Nat
  step : Nat
  attempt : Nat
  croft : Nat
  overflow : Bool
  kids : List Nat
  ranks : Nat
  deriving DecidableEq, Repr

/-- A Bell master as offered (R303): priority, serial, hops from it, Kamlin address. -/
structure Master where
  prio : Nat
  serial : Nat
  hops : Nat
  addr : Nat
  deriving DecidableEq, Repr

/-- A Kamlin port (R282 to R295): link state, width, neighbour, this module's address as of the port's training (R288), the master its neighbour has offered and the number of its last Bell exchange (R303), next sequence sent and the oldest unacknowledged, next sequence expected, whether a replay has been asked for and how often in a row, frames waiting to be sent, the replay buffer, credits held per class (8: control), credits owed to the neighbour, frames kept for the next attempt, credits not yet returned, cancels whose credit return is awaited (tag, step, attempt), and the transmit round: grant pointer, bytes of each croft and of all traffic in the present window. -/
structure Port where
  state : Nat
  width : Nat
  neighbour : Nat
  addr : Nat
  master : Option Master
  exchange : Nat
  txSeq : Nat
  ackSeq : Nat
  rxSeq : Nat
  asked : Bool
  asks : Nat
  queue : List TxFrame
  replay : List TxFlit
  credits : FMap Nat
  owed : FMap Nat
  held : List (List Byte)
  out : List OutCredit
  awaiting : List (Nat × Nat × Nat)
  turn : Nat
  used : FMap Nat
  window : Nat
  deriving DecidableEq, Repr

/-- A port at module start: training where it is enabled (R282). -/
def portStart (enabled : Bool) : Port :=
  { state := if enabled then 1 else 0, width := 0, neighbour := 0xFFFF, addr := 0, master := none, exchange := 0, txSeq := 0, ackSeq := 0, rxSeq := 0
    asked := false, asks := 0, queue := [], replay := [], credits := (List.range 9).map (fun k => (k, if k = 8 then 512 else 2048))
    owed := [], held := [], out := [], awaiting := [], turn := 0, used := [], window := 0 }

/-- The Bell counter (R248 to R251): count, state (0 free, 1 acquiring, 2 locked, 3 holdover), consecutive good and bad exchanges, error estimate in ps, the known master's priority, serial, hops and address, the slew in effect, the last accepted PPS edge, whether the holdover limit has passed, the oscillator trim, the part of a count that slew and trim (in parts per 10^9) have gathered, and the counts that acquiring steps have moved it by (R252). -/
structure Bell where
  count : Nat
  state : Nat
  good : Nat
  bad : Nat
  estimate : Int
  mPrio : Nat
  mSerial : Nat
  mHops : Nat
  mAddr : Nat
  slew : Int
  pps : Option Nat
  stale : Bool
  trim : Int
  frac : Int
  moved : Int
  deriving DecidableEq, Repr

/-- The Bell counter at module start. -/
def bellStart : Bell := ⟨0, 0, 0, 0, 0, 0x100, 0, 0xFF, 0, 0, none, false, 0, 0, 0⟩

end Sys2Proof.Machine
end

