-- ==== Sys2Proof/Machine/Keccak.lean ====
section
/-! DEFINITION. SHAKE256 (FIPS 202), the digest the spec names for images, segments, Tallies, holds and records. -/

namespace Sys2Proof.Machine

/-- A 64-bit lane rotated left. -/
def rotl64 (x n : Nat) : Nat := ((x * 2 ^ (n % 64)) % 2 ^ 64) ||| (x / 2 ^ (64 - n % 64))

/-- Rotation offsets of the lanes, lane index x + 5y (FIPS 202, rho). -/
def keccakRho : List Nat :=
  [0, 1, 62, 28, 27, 36, 44, 6, 55, 20, 3, 10, 43, 25, 39, 41, 45, 15, 21, 8, 18, 2, 61, 56, 14]

/-- Round constants (FIPS 202, iota). -/
def keccakRc : List Nat :=
  [0x0000000000000001, 0x0000000000008082, 0x800000000000808A, 0x8000000080008000,
   0x000000000000808B, 0x0000000080000001, 0x8000000080008081, 0x8000000000008009,
   0x000000000000008A, 0x0000000000000088, 0x0000000080008009, 0x000000008000000A] ++
  [0x000000008000808B, 0x800000000000008B, 0x8000000000008089, 0x8000000000008003,
   0x8000000000008002, 0x8000000000000080, 0x000000000000800A, 0x800000008000000A,
   0x8000000080008081, 0x8000000000008080, 0x0000000080000001, 0x8000000080008008]

/-- One round on 25 lanes. -/
def keccakRound (a : List Nat) (rc : Nat) : List Nat :=
  let at0 := fun i => a.getD i 0
  let c := (List.range 5).map (fun x => at0 x ^^^ at0 (x + 5) ^^^ at0 (x + 10) ^^^ at0 (x + 15) ^^^ at0 (x + 20))
  let d := (List.range 5).map (fun x => c.getD ((x + 4) % 5) 0 ^^^ rotl64 (c.getD ((x + 1) % 5) 0) 1)
  let th := (List.range 25).map (fun i => at0 i ^^^ d.getD (i % 5) 0)
  let ro := (List.range 25).map (fun i => rotl64 (th.getD i 0) (keccakRho.getD i 0))
  -- pi: lane (x, y) takes lane ((x + 3y) mod 5, x)
  let b := (List.range 25).map (fun i => ro.getD ((i % 5 + 3 * (i / 5)) % 5 + 5 * (i % 5)) 0)
  let chi := (List.range 25).map (fun i =>
    let y := i / 5
    b.getD i 0 ^^^ ((2 ^ 64 - 1 - b.getD ((i + 1) % 5 + 5 * y) 0) &&& b.getD ((i + 2) % 5 + 5 * y) 0))
  match chi with
  | [] => []
  | l :: ls => (l ^^^ rc) :: ls

/-- The permutation of 24 rounds. -/
def keccakF (a : List Nat) : List Nat := keccakRc.foldl keccakRound a

/-- One block of 136 bytes absorbed. -/
def absorbBlock (a : List Nat) (blk : List Byte) : List Nat :=
  keccakF ((List.range 25).map (fun i =>
    if i < 17 then a.getD i 0 ^^^ leAt blk (8 * i) 8 else a.getD i 0))

/-- The message absorbed block by block. -/
def absorbAll (a : List Nat) (bs : List Byte) : Nat → List Nat
  | 0 => a
  | n + 1 => absorbAll (absorbBlock a (bs.take 136)) (bs.drop 136) n

/-- The output squeezed block by block. -/
def squeeze (a : List Nat) : Nat → List Byte
  | 0 => []
  | n + 1 => ((a.take 17).flatMap (leBytes 8)) ++ squeeze (keccakF a) n

/-- SHAKE256 with an output of `n` bytes. -/
def shake256 (n : Nat) (msg : List Byte) : List Byte :=
  let r := 136 - msg.length % 136
  let pad : List Byte := if r = 1 then [0x9F] else 0x1F :: (List.replicate (r - 2) 0 ++ [0x80])
  let m := msg ++ pad
  let a := absorbAll (List.replicate 25 0) m (m.length / 136)
  (squeeze a ((n + 135) / 136)).take n

/-- The SHAKE256 output of 512 bits as a number, first byte least significant. -/
def digest512 (msg : List Byte) : BitVec 512 := BitVec.ofNat 512 (leNat (shake256 64 msg))

end Sys2Proof.Machine
end

