-- ==== Sys2Proof/Machine/StateMedia.lean ====
section
/-! DEFINITION. State of the flash media: blocks, maps, waiting programs, packages, and of HBM: error patterns, channels, scrubs. -/

namespace Sys2Proof.Machine

/-- The state of a block (R344). -/
inductive BlkState where
  | spare
  | fallow
  | opened
  | full
  | victim
  | erasePending
  | suspect
  | retired
  deriving DecidableEq, Repr

/-- The kind a block is opened for (R340): namespace data, T3 segments, map pages, T2 segments, spill charged to T2, spill charged to T3, journal, metadata, flush. -/
inductive BlkKind where
  | nsData
  | segT3
  | mapPages
  | segT2
  | spillT2
  | spillT3
  | journal
  | metadata
  | flush
  deriving DecidableEq, Repr

/-- What a slot or a segment place of a block holds, by its back-reference (R339): a sector of a namespace, a segment by serial, a page of the map, a spilled sheaf by its location number, or a record of a copy of a structure (R341). -/
inductive BackRef where
  | sector (nsid lba : Nat)
  | segment (serial : Nat)
  | mapPage (n : Nat)
  | spill (n : Nat)
  | record (structure_ copy : Nat)
  deriving DecidableEq, Repr

/-- A block that has been touched (R333, R340, R344, R345, R354, R357, R362): state, kind, write pointer in units of slots (sectors) or sixteen page rows (segments), erases in QLC and pseudo-SLC mode, reads since erase, times suspect, patrol reads in a row at level 3, the retry set, the Bell count at its opening, why it is retired once relocated (0: it is not; else the reason of R384 plus 1), and its slots. -/
structure Block where
  st : BlkState
  kind : BlkKind
  ptr : Nat
  q : Nat
  s : Nat
  reads : Nat
  suspects : Nat
  lvl3 : Nat
  retry : Nat
  since : Nat
  doom : Nat
  slots : FMap BackRef
  deriving DecidableEq, Repr

/-- A program that waits (R225, R440): the sectors or segment it carries, the kind of block, the store operation it belongs to, whether its buffer is protected, its bytes, and for sectors the bytes to publish. -/
structure Prog where
  refs : List BackRef
  kind : BlkKind
  op : Nat
  protectedBuf : Bool
  size : Nat
  zero : Bool
  data : List (Nat × Nat × List Byte)
  deriving DecidableEq, Repr

/-- A verified copy that waits for its relocation record (R349): what it holds, from and to (block and slot), and the counter it counts in. -/
structure CopyMove where
  ref : BackRef
  src : Nat × Nat
  dst : Nat × Nat
  counter : Nat
  deriving DecidableEq, Repr

/-- One copy of a package's journal heads (R348, R381): its sequence number, the first live journal record, where every stored map page lies (page, block, place), and its digest. -/
structure HeadCopy where
  seq : Nat
  first : Nat
  pages : List (Nat × Nat × Nat)
  digest : List Byte
  deriving DecidableEq, Repr

/-- The SHAKE256 digest of a head's record (DESIGN CHOICE, log entry 103: the order of its fields). -/
def headDigest (seq first : Nat) (pages : List (Nat × Nat × Nat)) : List Byte :=
  shake256 64 (leBytes 8 seq ++ leBytes 8 first ++ pages.flatMap (fun p => leBytes 16 p.1 ++ leBytes 4 p.2.1 ++ leBytes 4 p.2.2))

/-- A record of journal heads with its digest. -/
def headCopy (seq first : Nat) (pages : List (Nat × Nat × Nat)) : HeadCopy := ⟨seq, first, pages, headDigest seq first pages⟩

/-- Whether a head's digest is valid. -/
def HeadCopy.valid (x : HeadCopy) : Bool := x.digest = headDigest x.seq x.first x.pages

/-- A journal record (R347): an entry mapped, entries unmapped, an entry relocated from an old place to a new one, a block opened, given its erase-intent, fallow, suspect or retired, and a map page written back. -/
inductive JRec where
  | mapped (r : BackRef) (loc : Nat × Nat)
  | unmapped (rs : List BackRef)
  | moved (r : BackRef) (src dst : Nat × Nat)
  | block (n : Nat) (st : BlkState)
  | page (n : Nat) (loc : Nat × Nat)
  deriving DecidableEq, Repr

/-- A flash package (R337 to R349, R356): touched blocks by die times 3,455 plus index, the map (what lies where), waiting programs, copies in flight, suspends of each die's erase (and, from key 12 on, program), the retained flush reserve, the package sequence number, dirty map pages, the three copies of its journal heads, whether its map is read-only, the live journal records by their sequence numbers, the entries of each stored map page, and the nanoseconds its writes have been held. -/
structure Package where
  blocks : FMap Block
  map : List (BackRef × Nat × Nat)
  progs : List Prog
  moves : List CopyMove
  suspends : FMap Nat
  reserve : Nat
  seq : Nat
  dirty : List Nat
  heads : List HeadCopy
  conflict : Bool
  journal : List (Nat × JRec)
  stored : FMap (List (BackRef × Nat × Nat))
  held : Nat
  deriving DecidableEq, Repr

/-- A package at manufacture. -/
def packageNew : Package := ⟨[], [], [], [], [], 8, 0, [], List.replicate 3 (headCopy 0 0 []), false, [], [], 0⟩

/-- Media totals of the native health record (R335, R358), the nanoseconds the module ran before its last start, and the words of SRAM corrected (R373). -/
structure Health where
  hostBytes : Nat
  nandBytes : Nat
  retired : Nat
  soft : Nat
  retries : Nat
  uncorrectable : Nat
  ranNs : Nat
  unsafeStops : Nat
  sramFixed : Nat
  deriving DecidableEq, Repr

/-- A scrub engine (R377 to R380): state, the requested range, words scanned so far by the running scrub, the summary of the last scrub and of the last patrol pass. -/
structure Scrub where
  state : Nat
  start : Nat
  length : Nat
  bell : Nat
  summary : List Byte
  patrol : List Byte
  deriving DecidableEq, Repr

/-- An HBM stack (R156, R158, R159, R366 to R371, R385, R434): error patterns over the 36 symbols of words (keyed by word index), poisoned words that lie in no sheaf, throttle exponent of each channel, the time of each channel's last hot event, each channel's hour and its corrected words in it, the hour (plus 1) for which a channel has raised 0x0100, self-refresh, the bytes each croft has moved in whole sheaves in the monitor's present window, the window length, factor, floor and hold-off in effect, and its scrub engine. -/
structure Stack where
  errors : FMap (BitVec 288)
  logged : List Nat
  throttle : FMap Nat
  hotAt : FMap Nat
  corrected : FMap (Nat × Nat)
  rated : FMap Nat
  selfRefresh : Bool
  moved : FMap Nat
  hotSet : Nat × Nat × Nat × Nat
  scrub : Scrub
  deriving DecidableEq, Repr

/-- A stack at power-on. -/
def stackNew : Stack := ⟨[], [], [], [], [], [], false, [], (10, 16, 10, 1000), ⟨0, 0, 0, 0, [], []⟩⟩

end Sys2Proof.Machine
end

