-- ==== Sys2Proof/Machine/StateReeve.lean ====
section
/-! DEFINITION. State of the Reeve: dictionary sessions and the saved dictionary, code flash, check-value units and watchdog; of the plant, power and security. -/

namespace Sys2Proof.Machine

/-- A notification not yet acknowledged (R398): sequence, event entry, resends. -/
structure Notify where
  seq : Nat
  entry : List Byte
  resends : Nat
  deriving DecidableEq, Repr

/-- A dictionary session (R393 to R398, R456, R459): transport, source, supervision period, last counter and check accepted, the stored response, whether that request is in progress, idle since, subscription masks, notification sequence, unacknowledged notifications, dropped for lack of room, the value a READ-SEGMENT froze (key, last offset read, bytes), the two nonces and the scope granted. -/
structure Session where
  transport : Nat
  source : Nat
  period : Nat
  counter : Nat
  check : Nat
  response : List Byte
  inProgress : Bool
  idleSince : Nat
  groups : Nat
  crofts : Nat
  nseq : Nat
  unacked : List Notify
  ndropped : Nat
  frozen : Option (Nat × Nat × List Byte)
  authNonce : List Byte
  attNonce : List Byte
  scope : Nat
  deriving DecidableEq, Repr

/-- A request in progress whose response waits (R395, R396): session (0: closed since), request header bytes, the entry's key, and what it waits for: the effect at a croft's step boundary, then a save; whether its effect was deferred, and the response's data. -/
structure Parked where
  session : Nat
  header : List Byte
  key : Nat
  croft : Option Nat
  saved : Bool
  deferred : Bool
  data : List Byte
  deriving DecidableEq, Repr

/-- A copy of the saved dictionary (R388, R381): sequence number, scalar values, byte values, the wrapped keys of crofts and namespaces, and the SHAKE256 digest over them. -/
structure DictCopy where
  seq : Nat
  vals : FMap Nat
  doms : FMap (List Byte)
  wrapped : List (List Byte)
  digest : List Byte
  deriving DecidableEq, Repr

/-- The SHAKE256 digest of a copy of the saved dictionary, of 64 bytes (R388). The order of what it is over is a DESIGN CHOICE (log entry 103). -/
def dictDigest (seq : Nat) (vals : FMap Nat) (doms : FMap (List Byte)) (wrapped : List (List Byte)) : List Byte :=
  shake256 64 (leBytes 8 seq ++ vals.flatMap (fun p => leBytes 4 p.1 ++ leBytes 8 p.2) ++
    doms.flatMap (fun p => leBytes 4 p.1 ++ leBytes 4 p.2.length ++ p.2) ++ wrapped.flatten)

/-- A copy of the saved dictionary with its digest (R388). -/
def dictCopy (seq : Nat) (vals : FMap Nat) (doms : FMap (List Byte)) (wrapped : List (List Byte)) : DictCopy :=
  ⟨seq, vals, doms, wrapped, dictDigest seq vals doms wrapped⟩

/-- Whether the digest of a copy is that of its content (R381, R388). -/
def DictCopy.valid (x : DictCopy) : Bool := x.digest = dictDigest x.seq x.vals x.doms x.wrapped

/-- The DOMAIN staging buffer (R397): session, key of the entry, bytes placed, and the ranges they cover. -/
structure Staging where
  session : Nat
  key : Nat
  bytes : Memory
  spans : List (Nat × Nat)
  deriving DecidableEq, Repr

/-- The code flash and its registers (R408 to R412): array bytes (0xFF where none is listed), the sectors that still hold what was written at manufacture, unlock progress (0 locked, 1 first key, 2 unlocked, 3 command written, 4 address written, 5 low word written, 6 running), FCMD, FADDR, FDATA0, FDATA1, FSTAT, FCTL, FPROT, FERRADDR, the double words programmed with all ones, the Reeve clock (0 32.768 kHz, 1 120 MHz, 2 240 MHz) and whether its rail is at 0.80 V (R412). -/
structure CodeFlash where
  bytes : Memory
  made : List Nat
  lock : Nat
  fcmd : Nat
  faddr : Nat
  dlo : Nat
  dhi : Nat
  fstat : Nat
  fctl : Nat
  fprot : Nat
  eaddr : Nat
  ones : List Nat
  clk : Nat
  lowRail : Bool
  deriving DecidableEq, Repr

/-- The code flash at power-on: registers at their reset values, bank 0 and the service sectors as manufactured; the Reeve at 240 MHz and 0.90 V (DESIGN CHOICE, log entry 67). -/
def flashReset : CodeFlash := ⟨[], [0, 1, 2, 3, 4, 5, 6, 7, 8, 9, 10, 11, 28, 29, 30, 31], 0, 0, 0, 0, 0, 0, 7, 0, 0, [], 2, false⟩

/-- The flash at a Reeve restart: its registers at their reset values, its contents kept; an operation that runs goes on (R406, R410). -/
def flashRestart (f : CodeFlash) : CodeFlash :=
  let r := { flashReset with bytes := f.bytes, made := f.made, ones := f.ones, clk := f.clk, lowRail := f.lowRail }
  if f.fstat % 2 = 1 then { r with lock := f.lock, fcmd := f.fcmd, faddr := f.faddr, dlo := f.dlo, dhi := f.dhi, fstat := 1 } else r

/-- The persistent error log in sectors 26 and 27, used in turn (R383): the sector in use, the records in it and those in the other, oldest first. -/
structure SavedLog where
  sector : Nat
  here : List (List Byte)
  other : List (List Byte)
  deriving DecidableEq, Repr

/-- The persistent log with nothing in it. -/
def savedLogNew : SavedLog := ⟨26, [], []⟩

/-- The newest 256 records of a list. -/
def last256 (l : List (List Byte)) : List (List Byte) := l.drop (l.length - 256)

/-- A record appended; where it fills its sector, of 1,024 records, the other is erased and goes on with the newest 256. -/
def SavedLog.put (l : SavedLog) (r : List Byte) : SavedLog :=
  let h := l.here ++ [r]
  if h.length < 1024 then { l with here := h } else ⟨53 - l.sector, last256 h, h⟩

/-- A sector of the log erased by command. -/
def SavedLog.erase (l : SavedLog) (n : Nat) : SavedLog :=
  if n = l.sector then { l with here := [] } else { l with other := [] }

/-- Whether a sector holds records. -/
def SavedLog.holds (l : SavedLog) (n : Nat) : Bool :=
  (n = l.sector && !l.here.isEmpty) || (n = 53 - l.sector && !l.other.isEmpty)

/-- A check-value unit (R413, R414): control bits, the running value, the expected value, status bits, and the last counter of each alive slot. -/
structure CheckUnit where
  ctl : Nat
  value : Nat
  expected : Nat
  stat : Nat
  slots : FMap Nat
  deriving DecidableEq, Repr

/-- The watchdog (R415): WDCTL, whether the first key has been received, the Bell count of the last service, LASTWD, the Bell counts of watchdog restarts, and whether three of them make the next restart take the other bank (R446). -/
structure Watchdog where
  ctl : Nat
  half : Bool
  served : Nat
  lastwd : Bool
  recent : List Nat
  swap : Bool
  deriving DecidableEq, Repr

/-- The watchdog at a Reeve restart. -/
def watchdogReset : Watchdog := ⟨64, false, 0, false, [], false⟩

/-- A discrete input (R416): active, faulted by stuck, faulted by chatter. -/
structure Input where
  active : Bool
  stuck : Bool
  chatter : Bool
  deriving DecidableEq, Repr

/-- The plant and the energy bank (R417 to R425): armed, leak stop, valve fault, target, measured position, demand, settled, integral accumulator, faulted sensors, last readings, bank volts, bank state, bank usable energy in mJ, relearn procedure and its state, whether it clears a bank fault, when event 0x0601 was last raised, the charge target in effect as binary32, and whether a re-learn command has been refused while a procedure runs. -/
structure Plant where
  armed : Bool
  leakStop : Bool
  valveFault : Bool
  target : Nat
  position : Nat
  demand : Nat
  settled : Bool
  iNum : Int
  iDen : Nat
  faulted : List Nat
  temps : FMap W32
  volts : W32
  bank : Nat
  energy : Nat
  relearn : Nat
  relearnState : Nat
  clearing : Bool
  inletAt : Option Nat
  aim : Nat
  refused : Bool
  deriving DecidableEq, Repr

/-- The plant at power-on: the safe state, valve fully open, bank charging to 16 V. -/
def plantReset : Plant :=
  ⟨false, false, false, 10000, 0, 10000, true, 0, 1, [], [], 0, 0, 0, 0, 0, false, none, 0x41800000, false⟩

/-- Power and start (R426 to R443): phase (0 off, 1 up, 2 flushing, 3 stopped), input present, ENABLE mated, start stage, why the module last stopped, the last window's power, consecutive windows over the limit, windows under it, the point the power limit allows, the points in effect, throttled and gated clusters, droop, write mode, bytes flushed, the start times, and when 0x0612 was last raised. -/
structure Power where
  phase : Nat
  input : Bool
  enable : Bool
  stage : Nat
  cause : Nat
  watts : W32
  windowsOver : Nat
  msUnder : Nat
  point : Nat
  points : List Nat
  throttled : List Nat
  gated : List Nat
  droop : Bool
  mode : Nat
  flushed : Nat
  stage2ms : W32
  stage3ms : W32
  limitedAt : Option Nat
  deriving DecidableEq, Repr

/-- Power at the application of input power (R435, R437): starting, ENABLE mated, no stage reached, every cluster gated. -/
def powerReset : Power :=
  { phase := 1, input := true, enable := true, stage := 0, cause := 0, watts := 0
    windowsOver := 0, msUnder := 0, point := 0, points := List.replicate 8 0, throttled := []
    gated := [0, 1, 2, 3, 4, 5, 6, 7], droop := false, mode := 0, flushed := 0
    stage2ms := 0, stage3ms := 0, limitedAt := none }

/-- A firmware slot (R444 to R450): whether it holds the images written at manufacture, the two copies of the module firmware and of the microcode, and the valid activation sequence; its Reeve image lies in the code flash. -/
structure Slot where
  factory : Bool
  fw : List Byte
  fw2 : List Byte
  ucode : List Byte
  ucode2 : List Byte
  activation : Option Nat
  deriving DecidableEq, Repr

/-- An SPDM responder (R455): how far the negotiation has come (0 none, 1 version, 2 capabilities, 3 algorithms), and the transcripts of the negotiation, of certificate and challenge requests, and of measurements. -/
structure Spdm where
  phase : Nat
  vca : List Byte
  chal : List Byte
  meas : List Byte
  deriving DecidableEq, Repr

/-- A responder before any request. -/
def spdmReset : Spdm := ⟨0, [], [], []⟩

/-- The fuse block (R449): the digest of the vendor's root key, the revoked key indices, the identity seed, the grade, the fused-off engines, and the anti-rollback counters that are not 0. -/
structure Fuses where
  rootDigest : List Byte
  revoked : List Nat
  seed : List Byte
  grade : Nat
  fused : W64
  counters : FMap Nat
  deriving DecidableEq, Repr

/-- The fuse block of the model's module at first power-on. -/
def fusesReset : Fuses := ⟨List.replicate 64 0, [], List.replicate 57 0, 0, 0, []⟩

/-- A firmware commit past its checks (R457, R458): the path, the target slot, whether it activates, the three images, the step it has come to (2 the bank is erased; 3 the Reeve image is programmed; 4 the store copies are written), the NVMe command that waits for it, and whether a module restart waits for it. -/
structure FwJob where
  path : Nat
  slot : Nat
  activate : Bool
  imgs : List (List Byte)
  stage : Nat
  reply : Option NTicket
  restart : Bool
  deriving DecidableEq, Repr

/-- The security engine and firmware (R444 to R461): slots, running slot, recovery, debug flag, the measurements as fixed at stage 2, keys in the engine's slots, the next key identity, the dictionary path's firmware staging buffer, the SPDM responder of each DOE mailbox, and a firmware commit under way. -/
structure Security where
  slots : FMap Slot
  running : Nat
  recovery : Bool
  debugFlag : Bool
  meas : List (List Byte)
  keys : List Nat
  nextKey : Nat
  odStaging : List Byte
  spdm : FMap Spdm
  commit : Option FwJob
  deriving DecidableEq, Repr

/-- The security engine as the model's module holds it at first power-on. -/
def securityReset : Security :=
  ⟨[(1, ⟨true, [], [], [], [], some 1⟩)], 1, false, false, [], [], 1, [], [], none⟩

end Sys2Proof.Machine
end

