-- ==== Sys2Proof/Machine/StateEngine.lean ====
section
/-! DEFINITION. State of the engines: accumulator entries, arrays, queues, chains, virtual engines, activity ramps and Winnower list copies, with their values at step start. -/

namespace Sys2Proof.Machine

/-- One accumulator entry: FP32 bits and its poison mark (R53, R60). -/
structure Acc where
  bits : W32
  marked : Bool
  deriving DecidableEq, Repr

/-- The outlier map under which bytes of scratch were fetched: the K extent of its layer and the listed channels (R89, R90). -/
structure OutMap where
  kExt : Nat
  chans : List Nat
  deriving DecidableEq, Repr

/-- Main chunks of a map's layer (R90). -/
def OutMap.mainChunks (m : OutMap) : Nat := (m.kExt + 31) / 32

/-- Outlier chunks of a chain computed with a map (R90). -/
def OutMap.outChunks (m : OutMap) : Nat := (m.chans.length + 31) / 32

/-- Whether logical K row `k` carries +0 in both operands of a main chunk: a listed channel or padding (R26, R90). -/
def OutMap.zeroAt (m : OutMap) (k : Nat) : Bool := m.kExt ≤ k || m.chans.contains k

/-- Side state of a load: mode tag (none at step start), stationary format, block size code, scale flag, the scale or codebook bytes, the poison mark of the load, and the outlier map its bytes were fetched under (R27, R31, R90, R374). -/
structure SideState where
  mode : Option Nat
  fmt : Nat
  blk : Nat
  scl : Bool
  side : Memory
  marked : Bool
  omap : Option OutMap
  deriving DecidableEq, Repr

/-- Side state with the mode tag none (R31). -/
def sideNone : SideState := ⟨none, 0, 0, false, [], false, none⟩

/-- One matrix array: active and shadow registers (byte 32r + c of cell (r, c)) with their side state, whether the shadow holds a load that no swap has used yet (R30), the table store (key (table * 32 + row) * 16 + entry, PT22 bits), poisoned tables, and the accumulator banks (key bank * 2048 + entry). -/
structure ArrayState where
  active : Memory
  shadow : Memory
  actSide : SideState
  shSide : SideState
  unused : Bool
  tables : FMap (BitVec 22)
  tableMarks : List Nat
  acc : FMap Acc
  deriving DecidableEq, Repr

/-- An array as step start and GATE leave it (R31, R55). -/
def arrayClear : ArrayState := ⟨[], [], sideNone, sideNone, false, [], [], []⟩

/-- An open accumulate chain: its tile, the layout its columns use (0: 32 columns, 1: 16, 2: 64), the mode once a MAC has fixed it, the chunk indices issued, its tag and seed, the outlier map that lists channels and under which an operand of it was fetched, and the tile's entries as the operation of each chunk index left them, for the drains that name one (R53, R56, R61, R63, R90). -/
structure Chain where
  id : Nat
  array : Nat
  base : Nat
  height : Nat
  pair : Bool
  layout : Nat
  mode : Option Nat
  chunks : List Nat
  tag : Option (W16 × W64)
  omap : Option OutMap
  snaps : List (Nat × FMap Acc)
  deriving DecidableEq, Repr

/-- An issued instruction whose last effect is not yet complete (R122): its word and its index in the stream. -/
structure Inflight where
  word : IWord
  off : Nat
  deriving DecidableEq, Repr

/-- One instruction queue of a virtual engine: the word it is stalled on, the GATE word it has reached, the STEP word it has issued, the instructions in flight, and the count of instructions issued (R112, R119, R120). -/
structure Queue where
  stalledOn : Option IWord
  gate : Option IWord
  done : Option IWord
  inflight : List Inflight
  off : Nat
  deriving DecidableEq, Repr

/-- A queue at step start. -/
def queueStart : Queue := ⟨none, none, none, [], 0⟩

/-- A range of scratch bytes written by a FETCH under an outlier map and not written since: first byte, end, and the map (R90). -/
structure OutRange where
  lo : Nat
  hi : Nat
  map : OutMap
  deriving DecidableEq, Repr

/-- One virtual engine within a step: scratch bytes and its poisoned 32-byte units, semaphores, arrays, chains, pending tags, the four queues, the position registers, the layer position, dispatch state, the ordinals of its TALLY and REDUCE instructions, and the memory errors no read has met yet: 64-bit words of scratch whose code is broken, uncorrectably or not, and accumulator entries of bad parity by array and key (R373). -/
structure VEngine where
  scratch : Memory
  marks : List Nat
  sems : FMap Nat
  arrays : FMap ArrayState
  chains : List Chain
  tags : FMap (W16 × W64)
  qF : Queue
  qA : Queue
  qV : Queue
  qW : Queue
  elem : Nat
  row0 : Nat
  col0 : Nat
  layer : Option Nat
  engine : Option Nat
  parkedAt : Option Nat
  tallies : Nat
  reduces : FMap Nat
  outRanges : List OutRange
  flips : List (Nat × Bool)
  parity : List (Nat × Nat)
  deriving DecidableEq, Repr

/-- A virtual engine at step start: cleared arrays and scratch, zero semaphores, position registers 0 (R31, R55, R113, R124, R141). -/
def veStart : VEngine :=
  { scratch := [], marks := [], sems := [], arrays := [], chains := [], tags := []
    qF := queueStart, qA := queueStart, qV := queueStart, qW := queueStart
    elem := 0, row0 := 0, col0 := 0, layer := none, engine := none, parkedAt := none
    tallies := 0, reduces := [], outRanges := [], flips := [], parity := [] }

/-- Ramp state of a physical array (R44, R45): cold, ramping up in a phase, warm, or running ballast in a phase. -/
inductive Ramp where
  | cold
  | wantsUp
  | up (phase : Nat)
  | warm
  | ballast (phase : Nat)
  deriving DecidableEq, Repr

/-- One entry of a Winnower list (R209). -/
structure WEntry where
  score : W32
  id : W64
  marked : Bool
  deriving DecidableEq, Repr

/-- One copy of a list (R204, R207): its entries in list order, counts, running ties, and the exact left-out accumulator in units of 2^-149. -/
structure WList where
  k : Nat
  top : Bool
  held : List WEntry
  offered : Nat
  dups : Nat
  nans : Nat
  ties : Nat
  leftCount : Nat
  leftAcc : Int
  posInf : Bool
  negInf : Bool
  leftMarked : Bool
  outOfRange : Bool
  oorCount : Nat
  spilled : Bool
  deriving DecidableEq, Repr

/-- An empty list copy. -/
def wlistEmpty (k : Nat) (top : Bool) : WList :=
  ⟨k, top, [], 0, 0, 0, 0, 0, 0, false, false, false, false, 0, false⟩

/-- One group descriptor of a selection record (R202). -/
structure SelGroup where
  first : Nat
  count : Nat
  k : Nat
  top : Bool
  group : Bool
  carryIn : Bool
  carryOut : Bool
  outRegion : Nat
  carryRegion : Nat
  outOff : Nat
  carryOff : Nat
  deriving DecidableEq, Repr

/-- Counts an engine operation leaves for the job and the croft: the step-overflow condition and the conversion counters of R86, and a poisoned output. -/
structure EngFlags where
  ovf : Bool
  sat : Nat
  ovr : Nat
  nanIn : Nat
  nanBlk : Nat
  deriving DecidableEq, Repr

/-- No flag and no count. -/
def noFlags : EngFlags := ⟨false, 0, 0, 0, 0⟩

/-- Two sets of flags joined. -/
def joinFlags (a b : EngFlags) : EngFlags :=
  ⟨a.ovf || b.ovf, a.sat + b.sat, a.ovr + b.ovr, a.nanIn + b.nanIn, a.nanBlk + b.nanBlk⟩

/-- The outcome of an engine operation on its virtual engine: it waits, it raises a fault with a code and a detail, or it takes effect. -/
inductive EngRes where
  | stall
  | fault (code detail : Nat)
  | done (ve : VEngine) (fl : EngFlags)
  deriving DecidableEq, Repr

/-- What a step gives to every engine operation: row and query counts, behaviour level, the training record's base seed and step index where the job has one, and its loss-scale exponent (R121, R245, R103, R138). -/
structure StepCtx where
  rows : Nat
  queries : Nat
  level : Nat
  train : Option (Nat × Nat)
  lse : Int
  deriving DecidableEq, Repr

end Sys2Proof.Machine
end

