-- ==== Sys2Proof/Machine/StateStore.lean ====
section
/-! DEFINITION. State of the tiers and the segment store: sheaves, segments, objects, epochs, commits, holds, bindings, images, Almanacs, resident copies and promotions. -/

namespace Sys2Proof.Machine

/-- A sheaf: its tag, its body, and the 32-byte words that carry the poison mark (R149, R150, R374). -/
structure Sheaf where
  tag : BitVec 256
  body : Memory
  marks : List Nat
  deriving DecidableEq, Repr

/-- A raw sheaf of zero bytes: its tag is 0 but for the body check, the CRC-32C of 32,768 zero bytes (R150, R219). -/
def sheafZero : Sheaf := ⟨BitVec.ofNat 256 (0xBC43BAAD * 2 ^ 192), [], []⟩

/-- A segment (R219): owner croft, placement class, header flags, key, index, epoch written, and its 32 sheaves (a raw zero sheaf where none is listed). -/
structure Segment where
  croft : Nat
  cls : Nat
  poison : Bool
  entries : Bool
  isSet : Bool
  key : Nat
  index : Nat
  epoch : Nat
  sheaves : FMap Sheaf
  deriving DecidableEq, Repr

/-- An object: its segments by serial (0: an empty segment of a vector set), whether it is a vector set, its high-water ordinal, and its live records (R180, R181, R218, R474). -/
structure Obj where
  segs : List Nat
  isSet : Bool
  hw : Nat
  live : Nat
  deriving DecidableEq, Repr

/-- A hold being made by a HOLD that waits for its commit (R233): job, host address, weight keys, sign flag, state key, and the recorded fields. -/
structure HoldReq where
  job : Nat
  addr : Nat
  keys : List Nat
  sign : Bool
  key : Nat
  stepN : Nat
  ticket : Ticket
  deriving DecidableEq, Repr

/-- A commit in progress (R226): the frozen open state, retain, the operations covered and not yet complete, the hold it serves with the record's fields known so far, the compacted layouts it publishes, the segments replaced in its open state, and its ticket. -/
structure Commit where
  frozen : FMap Obj
  retain : Bool
  covered : List Nat
  hold : Option (HoldReq × List Byte)
  sets : List Nat
  freed : List Nat
  since : Nat
  ticket : Option Ticket
  deriving DecidableEq, Repr

/-- A store operation that waits: its identity, croft, ticket, outstanding programs, and the detail, result, poisoned-output flag and status of its completion (R225). -/
structure StoreOp where
  id : Nat
  croft : Nat
  ticket : Option Ticket
  nticket : Option NTicket
  left : Nat
  detail : Nat
  result : Nat
  poison : Bool
  status : Nat
  deriving DecidableEq, Repr

/-- A PERSIST that waits for the running step to end (R223): its operation, the serials it placed in the open state at acceptance, the binding's set and index, the first sheaf and the count. -/
structure PersistWait where
  id : Nat
  serials : List Nat
  bset : Nat
  bind : Nat
  first : Nat
  count : Nat
  deriving DecidableEq, Repr

/-- A segment-form secure deallocation that waits for earlier PERSISTs of its range (R330): who asked, its descriptor, the serials it removes. -/
structure DeallocWait where
  ticket : Ticket
  desc : Desc
  gone : List Nat
  deriving DecidableEq, Repr

/-- One copy of a croft's epoch table (R229, R239, R381): its sequence number, the committed epoch, the retained epochs with their mappings, the snapshotted epochs, the hold records, and its digest. -/
structure TableCopy where
  seq : Nat
  epoch : Nat
  maps : FMap (FMap Obj)
  snaps : List Nat
  holds : FMap (List Byte)
  digest : List Byte
  deriving DecidableEq, Repr

/-- The bytes of an object in a table's record. -/
def objBytes (o : Obj) : List Byte :=
  leBytes 8 o.segs.length ++ o.segs.flatMap (leBytes 8) ++ [if o.isSet then 1 else 0] ++ leBytes 8 o.hw ++ leBytes 8 o.live

/-- The SHAKE256 digest of a table's record (DESIGN CHOICE, log entry 103: the order of its fields). -/
def tableDigest (seq epoch : Nat) (maps : FMap (FMap Obj)) (snaps : List Nat) (holds : FMap (List Byte)) : List Byte :=
  shake256 64 (leBytes 8 seq ++ leBytes 8 epoch ++
    maps.flatMap (fun e => leBytes 8 e.1 ++ leBytes 8 e.2.length ++ e.2.flatMap (fun o => leBytes 8 o.1 ++ objBytes o.2)) ++
    leBytes 8 snaps.length ++ snaps.flatMap (leBytes 8) ++ holds.flatMap (fun h => leBytes 8 h.1 ++ h.2))

/-- A record of an epoch table with its digest. -/
def tableCopy (seq epoch : Nat) (maps : FMap (FMap Obj)) (snaps : List Nat) (holds : FMap (List Byte)) : TableCopy :=
  ⟨seq, epoch, maps, snaps, holds, tableDigest seq epoch maps snaps holds⟩

/-- Whether a table's digest is valid. -/
def TableCopy.valid (x : TableCopy) : Bool := x.digest = tableDigest x.seq x.epoch x.maps x.snaps x.holds

/-- The segment store of a croft (R221, R226 to R235): committed epoch, the retained epochs' maps, snapshotted epochs, hold records by epoch, the open state, commits in order, read-only, the three copies of the epoch table, waiting PERSISTs, finished compactions (the layout and the object it was made from), the keys of compacted layouts in the open state that no commit has published, the deletes of IDs that were not live (R181, R183), the segments replaced in the open state that the next commit frees (R222), and the epochs released while readers still hold them (R231). -/
structure Store where
  epoch : Nat
  epochs : FMap (FMap Obj)
  snaps : List Nat
  holds : FMap (List Byte)
  openState : FMap Obj
  commits : List Commit
  readOnly : Bool
  tables : List TableCopy
  persists : List PersistWait
  compacted : FMap (Obj × Obj)
  layouts : List Nat
  notFound : Nat
  replaced : List Nat
  released : List Nat
  sdWaits : List DeallocWait
  deriving DecidableEq, Repr

/-- The store of a croft when it is created: committed epoch 0, the empty epoch. -/
def storeEmpty : Store := ⟨0, [(0, [])], [], [], [], [], false, List.replicate 3 (tableCopy 0 0 [(0, [])] [] []), [], [], [], 0, [], [], []⟩

/-- A binding of a set (R318): the entry's fields, the buffer's sheaves (kinds 0 and 1), the T1 frames of its sheaves, the ordinal from which sheaves lie below T0, the flash class and spill location of each sheaf spilled to the flash (location 0: none written yet), and the object at its epoch. -/
structure Binding where
  kind : Nat
  access : Nat
  mode : Nat
  vc : Nat
  cls : Nat
  count : Nat
  key : Nat
  epoch : Nat
  tag : BitVec 256
  sheaves : FMap Sheaf
  frames : FMap Nat
  toT1 : Nat
  spill : FMap (Nat × Nat)
  obj : Obj
  deriving DecidableEq, Repr

/-- A binding set: the function that made it and its bindings. -/
structure BSet where
  fn : Nat
  order : Nat
  binds : List Binding
  deriving DecidableEq, Repr

/-- A loaded image: the function that loaded it, its bytes and its length. -/
structure Image where
  fn : Nat
  bytes : Memory
  length : Nat
  deriving DecidableEq, Repr

/-- A record of an Almanac (R165). -/
structure AlmRec where
  layer : Nat
  region : Nat
  toT0 : Bool
  vc : Nat
  release : Nat
  first : Nat
  count : Nat
  deriving DecidableEq, Repr

/-- A loaded Almanac: function, the image it serves, layers, cyclic flag, lead, records and pinned peak (R165, R171). -/
structure Almanac where
  fn : Nat
  image : Nat
  layers : Nat
  cyclic : Bool
  lead : Nat
  recs : List AlmRec
  peak : Nat
  deriving DecidableEq, Repr

/-- A resident copy of a sheaf (R161, R168, R174): the home's identity (serial, body; for TP address and export, ordinal), whether it lies in T0 of a virtual cluster's host, its T1 frame, its content, the pins that hold it, arrival order and whether its segment was secure-deallocated under a pin. -/
structure Copy where
  tp : Bool
  home : Nat
  body : Nat
  t0 : Option Nat
  frame : Option Nat
  sheaf : Sheaf
  pins : List Nat
  jobPin : List Nat
  arrived : Nat
  doomed : Bool
  deriving DecidableEq, Repr

/-- A promotion under way (R167, R168): whether a fetch demanded it, the Almanac record that pins it (none once that record is released), the job its copy will stay pinned for, the job that asked, the sheaf's home, its target, the binding's placement. -/
structure Promo where
  demand : Bool
  record : Option Nat
  jobPin : Option Nat
  job : Nat
  tp : Bool
  home : Nat
  body : Nat
  t0 : Option Nat
  mode : Nat
  vc : Nat
  ordinal : Nat
  total : Nat
  deriving DecidableEq, Repr

/-- A T1 frame in use: the croft charged, and whether it carries code S (R369, R370). -/
structure Frame where
  croft : Nat
  strong : Bool
  deriving DecidableEq, Repr

/-- An export (R300): function, croft, binding set and index, kind, the peers' (address, croft) list, and the peers that bind it. -/
structure PeerExport where
  fn : Nat
  croft : Nat
  bset : Nat
  index : Nat
  writable : Bool
  peers : List (Nat × Nat)
  bound : List (Nat × Nat)
  deriving DecidableEq, Repr

end Sys2Proof.Machine
end

