-- ==== Sys2Proof/Machine/StateRun.lean ====
section
/-! DEFINITION. State of crofts, jobs and steps: serving requests, queued and running steps, staged stores, list copies, reductions, and the croft with everything it owns. -/

namespace Sys2Proof.Machine

/-- A serving request (R269, R314): rows, input and output bytes per row, its input bytes as read at acceptance, its output address, when it was accepted, and its ticket. -/
structure ServReq where
  rows : Nat
  inBytes : Nat
  outBytes : Nat
  data : List Byte
  outAddr : Nat
  since : Nat
  ticket : Ticket
  deriving DecidableEq, Repr

/-- A search batch (R184, R185): its record's bytes, the epoch fixed at fetch, that epoch's objects, the output address and length, whether it came before full service (R198). -/
structure SearchReq where
  record : List Byte
  epoch : Nat
  objs : FMap Obj
  outAddr : Nat
  outLen : Nat
  coarse : Bool
  deriving DecidableEq, Repr

/-- What a step computes: a step entry of a program, a search batch, or a compaction of a set's object at its epoch (R266). -/
inductive StepKind where
  | program
  | search (r : SearchReq)
  | compact (key : Nat) (o : Obj)
  deriving DecidableEq, Repr

/-- An accepted step of a job (R253, R267, R275): ticket, step entry, R, Q, selection binding and offset, launch (count, selector is the job's reading, late policy), when the selected count had reached the launch count, the lateness at fetch and later at its first start, the unsynchronised flag, when it became ready, its attempt, whether it has been started once, and its serving requests. -/
structure QStep where
  kind : StepKind
  ticket : Option Ticket
  entry : Nat
  r : Nat
  q : Nat
  selBind : Nat
  selOff : Nat
  launch : Option (Nat × Bool × Bool)
  reached : Option Nat
  late : Option Nat
  unsync : Bool
  ready : Option Nat
  attempt : Nat
  began : Bool
  reqs : List ServReq
  deriving DecidableEq, Repr

/-- A job (R266, R252, R258, R296, R297): identity, function, kind (0 program, 1 serving, 2 search, 3 compaction), image and binding set, the epoch and objects a resumed job's bindings read in place of the set's (R237), priority, Tally settings, training state record, group record with the ranks whose check matched, weight-set digest, persistent semaphores, steps published, Bell offset, level, queued steps and requests, a pending hold, faulted, closing, and the Almanac records of the next step already issued. -/
structure Job where
  id : Nat
  fn : Nat
  kind : Nat
  image : Nat
  bset : Nat
  bound : Option (Nat × FMap Obj)
  prio : Nat
  tally : Bool
  sign : Bool
  slots : Nat
  tbuf : Nat
  train : Option (List Byte)
  group : Option (List Byte)
  checked : List Nat
  wset : List Byte
  sems : FMap Nat
  published : Nat
  bellOff : Nat
  level : Nat
  steps : List QStep
  reqs : List ServReq
  holdReq : Option HoldReq
  faulted : Bool
  closing : Option Ticket
  nextIssued : List Nat
  deriving DecidableEq, Repr

/-- A staged sheaf of a STORE (R142, R153): binding index, sheaf ordinal, content, update class. -/
structure Staged where
  bind : Nat
  ordinal : Nat
  sheaf : Sheaf
  update : Bool
  deriving DecidableEq, Repr

/-- A contribution to a reduction (R143): participant, its fields other than SADDR, its partial's element bits with marks. -/
structure Contrib where
  ve : Nat
  word : Nat
  elems : List (Nat × Nat × Bool)
  daddr : Nat
  deriving DecidableEq, Repr

/-- A reduction of a step: mask, ordinal, contributions of this module, and for a group reduction the subtree results received from child ranks. An ordinal from 2^40 on is that of inputs that came before this module's first REDUCE of theirs. -/
structure Reduction where
  mask : Nat
  ord : Nat
  parts : List Contrib
  inputs : FMap (List (Nat × Nat × Bool))
  sent : Bool
  delivered : Bool
  deriving DecidableEq, Repr

/-- An item of a Tally (R257): role, virtual engine, ordinal, item digest, poisoned. -/
structure TallyItem where
  role : Nat
  ve : Nat
  ord : Nat
  digest : List Byte
  marked : Bool
  deriving DecidableEq, Repr

/-- A query of a walk batch in the Drover (R195): the waits it still has, and the context it holds in its physical cluster, none before one is free. -/
structure WalkCtx where
  waits : Nat
  slot : Option Nat
  deriving DecidableEq, Repr

/-- The running step of a croft: its job and accepted step, its number, when it started, the virtual engines, the step-overflow flag and a poisoned output, staged stores, the selection groups and list copies (virtual cluster times 4,096 plus list), list images received from ranks (rank, list, whether the last frame has come, bytes, poisoned 32-byte units), Tally items, reductions, partials arrived (gathering virtual engine, mask and participant), the first pre-emption request, closing, whether its streams have ended, END, issued Almanac records, late layers (layer, start, sheaves missing), semaphores of the step start, overflow inputs of the group OR, the combined OR while the step waits for its credits and its result once past the end point (R273, R278), whether list images have gone to rank 0, TP sheaves awaiting write done, the queries of a walk batch, and the bytes of T1 that search state and spilled lists hold (R195, R216). -/
structure RunStep where
  job : Nat
  step : QStep
  number : Nat
  start : Nat
  ctx : StepCtx
  ves : FMap VEngine
  overflow : Bool
  poison : Bool
  staged : List Staged
  groups : List SelGroup
  lists : FMap WList
  images : List (Nat × Nat × Bool × List Byte × List Nat)
  tallies : List TallyItem
  reductions : List Reduction
  parts : List (Nat × Nat × Nat)
  preempt : Option Nat
  closing : Bool
  ended : Bool
  endJob : Bool
  issued : List Nat
  late : List (Nat × Nat × Nat)
  orInputs : FMap Bool
  orHeld : Option Bool
  orResult : Option Bool
  imagesSent : Bool
  tpWait : Nat
  contexts : List WalkCtx
  held : Nat
  deriving DecidableEq, Repr

/-- A dictionary or admin change that waits for a croft's step boundary (R14, R395): an entry and its value, an LDALM descriptor with its ticket, or a croft apply. -/
inductive Deferred where
  | entry (key value : Nat)
  | admin (d : Desc) (t : Ticket)
  | apply (mask : W64) (map : W32) (share : Nat)
  deriving DecidableEq, Repr

/-- A TP sheaf asked of its exporter (R276, R301): home and ordinal, and the job tag, step and attempt its read carried. -/
structure TpAsk where
  home : Nat
  body : Nat
  tag : Nat
  step : Nat
  attempt : Nat
  deriving DecidableEq, Repr

/-- A croft that is not absent (R261 to R265): state (1 active, 2 change pending, 3 removal pending), engine mask in effect and as its definition is saved, map and link share in effect, media key, jobs, the running step, the event ring with its sequence and dropped count, images, binding sets, the Almanac, resident copies, promotions under way, TP sheaves that have landed and those asked for, the store, changes that wait for the step boundary, the bytes of its park area, the grant pointer of its work rings (R271), and errors in its sheaves of cluster SRAM that no read has met: key, 64-bit word, whether uncorrectable (R373). -/
structure Croft where
  state : Nat
  mask : W64
  saved : W64
  map : W32
  share : Nat
  key : Nat
  jobs : FMap Job
  run : Option RunStep
  evSeq : Nat
  evDropped : Nat
  ering : Option ERing
  images : FMap Image
  bsets : FMap BSet
  alm : Option Almanac
  copies : List Copy
  arrivals : Nat
  promos : List Promo
  landing : List (Nat × Nat × Sheaf)
  tpAsked : List TpAsk
  store : Store
  deferred : List Deferred
  park : Nat
  descPtr : Nat
  t0Flips : List (List Nat × Nat × Bool)
  deriving DecidableEq, Repr

end Sys2Proof.Machine
end

