-- ==== Sys2Proof/Machine/State.lean ====
section
/-! DEFINITION. The whole state of the module, its faults and refusals, and the state after reset. -/

namespace Sys2Proof.Machine

/-- The state of the module: plain data. -/
structure State where
  pending : List Instr
  freeCtr : Nat
  fuse : Fuses
  serial : W64
  slotId : Nat
  od : FMap Nat
  convs : FMap Nat
  doms : FMap (List Byte)
  dictA : DictCopy
  dictB : DictCopy
  dictConflict : Bool
  savePending : Bool
  sessions : FMap Session
  sent : List (Nat × List Byte)
  parked : List Parked
  odWaiting : List (Nat × List Byte)
  staging : Option Staging
  reeveUp : Bool
  macAddr : W64
  t1s : Bool
  eids : FMap Nat
  log : List (List Byte)
  logSeq : Nat
  logSaved : SavedLog
  pf1 : FMap Pf1
  nvme : FMap Nvme
  perst : Bool
  linkUp : Bool
  layout : Nat
  host : HostMem
  namespaces : FMap Namespace
  sanitize : SanState
  deallocs : List Dealloc
  sdSeq : Nat
  sdRecords : List (List Byte)
  crofts : FMap Croft
  nextJob : Nat
  nextHandle : Nat
  exports : FMap PeerExport
  segs : FMap Segment
  nextSerial : Nat
  nextSpill : Nat
  ops : List StoreOp
  nextOp : Nat
  frames : FMap Frame
  seedInEffect : Nat
  hbm : FMap Stack
  ramps : FMap Ramp
  rampPtr : FMap Nat
  flashPtr : Nat
  droverPtr : FMap Nat
  packages : FMap Package
  health : Health
  mediaReadOnly : Bool
  ports : FMap Port
  kamlinAddr : Nat
  orDone : List OrDone
  stranded : List TxFrame
  bell : Bell
  flash : CodeFlash
  units : FMap CheckUnit
  watchdog : Watchdog
  inputs : FMap Input
  plant : Plant
  power : Power
  sec : Security
  deriving DecidableEq, Repr

/-- The reasons a command stops the model. -/
inductive Fault where
  /-- Nothing raises it: every error the spec describes is a next state (a completion status, a fault record, an event). Safe. -/
  | unreachable
  deriving DecidableEq, Repr

/-- The reasons a command has no meaning. -/
inductive Refusal where
  /-- A constructor of `Instr` without a meaning; raised by a refused arm of the dispatch only. Safe. -/
  | notModelled (mnemonic : String)
  deriving DecidableEq, Repr

/-- A saved dictionary copy as the module's manufacture leaves it. -/
def dictNew (seq : Nat) : DictCopy := dictCopy seq [] [] []

/-- The module right after a power-on reset: input power applied, no stage reached, every volatile structure empty, every dictionary entry at its default. -/
def State.reset : State :=
  { pending := [], freeCtr := 0, fuse := fusesReset, serial := 0, slotId := 0
    od := [], convs := [], doms := [], dictA := dictNew 1, dictB := dictNew 1, dictConflict := false, savePending := false
    sessions := [], sent := [], parked := [], odWaiting := [], staging := none, reeveUp := true,
    macAddr := 0x02AC1C640800, t1s := true, eids := [], log := [], logSeq := 0, logSaved := savedLogNew
    pf1 := [], nvme := [], perst := true, linkUp := false, layout := 0, host := ⟨[], [], []⟩
    namespaces := [], sanitize := ⟨false, 0, false, 0⟩, deallocs := [], sdSeq := 0, sdRecords := []
    crofts := [], nextJob := 1, nextHandle := 1, exports := [], segs := [], nextSerial := 1, nextSpill := 1
    ops := [], nextOp := 1, frames := [], seedInEffect := 0, hbm := [], ramps := [], rampPtr := [], flashPtr := 0, droverPtr := []
    packages := [], health := ⟨0, 0, 0, 0, 0, 0, 0, 0, 0⟩, mediaReadOnly := false
    ports := [], kamlinAddr := 0, orDone := [], stranded := [], bell := bellStart
    flash := flashReset, units := [], watchdog := watchdogReset, inputs := []
    plant := plantReset, power := powerReset, sec := securityReset }

end Sys2Proof.Machine
end

