-- ==== Sys2Proof/Machine/Ops.lean ====
section
/-! DEFINITION. The named operations every family shares: dictionary values and counters, host memory, the error log, notifications, event rings, tickets, completions and interrupts. -/

namespace Sys2Proof.Machine

/-! ### Dictionary values -/

/-- The raw value of an entry: the last accepted write, else the table's default. -/
def odGet (s : State) (i sub : Nat) : Nat :=
  match s.od.lookup (odKey i sub) with
  | some v => v
  | none => match odFind i sub with
    | some e => e.dflt
    | none => 0

/-- The state with an entry's raw value set. -/
def odPut (s : State) (i sub v : Nat) : State := { s with od := mapSet s.od (odKey i sub) v }

/-- The state with a counter raised. -/
def bump (s : State) (i sub n : Nat) : State := if n = 0 then s else odPut s i sub (odGet s i sub + n)

/-- The state with a high-water entry raised to a value. -/
def bumpMax (s : State) (i sub v : Nat) : State := if odGet s i sub < v then odPut s i sub v else s

/-! ### Crofts -/

/-- A croft that is not absent. -/
def croft? (s : State) (c : Nat) : Option Croft := mapGet? s.crofts c

/-- The state with a croft's record replaced. -/
def putCroft (s : State) (c : Nat) (k : Croft) : State := { s with crofts := mapSet s.crofts c k }

/-- The state with a croft's record changed, where the croft is not absent. -/
def modCroft (s : State) (c : Nat) (f : Croft → Croft) : State := { s with crofts := mapMod s.crofts c f }

/-- A fresh open value and the state that has consumed it. -/
def fresh (s : State) : BitVec 64 × State := (Config.freeValue s.freeCtr, { s with freeCtr := s.freeCtr + 1 })

/-- `n` fresh bytes. -/
def freshBytes : Nat → State → List Byte × State
  | 0, s => ([], s)
  | n + 1, s =>
    let p := fresh s
    let q := freshBytes n p.2
    (BitVec.ofNat 8 (p.1.toNat % 256) :: q.1, q.2)

/-! ### Host memory -/

/-- Whether two byte ranges meet. -/
def rangesMeet (a n b m : Nat) : Bool := n ≠ 0 && m ≠ 0 && a < b + m && b < a + n

/-- Bytes read over PCIe, none where an address faults or a TLP carries EP (R376). -/
def hostRead (s : State) (a n : Nat) : Option (List Byte) :=
  if s.host.faults.any (fun r => rangesMeet a n r.1 r.2) || s.host.ep.any (fun r => rangesMeet a n r.1 r.2) then none
  else some (memGetL 0 s.host.bytes a n)

/-- Whether an address range of the host can be written. -/
def hostWritable (s : State) (a n : Nat) : Bool := !s.host.faults.any (fun r => rangesMeet a n r.1 r.2)

/-- Bytes written over PCIe. -/
def hostWrite (s : State) (a : Nat) (bs : List Byte) : State :=
  { s with host := { s.host with bytes := memPutL 0 s.host.bytes a bs } }

/-! ### Discrete inputs (R416) -/

/-- The input of an index, at rest where nothing has happened to it. -/
def inputOf (s : State) (i : Nat) : Input := mapGet s.inputs i ⟨false, false, false⟩

/-- Whether an input is latched as faulted. -/
def inputBad (s : State) (i : Nat) : Bool := (inputOf s i).stuck || (inputOf s i).chatter

/-- Whether an input is active and not ignored. -/
def inputOn (s : State) (i : Nat) : Bool := (inputOf s i).active && !inputBad s i

/-- Nanoseconds since module start as the counter has counted them, without the moves of acquiring steps: what durations are measured by (R249, R252). -/
def clock (s : State) : Nat := ((s.bell.count : Int) - s.bell.moved).toNat

/-! ### Notifications and the log -/

/-- The bytes of a PDU without its check: header fields of R389 and data. -/
def pduBody (svc status flags session alive index sub ty offset : Nat) (data : List Byte) : List Byte :=
  [1, BitVec.ofNat 8 svc, BitVec.ofNat 8 status, BitVec.ofNat 8 flags] ++ leBytes 2 session ++ leBytes 2 alive ++
  leBytes 2 index ++ [BitVec.ofNat 8 sub, BitVec.ofNat 8 ty] ++ leBytes 4 offset ++ leBytes 2 data.length ++ [0, 0] ++ data

/-- A whole PDU with its CRC-32C (R389, R390). -/
def pdu (svc status flags session alive index sub ty offset : Nat) (data : List Byte) : List Byte :=
  let b := pduBody svc status flags session alive index sub ty offset data
  b ++ leBytes 4 (crc32c b)

/-- A message sent on a transport, the newest last: 0 to 2 dictionary transports, 3 SPDM, 4 and 5 MCTP control, 8 + p a frame on port p, 16 + p a retry request on port p. -/
def transmit (s : State) (dest : Nat) (b : List Byte) : State := { s with sent := s.sent ++ [(dest, b)] }

/-- The 64 bytes of an event entry, its phase bit clear (R315). -/
def eventEntry (cls croft seq bell : Nat) (body : List Byte) : List Byte :=
  leBytes 2 cls ++ [0, BitVec.ofNat 8 croft] ++ leBytes 4 seq ++ leBytes 8 bell ++ List.replicate 16 0 ++ sub body 0 32

/-- One session's notification of an event: sent while fewer than 32 are unacknowledged, else dropped and counted for the overflow entry (R398). -/
def notifyOne (s : State) (sid : Nat) (n : Session) (entry : List Byte) : State :=
  if n.unacked.length < 32 then
    let n' := { n with unacked := n.unacked ++ [⟨n.nseq, entry, 0⟩], nseq := (n.nseq + 1) % 65536 }
    transmit { s with sessions := mapSet s.sessions sid n' } n.transport (pdu 8 0 0 sid n.nseq 0 0 0 0 entry)
  else bump { s with sessions := mapSet s.sessions sid { n with ndropped := n.ndropped + 1 } } 0xA500 5 1

/-- Whether a session's masks select an event (R398). -/
def selects (n : Session) (cls croft : Nat) : Bool :=
  (n.groups / 2 ^ (cls / 256)) % 2 = 1 && (255 < cls || (n.crofts / 2 ^ croft) % 2 = 1)

/-- NOTIFY of an event to every session that selects it (R384, R398). -/
def notify (s : State) (cls croft : Nat) (entry : List Byte) : State :=
  s.sessions.foldl (fun s p => if selects p.2 cls croft then notifyOne s p.1 p.2 entry else s) s

/-- A record of the error log: 64 bytes (R383). -/
def logRecord (s : State) (cls sev unit croft place subplace symbol addr : Nat) (detail : List Byte) : List Byte :=
  leBytes 2 cls ++ [BitVec.ofNat 8 sev, BitVec.ofNat 8 unit] ++ leBytes 4 s.logSeq ++ leBytes 8 s.bell.count ++
  [BitVec.ofNat 8 croft, BitVec.ofNat 8 place, BitVec.ofNat 8 subplace, BitVec.ofNat 8 symbol, 0, 0, 0, 0] ++
  leBytes 8 addr ++ sub detail 0 32

/-- The newest `n` entries of a list whose newest entry is last. -/
def newest {α : Type} (n : Nat) (l : List α) : List α := (l.reverse.take n).reverse

/-- A record appended to the log of 4,096, and to the log that survives resets where its severity is 2 or above (R383). -/
def logAppend (s : State) (sev : Nat) (r : List Byte) : State :=
  { s with
    log := newest 4096 (s.log ++ [r])
    logSaved := if 2 ≤ sev then s.logSaved.put r else s.logSaved
    logSeq := (s.logSeq + 1) % 2 ^ 32 }

/-- An event of the module log only: a record and its notification (R384). -/
def logEvent (s : State) (cls sev unit place subplace symbol addr : Nat) (detail : List Byte) : State :=
  notify (logAppend s sev (logRecord s cls sev unit 0xFF place subplace symbol addr detail)) cls 0xFF
    (eventEntry cls 0xFF s.logSeq s.bell.count detail)

/-- A plain event of the module log. -/
def moduleEvent (s : State) (cls : Nat) (detail : List Byte) : State := logEvent s cls 0 5 0 0 0xFF 0 detail

/-! ### Interrupts and event rings -/

/-- A PF1 function's record. -/
def pf1Of (s : State) (f : Nat) : Pf1 := mapGet s.pf1 f pf1Reset

/-- The state with a PF1 function's record replaced. -/
def putPf1 (s : State) (f : Nat) (p : Pf1) : State := { s with pf1 := mapSet s.pf1 f p }

/-- An interrupt of a function's vector: sent, or its PBA bit set while masked (R316). -/
def interrupt (s : State) (f v : Nat) : State :=
  let p := pf1Of s f
  putPf1 s f (if p.masked.contains v then { p with pba := setIns p.pba v }
    else { p with interrupts := mapSet p.interrupts v (mapGet p.interrupts v 0 + 1) })

/-- Entries of an event ring that the host has not freed. -/
def eringUsed (e : ERing) : Nat := (e.posted + e.size - e.head) % e.size

/-- Whether an event ring takes another entry (R308, R315). -/
def eringRoom (e : ERing) : Bool := !e.error && e.size ≠ 0 && eringUsed e + 1 < e.size

/-- The phase of the next entry: 1 on the first pass, inverted at each wrap (R308). -/
def phaseOf (posted size : Nat) : Nat := if posted / size % 2 = 0 then 1 else 0

/-- An entry written to an event ring with room, and its interrupt. -/
def eringWrite (s : State) (c : Nat) (k : Croft) (e : ERing) (entry : List Byte) : State :=
  let b := patch entry 2 [BitVec.ofNat 8 (phaseOf e.posted e.size)]
  let s1 := hostWrite s (e.base + 64 * (e.posted % e.size)) b
  let s2 := putCroft s1 c { k with ering := some { e with posted := e.posted + 1 }, evSeq := (k.evSeq + 1) % 2 ^ 32 }
  interrupt s2 e.fn e.vector

/-- An event on a croft's event ring: written, or dropped and counted (R315), with its notification. -/
def croftEvent (s : State) (c cls : Nat) (body : List Byte) : State :=
  match croft? s c with
  | none => s
  | some k =>
    let entry := eventEntry cls c k.evSeq s.bell.count body
    let s1 := match k.ering with
      | some e => if eringRoom e then eringWrite s c k e entry
          else putCroft s c { k with evDropped := k.evDropped + 1, evSeq := (k.evSeq + 1) % 2 ^ 32 }
      | none => putCroft s c { k with evDropped := k.evDropped + 1, evSeq := (k.evSeq + 1) % 2 ^ 32 }
    notify s1 cls c entry

/-- An event-overflow entry with the dropped count once space is there (R315). -/
def overflowEvent (s : State) (c : Nat) : State :=
  match croft? s c with
  | none => s
  | some k =>
    match k.ering with
    | none => s
    | some e =>
      if k.evDropped ≠ 0 && eringRoom e then
        eringWrite s c { k with evDropped := 0 } e (eventEntry 8 c k.evSeq s.bell.count (leBytes 4 k.evDropped))
      else s

/-- A media or error event that concerns a croft: on its ring and in the log; without a croft, in the log only (R384). -/
def errorEvent (s : State) (croft : Option Nat) (cls sev unit place subplace symbol addr : Nat) (detail : List Byte) : State :=
  match croft with
  | none => logEvent s cls sev unit place subplace symbol addr detail
  | some c => croftEvent (logAppend s sev (logRecord s cls sev unit c place subplace symbol addr detail)) c cls detail

/-! ### Tickets and completions -/

/-- Entries of a completion ring that the host has not freed. -/
def cringUsed (r : CRing) : Nat := (r.posted + r.size - r.head) % r.size

/-- Whether a completion ring can reserve `n` entries (R310). -/
def cringRoom (r : CRing) (n : Nat) : Bool := !r.error && cringUsed r + r.reserved + n < r.size

/-- Completion entries a descriptor reserves: two for STEP and REQUEST, one otherwise (R310). -/
def needOf (ring opcode : Nat) : Nat := if ring ≠ 0xFFFF && (opcode = 2 || opcode = 3) then 2 else 1

/-- The bytes of a completion entry (R313). -/
def completionBytes (t : Ticket) (status flags detail result result2 : Nat) : List Byte :=
  leBytes 4 t.tag ++ leBytes 2 t.ring ++ leBytes 2 t.head ++ [BitVec.ofNat 8 status, BitVec.ofNat 8 flags, 0, 0] ++
  leBytes 4 detail ++ leBytes 8 result ++ leBytes 8 result2

/-- The work ring of a ticket that is still outstanding: none once the ring has been deleted, whatever ring bears its number since (R319). -/
def ringOf (s : State) (t : Ticket) : Option WRing := (mapGet? (pf1Of s t.fn).wr t.ring).filter (fun w => w.outstanding.contains t.ord)

/-- One entry appended to a completion ring, its phase placed by the given rule. -/
def cringAppend (s : State) (f n : Nat) (place : Nat → List Byte) : State :=
  let p := pf1Of s f
  match mapGet? p.cr n with
  | none => s
  | some r =>
    let s1 := hostWrite s (r.base + 32 * (r.posted % r.size)) (place (phaseOf r.posted r.size))
    putPf1 s1 f { p with cr := mapSet p.cr n { r with posted := r.posted + 1, unsignalled := r.unsignalled + 1 } }

/-- The interrupt of a completion ring: on the IOC flag or at the count threshold (R316). -/
def cringSignal (s : State) (f n : Nat) (ioc : Bool) : State :=
  let p := pf1Of s f
  match mapGet? p.cr n with
  | none => s
  | some r =>
    if ioc || (r.countTh ≠ 0 && r.countTh ≤ r.unsignalled) then
      interrupt (putPf1 s f { p with cr := mapSet p.cr n { r with unsignalled := 0 } }) f r.vector
    else s

/-- The descriptor of a ticket done: it leaves its ring's outstanding list and its reservation is released (R310, R311). -/
def ticketDone (s : State) (t : Ticket) (comp : Nat) : State :=
  let p := pf1Of s t.fn
  putPf1 s t.fn { p with
    wr := mapMod p.wr t.ring (fun r => { r with outstanding := r.outstanding.filter (· ≠ t.ord) })
    cr := mapMod p.cr comp (fun r => { r with reserved := r.reserved - t.need }) }

/-- A completion posted for a ticket, with the fault record in the next entry where there is one (R313). -/
def postOnly (s : State) (t : Ticket) (status flags detail result result2 : Nat) (ext : Option (List Byte)) : State :=
  match ringOf s t with
  | none => s
  | some w =>
    let s1 := ticketDone s t w.comp
    let s2 := cringAppend s1 t.fn w.comp (fun ph =>
      completionBytes t status (flags / 2 * 2 + ph + (if ext.isSome then 64 else 0)) detail result result2)
    let s3 := match ext with
      | some b => cringAppend s2 t.fn w.comp (fun ph => patch b 6 [BitVec.ofNat 8 (128 * ph)])
      | none => s2
    cringSignal s3 t.fn w.comp t.ioc

/-- A function that is not enabled keeps a completion ring only while a work ring still posts to it (R319). -/
def idleComps (s : State) (f : Nat) : State :=
  let p := pf1Of s f
  if p.en then s else putPf1 s f { p with cr := p.cr.filter (fun x => p.wr.any (fun w => w.2.comp = x.1)) }

/-- A ring whose RMWR waits completes the RMWR and goes, once nothing of it is outstanding (R318); one that goes with its function goes in the same way (R319). -/
def ringDrained (s : State) (f ring : Nat) : State :=
  let p := pf1Of s f
  match mapGet? p.wr ring with
  | none => s
  | some w =>
    match w.removing with
    | some t => if w.outstanding.isEmpty then
        idleComps (postOnly (putPf1 s f { p with wr := mapDel p.wr ring }) t 0 0 0 0 0 none) f
      else s
    | none => s

/-- A completion posted for a ticket, and a removal of its ring that waited for it (R313, R318). -/
def complete (s : State) (t : Ticket) (status flags detail result result2 : Nat) (ext : Option (List Byte)) : State :=
  ringDrained (postOnly s t status flags detail result result2 ext) t.fn t.ring

/-- A plain completion. -/
def done (s : State) (t : Ticket) (status : Nat) : State := complete s t status 0 0 0 0 none

/-- A completion with a result. -/
def doneResult (s : State) (t : Ticket) (result : Nat) : State := complete s t 0 0 0 result 0 none

/-- A ring put into ring-error: STS.RERR and its event on the croft's ring (R309). -/
def ringError (s : State) (f c n kind : Nat) : State :=
  let p := pf1Of s f
  croftEvent (putPf1 s f { p with rerr := true }) c 4 (leBytes 2 n ++ [BitVec.ofNat 8 kind])

/-! ### Fetching a descriptor -/

/-- Whether the module takes descriptors and commands at all: input power up and no flush or stop (R441). -/
def powered (s : State) : Bool := s.power.phase = 1

/-- Whether a valve re-learn runs, during which new steps are not ready (R425). -/
def valveRelearning (s : State) : Bool := s.plant.relearn = 1 && s.plant.relearnState = 1

/-- The opcodes of work that makes steps. -/
def stepOpcodes : List Nat := [2, 3, 5, 7]

/-- Opcode of a descriptor. -/
def opc (d : Desc) : Nat := byteOf d 0

/-- Whether a descriptor can be fetched now at the head of a ring: the ring present and sound, an entry waiting, room for its completion, and with the fence flag nothing outstanding (R309, R310, R311, R318). -/
def fetchable (s : State) (f ring : Nat) (d : Desc) : Bool :=
  let p := pf1Of s f
  powered s && p.en && !p.fatal &&
  match mapGet? p.wr ring with
  | none => false
  | some w =>
    !w.error && w.removing.isNone && w.head ≠ w.tail && (!bitOf d 9 || w.outstanding.isEmpty) &&
    match mapGet? p.cr w.comp with
    | none => false
    | some r => cringRoom r (needOf ring (opc d))

/-- The ticket of a descriptor fetched at a ring's head, and the state with the head advanced, its completion reserved and the croft's grant pointer past the ring (R271). -/
def takeTicket (s : State) (f ring : Nat) (d : Desc) : Ticket × State :=
  let p := pf1Of s f
  match mapGet? p.wr ring with
  | none => (⟨f, ring, 0, 0, false, 0, 0⟩, s)
  | some w =>
    let head := (w.head + 1) % w.size
    let n := needOf ring (opc d)
    let t : Ticket := ⟨f, ring, bytesAt d 4 4, head, bitOf d 8, p.nextOrd, n⟩
    let s1 := putPf1 s f { p with
      wr := mapSet p.wr ring { w with head := head, outstanding := w.outstanding ++ [p.nextOrd] }
      cr := mapMod p.cr w.comp (fun r => { r with reserved := r.reserved + n })
      nextOrd := p.nextOrd + 1 }
    (t, modCroft s1 w.croft (fun k => { k with descPtr := ring + 1 }))

/-- The croft of a work ring. -/
def ringCroft (s : State) (f ring : Nat) : Nat :=
  match mapGet? (pf1Of s f).wr ring with
  | some w => w.croft
  | none => 0xFF

/-- Whether a croft number names a croft that is open for work. -/
def croftOpen (s : State) (c : Nat) : Bool := (croft? s c).isSome

/-- Whether bytes `i` to `j` of a descriptor are zero. -/
def descZero (d : Desc) (i j : Nat) : Bool := bytesAt d i (j + 1 - i) = 0

/-- Whether the envelope of a descriptor is sound: reserved flag bits, croft byte and byte 3 zero on a work ring, the Job field zero outside opcodes 0x02 to 0x04 (R312). -/
def envelopeOk (ring : Nat) (d : Desc) : Bool :=
  fld d 15 10 = 0 && byteOf d 3 = 0 && (ring = 0xFFFF || byteOf d 2 = 0) &&
  ((ring ≠ 0xFFFF && 2 ≤ opc d && opc d ≤ 4) || descZero d 8 15)

/-- The opcodes of work-ring descriptors (R312). -/
def workOpcodes : List Nat :=
  [1, 2, 3, 4, 5, 6, 7, 0x10, 0x11, 0x12, 0x13, 0x14, 0x15, 0x18, 0x19, 0x1A, 0x1B, 0x1C, 0x1D, 0x20, 0x21, 0x22, 0x81]

/-- What a meaning answers. -/
abbrev Out := Host.Outcome State Fault Refusal

/-- A data-path descriptor fetched and judged before its own meaning: absent croft, envelope, stage, a valve re-learn under way; then the effect (R15, R25, R306, R312, R425, R438). -/
def withDescriptor (s : State) (f : Fin 33) (ring : Nat) (d : Desc) (op minStage notReady : Nat)
    (effect : State → Nat → Ticket → State) : State :=
  if !fetchable s f.val ring d then s
  else if opc d ≠ op then
    if workOpcodes.contains (opc d) then s
    else let p := takeTicket s f.val ring d; done p.2 p.1 2
  else
    let c := ringCroft s f.val ring
    let p := takeTicket s f.val ring d
    if !croftOpen s c || (f.val ≠ 0 && (pf1Of s f.val).scope ≠ c) then done p.2 p.1 3
    else if !envelopeOk ring d then done p.2 p.1 1
    else if s.power.stage < minStage || (valveRelearning s && stepOpcodes.contains op) then complete p.2 p.1 notReady 0 s.power.stage 0 0 none
    else effect p.2 c p.1

end Sys2Proof.Machine
end

