-- ==== Sys2Proof/Machine/Clusters.lean ====
section
/-! DEFINITION. Power gating of clusters and the points they run at: what keeps a cluster awake, gating and waking (R416, R428 to R430, R433, R434). -/

namespace Sys2Proof.Machine

/-- Whether a croft has an engine in a cluster. -/
def inCluster (k : Croft) (n : Nat) : Bool := bytesAt k.mask n 1 ≠ 0

/-- Whether a copy is being placed into a cluster's SRAM for a croft (R433). -/
def placesInto (k : Croft) (n : Nat) : Bool := k.promos.any (fun y => y.t0.any (fun v => fld k.map (3 * v + 2) (3 * v) = n))

/-- Whether a cluster has work: a running step of a croft with engines in it, its search work included, or a placement into its SRAM (R433). -/
def clusterWork (s : State) (n : Nat) : Bool := s.crofts.any (fun p => (p.2.run.isSome && inCluster p.2 n) || placesInto p.2 n)

/-- Whether WAKE_N keeps a cluster ungated: it serves a croft with an open job (R416, R433). -/
def keptAwake (s : State) (n : Nat) : Bool := inputOn s 4 && s.crofts.any (fun p => p.2.jobs.any (fun j => !j.2.faulted) && inCluster p.2 n)

/-- Whether gating and self-refresh entry are enabled (R433, R434). -/
def gatingOn (s : State) : Bool := odGet s 0x6320 1 ≠ 0

/-- Whether a cluster is gated. -/
def isGated (s : State) (n : Nat) : Bool := s.power.gated.contains n

/-- The operating point a cluster is to run at: P3 while throttled, else the lower of the power limit's and the highest point set (R430). -/
def wantedPoint (s : State) (n : Nat) : Nat := if s.power.throttled.contains n then 3 else max s.power.point (odGet s 0x6310 1)

/-- A gated cluster woken: counted, its stagger pointer back at 0, at the point it is to run at (R46, R433). -/
def wakeCluster (s : State) (n : Nat) : State :=
  if isGated s n then
    bump { s with
      power := { s.power with gated := s.power.gated.filter (· ≠ n), points := s.power.points.set n (wantedPoint s n) }
      rampPtr := mapDel s.rampPtr n, droverPtr := mapDel s.droverPtr n } 0xA4A0 4 1
  else s

/-- The gated clusters of a croft woken. -/
def wakeCroft (s : State) (c : Nat) : State :=
  match croft? s c with
  | none => s
  | some k => ((List.range 8).filter (inCluster k)).foldl wakeCluster s

/-- Every cluster that WAKE_N keeps awake woken (R416). -/
def wakeKept (s : State) : State := ((List.range 8).filter (keptAwake s)).foldl wakeCluster s

/-- A cluster gated: its arrays are cold when it wakes (R433, R44). -/
def gateCluster (s : State) (n : Nat) : State :=
  { s with
    power := { s.power with gated := setIns s.power.gated n }
    ramps := s.ramps.filter (fun p => p.1 / 64 ≠ n) }

/-- CLUSTER_GATE: no work for the idle time (R433). -/
def execClusterGate (n : Fin 8) (s : State) : Out :=
  .next (if powered s && gatingOn s && !clusterWork s n.val && !keptAwake s n.val && !isGated s n.val then gateCluster s n.val else s)

/-- CLUSTER_WAKE: woken on demand (R433). -/
def execClusterWake (n : Fin 8) (s : State) : Out := .next (if powered s then wakeCluster s n.val else s)

end Sys2Proof.Machine
end

