-- ==== Sys2Proof/Machine/Operands.lean ====
section
/-! DEFINITION. Operand forms of the engines: scratch ranges with their poison marks, element reads and writes in every format, instruction headers, reserved fields, and accumulator entry addresses. -/

namespace Sys2Proof.Machine

/-- Bytes of an engine's scratch: 196,608 units of 32 bytes. -/
def scratchBytes : Nat := 6291456

/-- Whether a byte range lies inside scratch (R131). -/
def inScratch (a n : Nat) : Bool := a + n ≤ scratchBytes

/-- Whether any unit of a byte range carries the poison mark (R374). -/
def scrMarked (ve : VEngine) (a n : Nat) : Bool :=
  n ≠ 0 && setAny ve.marks (a / 32) ((a + n - 1) / 32 + 1 - a / 32)

/-- A little-endian number of scratch. -/
def scrLe (ve : VEngine) (a k : Nat) : Nat := memLe ve.scratch a k

/-- The ranges fetched under outlier maps after `n` bytes at `a` are written: what is left of each on either side (R90). -/
def cutRanges (rs : List OutRange) (a n : Nat) : List OutRange :=
  rs.flatMap (fun r =>
    if n = 0 || r.hi ≤ a || a + n ≤ r.lo then [r]
    else (if r.lo < a then [{ r with hi := a }] else []) ++ (if a + n < r.hi then [{ r with lo := a + n }] else []))

/-- The outlier map under which any byte of a range was fetched (R90). -/
def mapUnder (ve : VEngine) (a n : Nat) : Option OutMap :=
  (ve.outRanges.find? (fun o => a < o.hi && o.lo < a + n)).map (·.map)

/-- Bytes written to scratch without a mark: a whole unit written loses its mark, a unit written in part keeps it (R374, R375). -/
def scrWrite (ve : VEngine) (a : Nat) (bs : List Byte) (marked : Bool) : VEngine :=
  let n := bs.length
  let lo := a / 32
  let hi := (a + n + 31) / 32
  let fullLo := (a + 31) / 32
  let fullHi := (a + n) / 32
  let marks := if n = 0 then ve.marks
    else if marked then setInsRange ve.marks lo (hi - lo)
    else setDelRange ve.marks fullLo (fullHi - fullLo)
  { ve with
    scratch := memPutL 0 ve.scratch a bs, marks := marks, outRanges := cutRanges ve.outRanges a n
    flips := ve.flips.filter (fun x => 8 * x.1 + 8 ≤ a || a + n ≤ 8 * x.1) }

/-- A list of writes applied in order: address, bytes, mark. A unit that any write marks ends marked. -/
def scrWrites (ve : VEngine) (ws : List (Nat × List Byte × Bool)) : VEngine :=
  let ve1 := ws.foldl (fun v w => scrWrite v w.1 w.2.1 false) ve
  ws.foldl (fun v (w : Nat × List Byte × Bool) =>
    if w.2.2 && w.2.1.length ≠ 0 then
      { v with marks := setInsRange v.marks (w.1 / 32) ((w.1 + w.2.1.length + 31) / 32 - w.1 / 32) }
    else v) ve1

/-- The input format code of the vector unit: FP32, BF16 or FP16 (R135 onward), none when reserved. -/
def vecFmt : Nat → Option Nat
  | 0 => some 1
  | 1 => some 2
  | 2 => some 3
  | _ => none

/-- Element `i` of a scratch array of a format code at a byte address. -/
def scrElem (ve : VEngine) (code a i : Nat) : XV :=
  let b := fmtBits code / 8
  elemVal code (scrLe ve (a + i * b) b)

/-- Bytes of `n` elements of a format code, E2M1 packed two per byte (R472). -/
def elemBytes (code n : Nat) : Nat := (fmtBits code * n + 7) / 8

/-- Codes packed two per byte, element 2i in the low half (R472). -/
def packNibbles : List Nat → List Byte
  | [] => []
  | [a] => [BitVec.ofNat 8 (a % 16)]
  | a :: b :: rest => BitVec.ofNat 8 (a % 16 + 16 * (b % 16)) :: packNibbles rest

/-- A row of codes of a format as bytes (R472). -/
def packRow (code : Nat) (xs : List Nat) : List Byte :=
  if code = 6 then packNibbles xs else xs.flatMap (fun x => leBytes (fmtBits code / 8) x)

/-- Round a byte count up to a multiple of 32. -/
def up32 (n : Nat) : Nat := (n + 31) / 32 * 32

/-- The queue numbers that accept an opcode (R130). -/
def opQueues (opc : Nat) : List Nat :=
  if opc ≤ 3 then [0, 1, 2, 3]
  else if opc = 0x10 then [0]
  else if 0x20 ≤ opc ∧ opc ≤ 0x25 then [1]
  else if 0x30 ≤ opc ∧ opc ≤ 0x37 then [2]
  else if 0x40 ≤ opc ∧ opc ≤ 0x46 then [3]
  else []

/-- The reserved bit ranges of an instruction, besides the header's [31:20] (R129, R132 to R143): pairs of high and low bit. -/
def rsvRanges (w : IWord) : List (Nat × Nat) :=
  match fld w 7 0 with
  | 0x00 => [(127, 32)]
  | 0x01 => [(127, 43)]
  | 0x02 => [(127, 69)]
  | 0x03 => [(127, 33)]
  | 0x10 => [(71, 68), (127, 112)]
  | 0x20 => [(127, 81)]
  | 0x21 => [(127, 35)]
  | 0x22 => []
  | 0x23 => [(127, 70)]
  | 0x24 => [(127, 87)]
  | 0x25 => [(63, 60)]
  | 0x30 => [(127, 127)]
  | 0x31 => [(127, 89)]
  | 0x32 => [(127, 122)]
  | 0x33 => [(127, 89)]
  | 0x34 => [(127, 104)]
  | 0x35 => [(127, 98)]
  | 0x36 => [(127, 76)]
  | 0x37 => [(127, 90)]
  | 0x40 => []
  | 0x41 => [(127, 109)]
  | 0x42 => [(63, 59), (127, 104)]
  | 0x43 => [(127, 106)]
  | 0x44 => [(127, 107)]
  | 0x45 => [(127, 70)]
  | 0x46 => [(127, 96)]
  | _ => []

/-- Whether every reserved field of an instruction is zero (R130). -/
def rsvOk (w : IWord) : Bool :=
  fld w 31 20 = 0 && (rsvRanges w).all (fun r => fld w r.1 r.2 = 0)

/-- Logical columns of a tile layout: 32 in 8-bit and table tiles, 16 in 16-bit tiles, 64 in CB16 and FP4 tiles (R27, R135). -/
def layoutCols : Nat → Nat
  | 1 => 16
  | 2 => 64
  | _ => 32

/-- The tile layout of an operand mode (R49, R53). -/
def modeLayout : Nat → Nat
  | 2 => 1
  | 3 => 2
  | 4 => 2
  | _ => 0

/-- The footprint E of a tile: height times the column factor times the pair factor (R53). -/
def footprint (layout height : Nat) (pair : Bool) : Nat :=
  height * (if layout = 2 then 2 else 1) * (if pair then 2 else 1)

/-- The key of the accumulator entry of logical row `m` and logical column `n` of a tile: bank times 2,048 plus entry, the column rule first, the pair rule second (R49, R53). -/
def accKey (layout base : Nat) (pair : Bool) (m n : Nat) : Nat :=
  let bank := if layout = 1 then 2 * n else if layout = 2 then n / 2 else n
  let k := if layout = 2 then 2 * m + n % 2 else m
  bank * 2048 + base + (if pair then 2 * k else k)

/-- An accumulator entry: +0 and unmarked where none is listed (R55). -/
def accGet (a : FMap Acc) (k : Nat) : Acc := mapGet a k ⟨0, false⟩

/-- Whether the tile's base and footprint fit its banks (R53). -/
def tileFits (base foot : Nat) : Bool := base % 32 = 0 && base + foot ≤ 2048

/-- An array of a virtual engine, cleared where nothing has touched it (R31). -/
def veArray (ve : VEngine) (i : Nat) : ArrayState := mapGet ve.arrays i arrayClear

/-- The virtual engine with one array replaced. -/
def veSetArray (ve : VEngine) (i : Nat) (a : ArrayState) : VEngine :=
  { ve with arrays := mapSet ve.arrays i a }

/-- The open chain of an identifier (R61). -/
def veChain (ve : VEngine) (id : Nat) : Option Chain := ve.chains.find? (fun c => c.id = id)

/-- The virtual engine with a chain's record replaced. -/
def veSetChain (ve : VEngine) (c : Chain) : VEngine :=
  { ve with chains := c :: ve.chains.filter (fun d => d.id ≠ c.id) }

/-- One queue of a virtual engine: 0 fetch, 1 array, 2 vector, 3 write-back. -/
def veQueue (ve : VEngine) : Nat → Queue
  | 0 => ve.qF
  | 1 => ve.qA
  | 2 => ve.qV
  | _ => ve.qW

/-- The virtual engine with one queue replaced. -/
def veSetQueue (ve : VEngine) (k : Nat) (q : Queue) : VEngine :=
  match k with
  | 0 => { ve with qF := q }
  | 1 => { ve with qA := q }
  | 2 => { ve with qV := q }
  | _ => { ve with qW := q }

/-- A semaphore count of a virtual engine. -/
def veSem (ve : VEngine) (i : Nat) : Nat := mapGet ve.sems i 0

/-- Whether an in-flight instruction of the array queue satisfies a test. -/
def anyInA (ve : VEngine) (p : IWord → Bool) : Bool := ve.qA.inflight.any (fun f => p f.word)

/-- The key of rounding point AS and of the other stochastic sites: the step key of R103 in a job with a training record, the seed itself otherwise (R103, R135). -/
def siteKey (c : StepCtx) (seed : Nat) : Nat :=
  match c.train with
  | some (b, i) => stepKey seed b i
  | none => seed

end Sys2Proof.Machine
end

