-- ==== Sys2Proof/Machine/EngArray.lean ====
section
/-! DEFINITION. Array-queue operations on one virtual engine: LDSH, SWAP, TLOAD, MAC, PRELOAD and TAG (R26 to R63, R133 to R135). -/

namespace Sys2Proof.Machine

/-- Whether a stationary format code fits a MODE of LDSH. -/
def modeFmtOk (mode fmt : Nat) : Bool :=
  match mode with
  | 0 => fmt = 4 || fmt = 5
  | 1 => fmt = 7
  | 2 => fmt = 2 || fmt = 3
  | 3 => fmt = 8
  | 4 => fmt = 6
  | _ => fmt = 0

/-- Whether a streamed format code is accepted by an operand mode (R33). -/
def streamOk (mode fmt : Nat) : Bool :=
  match mode with
  | 0 => fmt = 4 || fmt = 5
  | 1 => fmt = 7
  | 2 => fmt = 2 || fmt = 3
  | 3 => fmt = 2 || fmt = 3
  | 4 => fmt = 4 || fmt = 5 || fmt = 2
  | _ => fmt = 0

/-- The register bytes of a table-mode load: byte 16r + t holds the codes of cells (r, 2t) and (r, 2t + 1) (R27, R178). -/
def tableCells (bs : List Byte) : List Byte :=
  bs.flatMap (fun b => [b &&& 0x0F#8, b >>> 4])

/-- Bytes of scale side data of a load: one scale per logical column, twice for blocks of 16 (R133). -/
def scaleBytes (mode blk : Nat) : Nat := layoutCols (modeLayout mode) * (if blk = 0 then 2 else 1)

/-- LDSH: the shadow registers and shadow side state from scratch, after the swap that uses the load before it (R27, R30, R133, R374). -/
def doLdsh (ve : VEngine) (w : IWord) : EngRes :=
  let sa := 32 * fld w 49 32
  let arr := fld w 52 50
  let mode := fld w 55 53
  let fmt := fld w 59 56
  let xa := 32 * fld w 77 60
  let blk := fld w 79 78
  let scl := bitOf w 80
  if 5 < mode then .fault 0x50 mode
  else if !modeFmtOk mode fmt then .fault 0x30 0
  else if (mode = 3 || mode = 5) && (scl || blk ≠ 0) then .fault 0x30 0
  else if (veArray ve arr).unused then .stall
  else
    let n := if mode = 5 then 512 else 1024
    let xn := if mode = 3 then 32 else if mode = 5 then 0 else if scl then scaleBytes mode blk else 0
    if !inScratch sa n || !inScratch xa xn then .fault 0x52 0
    else
      let raw := memGetL 0 ve.scratch sa n
      let cells := if mode = 5 then tableCells raw else raw
      let a := veArray ve arr
      let side : SideState :=
        { mode := some mode, fmt := fmt, blk := blk, scl := scl
          side := memSlice ve.scratch xa xn 0
          marked := scrMarked ve sa n || scrMarked ve xa xn
          omap := mapUnder ve sa n }
      .done (veSetArray ve arr { a with shadow := cellsOf 0 0 cells, shSide := side, unused := true }) noFlags

/-- SWAP: shadow to active, registers and side state, after the shadow load of the array has finished (R28, R30). -/
def doSwap (ve : VEngine) (w : IWord) : EngRes :=
  let arr := fld w 34 32
  if anyInA ve (fun u => fld u 7 0 = 0x20 && fld u 52 50 = arr) then .stall
  else
    let a := veArray ve arr
    .done (veSetArray ve arr { a with active := a.shadow, actSide := a.shSide, unused := false }) noFlags

/-- The sixteen PT22 entries of one row of one table, with the overflow condition of QT (R39, R133). -/
def tableRow (ve : VEngine) (a : Nat) : List (BitVec 22 × Bool) :=
  (List.range 16).map (fun v =>
    let r := rne pt22 (x32 (scrLe ve (a + 4 * v) 4))
    (BitVec.ofNat 22 r.bits, r.ovr))

/-- TLOAD: tables into the stores of all rows, rounded at QT, after the table-mode operations issued before it (R39, R40, R133). The encoding gives COUNT 1 to 256 and the manual names no run-time fault for 0: it is taken as a table-index fault (DESIGN CHOICE, log entry 94). -/
def doTload (ve : VEngine) (w : IWord) : EngRes :=
  let sa := 32 * fld w 49 32
  let arr := fld w 52 50
  let t0 := fld w 60 53
  let cnt := fld w 69 61
  if cnt = 0 || 256 < t0 + cnt then .fault 0x31 0
  else if !inScratch sa (2048 * cnt) then .fault 0x52 0
  else if anyInA ve (fun u => fld u 7 0 = 0x22 && fld u 34 32 = arr && fld u 126 123 = 0) then .stall
  else
    let a := veArray ve arr
    let rows := (List.range cnt).flatMap (fun k => (List.range 32).map (fun r => (k, r)))
    let res := rows.map (fun kr => (kr, tableRow ve (sa + kr.1 * 2048 + kr.2 * 64)))
    let cells : FMap (BitVec 22) := res.flatMap (fun x =>
      x.2.zipIdx.filterMap (fun e =>
        if e.1.1 = 0 then none else some (((t0 + x.1.1) * 32 + x.1.2) * 16 + e.2, e.1.1)))
    let lo := t0 * 512
    let hi := (t0 + cnt) * 512
    let tables := a.tables.filter (fun p => p.1 < lo) ++ cells ++ a.tables.filter (fun p => hi ≤ p.1)
    let marks := (List.range cnt).foldl (fun m k =>
      if scrMarked ve (sa + k * 2048) 2048 then setIns m (t0 + k) else setDelRange m (t0 + k) 1) a.tableMarks
    let ovf := res.any (fun x => x.2.any (fun e => e.2))
    .done (veSetArray ve arr { a with tables := tables, tableMarks := marks }) { noFlags with ovf := ovf }

/-- A MAC's fields that its checks and its effect share, and the outlier maps its operands were fetched under (R90). -/
structure MacF where
  arr : Nat
  chain : Nat
  chunk : Nat
  start : Nat
  base : Nat
  height : Nat
  pair : Bool
  sto : Bool
  sfmt : Nat
  sscl : Bool
  sa : Nat
  mode : Nat
  layout : Nat
  b : Nat
  maps : List OutMap
  deriving DecidableEq, Repr

/-- The fields of a MAC word under the active mode and the step's row and query counts, its operands taken as fetched under no map (R121, R134). -/
def macWord (c : StepCtx) (w : IWord) (mode : Nat) : MacF :=
  let rows := fld w 104 93
  { arr := fld w 34 32, chain := fld w 46 35, chunk := fld w 70 47, start := fld w 72 71
    base := 32 * fld w 78 73, height := fld w 90 79, pair := bitOf w 91, sto := bitOf w 92
    sfmt := fld w 126 123, sscl := bitOf w 127, sa := 32 * fld w 122 105
    mode := mode, layout := modeLayout mode
    b := if rows ≠ 0 then rows else if mode = 5 then c.queries else c.rows
    maps := [] }

/-- Bytes per streamed row: 32 in 8-bit formats, 64 in 16-bit formats (R134). -/
def rowBytes (sfmt : Nat) : Nat := if sfmt = 2 || sfmt = 3 then 64 else 32

/-- Bytes of streamed rows and, where present, their scales (R134). -/
def streamBytes (f : MacF) (blk : Nat) : Nat :=
  f.b * rowBytes f.sfmt + (if f.sscl then f.b * (if blk = 0 then 2 else 1) else 0)

/-- The fields of a MAC with the outlier maps of its active load and of its streamed rows (R90). -/
def macFields (c : StepCtx) (ve : VEngine) (w : IWord) (mode : Nat) : MacF :=
  let f := macWord c w mode
  let sd := (veArray ve f.arr).actSide
  { f with maps := sd.omap.toList ++ (if mode = 5 then [] else (mapUnder ve f.sa (streamBytes f sd.blk)).toList) }

/-- Whether array row `r` carries +0 in both operands of the chunk: beyond the K extent or at a listed channel of a map, in a main chunk (R26, R90). -/
def macZero (f : MacF) (r : Nat) : Bool :=
  f.maps.any (fun m => f.chunk < m.mainChunks && m.zeroAt (32 * f.chunk + r))

/-- Whether a MAC is of the outlier pass of its chain: a 16-bit chunk above the main chunks of the chain's map (R90). -/
def outlierChunk (ch : Chain) (f : MacF) : Bool :=
  f.mode = 2 && ch.omap.any (fun m => m.mainChunks ≤ f.chunk)

/-- Whether two open tiles share an entry: same array and overlapping entry ranges (R62). -/
def tilesMeet (c : Chain) (arr base foot : Nat) : Bool :=
  c.array = arr && base < c.base + footprint c.layout c.height c.pair && c.base < base + foot

/-- The chain checks of a MAC: state, tile, order, alias, slots (R56, R61, R62, R63, R90, R134, R135). None when they pass. Where several fail the manual gives no order among them: a MAC judges the tile of an open chain before its start option (DESIGN CHOICE, log entry 94). -/
def macChainFault (ve : VEngine) (f : MacF) : Option Nat :=
  let tagged (o : Option (W16 × W64)) : Bool := o.isSome
  match veChain ve f.chain with
  | none =>
    if f.start = 0 then some 0x24
    else if ve.chains.any (fun c => tilesMeet c f.arr f.base (footprint f.layout f.height f.pair)) then some 0x20
    else if 64 ≤ ve.chains.length then some 0x22
    else if f.sto && (f.pair || !tagged (mapGet? ve.tags f.chain)) then some 0x24
    else none
  | some ch =>
    let same := ch.array = f.arr && ch.base = f.base && ch.height = f.height && ch.pair = f.pair &&
      (outlierChunk ch f || (ch.layout = f.layout && (ch.mode = none || ch.mode = some f.mode)))
    if !same then some 0x20
    else if f.start ≠ (if ch.mode = none then 2 else 0) then some 0x24
    else if ch.chunks.any (fun j => f.chunk ≤ j) then some 0x23
    else if f.sto && (f.pair || !tagged (if ch.mode = none then mapGet? ve.tags f.chain else ch.tag)) then some 0x24
    else none

/-- The streamed element of row `m` at array row `r` (R134). -/
def streamElem (ve : VEngine) (f : MacF) (m r : Nat) : XV :=
  let k := rowBytes f.sfmt / 32
  elemVal f.sfmt (scrLe ve (f.sa + m * rowBytes f.sfmt + r * k) k)

/-- The streamed scale code of row `m` for array row `r`: 127 without scales (R35, R134). -/
def streamScale (ve : VEngine) (f : MacF) (blk m r : Nat) : Nat :=
  if f.sscl then
    let h := if blk = 0 then r / 16 else 0
    scrLe ve (f.sa + f.b * rowBytes f.sfmt + h * f.b + m) 1
  else 127

/-- The weight scale code of logical column `n` for array row `r`: 127 without scales (R35, R133). -/
def weightScale (sd : SideState) (layout n r : Nat) : Nat :=
  if sd.scl then
    let h := if sd.blk = 0 then r / 16 else 0
    (memGet 0 sd.side (h * layoutCols layout + n)).toNat
  else 127

/-- The register byte of a cell. -/
def cellByte (a : ArrayState) (r c : Nat) : Nat := (memGet 0 a.active (32 * r + c)).toNat

/-- The 4-bit code of logical column `n` at row `r` of a 64-column load (R27). -/
def cellCode (a : ArrayState) (r n : Nat) : Nat :=
  let b := cellByte a r (n / 2)
  if n % 2 = 0 then b % 16 else b / 16

/-- The contribution of array row `r` to logical column `n` for streamed row `m`, with its overflow condition; a padding position or a listed channel contributes +0 (R26, R35 to R38, R42, R90). -/
def macContrib (ve : VEngine) (f : MacF) (a : ArrayState) (tbase tstride m n r : Nat) : XV × Bool :=
  let sd := a.actSide
  if macZero f r then (.zero false, false) else
  let scaled (v : XV) : XV :=
    xScaleCode (weightScale sd f.layout n r) (xScaleCode (streamScale ve f sd.blk m r) v)
  match f.mode with
  | 0 => (scaled (xMul (elemVal sd.fmt (cellByte a r n)) (streamElem ve f m r)), false)
  | 1 =>
    -- integer products have no negative zero
    let p := xMul (elemVal 7 (cellByte a r n)) (streamElem ve f m r)
    (scaled (match p with | .zero _ => .zero false | v => v), false)
  | 2 =>
    let wt := cellByte a r (2 * n) + 256 * cellByte a r (2 * n + 1)
    (scaled (xMul (elemVal sd.fmt wt) (streamElem ve f m r)), false)
  | 3 =>
    let cb := elemVal 2 (leNat (memGetL 0 sd.side (2 * cellCode a r n) 2))
    quernCB (streamElem ve f m r) cb
  | 4 =>
    let p := quernFP4 (streamElem ve f m r) (cellCode a r n)
    (scaled p.1, p.2)
  | _ =>
    let t := tbase + m * tstride + f.chunk
    (decodeF pt22 (mapGet a.tables ((t * 32 + r) * 16 + cellByte a r n % 16) 0).toNat, false)

/-- The poison of a streamed row: its load or table, or any unit the row reads (R60, R374). -/
def macMarked (ve : VEngine) (f : MacF) (a : ArrayState) (tbase tstride m : Nat) : Bool :=
  a.actSide.marked ||
  (if f.mode = 5 then a.tableMarks.contains (tbase + m * tstride + f.chunk)
   else
    scrMarked ve (f.sa + m * rowBytes f.sfmt) (rowBytes f.sfmt) ||
    (f.sscl && (scrMarked ve (f.sa + f.b * rowBytes f.sfmt + m) 1 ||
      (a.actSide.blk = 0 && scrMarked ve (f.sa + f.b * rowBytes f.sfmt + f.b + m) 1))))

/-- One accumulator entry of a tile of layout `lay` updated by a chunk (R56 to R60). -/
def macEntry (c : StepCtx) (lay : Nat) (f : MacF) (tag : Option (W16 × W64)) (acc : FMap Acc) (m n : Nat)
    (cs : ColSum) (marked : Bool) : FMap Acc × Bool :=
  let k := accKey lay f.base f.pair m n
  let e := accGet acc k
  let mk := e.marked || marked
  if f.pair then
    let l := accGet acc (k + 1)
    let hi := if f.start = 1 then 0x80000000 else e.bits.toNat
    let lo := if f.start = 1 then 0x80000000 else l.bits.toNat
    let (h', l', o) := accPair hi lo cs
    (mapSet (mapSet acc k ⟨BitVec.ofNat 32 h', mk⟩) (k + 1) ⟨BitVec.ofNat 32 l', l.marked || marked⟩, o)
  else
    let a := if f.start = 1 then 0x80000000 else e.bits.toNat
    let sr := if f.sto then
        match tag with
        | some (t, sd) => some (mix64 (siteKey c sd.toNat) (ctrAS t.toNat f.chunk m n))
        | none => none
      else none
    let r := accFP32 a cs sr
    (mapSet acc k ⟨BitVec.ofNat 32 r.bits, mk⟩, r.ovf)

/-- The outlier map of a chain after a MAC: the first map listing channels under which an operand of it was fetched (R90). -/
def macOutMap (f : MacF) (old : Option OutMap) : Option OutMap :=
  match old with
  | some m => some m
  | none => f.maps.find? (fun m => !m.chans.isEmpty)

/-- The accumulators after a MAC, with its overflow condition: every row below b, every logical column (R41, R49, R57). `lay` is the layout of the chain's tile: an outlier chunk of a tile of another layout updates its logical columns 0 to 15 (DESIGN CHOICE, log entry 95). -/
def macAcc (c : StepCtx) (ve : VEngine) (lay : Nat) (f : MacF) (a : ArrayState) (tbase tstride : Nat)
    (tag : Option (W16 × W64)) : FMap Acc × Bool :=
  (List.range f.b).foldl (fun p m =>
    let mk := macMarked ve f a tbase tstride m
    (List.range (layoutCols f.layout)).foldl (fun (q : FMap Acc × Bool) n =>
      let cs := (List.range 32).map (fun r => macContrib ve f a tbase tstride m n r)
      let s := colSum (1 < f.mode) (cs.map (·.1))
      let x := macEntry c lay f tag q.1 m n s mk
      (x.1, q.2 || x.2 || cs.any (·.2))) p) (a.acc, false)

/-- The faults of a MAC before its chain checks: mode tag, format, rows, tile, tables, scratch (R31, R33, R38, R49, R53, R121, R131, R134). For M itself outside 32 to 2,048 (1,024 in the 64-column layouts) the manual names no run-time fault: it is taken as a tile-range fault (DESIGN CHOICE, log entry 94). -/
def macFault (f : MacF) (a : ArrayState) (w : IWord) : Option (Nat × Nat) :=
  let tb := fld w 112 105
  let ts := fld w 120 113
  if f.mode = 5 && fld w 122 121 ≠ 0 then some (0x51, 0)
  else if f.start = 3 then some (0x51, f.chain)
  else if !streamOk f.mode f.sfmt then some (0x30, f.chain)
  else if f.sscl && (f.mode = 3 || f.mode = 5) then some (0x30, f.chain)
  else if f.b = 0 || f.height < f.b then some (0x21, f.chain)
  else if f.height < 32 || (if f.layout = 2 then 1024 else 2048) < f.height then some (0x21, f.chain)
  else if !tileFits f.base (footprint f.layout f.height f.pair) then some (0x21, f.chain)
  else if f.mode = 5 && 255 < tb + (f.b - 1) * ts + f.chunk then some (0x31, f.chain)
  else if f.mode ≠ 5 && !inScratch f.sa (streamBytes f a.actSide.blk) then some (0x52, f.chain)
  else none

/-- The entries of a chain's tile. -/
def tileEntries (ch : Chain) (acc : FMap Acc) : FMap Acc :=
  acc.filter (fun p => ch.base ≤ p.1 % 2048 && p.1 % 2048 < ch.base + footprint ch.layout ch.height ch.pair)

/-- The chain record after a MAC: opened with the pending tag at a start, its chunk noted, the tile of its last chunk kept for the drains that name it (R56, R63, R135). -/
def macChain (ve : VEngine) (f : MacF) (acc : FMap Acc) : Chain :=
  let fresh : Chain :=
    { id := f.chain, array := f.arr, base := f.base, height := f.height, pair := f.pair
      layout := f.layout, mode := none, chunks := [], tag := none, omap := none, snaps := [] }
  let ch := (veChain ve f.chain).getD fresh
  { ch with
    mode := some (ch.mode.getD f.mode)
    chunks := ch.chunks ++ [f.chunk]
    tag := if f.start = 0 then ch.tag else mapGet? ve.tags f.chain
    omap := macOutMap f ch.omap
    snaps := match ch.chunks.getLast? with
      | some j => ch.snaps ++ [(j, tileEntries ch acc)]
      | none => ch.snaps }

/-- A virtual engine whose entries of a tile have been written afresh: errors of parity there are gone (R373). -/
def parityWritten (ve : VEngine) (arr base foot : Nat) : VEngine :=
  { ve with parity := ve.parity.filter (fun x => !(x.1 = arr && base ≤ x.2 % 2048 && x.2 % 2048 < base + foot)) }

/-- The effect of a MAC that passes its checks. -/
def macEffect (c : StepCtx) (ve : VEngine) (w : IWord) (f : MacF) (a : ArrayState) : EngRes :=
  let ch := macChain ve f a.acc
  let r := macAcc c ve ch.layout f a (fld w 112 105) (fld w 120 113) ch.tag
  let ve0 := if f.start = 0 then ve else parityWritten ve f.arr ch.base (footprint ch.layout ch.height ch.pair)
  let ve1 := veSetArray ve0 f.arr { a with acc := r.1 }
  let ve2 := veSetChain ve1 ch
  let ve3 := if f.start = 0 then ve2 else { ve2 with tags := mapDel ve2.tags f.chain }
  .done ve3 { noFlags with ovf := r.2 }

/-- MAC: one chunk of streamed rows into a named tile (R33 to R63, R134). -/
def doMac (c : StepCtx) (ve : VEngine) (w : IWord) : EngRes :=
  let a := veArray ve (fld w 34 32)
  match a.actSide.mode with
  | none => .fault 0x30 (fld w 46 35)
  | some mode =>
    let f := macFields c ve w mode
    match macFault f a w with
    | some (code, d) => .fault code d
    | none =>
      match macChainFault ve f with
      | some code => .fault code f.chain
      | none =>
        if mode = 5 && anyInA ve (fun u => fld u 7 0 = 0x23 && fld u 52 50 = f.arr) then .stall
        else macEffect c ve w f a

/-- PRELOAD: FP32 values written exactly into a tile, opening an instance of its chain (R61, R62, R135). -/
def doPreload (ve : VEngine) (w : IWord) : EngRes :=
  let arr := fld w 34 32
  let id := fld w 46 35
  let base := 32 * fld w 52 47
  let hgt := fld w 64 53
  let pair := bitOf w 65
  let wide := bitOf w 66
  let half := bitOf w 67
  let bcast := bitOf w 68
  let sa := 32 * fld w 86 69
  let layout := if wide then 2 else if half then 1 else 0
  let cols := layoutCols layout
  let foot := footprint layout hgt pair
  if wide && half then .fault 0x51 id
  else if hgt < 32 || (if wide then 1024 else 2048) < hgt || !tileFits base foot then .fault 0x21 id
  else if !inScratch sa ((if bcast then 1 else hgt) * cols * 4) then .fault 0x52 id
  else if (veChain ve id).isSome then .fault 0x24 id
  else if ve.chains.any (fun c => tilesMeet c arr base foot) then .fault 0x20 id
  else if 64 ≤ ve.chains.length then .fault 0x22 id
  else
    let a := veArray ve arr
    let acc := (List.range hgt).foldl (fun p m =>
      (List.range cols).foldl (fun (q : FMap Acc) n =>
        let src := sa + ((if bcast then 0 else m) * cols + n) * 4
        let k := accKey layout base pair m n
        let mk := scrMarked ve src 4
        let q1 := mapSet q k ⟨BitVec.ofNat 32 (scrLe ve src 4), (accGet q k).marked || mk⟩
        if pair then mapSet q1 (k + 1) ⟨0, (accGet q (k + 1)).marked || mk⟩ else q1) p) a.acc
    let ch : Chain :=
      { id := id, array := arr, base := base, height := hgt, pair := pair, layout := layout
        mode := none, chunks := [], tag := none, omap := none, snaps := [] }
    .done (veSetChain (veSetArray (parityWritten ve arr base foot) arr { a with acc := acc }) ch) noFlags

/-- TAG: the tile tag and seed of the chain's next start, which may be issued while the chain is still open (R135). -/
def doTag (ve : VEngine) (w : IWord) : EngRes :=
  .done { ve with
    tags := mapSet ve.tags (fld w 43 32) (BitVec.ofNat 16 (fld w 59 44), BitVec.ofNat 64 (fld w 127 64)) } noFlags

end Sys2Proof.Machine
end

