-- ==== Sys2Proof/Machine/VecFn.lean ====
section
/-! DEFINITION. Vector functions at VF: the exact real value rounded once to FP32 (R145), by fixed-point evaluation with 640 fraction bits and exact special cases. -/

namespace Sys2Proof.Machine

/-- Fraction bits of the fixed-point evaluation. -/
def vfP : Nat := 640

/-- One in fixed point. -/
def fxOne : Int := 2 ^ 640

/-- Fixed-point product. -/
def fxMul (a b : Int) : Int := (a * b) / fxOne

/-- Fixed-point quotient. -/
def fxDiv (a b : Int) : Int := (a * fxOne) / b

/-- A dyadic in fixed point, truncated below the last place. -/
def fxOf (m e : Int) : Int :=
  let k := e + vfP
  if 0 ≤ k then m * 2 ^ k.toNat else m / 2 ^ (-k).toNat

/-- The series of `atanh z = z + z^3/3 + ...`, `n` terms. -/
def fxAtanhSum (z2 : Int) : Nat → Int → Nat → Int
  | 0, _, _ => 0
  | n + 1, p, k => p / (k : Int) + fxAtanhSum z2 n (fxMul p z2) (k + 2)

/-- The series of `atan (1/q)`, `n` terms, with alternating sign. -/
def fxAtanSum (q2 : Int) : Nat → Int → Nat → Int
  | 0, _, _ => 0
  | n + 1, p, k => p / (k : Int) - fxAtanSum q2 n (p / q2) (k + 2)

/-- ln 2. -/
def fxLn2 : Int := 2 * fxAtanhSum (fxOne / 9) 210 (fxOne / 3) 1

/-- The circle constant, by Machin's formula. -/
def fxPi : Int := 16 * fxAtanSum 25 150 (fxOne / 5) 1 - 4 * fxAtanSum 57121 50 (fxOne / 239) 1

/-- √(2/π), an exact real of R145. -/
def fxGeluK : Int := (Nat.sqrt ((fxDiv (2 * fxOne) fxPi) * fxOne).toNat : Nat)

/-- The Taylor series of the exponential, `n` terms. -/
def fxExpSum (r : Int) : Nat → Int → Nat → Int
  | 0, _, _ => 0
  | n + 1, t, k => t + fxExpSum r n (fxMul t r / (k : Int)) (k + 1)

/-- `e^r` for `0 ≤ r < 1` by the series at `r / 2^16` and sixteen squarings. -/
def fxExpSmall (r : Int) : Int :=
  (List.range 16).foldl (fun x _ => fxMul x x) (fxExpSum (r / 2 ^ 16) 45 fxOne 1)

/-- `e^(-y)` for `y ≥ 0` in fixed point. -/
def fxExpNeg (y : Int) : Int :=
  let k := y / fxLn2
  let r := y - k * fxLn2
  -- e^(-y) = 2^(-k-1) * e^(ln2 - r)
  let t := fxExpSmall (fxLn2 - r)
  t / 2 ^ (k.toNat + 1)

/-- A fixed-point result rounded to FP32 to nearest even. -/
def fxRne (v : Int) : Rnd := if v = 0 then ⟨0, false⟩ else rneQ fp32 (v < 0) v.natAbs (2 ^ vfP)

/-- A function result: special exactly as the table says, or by evaluation, with step-overflow for a special result of a finite input. -/
def vfRes (x : XV) (bits : Nat) : FRes := ⟨bits, special32 bits && xvFinite x⟩

/-- The zero of a sign, as FP32 bits. -/
def zero32 (neg : Bool) : Nat := withSign fp32 neg 0

/-- `e^y` for a fixed-point `y` of either sign with `|y| < 2^8`, and a magnitude below the FP32 range beyond. -/
def fxExpBits (y : Int) : Nat :=
  if y ≤ 0 then
    if y < -(200 * fxOne) then 0 else (fxRne (fxExpNeg (-y))).bits
  else if 200 * fxOne < y then infBits fp32 false
  else
    let t := fxExpNeg y
    (rneQ fp32 false (2 ^ vfP) t.toNat).bits

/-- `2^x` for a dyadic: the integer part moves the exponent. -/
def fxExp2Bits (m e : Int) : Nat :=
  let x := fxOf m e
  if x < -(200 * fxOne) then 0
  else if 200 * fxOne < x then infBits fp32 false
  else
    let k := x / fxOne
    let f := x - k * fxOne
    let t := fxExpSmall (fxMul f fxLn2)
    let t := if f = 0 then fxOne else t
    if 0 ≤ k then (rneQ fp32 false (t.toNat * 2 ^ k.toNat) (2 ^ vfP)).bits
    else (rneQ fp32 false t.toNat (2 ^ vfP * 2 ^ (-k).toNat)).bits

/-- ln of a positive dyadic, in fixed point. -/
def fxLn (m : Nat) (e : Int) : Int :=
  let k := (Nat.log2 m : Int)
  let mm := fxOf m (-k)
  let z := fxDiv (mm - fxOne) (mm + fxOne)
  2 * fxAtanhSum (fxMul z z) 210 z 1 + (k + e) * fxLn2

/-- σ(y) and 1 - σ(y) for a fixed-point `y` with `|y| ≤ 200`. -/
def fxSigma (y : Int) : Int × Int :=
  let t := fxExpNeg (if y < 0 then -y else y)
  let hi := fxDiv fxOne (fxOne + t)
  let lo := fxDiv t (fxOne + t)
  if y < 0 then (lo, hi) else (hi, lo)

/-- `2u` of the GELU definition, `2 √(2/π) (x + 0.044715 x³)`, for `|x| ≤ 2^16`. -/
def fxGelu2u (x : Int) : Int :=
  let x3 := fxMul (fxMul x x) x
  2 * fxMul fxGeluK (x + x3 * 44715 / 1000000)

/-- `d(2u)/dx`. -/
def fxGelu2u' (x : Int) : Int :=
  2 * fxMul fxGeluK (fxOne + 3 * fxMul x x * 44715 / 1000000)

/-- A limit result for arguments too large to evaluate. -/
def bigArg (m e : Int) : Bool := 8 < xLog2 m e

/-- The function value of a finite non-zero argument (R145). -/
def vfNum (fn : Nat) (m e : Int) : Nat :=
  let x := fxOf m e
  let neg : Bool := m < 0
  let self := (rne fp32 (.num m e)).bits
  match fn with
  | 0x01 => if neg then 0 else self
  | 0x21 => if neg then 0 else 0x3F800000
  | 0x02 =>
    if bigArg m e then (if neg then zero32 true else self)
    else
      let w := fxGelu2u x
      if w < -(300 * fxOne) then zero32 true
      else if 300 * fxOne < w then self
      else
        let r := fxRne (fxMul x (fxSigma w).1)
        if r.bits = 0 && neg then zero32 true else r.bits
  | 0x22 =>
    if bigArg m e then (if neg then zero32 true else 0x3F800000)
    else
      let w := fxGelu2u x
      if w < -(300 * fxOne) then zero32 true
      else if 300 * fxOne < w then 0x3F800000
      else
        let (s, c) := fxSigma w
        (fxRne (s + fxMul (fxMul x (fxGelu2u' x)) (fxMul s c))).bits
  | 0x03 =>
    if bigArg m e then (if neg then zero32 true else self)
    else
      let r := fxRne (fxMul x (fxSigma x).1)
      if r.bits = 0 && neg then zero32 true else r.bits
  | 0x23 =>
    if bigArg m e then (if neg then zero32 true else 0x3F800000)
    else
      let (s, c) := fxSigma x
      let r := fxRne (s + fxMul x (fxMul s c))
      -- a negative value below the range rounds to -0 (R72)
      if r.bits = 0 && neg then zero32 true else r.bits
  | 0x04 =>
    if bigArg m e then (if neg then 0 else 0x3F800000) else (fxRne (fxSigma x).1).bits
  | 0x24 =>
    if bigArg m e then 0 else let (s, c) := fxSigma x; (fxRne (fxMul s c)).bits
  | 0x05 =>
    if bigArg m e then (if neg then 0xBF800000 else 0x3F800000)
    else let (s, c) := fxSigma (2 * x); (fxRne (s - c)).bits
  | 0x25 =>
    if bigArg m e then 0 else let (s, c) := fxSigma (2 * x); (fxRne (4 * fxMul s c)).bits
  | 0x08 => if bigArg m e then (if neg then 0 else infBits fp32 false) else fxExpBits x
  | 0x09 => if bigArg m e then (if neg then 0 else infBits fp32 false) else fxExp2Bits m e
  | 0x0A => if neg then fp32.nanBits else (fxRne (fxLn m.natAbs e)).bits
  | 0x0B =>
    if neg then fp32.nanBits
    else if m.natAbs = 2 ^ Nat.log2 m.natAbs then
      let k := xLog2 m e
      (rne fp32 (xvOf false k 0)).bits
    else (fxRne (fxDiv (fxLn m.natAbs e) fxLn2)).bits
  | 0x0C =>
    if neg then fp32.nanBits
    else
      let (p, q) := dyQ m.natAbs e
      let (a, b) := sqrtSticky q p
      (rneQ fp32 false a b).bits
  | _ => fp32.nanBits

/-- The function value at an infinity, by the table of R145. -/
def vfInf (fn : Nat) (neg : Bool) : Nat :=
  let one := 0x3F800000
  let pinf := infBits fp32 false
  match fn, neg with
  | 0x01, true => 0
  | 0x01, false => pinf
  | 0x02, true => zero32 true
  | 0x02, false => pinf
  | 0x03, true => zero32 true
  | 0x03, false => pinf
  | 0x04, true => 0
  | 0x04, false => one
  | 0x05, true => 0xBF800000
  | 0x05, false => one
  | 0x08, true => 0
  | 0x08, false => pinf
  | 0x09, true => 0
  | 0x09, false => pinf
  | 0x0A, false => pinf
  | 0x0B, false => pinf
  | 0x0C, false => 0
  | 0x21, true => 0
  | 0x21, false => one
  | 0x22, true => zero32 true
  | 0x22, false => one
  | 0x23, true => zero32 true
  | 0x23, false => one
  | 0x24, _ => 0
  | 0x25, _ => 0
  | _, _ => fp32.nanBits

/-- The function value at a zero, by the table of R145. -/
def vfZero (fn : Nat) (neg : Bool) : Nat :=
  let half := 0x3F000000
  match fn with
  | 0x01 => 0
  | 0x02 => zero32 neg
  | 0x03 => zero32 neg
  | 0x04 => half
  | 0x05 => zero32 neg
  | 0x08 => 0x3F800000
  | 0x09 => 0x3F800000
  | 0x0A => infBits fp32 true
  | 0x0B => infBits fp32 true
  | 0x0C => infBits fp32 neg
  | 0x21 => 0
  | 0x22 => half
  | 0x23 => half
  | 0x24 => 0x3E800000
  | 0x25 => 0x3F800000
  | _ => fp32.nanBits

/-- The function codes of VFN (R145). -/
def vfCodes : List Nat :=
  [0x01, 0x02, 0x03, 0x04, 0x05, 0x08, 0x09, 0x0A, 0x0B, 0x0C, 0x21, 0x22, 0x23, 0x24, 0x25]

/-- A function evaluation at VF, with the step-overflow condition of R145. -/
def vfEval (fn : Nat) (x : XV) : FRes :=
  match x with
  | .nan => ⟨fp32.nanBits, false⟩
  | .inf n => ⟨vfInf fn n, false⟩
  | .zero n => vfRes x (vfZero fn n)
  | .num m e => vfRes x (vfNum fn m e)

end Sys2Proof.Machine
end

