-- ==== Sys2Proof/Machine/EngVec.lean ====
section
/-! DEFINITION. Vector-queue operations on one virtual engine: VOP, VFN, VRED, VCVT, VUPD, VPOS and PSUM (R99, R110, R111, R131, R135 to R140, R145). -/

namespace Sys2Proof.Machine

/-- Whether a destination partly overlaps a source: their byte ranges meet and they are not equal in start and element size (R131). -/
def partOverlap (d dn ds a an as_ : Nat) : Bool :=
  d < a + an && a < d + dn && !(d = a && ds = as_)

/-- The poisoned elements' FP32 results written as a run, each unit of a marked element marked (R374). -/
def writeElems (ve : VEngine) (d size : Nat) (xs : List (Nat × Bool)) : VEngine :=
  let ve1 := scrWrite ve d (xs.flatMap (fun x => leBytes size x.1)) false
  let marks := xs.zipIdx.foldl (fun m e =>
    if e.1.2 then setIns m ((d + size * e.2) / 32) else m) ve1.marks
  { ve1 with marks := marks }

/-- The arithmetic of one VOP element (R66, R83, R136). -/
def vopElem (sub : Nat) (a b c : XV) : FRes :=
  match sub with
  | 0x00 => ⟨(rne fp32 a).bits, false⟩
  | 0x01 => vaAdd a b
  | 0x02 => vaAdd a (xNeg b)
  | 0x03 => vaMul a b
  | 0x04 => vaFma a b c
  | 0x05 => vaDiv a b
  | 0x06 => vaSqrt a
  | 0x07 => ⟨(rne fp32 (xMax a b)).bits, false⟩
  | 0x08 => ⟨(rne fp32 (xMin a b)).bits, false⟩
  | 0x09 => ⟨(rne fp32 (xNeg a)).bits, false⟩
  | _ => ⟨(rne fp32 (xAbs a)).bits, false⟩

/-- How many sources a VOP SUB code reads. -/
def vopArity (sub : Nat) : Nat :=
  if sub = 0 || sub = 6 || sub = 9 || sub = 0xA then 1 else if sub = 4 then 3 else 2

/-- VOP: element-wise arithmetic at VA (R131, R136). -/
def doVop (ve : VEngine) (w : IWord) : EngRes :=
  let sub := fld w 37 32
  let a := 32 * fld w 55 38
  let b := 32 * fld w 73 56
  let c := 32 * fld w 91 74
  let d := 32 * fld w 109 92
  let n := fld w 122 110 + 1
  match vecFmt (fld w 124 123) with
  | none => .fault 0x51 0
  | some fc =>
    if 0xA < sub then .fault 0x50 sub
    else
      let es := fmtBits fc / 8
      let bn := if bitOf w 125 then 1 else n
      let cn := if bitOf w 126 then 1 else n
      let ar := vopArity sub
      let srcs := [(a, n)] ++ (if 2 ≤ ar then [(b, bn)] else []) ++ (if 3 ≤ ar then [(c, cn)] else [])
      if !inScratch d (4 * n) || srcs.any (fun s => !inScratch s.1 (es * s.2)) then .fault 0x52 0
      else if srcs.any (fun s => partOverlap d (4 * n) 4 s.1 (es * s.2) (if s.2 = n then es else 0)) then .fault 0x52 0
      else
        let ib := fun i => if bitOf w 125 then 0 else i
        let ic := fun i => if bitOf w 126 then 0 else i
        let rs := (List.range n).map (fun i =>
          let r := vopElem sub (scrElem ve fc a i) (scrElem ve fc b (ib i)) (scrElem ve fc c (ic i))
          let mk := scrMarked ve (a + es * i) es ||
            (2 ≤ ar && scrMarked ve (b + es * ib i) es) || (3 ≤ ar && scrMarked ve (c + es * ic i) es)
          (r, mk))
        .done (writeElems ve d 4 (rs.map (fun r => (r.1.bits, r.2)))) { noFlags with ovf := rs.any (fun r => r.1.ovf) }

/-- VFN: a function evaluated at VF on each element (R145). -/
def doVfn (ve : VEngine) (w : IWord) : EngRes :=
  let fn := fld w 37 32
  let a := 32 * fld w 55 38
  let d := 32 * fld w 73 56
  let n := fld w 86 74 + 1
  match vecFmt (fld w 88 87) with
  | none => .fault 0x51 0
  | some fc =>
    if !vfCodes.contains fn then .fault 0x50 fn
    else
      let es := fmtBits fc / 8
      if !inScratch d (4 * n) || !inScratch a (es * n) then .fault 0x52 0
      else if partOverlap d (4 * n) 4 a (es * n) es then .fault 0x52 0
      else
        let rs := (List.range n).map (fun i => (vfEval fn (scrElem ve fc a i), scrMarked ve (a + es * i) es))
        .done (writeElems ve d 4 (rs.map (fun r => (r.1.bits, r.2)))) { noFlags with ovf := rs.any (fun r => r.1.ovf) }

/-- A lane total: absent, or FP32 bits; the overflow condition runs beside it. -/
abbrev Lane := Option Nat

/-- One level of the lane tree: the lower lanes form the left input, an absent lane passes its partner through (R99). -/
def laneLevel : List Lane → List Lane × Bool
  | x :: y :: rest =>
    let r := laneLevel rest
    match x, y with
    | some a, some b =>
      let s := vaAdd (x32 a) (x32 b)
      (some s.bits :: r.1, s.ovf || r.2)
    | some a, none => (some a :: r.1, r.2)
    | none, o => (o :: r.1, r.2)
  | xs => (xs, false)

/-- The binary tree over `2^k` lanes. -/
def laneTree : Nat → List Lane → List Lane × Bool
  | 0, xs => (xs, false)
  | k + 1, xs =>
    let a := laneLevel xs
    let b := laneTree k a.1
    (b.1, a.2 || b.2)

/-- The levels of the lane tree: 256 lanes at level 2, 128 lanes at level 1 (R99, R245). -/
def laneLog (level : Nat) : Nat := if level = 1 then 7 else 8

/-- A row reduction of terms in the fixed lane order (R99): each lane folds its terms from -0 by one operation, then the tree adds the lanes. -/
def rowReduce {τ : Type} (level : Nat) (step : Nat → τ → FRes) (terms : List τ) : FRes :=
  let k := laneLog level
  let lanes := (List.range (2 ^ k)).map (fun l =>
    let mine := (terms.zipIdx.filter (fun t => t.2 % 2 ^ k = l)).map (·.1)
    match mine with
    | [] => ((none : Lane), false)
    | ts =>
      let r := ts.foldl (fun (acc : FRes) t => let s := step acc.bits t; ⟨s.bits, acc.ovf || s.ovf⟩) ⟨0x80000000, false⟩
      (some r.bits, r.ovf))
  let t := laneTree k (lanes.map (·.1))
  ⟨(t.1.headD none).getD 0x80000000, t.2 || lanes.any (·.2)⟩

/-- Row sum of values. -/
def rowSum (level : Nat) (xs : List XV) : FRes := rowReduce level (fun acc x => vaAdd (x32 acc) x) xs

/-- Row sum of products, one fused multiply and add per element. -/
def rowDot (level : Nat) (xs : List (XV × XV)) : FRes :=
  rowReduce level (fun acc p => vaFma p.1 p.2 (x32 acc)) xs

/-- VRED: row reductions in the fixed lane order (R99, R136). -/
def doVred (c : StepCtx) (ve : VEngine) (w : IWord) : EngRes :=
  let op := fld w 33 32
  let a := 32 * fld w 51 34
  let b := 32 * fld w 69 52
  let d := 32 * fld w 87 70
  let rows := fld w 103 88 + 1
  let len := fld w 119 104 + 1
  match vecFmt (fld w 121 120) with
  | none => .fault 0x51 0
  | some fc =>
    let es := fmtBits fc / 8
    let pitch := up32 (es * len)
    let ext := (rows - 1) * pitch + es * len
    if !inScratch a ext || (op = 1 && !inScratch b ext) || !inScratch d (4 * rows) then .fault 0x52 0
    else
      let rs := (List.range rows).map (fun r =>
        let xs := (List.range len).map (fun i => scrElem ve fc (a + r * pitch) i)
        let ys := (List.range len).map (fun i => scrElem ve fc (b + r * pitch) i)
        let res : FRes := match op with
          | 0 => rowSum c.level xs
          | 1 => rowDot c.level (xs.zip ys)
          | 2 => ⟨(rne fp32 (xs.tail.foldl xMax (xs.headD .nan))).bits, false⟩
          | _ => ⟨(rne fp32 (xs.tail.foldl xMin (xs.headD .nan))).bits, false⟩
        (res, scrMarked ve (a + r * pitch) (es * len) || (op = 1 && scrMarked ve (b + r * pitch) (es * len))))
      .done (writeElems ve d 4 (rs.map (fun r => (r.1.bits, r.2)))) { noFlags with ovf := rs.any (fun r => r.1.ovf) }

/-- The flags of one conversion. -/
def cvtFlags (r : Cvt) : EngFlags :=
  ⟨r.ovf, if r.sat then 1 else 0, if r.overflowed then 1 else 0, if r.nanIn then 1 else 0, 0⟩

/-- The fault of an output spec named by VCVT: formats, scales, epilogues and copies it may not have (R137). -/
def vcvtSpecFault (spec : List Byte) : Option Nat :=
  let fc := leAt spec 0 1
  if !([1, 2, 3, 4, 5, 6, 7].contains (fc % 16)) || 15 < fc then some 0x30
  else if leAt spec 2 1 % 4 = 3 then some 0x30
  else if leAt spec 3 1 % 2 = 1 || leAt spec 4 1 ≠ 0 || leAt spec 7 1 ≠ 0 then some 0x33
  else none

/-- VCVT: FP32 elements converted at VS with site 3 (R80, R82, R137). -/
def doVcvt (c : StepCtx) (ve : VEngine) (w : IWord) (spec : List Byte) : EngRes :=
  let a := 32 * fld w 49 32
  let d := 32 * fld w 67 50
  let n := fld w 80 68 + 1
  match vcvtSpecFault spec with
  | some code => .fault code (fld w 88 81)
  | none =>
    let fc := leAt spec 0 1
    let dn := elemBytes fc n
    if !inScratch a (4 * n) || !inScratch d dn then .fault 0x52 0
    else if partOverlap d dn (if fc = 6 then 0 else fmtBits fc / 8) a (4 * n) 4 then .fault 0x52 0
    else
      let key := siteKey c (leAt spec 16 8)
      let tag := leAt spec 8 2
      let rs := (List.range n).map (fun i =>
        let g := mix64 key (ctrElem 3 tag (ve.elem + i))
        (convert fc (leAt spec 2 1 % 4) (scrElem ve 1 a i) (if fc = 1 then none else some g), scrMarked ve (a + 4 * i) 4))
      let bytes := packRow fc (rs.map (fun r => r.1.bits))
      let ve1 := scrWrite ve d bytes false
      let marks := rs.zipIdx.foldl (fun m e =>
        if e.1.2 then setIns m ((d + fmtBits fc * e.2 / 8) / 32) else m) ve1.marks
      .done { ve1 with marks := marks, elem := (ve.elem + n) % 2 ^ 44 }
        (rs.foldl (fun f r => joinFlags f (cvtFlags r.1)) noFlags)

/-- VPOS: the element position register (R137). -/
def doVpos (ve : VEngine) (w : IWord) : EngRes := .done { ve with elem := fld w 75 32 } noFlags

/-- One element of an optimiser update: m', v' and t, with the overflow condition (R110, R111, R138). -/
def vupdElem (adamw rem : Bool) (k : Nat → XV) (lse : Int) (dw m v wt rho : XV) : FRes × FRes × FRes :=
  let o (r : FRes) : XV := x32 r.bits
  let g := vaMul dw (.num 1 (-lse))
  let rho := if rem then rho else .zero false
  let neg (r : FRes) : FRes := ⟨(rne fp32 (xNeg (x32 r.bits))).bits, r.ovf⟩
  let fin (m' v' delta : FRes) (ov : Bool) : FRes × FRes × FRes :=
    let t := if rem then
        let t1 := vaAdd rho (o delta)
        let t := vaAdd wt (o t1)
        (⟨t.bits, t.ovf || t1.ovf⟩ : FRes)
      else vaAdd wt (o delta)
    (m', v', ⟨t.bits, t.ovf || delta.ovf || ov⟩)
  if adamw then
    let c1g := vaMul (k 3) (o g)
    let m' := vaFma (k 2) m (o c1g)
    let gg := vaMul (o g) (o g)
    let c2g := vaMul (k 5) (o gg)
    let v' := vaFma (k 4) v (o c2g)
    let vk := vaMul (o v') (k 7)
    let sq := vaSqrt (o vk)
    let den := vaAdd (o sq) (k 8)
    let mk := vaMul (o m') (k 6)
    let q := vaDiv (o mk) (o den)
    let d0 := neg (vaMul (k 0) (o q))
    let wr := vaAdd wt rho
    let d1 := vaFma (xNeg (k 9)) (o wr) (o d0)
    fin m' v' d1 (g.ovf || c1g.ovf || gg.ovf || c2g.ovf || vk.ovf || sq.ovf || den.ovf || mk.ovf || q.ovf || d0.ovf || wr.ovf)
  else
    let m' := vaFma (k 1) m (o g)
    let d0 := neg (vaMul (k 0) (o m'))
    fin m' ⟨0, false⟩ d0 g.ovf

/-- VUPD: the momentum or AdamW update per element (R111, R138). Under the momentum optimiser no v' is defined, and its output slot is left as it stands (DESIGN CHOICE, log entry 94). -/
def doVupd (c : StepCtx) (ve : VEngine) (w : IWord) : EngRes :=
  let adamw := bitOf w 32
  let i := 32 * fld w 50 33
  let o := 32 * fld w 68 51
  let kc := 32 * fld w 86 69
  let n := fld w 99 87 + 1
  let s := up32 (4 * n)
  let mf := if bitOf w 100 then 2 else 1
  let vf := if bitOf w 101 then 2 else 1
  let wf := if bitOf w 102 then 2 else 1
  let rem := bitOf w 103
  let es (f : Nat) : Nat := fmtBits f / 8
  let ins : List (Nat × Nat) := [(i, 1), (i + s, mf)] ++ (if adamw then [(i + 2 * s, vf)] else []) ++
    [(i + 3 * s, wf)] ++ (if rem then [(i + 4 * s, 2)] else [])
  let outs : List Nat := [o] ++ (if adamw then [o + s] else []) ++ [o + 2 * s]
  if ins.any (fun x => !inScratch x.1 (es x.2 * n)) || outs.any (fun d => !inScratch d (4 * n)) || !inScratch kc 40 then
    .fault 0x52 0
  else if outs.any (fun d => ins.any (fun x => partOverlap d (4 * n) 4 x.1 (es x.2 * n) (es x.2)) ||
      partOverlap d (4 * n) 4 kc 40 0) then .fault 0x52 0
  else
    let k := fun j => scrElem ve 1 kc j
    let km := scrMarked ve kc 40
    let rs := (List.range n).map (fun e =>
      let r := vupdElem adamw rem k c.lse (scrElem ve 1 i e) (scrElem ve mf (i + s) e)
        (scrElem ve vf (i + 2 * s) e) (scrElem ve wf (i + 3 * s) e) (scrElem ve 2 (i + 4 * s) e)
      (r, km || ins.any (fun x => scrMarked ve (x.1 + es x.2 * e) (es x.2))))
    let ve1 := writeElems ve o 4 (rs.map (fun r => (r.1.1.bits, r.2)))
    let ve2 := if adamw then writeElems ve1 (o + s) 4 (rs.map (fun r => (r.1.2.1.bits, r.2))) else ve1
    let ve3 := writeElems ve2 (o + 2 * s) 4 (rs.map (fun r => (r.1.2.2.bits, r.2)))
    .done ve3 { noFlags with ovf := rs.any (fun r => r.1.1.ovf || r.1.2.1.ovf || r.1.2.2.ovf) }

/-- The left fold of partial values at RP, with its overflow condition; a single NaN leaves as the canonical one (R68, R71). -/
def foldRP (xs : List Nat) : FRes :=
  match xs with
  | [] => ⟨0, false⟩
  | x :: rest => rest.foldl (fun acc y => let r := vaAdd (x32 acc.bits) (x32 y); ⟨r.bits, acc.ovf || r.ovf⟩) ⟨canon32 x, false⟩

/-- PSUM: the partial-path sum of `parts` partials, once every partial has arrived (R68, R140). -/
def doPsum (ve : VEngine) (w : IWord) (parts : Nat) (arrived : Bool) : EngRes :=
  let base := 32 * fld w 55 38
  let d := 32 * fld w 73 56
  let n := fld w 89 74 + 1
  let s := up32 (4 * n)
  if !arrived || parts = 0 then .fault 0x57 (fld w 37 32)
  else if !inScratch base ((parts - 1) * s + 4 * n) || !inScratch d (4 * n) then .fault 0x52 0
  else if (List.range parts).any (fun k => partOverlap d (4 * n) 4 (base + k * s) (4 * n) 4) then .fault 0x52 0
  else
    let rs := (List.range n).map (fun e =>
      (foldRP ((List.range parts).map (fun k => scrLe ve (base + k * s + 4 * e) 4)),
       (List.range parts).any (fun k => scrMarked ve (base + k * s + 4 * e) 4)))
    .done (writeElems ve d 4 (rs.map (fun r => (r.1.bits, r.2)))) { noFlags with ovf := rs.any (fun r => r.1.ovf) }

end Sys2Proof.Machine
end

