-- ==== Sys2Proof/Machine/EngWb.lean ====
section
/-! DEFINITION. Write-back operations on one virtual engine: output specs, block-scaled conversion with its copies, DRAIN, WCVT and WPOS (R63, R84 to R91, R102, R110, R141, R142). -/

namespace Sys2Proof.Machine

/-- Values per block of a block code (R35, R133). -/
def blkSize (code : Nat) : Nat := 16 * 2 ^ (code % 4)

/-- An output-spec entry (R141), read from its 64 bytes. -/
structure OSpec where
  fmt : Nat
  rnd : Nat
  opt : Nat
  scaled : Bool
  axis : Nat
  n : Nat
  head : Nat
  epi : Nat
  efn : Nat
  zfmt : Nat
  cross : Bool
  pre : Bool
  slab : Bool
  tag : Nat
  xtag : Nat
  pitch : Nat
  seed : Nat
  width : Nat
  scaleOff : Nat
  crossOff : Nat
  preOff : Nat
  slabOff : Nat
  mapSheaf : Nat
  mapRegion : Nat
  rsv : Bool
  deriving DecidableEq, Repr

/-- The fields of an output-spec entry. -/
def ospecOf (b : List Byte) : OSpec :=
  let sc := leAt b 3 1
  let cp := leAt b 7 1
  { fmt := leAt b 0 1 % 16, rnd := leAt b 1 1, opt := leAt b 2 1 % 4
    scaled := sc % 2 = 1, axis := sc / 2 % 4, n := blkSize (sc / 8), head := sc / 32 % 4
    epi := leAt b 4 1, efn := leAt b 5 1, zfmt := leAt b 6 1
    cross := cp % 2 = 1, pre := cp / 2 % 2 = 1, slab := cp / 4 % 2 = 1
    tag := leAt b 8 2, xtag := leAt b 10 2, pitch := leAt b 12 4, seed := leAt b 16 8, width := leAt b 24 8
    scaleOff := leAt b 32 4, crossOff := leAt b 36 4, preOff := leAt b 40 4, slabOff := leAt b 44 4
    mapSheaf := leAt b 48 4, mapRegion := leAt b 52 1
    rsv := 15 < leAt b 0 1 || 3 < leAt b 2 1 || sc / 128 = 1 || 7 < cp || !zerosAt b 53 63 }

/-- The fault of an output spec by itself, the second line of defence of R84, R88, R102 and R141. -/
def ospecFault (o : OSpec) : Option Nat :=
  if o.rsv then some 0x51
  else if !([1, 2, 3, 4, 5, 6, 7, 0xD].contains o.fmt) then some 0x30
  else if o.opt = 3 || 1 < o.rnd then some 0x30
  else if o.scaled && (o.fmt = 1 || o.fmt = 0xD || 1 < o.axis) then some 0x33
  else if 2 < o.epi || ((o.epi = 1 || o.epi = 2) && 5 < o.efn) then some 0x42
  else if o.epi = 2 && !(o.zfmt = 1 || o.zfmt = 2) then some 0x30
  else none

/-- One value on its way to the write-back unit: FP32 or the pair's hi, the pair's lo, and the poison mark. -/
structure OutVal where
  hi : Nat
  lo : Nat
  marked : Bool
  deriving DecidableEq, Repr

/-- The block a position belongs to on an axis: 0 along logical columns, 1 along rows (R141). -/
def blockIx (axis n r c : Nat) : Nat × Nat := if axis = 0 then (r, c / n) else (r / n, c)

/-- The positions of a block within an operation of `rows` by `cols` (R87). -/
def blockCells (axis n rows cols : Nat) (b : Nat × Nat) : List (Nat × Nat) :=
  if axis = 0 then ((List.range n).map (fun i => (b.1, b.2 * n + i))).filter (fun p => p.2 < cols)
  else ((List.range n).map (fun i => (b.1 * n + i, b.2))).filter (fun p => p.1 < rows)

/-- The scale code of a block (R87); a position beyond the tensor's width counts as +0, and a spec of width 0 is taken as a tensor with no column limit (DESIGN CHOICE, log entry 94). -/
def blockScale (o : OSpec) (axis head rows cols col0 : Nat) (val : Nat → Nat → OutVal) (b : Nat × Nat) : Nat :=
  blockCode o.fmt head ((blockCells axis o.n rows cols b).map (fun p =>
    if o.width ≠ 0 ∧ o.width ≤ col0 + p.2 then .zero false else x32 (val p.1 p.2).hi))

/-- One element of a copy: its code and conversion flags (R84, R87, R141). A NaN hi gives the canonical NaN with lo := +0 (R59, R71). -/
def outElem (o : OSpec) (key : Option Nat) (tag scale : Nat) (elem : Nat) (v : OutVal) : Nat × EngFlags :=
  if o.fmt = 0xD then (if x32 v.hi = .nan then fp32.nanBits else v.hi + 2 ^ 32 * canon32 v.lo, noFlags)
  else if scale = 0xFF then (0, { noFlags with nanIn := if x32 v.hi = .nan then 1 else 0 })
  else
    let sr := key.map (fun k => mix64 k (ctrElem 2 tag elem))
    let r := convert o.fmt o.opt (xScale (127 - (scale : Int)) (x32 v.hi)) sr
    (r.bits, cvtFlags r)

/-- One copy of the output: its rows, and its scales from the copy's base plus the scale offset, as scratch writes with marks, and the flags (R87, R96, R141). -/
def outPlane (c : StepCtx) (ve : VEngine) (o : OSpec) (axis tag base rows cols : Nat) (val : Nat → Nat → OutVal) :
    List (Nat × List Byte × Bool) × EngFlags :=
  let head := if c.level = 1 then 0 else o.head
  let key := if o.rnd = 1 && o.fmt ≠ 1 && o.fmt ≠ 0xD then some (siteKey c o.seed) else none
  let scaleOf := fun b => if o.scaled then blockScale o axis head rows cols ve.col0 val b else 127
  let bmark := fun b => o.scaled && (blockCells axis o.n rows cols b).any (fun p => (val p.1 p.2).marked)
  let rowsOut := (List.range rows).map (fun r =>
    let es := (List.range cols).map (fun cc =>
      let b := blockIx axis o.n r cc
      let v := val r cc
      let e := outElem o key tag (scaleOf b) ((ve.row0 + r) * o.width + (ve.col0 + cc)) v
      (e.1, e.2, v.marked || bmark b))
    (r, es))
  let a := fun r => base + r * o.pitch
  let data := rowsOut.map (fun re => (a re.1, packRow o.fmt (re.2.map (·.1)), false))
  let markW := rowsOut.flatMap (fun re => (re.2.zipIdx.filter (fun e => e.1.2.2)).map (fun e =>
    let off := fmtBits o.fmt * e.2 / 8
    (a re.1 + off, ((packRow o.fmt (re.2.map (·.1))).drop off).take ((fmtBits o.fmt + 7) / 8), true)))
  let nb := (cols + o.n - 1) / o.n
  let blocks : List (Nat × Nat) := if !o.scaled then [] else
    if axis = 0 then (List.range rows).flatMap (fun r => (List.range nb).map (fun b => (r, b)))
    else (List.range ((rows + o.n - 1) / o.n)).flatMap (fun r => (List.range cols).map (fun b => (r, b)))
  let perRow := if axis = 0 then nb else cols
  let scales := blocks.map (fun b =>
    (base + o.scaleOff + b.1 * perRow + b.2, [BitVec.ofNat 8 (scaleOf b)], bmark b))
  let fl := rowsOut.foldl (fun f re => re.2.foldl (fun g e => joinFlags g e.2.1) f) noFlags
  let nanB := (blocks.filter (fun b => scaleOf b = 0xFF)).length
  (data ++ markW ++ scales, { fl with nanBlk := nanB })

/-- A BF16 copy of values at WN in rows of 2C bytes rounded up to 32 (R141, R142). -/
def bf16Plane (base rows cols : Nat) (val : Nat → Nat → OutVal) : List (Nat × List Byte × Bool) × EngFlags :=
  let res := (List.range rows).map (fun r => (r, (List.range cols).map (fun cc =>
    let v := val r cc
    (convert 2 0 (x32 v.hi) none, v.marked))))
  (res.map (fun re => (base + re.1 * up32 (2 * cols), re.2.flatMap (fun e => leBytes 2 e.1.bits), false)) ++
   res.flatMap (fun re => (re.2.zipIdx.filter (fun e => e.1.2)).map (fun e =>
     (base + re.1 * up32 (2 * cols) + 2 * e.2, leBytes 2 e.1.1.bits, true))),
   res.foldl (fun f re => re.2.foldl (fun g e => joinFlags g (cvtFlags e.1)) f) noFlags)

/-- The outlier side slab: chunk o of 32 map entries as rows of 64 bytes from the slab's base, +0 at or beyond the map's count (R90, R91); the layout is the one MAC streams (R134). -/
def slabPlane (base rows : Nat) (chans : List Nat) (val : Nat → Nat → OutVal) (col0 cols : Nat) :
    List (Nat × List Byte × Bool) × EngFlags :=
  let nch := (chans.length + 31) / 32
  let cells := (List.range nch).flatMap (fun o => (List.range rows).flatMap (fun r =>
    (List.range 32).filterMap (fun i =>
      match chans[32 * o + i]? with
      | none => some (base + o * 64 * rows + r * 64 + 2 * i, (⟨0, false, false, false, false⟩ : Cvt), false)
      | some ch =>
        if col0 ≤ ch ∧ ch < col0 + cols then
          let v := val r (ch - col0)
          some (base + o * 64 * rows + r * 64 + 2 * i, convert 2 0 (x32 v.hi) none, v.marked)
        else none)))
  (cells.map (fun x => (x.1, leBytes 2 x.2.1.bits, x.2.2)),
   cells.foldl (fun f x => joinFlags f (cvtFlags x.2.1)) noFlags)

/-- The block-axis conditions that depend on the tile or the origin (R87, R88, R141, R142). -/
def axisFault (ve : VEngine) (o : OSpec) (tileWidth : Option Nat) : Bool :=
  let bad (ax : Nat) : Bool :=
    if ax = 0 then (match tileWidth with | some w => w < o.n | none => false) || ve.col0 % o.n ≠ 0
    else ve.row0 % o.n ≠ 0
  o.scaled && (bad o.axis || (o.cross && bad (1 - o.axis)))

/-- The value of a position of the main tensor: +0 at a listed channel (R87, R91). -/
def mainVal (chans : List Nat) (col0 : Nat) (val : Nat → Nat → OutVal) (r c : Nat) : OutVal :=
  if chans.contains (col0 + c) then ⟨0, 0, false⟩ else val r c

/-- Everything an output of `rows` by `cols` writes: main copy, cross copy, pre-activation copy, side slab (R141). -/
def outAll (c : StepCtx) (ve : VEngine) (o : OSpec) (d rows cols : Nat) (chans : List Nat)
    (g out : Nat → Nat → OutVal) : List (Nat × List Byte × Bool) × EngFlags :=
  let mv := mainVal chans ve.col0 out
  let p0 := outPlane c ve o o.axis o.tag d rows cols mv
  let p1 := if o.cross then outPlane c ve o (1 - o.axis) o.xtag (d + o.crossOff) rows cols mv else ([], noFlags)
  let p2 := if o.pre then bf16Plane (d + o.preOff) rows cols g else ([], noFlags)
  let p3 := if o.slab then slabPlane (d + o.slabOff) rows chans out ve.col0 cols else ([], noFlags)
  (p0.1 ++ p1.1 ++ p2.1 ++ p3.1, joinFlags (joinFlags p0.2 p1.2) (joinFlags p2.2 p3.2))

/-- Whether every write of a list lies inside scratch. -/
def writesFit (ws : List (Nat × List Byte × Bool)) : Bool := ws.all (fun w => inScratch w.1 w.2.1.length)

/-- The entries a drain that names chunk `jd` reads: as that chunk left its tile, whatever the chain has issued since (R63). -/
def drainAcc (a : ArrayState) (ch : Chain) (jd : Nat) : FMap Acc :=
  match ch.snaps.find? (fun p => p.1 = jd) with
  | some p => p.2
  | none => a.acc

/-- A pair entry of a tile: hi and lo (R53). -/
def pairAt (acc : FMap Acc) (ch : Chain) (r n : Nat) : Acc × Acc :=
  let k := accKey ch.layout ch.base ch.pair r n
  (accGet acc k, accGet acc (k + 1))

/-- The drained value of a tile position: FP32 exactly, a pair at PD unless both words are asked for (R63). -/
def drainVal (acc : FMap Acc) (ch : Chain) (both : Bool) (r n : Nat) : OutVal :=
  let e := pairAt acc ch r n
  if ch.pair then
    if both then ⟨e.1.bits.toNat, e.2.bits.toNat, e.1.marked || e.2.marked⟩
    else ⟨(pairPD e.1.bits.toNat e.2.bits.toNat).bits, 0, e.1.marked || e.2.marked⟩
  else ⟨e.1.bits.toNat, 0, e.1.marked⟩

/-- Whether reading a tile position at PD sets step-overflow (R83, R104). -/
def drainOvf (acc : FMap Acc) (ch : Chain) (r n : Nat) : Bool :=
  ch.pair && (let e := pairAt acc ch r n; (pairPD e.1.bits.toNat e.2.bits.toNat).ovf)

/-- The epilogue on one drained value: none, forward at VF, or derivative at VF then VA (R102, R145). Under output format 0xD the manual names no lo word for an epilogue's result: it is taken as +0 (DESIGN CHOICE, log entry 94). -/
def epilogue (ve : VEngine) (o : OSpec) (zaddr cols r n : Nat) (v : OutVal) : OutVal × Bool :=
  match o.epi with
  | 0 => (v, false)
  | 1 =>
    if o.efn = 0 then (v, false)
    else let f := vfEval o.efn (x32 v.hi); (⟨f.bits, 0, v.marked⟩, f.ovf)
  | _ =>
    if o.efn = 0 then (v, false)
    else
      let zs := fmtBits o.zfmt / 8
      let za := zaddr + r * up32 (zs * cols) + n * zs
      let z := elemVal o.zfmt (scrLe ve za zs)
      let dv := vfEval (0x20 + o.efn) z
      let p := vaMul (x32 v.hi) (x32 dv.bits)
      (⟨p.bits, 0, v.marked || scrMarked ve za zs⟩, dv.ovf || p.ovf)

/-- The rows a DRAIN names: its field, else the step's R, or Q for a table tile (R121). -/
def drainRows (c : StepCtx) (w : IWord) (ch : Chain) : Nat :=
  let r := fld w 127 116
  if r ≠ 0 then r else if ch.mode = some 5 then c.queries else c.rows

/-- The chain after a drain: closed by the release option, its own tag with it; a TAG already issued for the chain's next start stays (R63, R135). -/
def drainClose (ve : VEngine) (w : IWord) : VEngine :=
  if bitOf w 71 then { ve with chains := ve.chains.filter (fun d => d.id ≠ fld w 46 35) } else ve

/-- The effect of a DRAIN on its chain's tile (R141). -/
def drainEffect (c : StepCtx) (ve : VEngine) (w : IWord) (o : OSpec) (chans : List Nat) (ch : Chain) : EngRes :=
  let rows := drainRows c w ch
  let cols := layoutCols ch.layout
  let d := 32 * fld w 97 80
  let z := 32 * fld w 115 98
  let acc := drainAcc (veArray ve ch.array) ch (fld w 70 47)
  let zs := fmtBits o.zfmt / 8
  if axisFault ve o (some cols) then .fault 0x33 (fld w 79 72)
  else if o.epi = 2 && o.efn ≠ 0 && !inScratch z ((rows - 1) * up32 (zs * cols) + zs * cols) then .fault 0x52 0
  else
    let both := o.fmt = 0xD && (o.epi = 0 || o.efn = 0)
    let raw := fun r n => drainVal acc ch both r n
    let g := fun r n => drainVal acc ch false r n
    let eo := fun r n => epilogue ve o z cols r n (raw r n)
    let ws := outAll c ve o d rows cols chans g (fun r n => (eo r n).1)
    if !writesFit ws.1 then .fault 0x52 0
    else
      let pd := !both || o.pre
      let eovf := (List.range rows).any (fun r => (List.range cols).any (fun n => (eo r n).2 || (pd && drainOvf acc ch r n)))
      .done (drainClose (scrWrites ve ws.1) w) { ws.2 with ovf := ws.2.ovf || eovf }

/-- Whether a chain computed with an outlier map has not yet completed its last outlier chunk (R90). -/
def outlierOpen (ve : VEngine) (ch : Chain) (m : OutMap) : Bool :=
  let j := m.mainChunks + m.outChunks - 1
  !ch.chunks.contains j || anyInA ve (fun u => fld u 7 0 = 0x22 && fld u 46 35 = ch.id && fld u 70 47 = j)

/-- DRAIN: waits for its instance and chunk, then reads the tile and writes scratch (R63, R90, R141). -/
def doDrain (c : StepCtx) (ve : VEngine) (w : IWord) (spec : List Byte) (chans : List Nat) : EngRes :=
  let id := fld w 46 35
  let jd := fld w 70 47
  let o := ospecOf spec
  match ospecFault o with
  | some code => .fault code (fld w 79 72)
  | none =>
    match veChain ve id with
    | none => .stall
    | some ch =>
      if ch.array ≠ fld w 34 32 then .fault 0x20 id
      else if !ch.chunks.contains jd && ch.chunks.any (fun j => jd < j) then .fault 0x24 id
      else if !ch.chunks.contains jd then .stall
      else if anyInA ve (fun u => fld u 7 0 = 0x22 && fld u 46 35 = id && fld u 70 47 ≤ jd) then .stall
      else if ch.omap.any (fun m => jd < m.mainChunks) then .fault 0x24 id
      else if ch.omap.any (fun m => outlierOpen ve ch m) then .stall
      else if drainRows c w ch = 0 || ch.height < drainRows c w ch then .fault 0x21 id
      else drainEffect c ve w o chans ch

/-- The remainder of one converted element: t less the written value at VA, converted to BF16 at WN (R110, R142). -/
def remElem (o : OSpec) (key : Option Nat) (scale elem : Nat) (v : OutVal) : Nat × EngFlags :=
  let q := outElem o key o.tag scale elem v
  let w' := if scale = 0xFF then .nan else xScaleCode scale (elemVal o.fmt q.1)
  let df := vaAdd (x32 v.hi) (xNeg w')
  let r := convert 2 0 (x32 df.bits) none
  (r.bits, joinFlags (cvtFlags r) { noFlags with ovf := df.ovf })

/-- WCVT: FP32 rows converted at WN or WS, optionally with a remainder (R110, R142). -/
def doWcvt (c : StepCtx) (ve : VEngine) (w : IWord) (spec : List Byte) (chans : List Nat) : EngRes :=
  let a := 32 * fld w 49 32
  let d := 32 * fld w 67 50
  let rows := fld w 83 68 + 1
  let cols := fld w 99 84 + 1
  let rem := bitOf w 108
  let o0 := ospecOf spec
  -- remainder updates use WN only (R103, R110)
  let o := if rem then { o0 with rnd := 0 } else o0
  match ospecFault o0 with
  | some code => .fault code (fld w 107 100)
  | none =>
    if o.epi ≠ 0 then .fault 0x42 (fld w 107 100)
    else if rem && (o.fmt = 1 || o.fmt = 0xD) then .fault 0x41 (fld w 107 100)
    else if axisFault ve o none then .fault 0x33 (fld w 107 100)
    else if !inScratch a ((rows - 1) * up32 (4 * cols) + 4 * cols) then .fault 0x52 0
    else
      let src := fun r n =>
        let x := a + r * up32 (4 * cols) + 4 * n
        (⟨scrLe ve x 4, 0, scrMarked ve x 4⟩ : OutVal)
      let ws := outAll c ve o d rows cols chans src src
      let head := if c.level = 1 then 0 else o.head
      let key := if o.rnd = 1 && o.fmt ≠ 1 then some (siteKey c o.seed) else none
      let remCells := if !rem then [] else
        (List.range rows).flatMap (fun r => (List.range cols).map (fun n =>
          let mv := mainVal chans ve.col0 src
          let sc := if o.scaled then blockScale o o.axis head rows cols ve.col0 mv (blockIx o.axis o.n r n) else 127
          let e := remElem o key sc ((ve.row0 + r) * o.width + (ve.col0 + n)) (mv r n)
          (d + o.slabOff + r * up32 (2 * cols) + 2 * n, leBytes 2 e.1, (mv r n).marked, e.2)))
      let all := ws.1 ++ remCells.map (fun x => (x.1, x.2.1, x.2.2.1))
      if !writesFit all then .fault 0x52 0
      else .done (scrWrites ve all) (remCells.foldl (fun f x => joinFlags f x.2.2.2) ws.2)

/-- WPOS: the logical origin ROW0 and COL0 (R141). -/
def doWpos (ve : VEngine) (w : IWord) : EngRes := .done { ve with row0 := fld w 63 32, col0 := fld w 95 64 } noFlags

end Sys2Proof.Machine
end

