-- ==== Sys2Proof/Machine/ImageTab.lean ====
section
/-! DEFINITION. The tables of a program image and the load checks of its instructions (R114, R129 to R142). -/

namespace Sys2Proof.Machine

/-! ### Tables -/

/-- Byte offset of table `i`: 0 steps, 1 regions, 2 fetch specs, 3 output specs, 4 masks, 5 semaphores, 6 streams. -/
def imgTab (im : Memory) (i : Nat) : Nat := memLe im (32 + 8 * i) 8

/-- Counts of the header. -/
def imgSteps (im : Memory) : Nat := memLe im 16 2
def imgRegions (im : Memory) : Nat := memLe im 18 2
def imgFspecs (im : Memory) : Nat := memLe im 20 2
def imgOspecs (im : Memory) : Nat := memLe im 22 2
def imgMasks (im : Memory) : Nat := memLe im 24 1
def imgLevel (im : Memory) : Nat := memLe im 6 2
def imgTraining (im : Memory) : Bool := memLe im 25 1 % 2 = 1

/-- A fetch spec's and an output spec's bytes, a mask, a semaphore declaration. -/
def fspecAt (im : Memory) (i : Nat) : List Byte := memGetL 0 im (imgTab im 2 + 16 * i) 16
def ospecAt (im : Memory) (i : Nat) : List Byte := memGetL 0 im (imgTab im 3 + 64 * i) 64
def maskAt (im : Memory) (i : Nat) : Nat := memLe im (imgTab im 4 + 8 * i) 8
def semAt (im : Memory) (v i : Nat) : Nat := memLe im (imgTab im 5 + 32 * v + i) 1

/-- A region: binding index, permitted tiers, access, minimum sheaf count. -/
def regBinding (im : Memory) (r : Nat) : Nat := memLe im (imgTab im 1 + 16 * r) 4
def regTiers (im : Memory) (r : Nat) : Nat := memLe im (imgTab im 1 + 16 * r + 4) 1
def regAccess (im : Memory) (r : Nat) : Nat := memLe im (imgTab im 1 + 16 * r + 5) 1
def regMin (im : Memory) (r : Nat) : Nat := memLe im (imgTab im 1 + 16 * r + 8) 8

/-- Byte offset and instruction count of a stream. -/
def streamAt (im : Memory) (e v q : Nat) : Nat × Nat :=
  let a := imgTab im 0 + 3072 * e + 12 * (4 * v + q)
  (imgTab im 6 + 16 * memLe im a 8, memLe im (a + 8) 4)

/-- The words of a stream. -/
def streamWords (im : Memory) (e v q : Nat) : List IWord :=
  let p := streamAt im e v q
  (List.range p.2).map (fun i => BitVec.ofNat 128 (memLe im (p.1 + 16 * i) 16))

/-- Whether a word is the one at an index of a stream (R112, R114). -/
def streamHas (im : Memory) (e v q off : Nat) (w : IWord) : Bool :=
  let p := streamAt im e v q
  off < p.2 && memLe im (p.1 + 16 * off) 16 = w.toNat

/-- Participants of a mask, ascending. -/
def maskList (m : Nat) : List Nat := (List.range 64).filter (fun v => m / 2 ^ v % 2 = 1)

/-- Opcode of a word. -/
def wop (w : IWord) : Nat := fld w 7 0

/-- Whether a declaration is of a local semaphore waited on (or signalled) by a queue; whether it is of gate class (R114, R123). -/
def declWait (d q : Nat) : Bool := d / 16 % 2 = 0 && d % 4 = q
def declSignal (d q : Nat) : Bool := d / 16 % 2 = 0 && d / 4 % 4 = q
def declGate (d : Nat) : Bool := d / 16 % 2 = 1
def declPersistent (d : Nat) : Bool := d / 32 % 2 = 1

/-! ### Fetch specs -/

/-- A fetch spec (R114). -/
structure FSpec where
  transpose : Bool
  expand : Bool
  descale : Bool
  outlier : Bool
  fmt : Nat
  cbRegion : Nat
  grouped : Bool
  g : Nat
  cbSheaf : Nat
  mapSheaf : Nat
  deriving DecidableEq, Repr

/-- The fields of a fetch spec's bytes. -/
def fspecOf (b : List Byte) : FSpec :=
  let fl := leAt b 0 1
  ⟨fl % 2 = 1, fl / 2 % 2 = 1, fl / 4 % 2 = 1, fl / 8 % 2 = 1, leAt b 1 1, leAt b 2 1, leAt b 3 1 % 2 = 1, leAt b 3 1 / 2 % 16, leAt b 4 4, leAt b 8 4⟩

/-- Element width in bits of a source format: 8 for raw bytes, scale codes and CB256 codes, 4 for CB16. -/
def srcBits (f : Nat) : Nat := if f = 8 then 4 else if f = 0 || f = 9 || f = 0xA || f = 0xB then 8 else fmtBits f

/-- Bits of an element in scratch for the transposition (R132). -/
def outBits (fs : FSpec) : Nat :=
  if fs.descale then 16 else if fs.expand then (if fs.fmt = 0xB then 16 else 8) else srcBits fs.fmt

/-! ### Load checks of one instruction (reason 0x04) -/

/-- Whether a fetch spec's flags fit its format, which is not a reserved one (R77, R132). -/
def fspecOk (b : List Byte) : Bool :=
  let fl := leAt b 0 1
  let f := leAt b 1 1
  let ex := fl / 2 % 2 = 1
  fl < 16 && f < 0xE && leAt b 3 1 < 32 && zerosAt b 12 15 &&
  (!ex || (9 ≤ f && f ≤ 0xB)) && (fl / 4 % 2 = 0 || ex || [2, 3, 4, 5, 6, 7].contains f) &&
  (fl % 2 = 0 || f ≠ 8) && (ex || leAt b 3 1 = 0)

/-- The scratch address fields of an instruction (R131 to R144). -/
def addrFields (w : IWord) : List Nat :=
  match wop w with
  | 0x10 => [fld w 49 32]
  | 0x20 => [fld w 49 32, fld w 77 60]
  | 0x22 => if fld w 126 123 = 0 then [] else [fld w 122 105]
  | 0x23 => [fld w 49 32]
  | 0x24 => [fld w 86 69]
  | 0x30 => [fld w 55 38, fld w 73 56, fld w 91 74, fld w 109 92]
  | 0x31 => [fld w 55 38, fld w 73 56]
  | 0x32 => [fld w 51 34, fld w 69 52, fld w 87 70]
  | 0x33 => [fld w 49 32, fld w 67 50]
  | 0x34 => [fld w 50 33, fld w 68 51, fld w 86 69]
  | 0x35 => [fld w 49 32, fld w 67 50]
  | 0x37 => [fld w 55 38, fld w 73 56]
  | 0x40 => [fld w 97 80, fld w 115 98]
  | 0x41 => [fld w 49 32, fld w 67 50]
  | 0x42 => [fld w 49 32]
  | 0x43 => [fld w 49 32, fld w 67 50]
  | 0x44 => [fld w 61 44, fld w 79 62]
  | 0x45 => [fld w 51 34]
  | _ => []

/-- Whether the fields of an instruction are in range and its specs pass (R114, R130 to R142): the combinations that R131 and R133 name as faults of a run are not among those of reason 0x04. -/
def fieldsOk (im : Memory) (w : IWord) : Bool :=
  (addrFields w).all (· < 196608) &&
  let osp (i : Nat) : Bool := i < imgOspecs im && ospecFault (ospecOf (ospecAt im i)) = none
  match wop w with
  | 0x02 => (!bitOf w 53 || fld w 61 54 ≠ 0) && fld w 68 62 ≤ 96
  | 0x10 => fld w 57 50 < imgRegions im && fld w 67 58 < imgFspecs im && fspecOk (fspecAt im (fld w 67 58)) &&
      1 ≤ fld w 111 104 && fld w 111 104 ≤ 192
  | 0x20 => fld w 55 53 ≤ 5
  | 0x23 => 1 ≤ fld w 69 61 && fld w 69 61 ≤ 256
  | 0x22 => fld w 72 71 ≠ 3 && 32 ≤ fld w 90 79 && fld w 90 79 ≤ 2048
  | 0x24 => !(bitOf w 66 && bitOf w 67) && 32 ≤ fld w 64 53 && fld w 64 53 ≤ 2048
  | 0x30 => fld w 37 32 ≤ 0xA && fld w 124 123 ≠ 3
  | 0x31 => vfCodes.contains (fld w 37 32) && fld w 88 87 ≠ 3
  | 0x32 => fld w 121 120 ≠ 3
  | 0x33 => fld w 88 81 < imgOspecs im && vcvtSpecFault (ospecAt im (fld w 88 81)) = none
  | 0x35 => fld w 97 96 ≠ 3
  | 0x37 => fld w 37 32 < imgMasks im
  | 0x40 => osp (fld w 79 72)
  | 0x41 => osp (fld w 107 100) && (ospecOf (ospecAt im (fld w 107 100))).epi = 0 &&
      !(bitOf w 108 && [1, 0xD].contains (ospecOf (ospecAt im (fld w 107 100))).fmt)
  | 0x42 => fld w 57 50 < imgRegions im && 1 ≤ fld w 103 96 && fld w 103 96 ≤ 192
  | 0x43 => 1 ≤ fld w 105 88 && fld w 105 88 ≤ 196608
  | 0x44 => fld w 34 33 ≠ 3 && fld w 43 38 < imgMasks im &&
      (!bitOf w 32 || (fld w 34 33 = 0 && !bitOf w 35 && !bitOf w 37))
  | 0x45 => fld w 33 32 ≤ 1 && 1 ≤ fld w 69 52 && fld w 69 52 ≤ 196608
  | _ => true

/-! ### Scratch ranges of one instruction (R125) -/

/-- What the array stream says of an instance of a chain: the height and the column count of its tile. -/
structure ChainShape where
  height : Nat
  cols : Nat
  deriving DecidableEq, Repr

/-- An array stream followed: the layout and block code of each array's shadow and active load, the chains that a PRELOAD has prepared, the shapes of each chain's instances in order (R63), and the active block code for each word. -/
structure ArrayWalk where
  shadow : FMap (Nat × Nat)
  active : FMap (Nat × Nat)
  prepared : List Nat
  insts : FMap (List ChainShape)
  blks : List Nat
  deriving DecidableEq, Repr

/-- An instance of a chain opened in a walk. -/
def walkOpen (p : ArrayWalk) (id : Nat) (sh : ChainShape) : ArrayWalk :=
  { p with insts := mapSet p.insts id (mapGet p.insts id [] ++ [sh]) }

/-- One word of an array stream followed; a GATE clears the arrays (R120). -/
def walkWord (p : ArrayWalk) (w : IWord) : ArrayWalk :=
  let blk := (mapGet p.active (fld w 34 32) (0, 0)).2
  let p := { p with blks := p.blks ++ [blk] }
  match wop w with
  | 0x02 => { p with shadow := [], active := [], prepared := [] }
  | 0x20 => { p with shadow := mapSet p.shadow (fld w 52 50) (modeLayout (fld w 55 53), fld w 79 78) }
  | 0x21 => { p with active := mapSet p.active (fld w 34 32) (mapGet p.shadow (fld w 34 32) (0, 0)) }
  | 0x22 =>
    let id := fld w 46 35
    if fld w 72 71 = 0 then p
    else if p.prepared.contains id then { p with prepared := p.prepared.erase id }
    else walkOpen p id ⟨fld w 90 79, layoutCols (mapGet p.active (fld w 34 32) (0, 0)).1⟩
  | 0x24 =>
    let id := fld w 46 35
    walkOpen { p with prepared := id :: p.prepared } id
      ⟨fld w 64 53, layoutCols (if bitOf w 66 then 2 else if bitOf w 67 then 1 else 0)⟩
  | _ => p

/-- An array stream followed to its end. -/
def arrayWalk (ws : List IWord) : ArrayWalk := ws.foldl walkWord ⟨[], [], [], [], []⟩

/-- The shape of the instance that each word of a write-back stream drains, by the matching of R63. -/
def drainShapes (insts : FMap (List ChainShape)) (ws : List IWord) : List ChainShape :=
  (ws.foldl (fun (p : FMap Nat × List ChainShape) w =>
    let id := fld w 46 35
    let k := mapGet p.1 id 0
    let sh := ((mapGet insts id [])[k]?).getD ⟨32, 32⟩
    (if wop w = 0x40 && bitOf w 71 then mapSet p.1 id (k + 1) else p.1, p.2 ++ [sh])) ([], [])).2

/-- Bytes a sheaf takes in scratch under a fetch spec (R154). -/
def fetchBytes (b : List Byte) : Nat :=
  let fs := fspecOf b
  32768 * outBits fs / srcBits fs.fmt

/-- The ranges of `rows` rows of `len` bytes at a pitch: one range where they touch. -/
def rowRanges (a rows pitch len : Nat) (wr : Bool) : List (Nat × Nat × Bool) :=
  if pitch ≤ len || rows ≤ 1 then [(a, (rows - 1) * pitch + len, wr)]
  else (List.range rows).map (fun r => (a + r * pitch, len, wr))

/-- The written ranges of an output of `rows` by `cols` at `d`; a side slab has at most two chunks of rows of 64 bytes (R89, R90). -/
def outRanges (o : OSpec) (d rows cols : Nat) : List (Nat × Nat × Bool) :=
  let plane (base axis : Nat) : List (Nat × Nat × Bool) :=
    rowRanges base rows o.pitch (elemBytes o.fmt cols) true ++
    (if o.scaled then [(base + o.scaleOff, if axis = 0 then rows * ((cols + o.n - 1) / o.n) else (rows + o.n - 1) / o.n * cols, true)] else [])
  plane d o.axis ++ (if o.cross then plane (d + o.crossOff) (1 - o.axis) else []) ++
  (if o.pre then rowRanges (d + o.preOff) rows (up32 (2 * cols)) (2 * cols) true else []) ++
  (if o.slab then [(d + o.slabOff, 2 * 64 * rows, true)] else [])

/-- The scratch ranges an instruction reads (false) and writes (true): `sh` the shape of the instance a DRAIN reads, `blk` the block code of the load a MAC streams against. Rows left to the step's R are taken as the tile's height. -/
def scratchUses (im : Memory) (sh : ChainShape) (blk : Nat) (w : IWord) : List (Nat × Nat × Bool) :=
  let es (f : Nat) : Nat := match vecFmt f with
    | some c => fmtBits c / 8
    | none => 4
  match wop w with
  | 0x10 => [(32 * fld w 49 32, fld w 111 104 * fetchBytes (fspecAt im (fld w 67 58)), true)]
  | 0x20 =>
    let mode := fld w 55 53
    let xn := if mode = 3 then 32 else if mode = 5 then 0 else if bitOf w 80 then scaleBytes mode (fld w 79 78) else 0
    [(32 * fld w 49 32, if mode = 5 then 512 else 1024, false), (32 * fld w 77 60, xn, false)]
  | 0x22 =>
    let rows := if fld w 104 93 = 0 then fld w 90 79 else fld w 104 93
    if fld w 126 123 = 0 then [] else [(32 * fld w 122 105, rows * rowBytes (fld w 126 123) + (if bitOf w 127 then rows * (if blk = 0 then 2 else 1) else 0), false)]
  | 0x23 => [(32 * fld w 49 32, 2048 * fld w 69 61, false)]
  | 0x24 =>
    let cols := layoutCols (if bitOf w 66 then 2 else if bitOf w 67 then 1 else 0)
    [(32 * fld w 86 69, (if bitOf w 68 then 1 else fld w 64 53) * cols * 4, false)]
  | 0x30 =>
    let n := fld w 122 110 + 1
    let e := es (fld w 124 123)
    let ar := vopArity (fld w 37 32)
    [(32 * fld w 55 38, e * n, false), (32 * fld w 109 92, 4 * n, true)] ++
    (if 2 ≤ ar then [(32 * fld w 73 56, e * (if bitOf w 125 then 1 else n), false)] else []) ++
    (if 3 ≤ ar then [(32 * fld w 91 74, e * (if bitOf w 126 then 1 else n), false)] else [])
  | 0x31 => let n := fld w 86 74 + 1
    [(32 * fld w 55 38, es (fld w 88 87) * n, false), (32 * fld w 73 56, 4 * n, true)]
  | 0x32 =>
    let rows := fld w 103 88 + 1
    let e := es (fld w 121 120) * (fld w 119 104 + 1)
    rowRanges (32 * fld w 51 34) rows (up32 e) e false ++ [(32 * fld w 87 70, 4 * rows, true)] ++
    (if fld w 33 32 = 1 then rowRanges (32 * fld w 69 52) rows (up32 e) e false else [])
  | 0x33 => let n := fld w 80 68 + 1
    [(32 * fld w 49 32, 4 * n, false), (32 * fld w 67 50, elemBytes (leAt (ospecAt im (fld w 88 81)) 0 1) n, true)]
  | 0x34 =>
    let n := fld w 99 87 + 1
    let s := up32 (4 * n)
    let i := 32 * fld w 50 33
    let o := 32 * fld w 68 51
    let e (b : Nat) : Nat := if bitOf w b then 2 else 4
    [(i, 4 * n, false), (i + s, e 100 * n, false), (i + 3 * s, e 102 * n, false), (32 * fld w 86 69, 40, false),
     (o, 4 * n, true), (o + 2 * s, 4 * n, true)] ++
    (if bitOf w 32 then [(i + 2 * s, e 101 * n, false), (o + s, 4 * n, true)] else []) ++
    (if bitOf w 103 then [(i + 4 * s, 2 * n, false)] else [])
  | 0x35 => let n := fld w 83 68 + 1
    [(32 * fld w 49 32, es (fld w 97 96) * n, false), (32 * fld w 67 50, 8 * n, false)]
  | 0x37 =>
    let n := fld w 89 74 + 1
    let p := (maskList (maskAt im (fld w 37 32))).length
    rowRanges (32 * fld w 55 38) p (up32 (4 * n)) (4 * n) false ++ [(32 * fld w 73 56, 4 * n, true)]
  | 0x40 =>
    let rows := if fld w 127 116 = 0 then sh.height else fld w 127 116
    let o := ospecOf (ospecAt im (fld w 79 72))
    outRanges o (32 * fld w 97 80) rows sh.cols ++
    (if o.epi = 2 && o.efn ≠ 0 then rowRanges (32 * fld w 115 98) rows (up32 (fmtBits o.zfmt / 8 * sh.cols)) (fmtBits o.zfmt / 8 * sh.cols) false else [])
  | 0x41 =>
    let rows := fld w 83 68 + 1
    let cols := fld w 99 84 + 1
    let o := ospecOf (ospecAt im (fld w 107 100))
    rowRanges (32 * fld w 49 32) rows (up32 (4 * cols)) (4 * cols) false ++ outRanges o (32 * fld w 67 50) rows cols ++
    (if bitOf w 108 then rowRanges (32 * fld w 67 50 + o.slabOff) rows (up32 (2 * cols)) (2 * cols) true else [])
  | 0x42 => [(32 * fld w 49 32, fld w 103 96 * 32768, false)]
  | 0x43 => [(32 * fld w 49 32, 32 * fld w 105 88, false)]
  | 0x44 => [(32 * fld w 61 44, (fld w 95 80 + 1) * (if bitOf w 35 then 8 else 4), false)]
  | 0x45 => [(32 * fld w 51 34, 32 * fld w 69 52, false)]
  | _ => []

/-- The scratch ranges of every word of the four streams of a virtual engine. -/
def streamUses (im : Memory) (ws : List (List IWord)) : List (List (List (Nat × Nat × Bool))) :=
  let a := arrayWalk (ws.getD 1 [])
  ws.zipIdx.map (fun p =>
    if p.2 = 1 then (p.1.zip a.blks).map (fun x => scratchUses im ⟨32, 32⟩ x.2 x.1)
    else if p.2 = 3 then (p.1.zip (drainShapes a.insts p.1)).map (fun x => scratchUses im x.2 0 x.1)
    else p.1.map (scratchUses im ⟨32, 32⟩ 0))

end Sys2Proof.Machine
end

