-- ==== Sys2Proof/Machine/ImageCheck.lean ====
section
/-! DEFINITION. The image loader's checks: header, digest, level, instructions, stream shape, semaphores, scratch ordering, arrivals (R114, R125, R126, R473). -/

namespace Sys2Proof.Machine

/-- The header and table bounds (reason 0x01). -/
def hdrOk (im : Memory) (length : Nat) : Bool :=
  let fits (t n : Nat) : Bool := imgTab im t + n ≤ length
  256 ≤ length && memLe im 0 4 = 0x49505744 && memLe im 4 2 = 1 && memLe im 8 8 = length &&
  1 ≤ imgSteps im && imgSteps im ≤ 4096 && imgRegions im ≤ 256 && imgFspecs im ≤ 1024 && imgOspecs im ≤ 256 &&
  imgMasks im ≤ 64 && memLe im 25 1 < 4 && memLe im 26 6 = 0 && memLe im 152 104 = 0 &&
  fits 0 (3072 * imgSteps im) && fits 1 (16 * imgRegions im) && fits 2 (16 * imgFspecs im) && fits 3 (64 * imgOspecs im) &&
  fits 4 (8 * imgMasks im) && fits 5 2048 && fits 6 0 &&
  (List.range (imgSteps im)).all (fun e => (List.range 256).all (fun i =>
    let p := streamAt im e (i / 4) (i % 4)
    p.1 + 16 * p.2 ≤ length))

/-- Whether the digest field holds the digest of the image with the field zero (reason 0x02). -/
def digestOk (im : Memory) (length : Nat) : Bool :=
  let z := memGetL 0 im 0 88 ++ List.replicate 64 0 ++ memGetL 0 im 152 (length - 152)
  memGetL 0 im 88 64 = shake256 64 z

/-- Whether every table entry keeps its reserved fields and its ranges (reason 0x04). -/
def tablesOk (im : Memory) : Bool :=
  (List.range (imgRegions im)).all (fun r => regTiers im r < 32 && regAccess im r < 4 && memLe im (imgTab im 1 + 16 * r + 6) 2 = 0) &&
  (List.range (imgFspecs im)).all (fun i =>
    let fs := fspecOf (fspecAt im i)
    fspecOk (fspecAt im i) && (!fs.expand || fs.cbRegion < imgRegions im)) &&
  (List.range (imgOspecs im)).all (fun i =>
    let o := ospecOf (ospecAt im i)
    !o.rsv && o.pitch % 32 = 0 && (!o.slab || o.mapRegion < imgRegions im)) &&
  (List.range 2048).all (fun i => semAt im (i / 32) (i % 32) < 64)

/-- Whether a word is legal in a queue with its fields in range (reason 0x04). -/
def wordOk (im : Memory) (q : Nat) (w : IWord) : Bool := (opQueues (wop w)).contains q && rsvOk w && fieldsOk im w

/-- The words of a stream that are barriers. -/
def isBarrier (w : IWord) : Bool := wop w = 2 || wop w = 3

/-- The stream shape of a virtual engine: each stream ends in its only STEP, and the barriers agree in bits [127:32] (reason 0x05). -/
def shapeOk (ws : List (List IWord)) : Bool :=
  ws.all (fun l => (l.getLast?).any (fun w => wop w = 3) && (l.filter (fun w => wop w = 3)).length = 1) &&
  match ws.map (fun l => (l.filter isBarrier).map (fun w => (wop w, fld w 127 32))) with
  | [] => true
  | x :: r => r.all (· = x)

/-- Whether a word's waits and signals name semaphores declared for them (reason 0x06, R123, R473). -/
def scopeOk (im : Memory) (v q : Nat) (w : IWord) : Bool :=
  (!bitOf w 8 || declWait (semAt im v (fld w 13 9)) q) && (!bitOf w 14 || declSignal (semAt im v (fld w 19 15)) q) &&
  match wop w with
  | 0x01 => declGate (semAt im (fld w 37 32) (fld w 42 38))
  | 0x02 => !bitOf w 53 || declGate (semAt im v (fld w 52 48))
  | 0x43 => declGate (semAt im (fld w 73 68) (fld w 87 83))
  | 0x44 =>
    let rs := if bitOf w 32 then [fld w 101 96] else
      let ps := maskList (maskAt im (fld w 43 38))
      if bitOf w 36 then ps else ps.take 1
    rs.all (fun u => declGate (semAt im u (fld w 106 102)))
  | _ => true

/-- An instruction as the ordering check ran it: queue, place, slice, how many instructions of each queue come before it for certain, and its scratch ranges. -/
structure LNode where
  q : Nat
  i : Nat
  slice : Nat
  clock : List Nat
  uses : List (Nat × Nat × Bool)
  deriving DecidableEq, Repr

/-- The ordering check under way: words left, places, clocks, the clocks of each semaphore's signals in order, waits taken, slice, instructions run. -/
structure LSim where
  rest : List (List IWord)
  idx : List Nat
  clocks : List (List Nat)
  sigs : FMap (List (List Nat))
  waits : FMap Nat
  slice : Nat
  nodes : List LNode
  deriving DecidableEq, Repr

/-- Two clocks joined. -/
def clockJoin (a b : List Nat) : List Nat := (a.zip b).map (fun p => max p.1 p.2)

/-- The clock a word's header wait gives, where it can be met: none while its matched signal has not come (R473). -/
def waitClock (im : Memory) (v : Nat) (s : LSim) (w : IWord) : Option (List Nat) :=
  if !bitOf w 8 || declPersistent (semAt im v (fld w 13 9)) then some [0, 0, 0, 0]
  else (mapGet s.sigs (fld w 13 9) [])[mapGet s.waits (fld w 13 9) 0]?

/-- The check with one word of a queue run, its own clock given. -/
def simRun (uses : List (List (List (Nat × Nat × Bool)))) (s : LSim) (q : Nat) (w : IWord) (rest : List IWord) (ck : List Nat) : LSim :=
  let i := s.idx.getD q 0
  let own := ck.set q i
  let after := ck.set q (i + 1)
  { s with
    rest := s.rest.set q rest, idx := s.idx.set q (i + 1), clocks := s.clocks.set q after
    sigs := if bitOf w 14 then mapSet s.sigs (fld w 19 15) (mapGet s.sigs (fld w 19 15) [] ++ [after]) else s.sigs
    waits := if bitOf w 8 then mapSet s.waits (fld w 13 9) (mapGet s.waits (fld w 13 9) 0 + 1) else s.waits
    nodes := ⟨q, i, s.slice, own, (uses.getD q []).getD i []⟩ :: s.nodes }

/-- One queue's next word run where it may be. -/
def simQueue (im : Memory) (v : Nat) (uses : List (List (List (Nat × Nat × Bool)))) (s : LSim) (q : Nat) : Option LSim :=
  match s.rest.getD q [] with
  | [] => none
  | w :: rest =>
    if isBarrier w then none
    else (waitClock im v s w).map (fun k => simRun uses s q w rest (clockJoin k (s.clocks.getD q [])))

/-- All four barriers run together: every clock is joined and a slice ends. -/
def simBarrier (im : Memory) (v : Nat) (s : LSim) : Option LSim :=
  let heads := s.rest.filterMap (·.head?)
  if heads.length ≠ 4 || !heads.all isBarrier || heads.any (fun w => (waitClock im v s w).isNone) then none
  else
    let ck := s.clocks.foldl clockJoin [0, 0, 0, 0]
    let s1 := (List.range 4).foldl (fun s q => match s.rest.getD q [] with
      | [] => s
      | w :: rest => simRun [] s q w rest ck) s
    let all := s1.clocks.foldl clockJoin [0, 0, 0, 0]
    some { s1 with clocks := List.replicate 4 all, slice := s.slice + 1 }

/-- The check run to its end: true when every word has run (no cycle). -/
def simAll (im : Memory) (v : Nat) (uses : List (List (List (Nat × Nat × Bool)))) : Nat → LSim → LSim
  | 0, s => s
  | n + 1, s =>
    match (List.range 4).findSome? (simQueue im v uses s) with
    | some s' => simAll im v uses n s'
    | none => match simBarrier im v s with
      | some s' => simAll im v uses n s'
      | none => s

/-- The run of one virtual engine's streams. -/
def simOf (im : Memory) (v : Nat) (ws : List (List IWord)) : LSim :=
  simAll im v (streamUses im ws) ((ws.map List.length).sum + 1) ⟨ws, [0, 0, 0, 0], List.replicate 4 [0, 0, 0, 0], [], [], 0, []⟩

/-- Whether two ranges meet with a write among them. -/
def usesClash (a b : List (Nat × Nat × Bool)) : Bool :=
  a.any (fun x => b.any (fun y => (x.2.2 || y.2.2) && x.2.1 ≠ 0 && y.2.1 ≠ 0 && x.1 < y.1 + y.2.1 && y.1 < x.1 + x.2.1))

/-- Whether two instructions are ordered. -/
def nodesOrdered (a b : LNode) : Bool := a.i < b.clock.getD a.q 0 || b.i < a.clock.getD b.q 0

/-- Whether the accesses of every slice are ordered (reason 0x07, R125). -/
def orderedOk (ns : List LNode) : Bool :=
  ns.all (fun a => ns.all (fun b => a.q = b.q || a.slice ≠ b.slice || !usesClash a.uses b.uses || nodesOrdered a b))

/-- An arrival at a gate semaphore that the image alone shows (R123, R126, R143): the sender's slice and virtual engine, the receiver and its semaphore, the first byte and bytes written (none for a SIGNAL), and whether this step of this module alone decides that it comes. -/
structure Arrival where
  slice : Nat
  ve : Nat
  dest : Nat
  sem : Nat
  addr : Nat
  len : Nat
  sure : Bool
  deriving DecidableEq, Repr

/-- The words of a stream with the slice each lies in. -/
def wordSlices (ws : List IWord) : List (Nat × IWord) :=
  (ws.foldl (fun (p : Nat × List (Nat × IWord)) w => (if isBarrier w then p.1 + 1 else p.1, p.2 ++ [(p.1, w)])) (0, [])).2

/-- The arrivals a word of slice `sl` of virtual engine `v` makes. A tree reduction delivers once, and is told of by its lowest participant. A range of the sender's own scratch is not judged. -/
def arrivalsOf (im : Memory) (v sl : Nat) (w : IWord) : List Arrival :=
  match wop w with
  | 0x01 => [⟨sl, v, fld w 37 32, fld w 42 38, 0, 0, true⟩]
  | 0x43 =>
    let u := fld w 73 68
    [⟨sl, v, u, fld w 87 83, 32 * fld w 67 50, if u = v && !bitOf w 82 then 0 else 32 * fld w 105 88, !bitOf w 82⟩]
  | 0x44 =>
    let ps := maskList (maskAt im (fld w 43 38))
    let n := (fld w 95 80 + 1) * (if bitOf w 35 then 8 else 4)
    if bitOf w 32 then
      let u := fld w 101 96
      [⟨sl, v, u, fld w 106 102, 32 * fld w 79 62 + (ps.filter (· < v)).length * up32 n, if u = v then 0 else n, true⟩]
    else if ps.head? ≠ some v then []
    else (if bitOf w 36 then ps else ps.take 1).map (fun u =>
      ⟨sl, v, u, fld w 106 102, 32 * fld w 79 62, if ps = [u] && !bitOf w 37 then 0 else n, !bitOf w 37⟩)
  | _ => []

/-- Every arrival of a step entry, those of earlier slices first, then of lower virtual engines, then in stream order. -/
def allArrivals (im : Memory) (all : List (List (List IWord))) : List Arrival :=
  (all.zipIdx.flatMap (fun p => p.1.flatMap (fun l => (wordSlices l).flatMap (fun x => arrivalsOf im p.2 x.1 x.2)))).mergeSort
    (fun a b => decide (a.slice < b.slice) || (decide (a.slice = b.slice) && decide (a.ve ≤ b.ve)))

/-- The GATEs of a virtual engine that count on a semaphore: the slice each ends, its ARRIVE, its LIVE in bytes. -/
def gatesOn (ws : List IWord) (sem : Nat) : List (Nat × Nat × Nat) :=
  ((ws.filter isBarrier).zipIdx.filter (fun g => wop g.1 = 2 && bitOf g.1 53 && fld g.1 52 48 = sem)).map
    (fun g => (g.2, fld g.1 61 54, 65536 * fld g.1 68 62))

/-- Whether an arrival range is kept by a GATE and untouched in the slice that ends there (R126). -/
def gateKeeps (ns : List LNode) (a : Arrival) (g : Nat × Nat × Nat) : Bool :=
  a.len = 0 || (a.addr + a.len ≤ g.2.2 && ns.all (fun n => n.slice ≠ g.1 || !usesClash n.uses [(a.addr, a.len, true)]))

/-- Arrivals given to GATEs in turn, each taking its ARRIVE. -/
def gatesTake (ns : List LNode) : List (Nat × Nat × Nat) → List Arrival → Bool
  | _, [] => true
  | [], l => l.all (fun a => a.len = 0)
  | g :: gs, l => (l.take g.2.1).all (fun a => gateKeeps ns a g) && gatesTake ns gs (l.drop g.2.1)

/-- Whether the arrivals at a gate semaphore are placed (reason 0x08, R126). Where this step of this module alone decides which come, the GATE that consumes a count is the one whose turn it is, counts taken in the order of `allArrivals` (DEDUCED, log entry 98); where other steps or modules have a part in it, some GATE on the semaphore must keep the range. -/
def placedOk (im : Memory) (ws : List IWord) (ns : List LNode) (u sem : Nat) (l : List Arrival) : Bool :=
  let gs := gatesOn ws sem
  if declPersistent (semAt im u sem) || l.any (fun a => !a.sure) then l.all (fun a => a.len = 0 || gs.any (gateKeeps ns a))
  else gatesTake ns gs l

/-- Whether a write-back spec's tensor has at most 2^44 elements, so far as an instruction at an origin shows it (R82). -/
def tensorOk (im : Memory) (ix row0 rows : Nat) : Bool := (row0 + rows) * (ospecOf (ospecAt im ix)).width ≤ 2 ^ 44

/-- Whether no word of a write-back stream writes a tensor of more than 2^44 elements (reason 0x04, R82). -/
def tensorsOk (im : Memory) (ws : List IWord) : Bool :=
  (ws.foldl (fun (p : Nat × Bool) w =>
    match wop w with
    | 0x46 => (fld w 63 32, p.2)
    | 0x40 => (p.1, p.2 && tensorOk im (fld w 79 72) p.1 (max 1 (fld w 127 116)))
    | 0x41 => (p.1, p.2 && tensorOk im (fld w 107 100) p.1 (fld w 83 68 + 1))
    | _ => p) (0, true)).2

/-- The checks of one step entry, reasons 0x04 to 0x08 in order. -/
def entryReason (im : Memory) (e : Nat) : Option Nat :=
  let all := (List.range 64).map (fun v => (List.range 4).map (streamWords im e v))
  let sims := all.zipIdx.map (fun p => simOf im p.2 p.1)
  if !all.all (fun ws => ws.zipIdx.all (fun p => p.1.all (wordOk im p.2))) || !all.all (fun ws => tensorsOk im (ws.getD 3 [])) then some 4
  else if !all.all shapeOk then some 5
  else if !all.zipIdx.all (fun p => p.1.zipIdx.all (fun x => x.1.all (scopeOk im p.2 x.2))) then some 6
  else if !sims.all (fun s => s.rest.all (·.isEmpty)) then some 6
  else if !sims.all (fun s => orderedOk s.nodes) then some 7
  else
    let arr := allArrivals im all
    if !(List.range 64).all (fun u => (List.range 32).all (fun m =>
      let mine := arr.filter (fun a => a.dest = u && a.sem = m)
      mine.isEmpty || placedOk im ((all.getD u []).headD []) (sims.getD u ⟨[], [], [], [], [], 0, []⟩).nodes u m mine)) then some 8
    else none

/-- The behaviour levels the module implements (R245, OD 0x1040): 1 and 2. -/
def levelKnown (l : Nat) : Bool := l = 1 || l = 2

/-- The reason an image is refused for, none where it loads (R114). -/
def imageReason (im : Memory) (length : Nat) : Option Nat :=
  if !hdrOk im length then some 1
  else if !digestOk im length then some 2
  else if !levelKnown (imgLevel im) then some 3
  else if !tablesOk im then some 4
  else ((List.range (imgSteps im)).filterMap (entryReason im)).min?

end Sys2Proof.Machine
end

