-- ==== Sys2Proof/Machine/Ramp.lean ====
section
/-! DEFINITION. The activity ramp of the arrays: cold, ramping up, warm, ballast, and the stagger of a cluster (R44 to R47). -/

namespace Sys2Proof.Machine

/-- The ramp state of array `a` of engine `e`. -/
def rampOf (s : State) (e a : Nat) : Ramp := mapGet s.ramps (8 * e + a) .cold

/-- The state with an array's ramp state set. -/
def putRamp (s : State) (e a : Nat) (r : Ramp) : State := { s with ramps := mapSet s.ramps (8 * e + a) r }

/-- An array that admits a streamed row: a cold one asks for its ramp-up, one in ballast resumes at phase max(0, 6 - p) (R44, R45). -/
def rampAdmitted (up : Nat) : Ramp → Ramp
  | .cold => if up = 0 then .warm else .wantsUp
  | .ballast p => if up = 0 then .warm else .up (6 - p)
  | .wantsUp => .wantsUp
  | .up p => .up p
  | .warm => .warm

/-- Streamed rows reach an array of an engine that is not fused off (R46). -/
def rampRows (s : State) (e a : Nat) : State :=
  if bitOf s.fuse.fused e then s else putRamp s e a (rampAdmitted (odGet s 0x2210 1) (rampOf s e a))

/-- A warm array has run out of streamed rows: it begins ballast (R45). -/
def rampDry (s : State) (e a : Nat) : State :=
  if rampOf s e a = .warm && odGet s 0x2210 2 ≠ 0 then putRamp s e a (.ballast 0) else s

/-- ARRAY_IDLE_TIMEOUT: no streamed row for the idle threshold; the array is cold (R44). The manual does not say which wins when the threshold passes while the array runs ballast or ramps up: it is taken as cold at once (DESIGN CHOICE, log entry 94). -/
def execArrayIdleTimeout (e : Fin 64) (a : Fin 8) (s : State) : Out :=
  .next (if powered s && rampOf s e.val a.val ≠ .wantsUp then putRamp s e.val a.val .cold else s)

/-- Issue cycles withheld up to the end of ramp-up phase `p` of a ramp of `l` cycles (R44). -/
def withheld (l p : Nat) : Nat := l * ((p + 1) * 7 - (p + 1) * p / 2) / 64

/-- RAMP_PHASE_END: the next phase, or full rate after the last; the withheld cycles are counted (R44). -/
def execRampPhaseEnd (e : Fin 64) (a : Fin 8) (s : State) : Out :=
  .next (match rampOf s e.val a.val with
    | .up p =>
      let l := odGet s 0x2210 1
      let n := withheld l p - (if p = 0 then 0 else withheld l (p - 1))
      if powered s then bump (putRamp s e.val a.val (if 7 ≤ p then .warm else .up (p + 1))) 0xA210 1 n else s
    | _ => s)

/-- BALLAST_PHASE_END: the next phase, or cold after the last (R45). -/
def execBallastPhaseEnd (e : Fin 64) (a : Fin 8) (s : State) : Out :=
  .next (match rampOf s e.val a.val with
    | .ballast p => if powered s then putRamp s e.val a.val (if 7 ≤ p then .cold else .ballast (p + 1)) else s
    | _ => s)

/-- RAMP_UP_START: the first array of a cluster, from the round-robin pointer on, that asks for a ramp-up begins it, and the pointer moves past it (R46). -/
def execRampUpStart (n : Fin 8) (s : State) : Out :=
  .next (
    let ptr := mapGet s.rampPtr n.val 0
    let order := (List.range 64).map (fun i => (ptr + i) % 64)
    match order.find? (fun i => rampOf s (8 * n.val + i / 8) (i % 8) = .wantsUp) with
    | some i =>
      if powered s then
        let s1 := putRamp s (8 * n.val + i / 8) (i % 8) (.up 0)
        { s1 with rampPtr := mapSet s1.rampPtr n.val ((i + 1) % 64) }
      else s
    | none => s)

end Sys2Proof.Machine
end

