-- ==== Sys2Proof/Machine/HbmCode.lean ====
section
/-! DEFINITION. The two HBM codes over GF(2^8): syndromes of an error pattern and the decoders of R366 and R367. -/

namespace Sys2Proof.Machine

/-- Multiplication by alpha in GF(2^8) with polynomial 0x11D (R365). -/
def gfDouble (x : Nat) : Nat := if x < 128 then 2 * x else (2 * x) ^^^ 0x11D

/-- The powers of alpha from a start. -/
def gfPowers : Nat → Nat → List Nat
  | 0, _ => []
  | n + 1, x => x :: gfPowers n (gfDouble x)

/-- alpha to the power d, for d below 255. -/
def gfTable : List Nat := gfPowers 255 1

/-- alpha to the power d. -/
def gfExp (d : Nat) : Nat := gfTable.getD (d % 255) 0

/-- The discrete logarithm of a non-zero element. -/
def gfLog (x : Nat) : Nat := gfTable.findIdx (· = x)

/-- Multiplication in the field. -/
def gfMul (a b : Nat) : Nat := if a = 0 || b = 0 then 0 else gfExp (gfLog a + gfLog b)

/-- The syndrome of `k` roots of errors given as (degree, value) pairs. -/
def syndrome (k : Nat) (es : List (Nat × Nat)) : List Nat :=
  (List.range k).map (fun j => es.foldl (fun a e => a ^^^ gfMul e.2 (gfExp (j * e.1))) 0)

/-- The degree and value of the one-symbol error with a syndrome, if there is one below degree 40. -/
def oneSymbol (s : List Nat) : Option (Nat × Nat) :=
  let a := s.getD 0 0
  let b := s.getD 1 0
  if a = 0 || b = 0 then none
  else
    let d := (gfLog b + 255 - gfLog a) % 255
    if d < 40 && syndrome s.length [(d, a)] = s then some (d, a) else none

/-- The outcome of decoding a word: the poison mark, the correction (symbol position, value) if one was made, an uncorrectable word, an address error. -/
structure Decoded where
  poisoned : Bool
  fix : Option (Nat × Nat)
  bad : Bool
  address : Bool
  deriving DecidableEq, Repr

/-- The error pattern of a word as (symbol position, value) pairs: positions 0 to 31 data pins, 32 to 35 side pins (R365). -/
def patternSymbols (e : BitVec 288) : List (Nat × Nat) :=
  (List.range 36).filterMap (fun i => let v := byteOf e i; if v = 0 then none else some (i, v))

/-- The degree of a symbol position in code S (R366). -/
def degS (i : Nat) : Nat := if i < 32 then 4 + i else i - 32

/-- The symbol position of a degree of code S below 36. -/
def posS (d : Nat) : Nat := if d < 4 then 32 + d else d - 4

/-- The poison pattern of code S. -/
def poisonS : List (Nat × Nat) := [(0, 0x5C), (1, 0xA3), (2, 0x3A), (3, 0xC5)]

/-- Exclusive or of two syndromes. -/
def synXor (a b : List Nat) : List Nat := (a.zip b).map (fun p => p.1 ^^^ p.2)

/-- The decoder of code S for a stored word, poisoned or not, with an error pattern (R366). -/
def decodeS (stored : Bool) (e : BitVec 288) : Decoded :=
  let es := (patternSymbols e).map (fun p => (degS p.1, p.2))
  let sp := syndrome 4 poisonS
  let s := if stored then synXor (syndrome 4 es) sp else syndrome 4 es
  if s.all (· = 0) then ⟨false, none, false, false⟩
  else if s = sp then ⟨true, none, false, false⟩
  else
    match oneSymbol s with
    | some (d, v) => if 36 ≤ d then ⟨true, none, true, true⟩ else ⟨false, some (posS d, v), false, false⟩
    | none =>
      match oneSymbol (synXor s sp) with
      | some (d, v) => if d < 36 then ⟨true, some (posS d, v), false, false⟩ else ⟨true, none, true, false⟩
      | none => ⟨true, none, true, false⟩

/-- The degree of a symbol position in code L: checks on SB1 to SB3, M on SB0 (R367). -/
def degL (i : Nat) : Nat := if i < 32 then 3 + i else if i = 32 then 35 else i - 33

/-- The symbol position of a degree of code L below 36. -/
def posL (d : Nat) : Nat := if d < 3 then 33 + d else if d = 35 then 32 else d - 3

/-- The decoder of code L (R367). -/
def decodeL (stored : Bool) (e : BitVec 288) : Decoded :=
  let ps := patternSymbols e
  let s := syndrome 3 (ps.map (fun p => (degL p.1, p.2)))
  let m0 := (if stored then 1 else 0) ^^^ ((ps.lookup 32).getD 0)
  let finish (m : Nat) (fix : Option (Nat × Nat)) : Decoded :=
    if 1 < m then ⟨true, none, true, true⟩ else ⟨m % 2 = 1, fix, false, false⟩
  if s.all (· = 0) then finish m0 none
  else
    match oneSymbol s with
    | some (d, v) =>
      if 36 ≤ d then ⟨true, none, true, true⟩
      else if posL d = 32 then finish (m0 ^^^ v) (some (32, v))
      else finish m0 (some (posL d, v))
    | none => ⟨true, none, true, false⟩

/-- The word's decoder by its frame's code. -/
def decodeWord (strong stored : Bool) (e : BitVec 288) : Decoded := if strong then decodeS stored e else decodeL stored e

/-- The data bytes of a word as the decoder delivers them: received data with the correction applied. -/
def decodedData (e : BitVec 288) (fix : Option (Nat × Nat)) (data : List Byte) : List Byte :=
  data.zipIdx.map (fun p =>
    let x := byteOf e p.2 ^^^ (match fix with | some (i, v) => if i = p.2 then v else 0 | none => 0)
    p.1 ^^^ BitVec.ofNat 8 x)

end Sys2Proof.Machine
end

