-- ==== Sys2Proof/Machine/Tiers.lean ====
section
/-! DEFINITION. The memory tiers: sheaf tags, frames and placement, quotas and use, reading a sheaf from T1 through its code, resident copies, promotion, eviction and release (R147 to R175, R365 to R372). -/

namespace Sys2Proof.Machine

/-! ### Tags -/

/-- Fields of a sheaf tag (R150). -/
def tagKind (t : BitVec 256) : Nat := fld t 3 0
def tagFmt (t : BitVec 256) : Nat := fld t 11 8
def tagMode (t : BitVec 256) : Nat := fld t 18 16
def tagScaled (t : BitVec 256) : Bool := bitOf t 24
def tagAxis (t : BitVec 256) : Nat := fld t 26 25
def tagBlk (t : BitVec 256) : Nat := fld t 28 27
def tagRecords (t : BitVec 256) : Nat := bytesAt t 4 2
def tagStride (t : BitVec 256) : Nat := bytesAt t 6 2
def tagSide (t : BitVec 256) : Nat := bytesAt t 8 2 * 32
def tagSideStride (t : BitVec 256) : Nat := bytesAt t 10 2
def tagPoison (t : BitVec 256) : Bool := bitOf t 96
def tagTensor (t : BitVec 256) : Nat := bytesAt t 16 2
def tagOrdinal (t : BitVec 256) : Nat := bytesAt t 20 4
def tagCheck (t : BitVec 256) : Nat := bytesAt t 24 4

/-- Whether the records and the side data of a tag are those of its kind, by the table of R151. -/
def tagKindOk (t : BitVec 256) : Bool :=
  match tagKind t with
  | 0 => tagRecords t = 0 && tagStride t = 0 && tagSide t = 0 && tagSideStride t = 0
  | 1 => tagMode t ≤ 5 && tagStride t = (if tagMode t = 5 then 512 else 1024)
  | 2 => tagStride t = 32 || tagStride t = 64
  | 3 => tagStride t = 2048 && tagSideStride t = 0
  | 4 => (tagStride t = 256 || tagStride t = 512) && tagSideStride t = 0
  | 5 => true
  | 6 => tagRecords t = 1 && tagStride t ≤ 288 && tagSideStride t = 0
  | _ => false

/-- Whether a tag obeys its layout, names a format and obeys its kind (R77, R150, R151); the columns of a vector set keep the strides R177 gives them, multiples of 32 or not (DEDUCED, log entry 101). -/
def tagOk (t : BitVec 256) : Bool :=
  fld t 7 4 = 0 && fld t 15 12 = 0 && fld t 23 19 = 0 && fld t 31 29 = 0 && fld t 103 98 = 0 &&
  bytesAt t 13 3 = 0 && bytesAt t 18 2 = 0 && bytesAt t 28 4 = 0 &&
  tagFmt t < 0xE && tagKindOk t && tagAxis t ≠ 3 && (tagStride t % 32 = 0 || tagKind t = 5) && tagSide t ≤ 32768 &&
  tagRecords t * tagStride t ≤ tagSide t &&
  tagSide t + tagRecords t * tagSideStride t ≤ 32768

/-- A tag with ordinal, body check and poison bit set (R153). -/
def tagWith (t : BitVec 256) (ordinal check : Nat) (poison : Bool) : BitVec 256 :=
  let keep := t.toNat - bytesAt t 20 8 * 2 ^ 160 - (if tagPoison t then 2 ^ 96 else 0)
  BitVec.ofNat 256 (keep + (ordinal % 2 ^ 32) * 2 ^ 160 + (check % 2 ^ 32) * 2 ^ 192 + (if poison then 2 ^ 96 else 0))

/-- The body's bytes. -/
def bodyBytes (sh : Sheaf) : List Byte := memGetL 0 sh.body 0 32768

/-- The body check of a sheaf's body (R150). -/
def bodyCheck (sh : Sheaf) : Nat := crc32c (bodyBytes sh)

/-- The sheaf with every word marked. -/
def allMarked (sh : Sheaf) : Sheaf := { sh with marks := List.range 1024 }

/-- The 32 bytes of a tag. -/
def tagBytes (t : BitVec 256) : List Byte := leBytes 32 t.toNat

/-! ### Frames and placement -/

/-- Bytes of a sheaf. -/
def sheafBytes : Nat := 32768

/-- Frames of each stack that belong to the module reserve: 16 GiB per stack (DESIGN CHOICE: OD 0x4000.02 has no stated value). -/
def reserveFrames : Nat := 524288

/-- Frames of a stack. -/
def stackFrames : Nat := 2097152

/-- The module reserve in bytes (OD 0x4000.02). -/
def t1Reserve : Nat := 8 * reserveFrames * sheafBytes

/-- T1 available to crofts in bytes (OD 0x4000.03). -/
def t1Available : Nat := 8 * stackFrames * sheafBytes - t1Reserve

/-- The physical cluster that hosts a virtual cluster of a croft (R262). -/
def hostCluster (k : Croft) (c : Nat) : Nat := fld k.map (3 * c + 2) (3 * c)

/-- The frames in use in a stack. -/
def framesUsed (s : State) (st : Nat) : Nat := (s.frames.filter (fun p => p.1 / stackFrames = st)).length

/-- Free frames of a stack. -/
def framesFree (s : State) (st : Nat) : Nat := stackFrames - reserveFrames - framesUsed s st

/-- The lowest free frame of a stack. -/
def firstFrame (s : State) (st : Nat) : Nat :=
  s.frames.foldl (fun x p => if p.1 = x then x + 1 else x) (st * stackFrames + reserveFrames)

/-- The stack of a sheaf by its placement mode (R155). -/
def placeStack (k : Croft) (mode vc n i : Nat) : Nat :=
  match mode with
  | 0 => hostCluster k (8 * i / n)
  | 1 => hostCluster k vc
  | _ => hostCluster k (i % 8)

/-- The stack with the most free frames among a list, the lowest first on ties. -/
def mostFree (s : State) (l : List Nat) : Nat :=
  l.foldl (fun b x => if framesFree s b < framesFree s x then x else b) (l.headD 0)

/-- The stack that serves a placement: the chosen one, else the fullest-free of its die, else of the other die, with whether the placement missed (R155). -/
def chooseStack (s : State) (want : Nat) : Nat × Bool :=
  if framesFree s want ≠ 0 then (want, false)
  else
    let same := if want < 4 then [0, 1, 2, 3] else [4, 5, 6, 7]
    let other := if want < 4 then [4, 5, 6, 7] else [0, 1, 2, 3]
    let x := mostFree s same
    if framesFree s x ≠ 0 then (x, true) else (mostFree s other, true)

/-- A frame allocated for a croft: errors of its words cleared by the write of zeros (R370), a miss counted. -/
def allocFrame (s : State) (c : Nat) (strong : Bool) (want : Nat) : Nat × State :=
  let p := chooseStack s want
  let fr := firstFrame s p.1
  let lo := fr % stackFrames * 1024
  let hs := mapMod s.hbm p.1 (fun h => { h with
    errors := h.errors.filter (fun e => e.1 < lo || lo + 1024 ≤ e.1)
    logged := setDelRange h.logged lo 1024
    selfRefresh := false })
  let s1 := { s with frames := mapSet s.frames fr ⟨c, strong⟩, hbm := hs }
  (fr, if p.2 then bump s1 (0xA280 + c) 9 1 else s1)

/-- A frame freed. -/
def freeFrame (s : State) (fr : Nat) : State := { s with frames := mapDel s.frames fr }

/-- Frames freed. -/
def freeFrames (s : State) (l : List Nat) : State := { s with frames := s.frames.filter (fun p => !l.contains p.1) }

/-- Whether the code of a croft's buffers (1) or copies (2) is S (R369). -/
def codeOf (s : State) (c sub : Nat) : Bool := odGet s (0x4200 + c) sub = 1

/-! ### Use and quotas -/

/-- Bytes of the images of a croft, whole frames. -/
def imageUse (k : Croft) : Nat := (k.images.map (fun p => (p.2.length + 32767) / 32768 * 32768)).sum

/-- Bytes of T1 a croft uses: frames, images, park area, and what a running step's search state and spilled lists hold (R161, R195, R216). -/
def t1Use (s : State) (c : Nat) (k : Croft) : Nat :=
  (s.frames.filter (fun p => p.2.croft = c)).length * sheafBytes + imageUse k + k.park +
    (match k.run with
    | some r => r.held
    | none => 0)

/-- Bytes of T0 a croft uses in a physical cluster. -/
def t0Use (k : Croft) (p : Nat) : Nat :=
  ((k.bsets.map (fun b => (b.2.binds.map (fun x => if x.kind = 1 && hostCluster k x.vc = p then min x.toT1 x.count else 0)).sum)).sum +
    (k.copies.filter (fun y => y.t0.any (fun v => hostCluster k v = p))).length) * sheafBytes

/-- Segments of a croft in a class. -/
def segUse (s : State) (c cls : Nat) : Nat := (s.segs.filter (fun p => p.2.croft = c && p.2.cls = cls)).length * 1048576

/-- Sheaves of a croft's bindings that have spilled to a flash class. -/
def spillUse (k : Croft) (cls : Nat) : Nat :=
  (k.bsets.map (fun b => (b.2.binds.map (fun x => (x.spill.filter (fun e => e.2.1 = cls)).length)).sum)).sum * sheafBytes

/-- Bytes of the ID indexes of a croft's vector sets: 16 for each live record of the open state (R181). -/
def indexUse (k : Croft) : Nat := (k.store.openState.map (fun p => 16 * p.2.live)).sum

/-- Bytes a croft uses of T2 (2) or T3 (3). -/
def flashUse (s : State) (c : Nat) (k : Croft) (cls : Nat) : Nat :=
  segUse s c cls + spillUse k cls + (if cls = 2 then indexUse k else 0)

/-- Bytes of peer frames a croft binds. -/
def tpUse (k : Croft) : Nat :=
  (k.bsets.map (fun b => (b.2.binds.map (fun x => if x.kind = 3 then x.count else 0)).sum)).sum * sheafBytes

/-- The quota of a croft in a tier: 1 T0, 2 T1, 3 T2, 4 T3, 5 TP. -/
def quota (s : State) (c tier : Nat) : Nat := odGet s (0x4100 + c) tier

/-- The quota of a croft in a tier as the sums of R160 count it: what is in effect, or an accepted value that still waits for the step boundary where that is more. -/
def quotaPeak (s : State) (c tier : Nat) : Nat :=
  let waiting := match croft? s c with
    | none => []
    | some k => k.deferred.filterMap (fun d => match d with
      | Deferred.entry key v => if key = odKey (0x4100 + c) tier then some v else none
      | _ => none)
  waiting.foldl max (quota s c tier)

/-- Bytes of T1 pinned by copies. -/
def pinnedUse (k : Croft) : Nat :=
  (k.copies.filter (fun y => y.frame.isSome && (!y.pins.isEmpty || !y.jobPin.isEmpty))).length * sheafBytes

/-- Bytes of T1 a croft uses besides resident copies. -/
def t1Fixed (s : State) (c : Nat) (k : Croft) : Nat :=
  t1Use s c k - (k.copies.filter (fun y => y.frame.isSome)).length * sheafBytes

/-- Bytes of T1 a croft has taken: what it uses, and the room its Almanac's pinned peak keeps for its copies (R169, R171). -/
def t1Taken (s : State) (c : Nat) (k : Croft) : Nat :=
  max (t1Use s c k) (t1Fixed s c k + (match k.alm with
    | some a => a.peak
    | none => 0))

/-- Whether `n` bytes of buffers, images or park areas fit in a croft's T1 quota beside what is taken (R161, R171). -/
def t1Room (s : State) (c : Nat) (k : Croft) (n : Nat) : Bool := t1Taken s c k + n ≤ quota s c 2

/-- Whether T1 of the croft takes `n` more sheaves. -/
def t1Fits (s : State) (c : Nat) (k : Croft) (n : Nat) : Bool := t1Use s c k + n * sheafBytes ≤ quota s c 2

/-! ### Words read through the code -/

/-- One word of a sheaf in a frame, read through its code: the sheaf as its reader sees it (an uncorrectable word as received and poisoned, any other as the decoder corrects it), the decoded outcome (R366, R367, R371). -/
def readWord (strong : Bool) (e : BitVec 288) (sh : Sheaf) (i : Nat) : Sheaf × Decoded :=
  let d := decodeWord strong (sh.marks.contains i) e
  let data := decodedData e (if d.bad then none else d.fix) (memGetL 0 sh.body (32 * i) 32)
  ({ sh with
      body := memPutL 0 sh.body (32 * i) data
      marks := if d.poisoned then setIns sh.marks i else sh.marks.filter (· ≠ i) }, d)

/-- The error pattern left in the cells of a word once it has been decoded: none after a poisoned rewrite, else the symbol that the decoder corrects. -/
def patternLeft (d : Decoded) : BitVec 288 :=
  match d.bad, d.fix with
  | false, some (i, v) => BitVec.ofNat 288 (v * 2 ^ (8 * i))
  | _, _ => 0

/-- The records, events and counters of one decoded word of stack `st` (R371, R383, R385). -/
def wordEvents (s : State) (croft : Option Nat) (st w : Nat) (strong : Bool) (d : Decoded) : State :=
  let g := (w * 32) / 256
  let x := g ^^^ (s.seedInEffect % 2 ^ 28)
  let ch := (x ^^^ (x / 32) ^^^ (x / 1024) ^^^ (x / 32768) ^^^ (x / 1048576) ^^^ (x / 33554432)) % 32
  let pc := ((x / 32) ^^^ (x / 4096)) % 2
  if d.bad then
    let s1 := bump (bump s (0xA420 + st) 2 1) (0xA420 + st) 3 (if d.address then 1 else 0)
    errorEvent s1 croft (if d.address then 0x0102 else 0x0101) 2 0 st (2 * ch + pc) 0xFF (w * 32)
      (if d.address then leBytes 4 w else [if strong then 0 else 1])
  else if d.fix.isSome then
    let hour := clock s / 3600000000000
    let next (x : Nat × Nat) : Nat × Nat := (hour, if x.1 = hour then x.2 + 1 else 1)
    bump { s with hbm := mapMod s.hbm st (fun h => { h with corrected := mapSet h.corrected ch (next (mapGet h.corrected ch (hour, 0))) }) }
      (0xA420 + st) 1 1
  else s

/-- A stack is accessed: it leaves self-refresh (R434). -/
def stackAccess (s : State) (st : Nat) : State :=
  { s with hbm := mapMod s.hbm st (fun h => { h with selfRefresh := false }) }

/-- A word's error pattern set. -/
def putPattern (s : State) (st w : Nat) (e : BitVec 288) : State :=
  { s with hbm := mapMod s.hbm st (fun h => { h with errors := if e = 0 then mapDel h.errors w else mapSet h.errors w e }) }

/-- A stack's record. -/
def stackOf (s : State) (st : Nat) : Stack := mapGet s.hbm st stackNew

/-- A sheaf read from its T1 frame: every word with an error pattern goes through the decoder; the sheaf as it then lies in T1, whether any word was found uncorrectable, and the records made. Words corrected within the limits of R368 read as written. -/
def readFrame (s : State) (croft : Option Nat) (fr : Nat) (sh : Sheaf) : Sheaf × Bool × State :=
  let st := fr / stackFrames
  let lo := fr % stackFrames * 1024
  let strong := (mapGet s.frames fr ⟨0, true⟩).strong
  let errs := (stackOf s st).errors.filter (fun e => lo ≤ e.1 && e.1 < lo + 1024)
  errs.foldl (fun (p : Sheaf × Bool × State) e =>
    let r := readWord strong e.2 p.1 (e.1 - lo)
    let s1 := wordEvents p.2.2 croft st e.1 strong r.2
    (r.1, p.2.1 || r.2.bad, putPattern s1 st e.1 (patternLeft r.2))) (sh, false, stackAccess s st)

/-- `n` bytes of whole sheaves a croft has moved to or from T1, counted for the croft, and for the monitor of the stack they lie in (R158, R280). -/
def hbmMoved (s : State) (c st n : Nat) : State :=
  let h := stackOf s st
  bump { s with hbm := mapSet s.hbm st { h with moved := mapSet h.moved c (mapGet h.moved c 0 + n) } } (0xA380 + c) 9 n

/-- A sheaf read from a flash class counted (R280). -/
def flashRead (s : State) (c cls : Nat) : State := bump s (0xA380 + c) (if cls = 2 then 0x0A else 0x0C) sheafBytes

/-! ### A job's bindings -/

/-- A binding set as a job reads it: a resumed job's object bindings stand at its target epoch (R237). -/
def boundSet (bound : Option (Nat × FMap Obj)) (b : BSet) : BSet :=
  match bound with
  | none => b
  | some (e, m) => { b with binds := b.binds.map (fun y =>
      if y.kind = 2 then
        let o := mapGet m y.key ⟨[], y.obj.isSet, 0, 0⟩
        { y with epoch := e, obj := o, count := 32 * o.segs.length }
      else y) }

/-- A job's binding set. -/
def jobSet (k : Croft) (j : Job) : Option BSet := (mapGet? k.bsets j.bset).map (boundSet j.bound)

/-! ### Copies and promotions -/

/-- The home of sheaf `n` of a binding: whether it is a peer's, and its place; none for a buffer of this croft. -/
def homeOf (b : Binding) (n : Nat) : Option (Bool × Nat × Nat) :=
  if b.kind = 2 then some (false, (b.obj.segs[n / 32]?).getD 0, n % 32)
  else if b.kind = 3 then some (true, b.key, n)
  else none

/-- Whether two copies of a croft are the same copy: one home sheaf in T1, or in T0 of one physical cluster (R161). -/
def sameCopy (k : Croft) (a b : Copy) : Bool :=
  a.tp = b.tp && a.home = b.home && a.body = b.body && a.t0.map (hostCluster k) = b.t0.map (hostCluster k)

/-- The copies with one replaced. -/
def setCopy (k : Croft) (y : Copy) : List Copy := k.copies.map (fun z => if sameCopy k z y then y else z)

/-- The sheaf of a segment, and whether a poison bit of its header or tag marks all of it (R374). -/
def segSheaf (s : State) (serial body : Nat) : Option Sheaf :=
  if serial = 0 then some sheafZero
  else (mapGet? s.segs serial).map (fun g =>
    let sh := mapGet g.sheaves body sheafZero
    if tagPoison sh.tag then allMarked sh else sh)

/-- The body check of a sheaf that enters T1 or scratch from T2, T3 or TP (the check of a raw zero sheaf holds): on a mismatch every word is marked, the mismatch counted and logged (R152). -/
def enterCheck (s : State) (c : Nat) (sh : Sheaf) : Sheaf × State :=
  if sh = sheafZero || bodyCheck sh = tagCheck sh.tag then (sh, s)
  else (allMarked sh, errorEvent (bump s (0xA280 + c) 0x0A 1) (some c) 0x0110 2 1 0 0 0xFF 0 [1])

/-- The next use of a copy in the Almanac's layer order, counted from a position; none when there is no next use (R169). -/
def nextUse (k : Croft) (names : AlmRec → Copy → Bool) (pos : Int) (y : Copy) : Option Nat :=
  match k.alm with
  | none => none
  | some a =>
    let ahead := (a.recs.filter (fun r => names r y)).filterMap (fun r =>
      if pos < (r.layer : Int) then some ((r.layer : Int) - pos).toNat
      else if a.cyclic then some ((r.layer : Int) + a.layers - pos).toNat else none)
    ahead.min?

/-- Whether a copy lies in T1 (none) or in T0 of a physical cluster (some). -/
def copyIn (k : Croft) (p : Option Nat) (y : Copy) : Bool :=
  match p with
  | none => y.t0.isNone
  | some n => y.t0.any (fun v => hostCluster k v = n)

/-- The copy of a memory to evict: unpinned, its next use furthest (none is furthest), the earliest arrival on ties (R169). -/
def evictee (k : Croft) (names : AlmRec → Copy → Bool) (pos : Int) (p : Option Nat) : Option Copy :=
  (k.copies.filter (fun y => copyIn k p y && y.pins.isEmpty && y.jobPin.isEmpty && !y.doomed)).foldl
    (fun (b : Option Copy) y =>
      match b with
      | none => some y
      | some x =>
        match nextUse k names pos x, nextUse k names pos y with
        | none, none => if y.arrived < x.arrived then some y else some x
        | none, some _ => some x
        | some _, none => some y
        | some i, some j => if i < j || (i = j && y.arrived < x.arrived) then some y else some x) none

/-- The key of a resident copy in cluster SRAM. -/
def copyKey (y : Copy) : List Nat := [0, if y.tp then 1 else 0, y.home, y.body]

/-- The key of a buffer's sheaf in cluster SRAM. -/
def bufKey (h i n : Nat) : List Nat := [1, h, i, n]

/-- Errors of a sheaf of cluster SRAM gone: it has been written, or is no longer there. -/
def clearT0 (s : State) (c : Nat) (key : List Nat) : State :=
  modCroft s c (fun k => { k with t0Flips := k.t0Flips.filter (fun x => x.1 ≠ key) })

/-- A copy dropped: its frame freed. -/
def dropCopy (s : State) (c : Nat) (y : Copy) : State :=
  let s1 := modCroft s c (fun k => { k with copies := k.copies.filter (fun z => !sameCopy k z y) })
  match y.frame with
  | some fr => freeFrame s1 fr
  | none => clearT0 s1 c (copyKey y)

/-- Whether a memory of a croft takes one more copy: T1 (none), or T0 of a physical cluster (some), each under its quota (R161, R169, R170). -/
def copyFits (s : State) (c : Nat) (k : Croft) : Option Nat → Bool
  | none => t1Fits s c k 1
  | some p => t0Use k p + sheafBytes ≤ quota s c 1

/-- Evictions until a memory takes one more copy, at most `n` of them, each counted (R169). -/
def evictFor (names : AlmRec → Copy → Bool) (pos : Int) (c : Nat) (p : Option Nat) : Nat → State → State
  | 0, s => s
  | n + 1, s =>
    match croft? s c with
    | none => s
    | some k =>
      if copyFits s c k p then s
      else match evictee k names pos p with
        | none => s
        | some y => evictFor names pos c p n (bump (dropCopy s c y) (0xA280 + c) 8 1)

end Sys2Proof.Machine
end

