-- ==== Sys2Proof/Machine/Sram.lean ====
section
/-! DEFINITION. Errors of engine scratch, accumulators and cluster SRAM, met by the reads of the engines (R373). -/

namespace Sys2Proof.Machine

/-- An SRAM error logged; the memory's number is 0 scratch, 1 cluster SRAM, 2 accumulators (DESIGN CHOICE, log entry 114). -/
def sramEvent (c memory : Nat) (s : State) : State :=
  errorEvent s (some c) 0x0118 2 4 0 0 0xFF 0 [BitVec.ofNat 8 memory, 2]

/-- What reads have met: corrected words counted, uncorrectable ones logged (R373). -/
def sramNote (s : State) (c memory soft hard : Nat) : State :=
  (List.range hard).foldl (fun s _ => sramEvent c memory s) { s with health := { s.health with sramFixed := s.health.sramFixed + soft } }

/-! ### Engine scratch and accumulators -/

/-- Whether an instruction reads any byte of a 64-bit word of scratch. -/
def wordRead (uses : List (Nat × Nat × Bool)) (word : Nat) : Bool := uses.any (fun u => !u.2.2 && u.1 < 8 * word + 8 && 8 * word < u.1 + u.2.1)

/-- The words of scratch with errors that an instruction reads. -/
def flipsRead (im : Memory) (ve : VEngine) (w : IWord) : List (Nat × Bool) :=
  let uses := scratchUses im ⟨32, 32⟩ 0 w
  ve.flips.filter (fun x => wordRead uses x.1)

/-- The chain whose tile an instruction reads: the MAC that continues it, or the DRAIN. -/
def chainRead (ve : VEngine) (w : IWord) : Option Chain := if wop w = 0x22 || wop w = 0x40 then veChain ve (fld w 46 35) else none

/-- The accumulator entries of bad parity that an instruction reads. -/
def parityRead (ve : VEngine) (w : IWord) : List (Nat × Nat) :=
  match chainRead ve w with
  | none => []
  | some ch => ve.parity.filter (fun x => x.1 = ch.array && ch.base ≤ x.2 % 2048 && x.2 % 2048 < ch.base + footprint ch.layout ch.height ch.pair)

/-- An accumulator entry marked. -/
def markEntry (acc : FMap Acc) (k : Nat) : FMap Acc := mapSet acc k { accGet acc k with marked := true }

/-- An entry of bad parity marked, in its array and in the tiles kept for drains. -/
def markParity (ve : VEngine) (x : Nat × Nat) : VEngine :=
  let a := veArray ve x.1
  { veSetArray ve x.1 { a with acc := markEntry a.acc x.2 } with
    chains := ve.chains.map (fun ch => if ch.array = x.1 then
      { ch with snaps := ch.snaps.map (fun p => (p.1, if (mapGet? p.2 x.2).isSome then markEntry p.2 x.2 else p.2)) } else ch) }

/-- A virtual engine as an instruction's reads find it: words corrected, uncorrectable ones and entries of bad parity marked (R373). -/
def sramMet (im : Memory) (ve : VEngine) (w : IWord) : VEngine :=
  let hit := flipsRead im ve w
  let bad := parityRead ve w
  let ve1 := bad.foldl markParity ve
  { ve1 with
    marks := (hit.filter (·.2)).foldl (fun m x => setIns m (x.1 / 4)) ve1.marks
    flips := ve1.flips.filter (fun x => !hit.contains x), parity := ve1.parity.filter (fun x => !bad.contains x) }

/-- The records of what an instruction's reads met. -/
def sramLog (s : State) (c : Nat) (im : Memory) (ve : VEngine) (w : IWord) : State :=
  let hit := flipsRead im ve w
  let s1 := sramNote s c 0 (hit.filter (!·.2)).length (hit.filter (·.2)).length
  sramNote s1 c 2 0 (parityRead ve w).length

/-! ### Cluster SRAM -/

/-- A sheaf read from cluster SRAM under its key: words corrected, units of uncorrectable ones marked (R373, R374). -/
def readT0 (s : State) (c : Nat) (key : List Nat) (sh : Sheaf) : Sheaf × State :=
  match croft? s c with
  | none => (sh, s)
  | some k =>
    let hit := k.t0Flips.filter (fun x => x.1 = key)
    if hit.isEmpty then (sh, s)
    else
      let hard := hit.filter (·.2.2)
      ({ sh with marks := hard.foldl (fun m x => setIns m (x.2.1 / 4)) sh.marks },
       sramNote (putCroft s c { k with t0Flips := k.t0Flips.filter (fun x => x.1 ≠ key) }) c 1 (hit.length - hard.length) hard.length)

end Sys2Proof.Machine
end

