-- ==== Sys2Proof/Machine/KamTx.lean ====
section
/-! DEFINITION. Kamlin frames: their layout, routes, credits and transmission (R288 to R295). -/

namespace Sys2Proof.Machine

/-! ### Frame layout (R291, R292) -/

/-- The poison map of a payload: one bit per 32 bytes, least significant first, padded to 32 bytes. -/
def poisonMap (units : Nat) (marks : List Nat) : List Byte :=
  let n := (units + 255) / 256 * 32
  (List.range n).map (fun i => BitVec.ofNat 8 ((List.range 8).foldl (fun x b =>
    if marks.contains (8 * i + b) then x + 2 ^ b else x) 0))

/-- A parameter block: each field of the frame's row as a U32 at 4-byte steps in the order the table lists them (DESIGN CHOICE: the table gives the fields without their bytes). -/
def paramBlock (xs : List Nat) : List Byte := sub (xs.flatMap (leBytes 4)) 0 32

/-- A whole frame: header, parameter block, payload in whole units, and the poison map where a unit is marked. -/
def mkFrame (type cls dst src croft tag step attempt : Nat) (last : Bool) (params payload : List Byte) (marks : List Nat) : List Byte :=
  let units := (payload.length + 31) / 32
  let flags := (if marks.isEmpty then 0 else 1) + (if last then 2 else 0)
  [BitVec.ofNat 8 type, BitVec.ofNat 8 cls, BitVec.ofNat 8 dst, BitVec.ofNat 8 src] ++ leBytes 2 units ++
  [BitVec.ofNat 8 flags, BitVec.ofNat 8 croft] ++ leBytes 8 tag ++ leBytes 8 step ++ leBytes 2 attempt ++
  List.replicate 6 0 ++ sub params 0 32 ++ sub payload 0 (32 * units) ++
  (if marks.isEmpty then [] else poisonMap units marks)

/-- Fields of a frame's header. -/
def frType (b : List Byte) : Nat := leAt b 0 1
def frHop (b : List Byte) : Nat := leAt b 1 1 % 8
def frDst (b : List Byte) : Nat := leAt b 2 1
def frSrc (b : List Byte) : Nat := leAt b 3 1
def frUnits (b : List Byte) : Nat := leAt b 4 2
def frLast (b : List Byte) : Bool := leAt b 6 1 / 2 % 2 = 1
def frCroft (b : List Byte) : Nat := leAt b 7 1
def frTag (b : List Byte) : Nat := leAt b 8 8
def frStep (b : List Byte) : Nat := leAt b 16 8
def frAttempt (b : List Byte) : Nat := leAt b 24 2

/-- Field `i` of the parameter block. -/
def frParam (b : List Byte) (i : Nat) : Nat := leAt b (32 + 4 * i) 4

/-- The payload. -/
def frPayload (b : List Byte) : List Byte := sub b 64 (32 * frUnits b)

/-- The payload units that carry the poison mark. -/
def frMarks (b : List Byte) : List Nat :=
  if leAt b 6 1 % 2 = 0 then []
  else (List.range (frUnits b)).filter (fun u =>
    leAt b (64 + 32 * frUnits b + u / 8) 1 / 2 ^ (u % 8) % 2 = 1)

/-- Whether a frame type is of the control class. -/
def isControl (type : Nat) : Bool := 0x10 ≤ type

/-- The buffer class of a frame: its hop class, or 8 for control. -/
def frClass (b : List Byte) : Nat := if leAt b 1 1 / 8 % 2 = 1 then 8 else frHop b

/-- Whether a frame keeps its layout: type known, reserved fields zero, a Bell frame's among them, lengths agreeing (R291, R303). -/
def frameOk (b : List Byte) : Bool :=
  let t := frType b
  let map := if leAt b 6 1 % 2 = 1 then (frUnits b + 255) / 256 * 32 else 0
  ((1 ≤ t && t ≤ 0x0A) || (0x10 ≤ t && t ≤ 0x13)) && leAt b 1 1 < 16 && (leAt b 1 1 / 8 = 0 || frHop b = 0) &&
  (leAt b 1 1 / 8 = 1) = isControl t && leAt b 6 1 < 4 && zerosAt b 26 31 && frUnits b ≤ 1025 &&
  b.length = 64 + 32 * frUnits b + map && (t ≠ 0x12 || leAt b 39 1 = 0)

/-- Credits of a frame: 64 bytes each (R293). -/
def frameCost (b : List Byte) : Nat := (b.length + 63) / 64

/-- Flits that frames of `n` bytes fill, packed back to back: 1,264 body bytes each (R283). -/
def flitsFor (n : Nat) : Nat := (n + 1263) / 1264

/-! ### Ports and routes -/

/-- A port's record. -/
def portOf (s : State) (p : Nat) : Port := mapGet s.ports p (portStart (odGet s (0x9020 + p) 1 = 1))

/-- The state with a port's record replaced. -/
def putPort (s : State) (p : Nat) (x : Port) : State := { s with ports := mapSet s.ports p x }

/-- Whether a port carries all traffic (R282). -/
def portUp (s : State) (p : Nat) : Bool := (portOf s p).state = 2

/-- The bytes of the route table: 0xFF where none is saved. -/
def routeByte (s : State) (i : Nat) : Nat :=
  match s.doms.lookup (odKey 0x9200 1) with
  | some b => match b[i]? with
    | some x => x.toNat
    | none => 0xFF
  | none => 0xFF

/-- The port a frame leaves by: the primary port while up, the alternate otherwise (R289); without an alternate it waits on the primary (DEDUCED, log entry 105). -/
def routePort (s : State) (d : Nat) : Option Nat :=
  let a := routeByte s (2 * d)
  let b := routeByte s (2 * d + 1)
  if a < 8 && portUp s a then some a
  else if b < 8 then some b
  else if a < 8 then some a
  else none

/-- This module's address on the route to a destination (R288). -/
def addrTo (s : State) (d : Nat) : Nat :=
  match routePort s d with
  | some p => (portOf s p).addr
  | none => s.kamlinAddr

/-! ### Credits owed and held -/

/-- Credits of a class owed to a port's neighbour (R294). -/
def oweFor (s : State) (p cls cost : Nat) : State :=
  let x := portOf s p
  putPort s p { x with owed := mapSet x.owed cls (mapGet x.owed cls 0 + cost) }

/-- The credits of a frame that has left the receive buffer are owed to the neighbour (R294). -/
def oweCredits (s : State) (p : Nat) (b : List Byte) : State := oweFor s p (frClass b) (frameCost b)

/-- A forwarded frame out of the buffer of the port it came in by: sent on, or dropped (R294); the hop class it came with is one less. -/
def leaveInbound (s : State) (fr : TxFrame) : State :=
  match fr.inbound with
  | some q => oweFor s q (if fr.cls = 8 then 8 else fr.cls - 1) (frameCost fr.bytes)
  | none => s

/-- Credits a port holds for a class. -/
def portCredits (x : Port) (cls : Nat) : Nat := mapGet x.credits cls 0

/-! ### Transmission (R283, R284, R293, R295) -/

/-- Whether a frame may leave now behind `sent` bytes of this burst: the port up (Bell and link management also in conflict), its credits held, room in the replay buffer (R282, R284, R293). -/
def mayLeave (x : Port) (sent : Nat) (fr : TxFrame) : Bool :=
  (x.state = 2 || (x.state = 5 && (frType fr.bytes = 0x12 || frType fr.bytes = 0x13))) &&
  frameCost fr.bytes ≤ portCredits x fr.cls && x.replay.length + flitsFor (sent + fr.bytes.length) ≤ 2048

/-- Body bytes of the 1,024 flits over which shares count (R295). -/
def shareWindow : Nat := 1024 * 1264

/-- The transmit round after a frame of a croft: its bytes counted, a full window started over, the pointer moved past the croft (R271, R295). -/
def roundMoved (x : Port) (fr : TxFrame) : Port :=
  let n := fr.bytes.length
  let x1 := if shareWindow ≤ x.window + n then { x with used := [], window := x.window + n - shareWindow } else { x with window := x.window + n }
  if fr.cls ≠ 8 && fr.croft < 32 then { x1 with used := mapSet x1.used fr.croft (mapGet x1.used fr.croft 0 + n), turn := (fr.croft + 1) % 32 } else x1

/-- One frame sent: credits spent and held until they return, a cancel's answer awaited, the buffer it came in by left, payload counted (R278, R280, R293, R294). -/
def sendOne (s : State) (p : Nat) (fr : TxFrame) : State :=
  let x := portOf s p
  let b := fr.bytes
  let x' := { roundMoved x fr with
    credits := mapSet x.credits fr.cls (portCredits x fr.cls - frameCost b)
    out := x.out ++ [⟨fr.cls, frameCost b, fr.croft, frTag b, frStep b, frAttempt b⟩]
    awaiting := if frType b = 0x10 then x.awaiting ++ [(frTag b, frStep b, frAttempt b)] else x.awaiting }
  let s1 := leaveInbound (putPort s p x') fr
  let s2 := if fr.croft < 32 then bump s1 (0xA380 + fr.croft) 0x0E (32 * frUnits b) else s1
  transmit s2 (8 + p) b

/-- Whether waiting frame `i` is the first of its source and class, and may leave. -/
def frameReady (x : Port) (sent i : Nat) (fr : TxFrame) : Bool :=
  mayLeave x sent fr && !(x.queue.take i).any (fun g => g.cls = fr.cls && g.croft = fr.croft)

/-- The crofts in the order of a port's round. -/
def crofts32 (x : Port) : List Nat := (List.range 32).map (fun i => (x.turn + i) % 32)

/-- Whether a croft has a share of a port's slots left in the window (R295). -/
def hasShare (s : State) (x : Port) (c : Nat) : Bool :=
  (croft? s c).any (fun k => 100 * mapGet x.used c 0 < k.share * shareWindow)

/-- The place of the frame a port sends next: control; a croft within its share; module traffic; any croft (R295). -/
def nextFrame (s : State) (x : Port) (sent : Nat) : Option Nat :=
  let l := x.queue.zipIdx.filter (fun f => frameReady x sent f.2 f.1)
  let of (want : TxFrame → Bool) : Option Nat := (l.find? (fun f => want f.1)).map (·.2)
  match of (fun f => f.cls = 8) with
  | some i => some i
  | none => match (crofts32 x).findSome? (fun c => if hasShare s x c then of (fun f => f.croft = c) else none) with
    | some i => some i
    | none => match of (fun f => 32 ≤ f.croft) with
      | some i => some i
      | none => (crofts32 x).findSome? (fun c => of (fun f => f.croft = c))

/-- The waiting frames of a port sent in the order of its round while one may leave, at most `n`; those sent, in order. -/
def pumpLoop (p : Nat) : Nat → List (List Byte) → State → List (List Byte) × State
  | 0, acc, s => (acc, s)
  | n + 1, acc, s =>
    let x := portOf s p
    match nextFrame s x (acc.map List.length).sum with
    | none => (acc, s)
    | some i => match x.queue[i]? with
      | none => (acc, s)
      | some f => pumpLoop p n (acc ++ [f.bytes]) (sendOne (putPort s p { x with queue := x.queue.eraseIdx i }) p f)

/-- A flit's 1,280 bytes: sequence and kind, the acknowledgement, the first frame, the body, the CRC (R283). -/
def flitBytes (x : Port) (kind seq first : Nat) (body : List Byte) : List Byte :=
  let b := leBytes 2 (seq % 4096 + 4096 * kind) ++ leBytes 2 (x.rxSeq % 4096 + 4096) ++ leBytes 2 first ++ [0, 0] ++ sub body 0 1264
  b ++ leBytes 8 (crc64 b)

/-- Where in flit `i` the first frame header starts that starts there, 0xFFFF where none does (R283). -/
def firstIn (starts : List Nat) (i : Nat) : Nat :=
  match starts.find? (fun a => 1264 * i ≤ a && a < 1264 * (i + 1)) with
  | some a => a - 1264 * i
  | none => 0xFFFF

/-- Where each frame of a burst starts. -/
def frameStarts (l : List (List Byte)) : List Nat := (l.foldl (fun (p : Nat × List Nat) b => (p.1 + b.length, p.2 ++ [p.1])) (0, [])).2

/-- Flits of a burst of frames packed back to back; bytes of the last body that no frame fills are free values (log entry 105). -/
def burstFlits (ctr : Nat) (l : List (List Byte)) : List TxFlit :=
  let all := l.flatten
  let n := flitsFor all.length
  let body := all ++ (List.range (1264 * n - all.length)).map (Config.flitFill ctr)
  (List.range n).map (fun i => ⟨firstIn (frameStarts l) i, sub body (1264 * i) 1264⟩)

/-- Kept flits transmitted, the first with a sequence number (R283, R284). -/
def sendFlits (s : State) (p seq : Nat) (l : List TxFlit) : State :=
  let x := portOf s p
  l.zipIdx.foldl (fun s f => transmit s (16 + p) (flitBytes x 1 (seq + f.2) f.1.first f.1.body)) (bump s (0xA3A0 + p) 1 l.length)

/-- A burst of frames sent as flits: kept for replay, sequences advanced, counted (R283, R284). -/
def sendBurst (s : State) (p : Nat) (l : List (List Byte)) : State :=
  if l.isEmpty then s
  else
    let x := portOf s p
    let fl := burstFlits s.freeCtr l
    sendFlits (putPort { s with freeCtr := s.freeCtr + 1 } p { x with replay := x.replay ++ fl, txSeq := (x.txSeq + fl.length) % 4096 }) p x.txSeq fl

/-- A port's waiting frames sent as far as its round, credits and replay buffer allow. -/
def pump (s : State) (p : Nat) : State :=
  let r := pumpLoop p (portOf s p).queue.length [] s
  sendBurst r.2 p r.1

/-- A frame queued on a port and sent as soon as it may leave. -/
def queueOn (s : State) (p : Nat) (fr : TxFrame) : State :=
  let x := portOf s p
  pump (putPort s p { x with queue := x.queue ++ [fr] }) p

/-- A frame on its way: queued on its destination's route; without a route a cancel is kept for one (R287), another frame is dropped. -/
def sendOn (s : State) (fr : TxFrame) : State :=
  match routePort s (frDst fr.bytes) with
  | some p => queueOn s p fr
  | none => if frType fr.bytes = 0x10 then { s with stranded := s.stranded ++ [fr] } else leaveInbound s fr

/-- A frame of a croft, or of the module (0xFF), sent to its destination. -/
def sendFrameTo (s : State) (dst croft : Nat) (b : List Byte) : State :=
  match routePort s dst with
  | some p => queueOn s p ⟨b, frClass b, croft, none⟩
  | none => if frType b = 0x10 then { s with stranded := s.stranded ++ [⟨b, frClass b, croft, none⟩] } else s

/-- A frame queued on a named port. -/
def sendOnPort (s : State) (p croft : Nat) (b : List Byte) : State := queueOn s p ⟨b, frClass b, croft, none⟩

/-- Frames that wait on ports which are not up, or for a route, moved to the route they have now (R287, R289); what belongs to a port stays on it. -/
def reroute (s : State) : State :=
  let moves (p : Nat) (f : TxFrame) : Bool := !portUp s p && frType f.bytes < 0x11
  let l := s.ports.flatMap (fun x => x.2.queue.filter (moves x.1))
  let s1 := { s with
    ports := s.ports.map (fun x => (x.1, { x.2 with queue := x.2.queue.filter (fun f => !moves x.1 f) })), stranded := [] }
  (l ++ s.stranded).foldl sendOn s1

/-! ### Receiving -/

/-- The credits owed on a port sent back in one credit-return frame, nine U16; one that answers a cancel carries the cancel's job tag, step and attempt (R278, R291, R294; DESIGN CHOICE, log entry 106). -/
def sendCredits (s : State) (p tag step attempt : Nat) : State :=
  let x := portOf s p
  if x.owed.all (fun o => o.2 = 0) then s
  else
    let block := (List.range 9).flatMap (fun k => leBytes 2 (mapGet x.owed k 0))
    sendOnPort (putPort s p { x with owed := [] }) p 0xFF
      (mkFrame 0x11 8 (x.neighbour % 256) x.addr 0xFF tag step attempt true block [] [])

/-- A frame discarded and counted, its credits returned (R290, R291). -/
def discardFrame (s : State) (p : Nat) (b : List Byte) : State := oweCredits (bump s (0xA3A0 + p) 6 1) p b

/-- The routing event of R290 and R299: class 0x0120 with the frame's destination address. -/
def routingEvent (s : State) (p : Nat) (b : List Byte) : State :=
  logEvent s 0x0120 0 2 p 0 0xFF 0 [BitVec.ofNat 8 (frDst b)]

/-- Frames of an attempt that a module forwards and has not yet transmitted, dropped on the cancel of their source (R278). -/
def dropPassing (s : State) (src tag step attempt : Nat) : State :=
  let mine (f : TxFrame) : Bool := f.inbound.isSome && frSrc f.bytes = src && frTag f.bytes = tag && frStep f.bytes = step &&
    frAttempt f.bytes = attempt && frType f.bytes < 0x0A
  let gone := s.ports.flatMap (fun x => x.2.queue.filter mine)
  gone.foldl leaveInbound { s with ports := mapAll s.ports (fun x => { x with queue := x.queue.filter (fun f => !mine f) }) }

/-- A frame passed on by the route table with its hop class raised, kept in its buffer until it is sent; discarded at class 7 or without a route (R289, R290, R294). A cancel is answered to the port it came by (R278). -/
def forwardFrame (s : State) (p : Nat) (b : List Byte) : State :=
  if frHop b = 7 then routingEvent (discardFrame s p b) p b
  else if (routePort s (frDst b)).isNone && frType b ≠ 0x10 then discardFrame s p b
  else if frType b = 0x10 then
    let s1 := dropPassing (oweCredits s p b) (frSrc b) (frTag b) (frStep b) (frAttempt b)
    sendOn (sendCredits s1 p (frTag b) (frStep b) (frAttempt b)) ⟨b, 8, 0xFF, none⟩
  else
    let b' := if isControl (frType b) then b else patch b 1 [BitVec.ofNat 8 (frHop b + 1)]
    sendOn s ⟨b', frClass b', 0xFF, some p⟩

/-- A frame received on a port: port up, layout sound, data frames only at full service (R438), addressed to this module, else discarded or passed on; then its effect. -/
def withFrame (s : State) (p : Nat) (b : List Byte) (type : Nat) (effect : State → State) : State :=
  let st := (portOf s p).state
  if !powered s || !(st = 2 || (st = 5 && (type = 0x12 || type = 0x13))) then s
  else if !frameOk b || frType b ≠ type || (type < 0x10 && s.power.stage < 3) then discardFrame s p b
  else if frDst b ≠ (portOf s p).addr && type < 0x12 then forwardFrame s p b
  else effect s

end Sys2Proof.Machine
end

