-- ==== Sys2Proof/Machine/Aes.lean ====
section
/-! DEFINITION. AES-256 (FIPS 197), AES-256-XTS (IEEE 1619) and AES key wrap (RFC 3394), which R460 and R461 name for the media and its keys. -/

namespace Sys2Proof.Machine

/-- A product in the field of AES, one bit of the second factor at a time. -/
def aesMul (a : Nat) : Nat → Nat → Nat
  | _, 0 => 0
  | b, n + 1 =>
    let twice := if 128 ≤ a then ((2 * a) % 256) ^^^ 0x1B else 2 * a
    (if b % 2 = 1 then a else 0) ^^^ aesMul twice (b / 2) n

/-- A product of two bytes. -/
def aesTimes (a b : Nat) : Nat := aesMul a b 8

/-- A power by repeated squaring, at most 8 bits of exponent. -/
def aesPow (a : Nat) : Nat → Nat → Nat
  | _, 0 => 1
  | e, n + 1 => aesTimes (if e % 2 = 1 then a else 1) (aesPow (aesTimes a a) (e / 2) n)

/-- A byte rotated left. -/
def aesRotl (x n : Nat) : Nat := (x * 2 ^ n % 256) ||| (x / 2 ^ (8 - n))

/-- The substitution of a byte: the inverse in the field, then the affine map. -/
def aesSub (a : Nat) : Nat :=
  let i := aesPow a 254 8
  i ^^^ aesRotl i 1 ^^^ aesRotl i 2 ^^^ aesRotl i 3 ^^^ aesRotl i 4 ^^^ 0x63

/-- Two lists of bytes added. -/
def xorList (a b : List Nat) : List Nat := (a.zip b).map (fun p => p.1 ^^^ p.2)

/-- The next word of the key schedule, from the words so far with the newest first. -/
def keyWord (ws : List (List Nat)) : List Nat :=
  let i := ws.length
  let prev := ws.headD []
  let t :=
    if i % 8 = 0 then xorList (((prev.drop 1) ++ prev.take 1).map aesSub) [aesPow 2 (i / 8 - 1) 8, 0, 0, 0]
    else if i % 8 = 4 then prev.map aesSub
    else prev
  xorList (ws.getD 7 []) t

/-- `n` more words of the key schedule, the newest first. -/
def keyWords : Nat → List (List Nat) → List (List Nat)
  | 0, ws => ws
  | n + 1, ws => keyWords n (keyWord ws :: ws)

/-- The fifteen round keys of a 32-byte key, each of 16 bytes. -/
def roundKeys (key : List Byte) : List (List Nat) :=
  let first := (List.range 8).map (fun i => (sub key (4 * i) 4).map (·.toNat))
  let ws := (keyWords 52 first.reverse).reverse
  (List.range 15).map (fun r => ((ws.drop (4 * r)).take 4).flatten)

/-- The rows of a block shifted; byte r + 4c is row r of column c. -/
def shiftRows (b : List Nat) : List Nat := (List.range 16).map (fun i => b.getD (i % 4 + 4 * ((i / 4 + i % 4) % 4)) 0)

/-- The columns of a block mixed. -/
def mixColumns (b : List Nat) : List Nat :=
  (List.range 16).map (fun i =>
    let c := i / 4
    let x (k : Nat) : Nat := b.getD (4 * c + (i + k) % 4) 0
    aesTimes 2 (x 0) ^^^ aesTimes 3 (x 1) ^^^ x 2 ^^^ x 3)

/-- One round but the last. -/
def aesRound (b k : List Nat) : List Nat := xorList (mixColumns (shiftRows (b.map aesSub))) k

/-- A block of 16 bytes encrypted under its round keys. -/
def aesBlock (ks : List (List Nat)) (b : List Nat) : List Nat :=
  let b0 := xorList b (ks.headD [])
  let b1 := ((ks.drop 1).take 13).foldl aesRound b0
  xorList (shiftRows (b1.map aesSub)) (ks.getD 14 [])

/-- A block as bytes. -/
def ofNats (l : List Nat) : List Byte := l.map (BitVec.ofNat 8)

/-- The tweak of the next block of a data unit: doubled in the field of 2^128. -/
def nextTweak (t : List Nat) : List Nat :=
  let n := 2 * leNat (ofNats t)
  (leBytes 16 (if 2 ^ 128 ≤ n then (n % 2 ^ 128) ^^^ 0x87 else n)).map (·.toNat)

/-- At most `n` blocks of a data unit under XTS. -/
def xtsBlocks (ks : List (List Nat)) : Nat → List Nat → List Byte → List Byte
  | 0, _, _ => []
  | n + 1, t, b =>
    ofNats (xorList (aesBlock ks (xorList ((b.take 16).map (·.toNat)) t)) t) ++ xtsBlocks ks n (nextTweak t) (b.drop 16)

/-- A data unit encrypted by AES-256-XTS with a 64-byte key and a 128-bit tweak, little-endian. -/
def xtsEncrypt (key : List Byte) (tweak : Nat) (unit : List Byte) : List Byte :=
  xtsBlocks (roundKeys (sub key 0 32)) (unit.length / 16) (aesBlock (roundKeys (sub key 32 32)) ((leBytes 16 tweak).map (·.toNat))) unit

/-- Step `t` of a key wrap: the check value and the blocks after it, the blocks rotated. -/
def wrapStep (ks : List (List Nat)) (p : List Nat × List (List Nat)) (t : Nat) : List Nat × List (List Nat) :=
  let b := aesBlock ks (p.1 ++ p.2.headD [])
  (xorList (b.take 8) ((beBytes 8 t).map (·.toNat)), p.2.drop 1 ++ [b.drop 8])

/-- A key wrapped under a 32-byte key-encryption key (RFC 3394). -/
def keyWrap (kek key : List Byte) : List Byte :=
  let n := key.length / 8
  let blocks := (List.range n).map (fun i => (sub key (8 * i) 8).map (·.toNat))
  let r := (List.range (6 * n)).foldl (fun p t => wrapStep (roundKeys kek) p (t + 1)) (List.replicate 8 0xA6, blocks)
  ofNats (r.1 ++ r.2.flatten)

end Sys2Proof.Machine
end

