-- ==== Sys2Proof/Machine/Cipher.lean ====
section
/-! DEFINITION. Media keys: their bits, how the saved dictionary holds them, and what the flash holds of a sector and of a segment (R460, R461). -/

namespace Sys2Proof.Machine

/-- The 64 bytes of a media key, by its number; drawn from the random bit generator, so open (R461). -/
def mediaKey (id : Nat) : List Byte := leBytes 64 (Config.mediaKey id).toNat

/-- The key-encryption key: SHAKE256-256 of the identity seed and "DWKW" (R461). -/
def wrapKey (s : State) : List Byte := shake256 32 (s.fuse.seed ++ [0x44, 0x57, 0x4B, 0x57])

/-- The keys of crofts and namespaces, wrapped (R461). -/
def wrappedKeys (s : State) : List (List Byte) :=
  (s.crofts.map (fun p => p.2.key) ++ s.namespaces.map (fun p => p.2.key)).map (fun id => keyWrap (wrapKey s) (mediaKey id))

/-- A sector as its Granary port carries it: under the namespace's key, the LBA as tweak (R460). -/
def sectorCipher (n : Namespace) (lba : Nat) (plain : List Byte) : List Byte := xtsEncrypt (mediaKey n.key) lba plain

/-- A 4,096-byte slot of a segment body, or of a spill area, as its Granary port carries it: under the croft's key, serial times 256 plus the slot as tweak (R460). -/
def segmentCipher (k : Croft) (serial slot : Nat) (plain : List Byte) : List Byte :=
  xtsEncrypt (mediaKey k.key) (serial * 256 + slot) plain

end Sys2Proof.Machine
end

