-- ==== Sys2Proof/Machine/Ed448.lean ====
section
/-! DEFINITION. Ed448 signatures with an empty context (RFC 8032), as R260, R233 and R456 name them. -/

namespace Sys2Proof.Machine

/-- The field prime 2^448 - 2^224 - 1. -/
def edP : Nat := 2 ^ 448 - 2 ^ 224 - 1

/-- The order of the base point. -/
def edL : Nat := 2 ^ 446 - 0x8335dc163bb124b65129c96fde933d8d723a70aadc873d6d54a7bb0d

/-- The curve constant d = -39081. -/
def edD : Nat := edP - 39081

/-- A projective point. -/
abbrev EdPoint := Nat × Nat × Nat

/-- The base point. -/
def edBase : EdPoint :=
  (0x4f1970c66bed0ded221d15a622bf36da9e146570470f1767ea6de324a3d3a46412ae1af72ab66511433b80e18b00938e2626a82bc70cc05e,
   0x693f46716eb6bc248876203756c9c7624bea73736ca3984087789c1e05a0c2d73ad3ff1ce67c39c4fdbd132c4ed7c8ad9808795bf230fa14, 1)

/-- The neutral point. -/
def edZero : EdPoint := (0, 1, 1)

/-- Subtraction in the field. -/
def edSub (a b : Nat) : Nat := (a + edP - b % edP) % edP

/-- Addition of points. -/
def edAdd (p q : EdPoint) : EdPoint :=
  let a := p.2.2 * q.2.2 % edP
  let b := a * a % edP
  let c := p.1 * q.1 % edP
  let d := p.2.1 * q.2.1 % edP
  let e := edD * (c * d % edP) % edP
  let f := edSub b e
  let g := (b + e) % edP
  let h := (p.1 + p.2.1) * (q.1 + q.2.1) % edP
  (a * f % edP * edSub (edSub h c) d % edP, a * g % edP * edSub d c % edP, f * g % edP)

/-- A multiple of a point over `n` bits of the scalar, the least significant first. -/
def edMul : Nat → Nat → EdPoint → EdPoint
  | 0, _, _ => edZero
  | n + 1, k, p =>
    let r := edMul n (k / 2) (edAdd p p)
    if k % 2 = 1 then edAdd r p else r

/-- A power in the field over `n` bits of the exponent. -/
def edPow : Nat → Nat → Nat → Nat
  | 0, _, _ => 1
  | n + 1, e, b =>
    let r := edPow n (e / 2) (b * b % edP)
    if e % 2 = 1 then r * b % edP else r

/-- The inverse in the field. -/
def edInv (x : Nat) : Nat := edPow 448 (edP - 2) x

/-- The 57 bytes of a point. -/
def edEncode (p : EdPoint) : List Byte :=
  let z := edInv p.2.2
  let x := p.1 * z % edP
  let y := p.2.1 * z % edP
  leBytes 56 y ++ [BitVec.ofNat 8 (128 * (x % 2))]

/-- The prefix of every hash: "SigEd448", no prehash, empty context. -/
def edDom : List Byte := [0x53, 0x69, 0x67, 0x45, 0x64, 0x34, 0x34, 0x38, 0, 0]

/-- The clamped secret scalar of an expanded seed. -/
def edScalar (h : List Byte) : Nat :=
  let n := leAt h 0 55 + 2 ^ 440 * (leAt h 55 1 % 128 + 128)
  n / 4 * 4

/-- The public key of a 57-byte seed. -/
def edPublic (seed : List Byte) : List Byte := edEncode (edMul 448 (edScalar (shake256 114 seed)) edBase)

/-- The signature of a message under a seed: 114 bytes. -/
def edSign (seed msg : List Byte) : List Byte :=
  let h := shake256 114 seed
  let a := edScalar h
  let pub := edPublic seed
  let r := leNat (shake256 114 (edDom ++ sub h 57 57 ++ msg)) % edL
  let rb := edEncode (edMul 448 r edBase)
  let k := leNat (shake256 114 (edDom ++ rb ++ pub ++ msg)) % edL
  rb ++ leBytes 57 ((r + k * a) % edL)

/-- The x coordinate of a point by its y and the parity of x, if the curve has it. -/
def edRecover (y parity : Nat) : Option EdPoint :=
  let u := edSub (y * y % edP) 1
  let v := edSub (edD * (y * y % edP) % edP) 1
  let u3v := u * u % edP * u % edP * v % edP
  let x := u3v * edPow 448 ((edP - 3) / 4) (u3v * (u * u % edP) % edP * (v * v % edP) % edP) % edP
  if v * (x * x % edP) % edP ≠ u % edP then none
  else if x = 0 && parity = 1 then none
  else some (if x % 2 = parity then x else edP - x, y, 1)

/-- The point 57 bytes encode. -/
def edDecode (b : List Byte) : Option EdPoint :=
  let y := leAt b 0 56
  let top := leAt b 56 1
  if edP ≤ y || top % 128 ≠ 0 then none else edRecover y (top / 128)

/-- Whether two points are the same. -/
def edSame (p q : EdPoint) : Bool :=
  p.1 * q.2.2 % edP = q.1 * p.2.2 % edP && p.2.1 * q.2.2 % edP = q.2.1 * p.2.2 % edP

/-- Whether a signature of 114 bytes over a message verifies under a public key of 57 bytes. -/
def edVerify (pub msg sig : List Byte) : Bool :=
  match edDecode pub, edDecode (sub sig 0 57) with
  | some a, some r =>
    let n := leAt sig 57 57
    let k := leNat (shake256 114 (edDom ++ sub sig 0 57 ++ pub ++ msg)) % edL
    n < edL && edSame (edMul 448 (4 * n) edBase) (edAdd (edMul 450 4 r) (edMul 450 (4 * k) a))
  | _, _ => false

end Sys2Proof.Machine
end

