-- ==== Sys2Proof/Machine/FlashBlocks.lean ====
section
/-! DEFINITION. Blocks of the flash: kinds, wear and spares, opening and placing (R333, R337 to R349). -/

namespace Sys2Proof.Machine

/-! ### Kinds and blocks (R337, R340) -/

/-- Whether a kind of block is programmed in QLC mode (R340). -/
def kindQlc : BlkKind → Bool
  | .nsData => true
  | .segT3 => true
  | .mapPages => true
  | .spillT3 => true
  | .segT2 => false
  | .spillT2 => false
  | .journal => false
  | .metadata => false
  | .flush => false

/-- Places of a block: slots of a namespace block, segments of a segment block, sheaves of a spill block, plane pages of a map block, page rows of the others (R337, R339); a spill block is laid out as 32 sheaves in the place of a segment (DESIGN CHOICE, log entry 99). -/
def kindPlaces : BlkKind → Nat
  | .nsData => 18432
  | .mapPages => 4608
  | .segT3 => 72
  | .spillT3 => 2304
  | .segT2 => 18
  | .spillT2 => 576
  | .journal => 288
  | .metadata => 288
  | .flush => 288

/-- Bytes programmed for one place (R337). -/
def refBytes : BackRef → Nat
  | .sector _ _ => 4096
  | .segment _ => 1048576
  | .mapPage _ => 16384
  | .spill _ => 32768
  | .record _ _ => 65536

/-- Slots of 4 KiB of one place. -/
def refSlots (r : BackRef) : Nat := refBytes r / 4096

/-- Plane pages of one place, whole or begun. -/
def refPages (r : BackRef) : Nat := (refBytes r + 16383) / 16384

/-- Rated blocks of a package. -/
def ratedBlocks : Nat := 12 * 3391

/-- A block nothing has touched: fallow, or a factory spare by its index (R337, R338). -/
def blockNew (n : Nat) : Block := ⟨if n % 3455 < 3391 then .fallow else .spare, .nsData, 0, 0, 0, 0, 0, 0, 0, 0, 0, []⟩

/-- A block of a package. -/
def blockAt (x : Package) (n : Nat) : Block := mapGet x.blocks n (blockNew n)

/-- A package with one block replaced. -/
def putBlock (x : Package) (n : Nat) (b : Block) : Package := { x with blocks := mapSet x.blocks n b }

/-- The die of a block. -/
def dieOf (n : Nat) : Nat := n / 3455

/-- Whether a number names a block of a package. -/
def blockExists (n : Nat) : Bool := n < 12 * 3455

/-! ### Wear and spares (R333, R338, R342) -/

/-- A block's wear b in parts of 1/30,000. -/
def blockWear (b : Block) : Nat := 10 * b.q + b.s

/-- B of R333 in parts of 1/30,000. -/
def wearSum (s : State) : Nat := (s.packages.map (fun p => (p.2.blocks.map (fun b => blockWear b.2)).sum)).sum

/-- W in ppm (R333). -/
def wearFigure (s : State) : Nat := 1000000 * wearSum s / (30000 * 1953216)

/-- The highest b of a package in parts of 1/30,000. -/
def packageTop (x : Package) : Nat := (x.blocks.map (fun b => blockWear b.2)).foldl max 0

/-- The highest b of the module in ppm (R335). -/
def wearHighest (s : State) : Nat := (s.packages.map (fun p => packageTop p.2)).foldl max 0 * 1000000 / 30000

/-- Factory spares of a package already used. -/
def sparesUsed (x : Package) : Nat := (x.blocks.filter (fun b => 3391 ≤ b.1 % 3455 && b.2.st ≠ .spare)).length

/-- Available spare in percent, by the package that has fewest (R338). -/
def availableSpare (s : State) : Nat := (s.packages.map (fun p => 100 * (768 - sparesUsed p.2) / 768)).foldl min 100

/-- Retired blocks of a die that no spare replaced. -/
def dieLost (x : Package) (d : Nat) : Nat := (x.blocks.filter (fun b => dieOf b.1 = d && b.2.st = .retired)).length - 64

/-- The rated capacity lost, in bytes (R338, R342). -/
def lostBytes (s : State) : Nat := (s.packages.map (fun p => ((List.range 12).map (dieLost p.2)).sum)).sum * 75497472

/-- free_op in bytes for a T2 size in GB (R342). -/
def freeOp (s : State) (t2 : Nat) : Int :=
  (147456000000000 : Int) - 122880000000000 - 3 * (t2 : Int) * 1000000000 - (lostBytes s : Int)

/-- The Gleaner's floor in bytes (R342). -/
def opFloor (s : State) : Int := 500000000000 + 500000 * (min (wearFigure s) 1000000 : Int)

/-- The fallow pool of a package without its flush reserve (R343, R359). -/
def fallowPool (x : Package) : Nat :=
  ratedBlocks - (x.blocks.filter (fun b => b.1 % 3455 < 3391 && b.2.st ≠ .fallow)).length +
    (x.blocks.filter (fun b => 3391 ≤ b.1 % 3455 && b.2.st = .fallow)).length - x.reserve

/-- The first rated block nothing has touched. -/
def firstUntouched (x : Package) : Option Nat :=
  ((List.range (x.blocks.length + 1)).map (fun i => i / 3391 * 3455 + i % 3391)).find? (fun n => blockExists n && (mapGet? x.blocks n).isNone)

/-- The better of two (wear, block) pairs: lower wear, then lower die and index. -/
def lessWorn (a b : Nat × Nat) : Nat × Nat := if b.1 < a.1 || (b.1 = a.1 && b.2 < a.2) then b else a

/-- The least of a list by `lessWorn`. -/
def leastWorn : List (Nat × Nat) → Option (Nat × Nat)
  | [] => none
  | a :: rest => some (rest.foldl lessWorn a)

/-- The fallow block of lowest wear, lower die and index first (R340). -/
def pickFallow (x : Package) : Option Nat :=
  let touched := (x.blocks.filter (fun b => b.2.st = .fallow)).map (fun b => (blockWear b.2, b.1))
  (leastWorn (touched ++ (match firstUntouched x with | some n => [(0, n)] | none => []))).map (·.2)

/-! ### The journal (R347) -/

/-- A record appended to a package's journal under its next sequence number. -/
def jot (x : Package) (r : JRec) : Package := { x with seq := x.seq + 1, journal := x.journal ++ [(x.seq, r)] }

/-- A block put into a state that is journalled (R344). -/
def jotBlock (x : Package) (n : Nat) (b : Block) : Package := jot (putBlock x n b) (.block n b.st)

/-! ### Opening and placing (R340, R345, R347, R349) -/

/-- A block opened for a kind, its open record journalled; none while the pool is empty. -/
def openBlock (x : Package) (kind : BlkKind) (bell : Nat) : Option (Nat × Package) :=
  if fallowPool x = 0 then none
  else (pickFallow x).map (fun n =>
    (n, jotBlock x n { blockAt x n with st := .opened, kind := kind, ptr := 0, since := bell, slots := [] }))

/-- The open block of a kind, or one opened for it. -/
def openOf (x : Package) (kind : BlkKind) (bell : Nat) : Option (Nat × Package) :=
  match x.blocks.find? (fun b => b.2.st = .opened && b.2.kind = kind) with
  | some b => some (b.1, x)
  | none => openBlock x kind bell

/-- One place programmed at the write pointer of the open block of a kind: the block and place. -/
def placeRef (x : Package) (kind : BlkKind) (r : BackRef) (bell : Nat) : Option ((Nat × Nat) × Package) :=
  (openOf x kind bell).map (fun p =>
    let b := blockAt p.2 p.1
    let b' := { b with
      ptr := b.ptr + 1, slots := mapSet b.slots b.ptr r
      st := if b.ptr + 1 = kindPlaces kind then .full else .opened }
    ((p.1, b.ptr), putBlock p.2 p.1 b'))

/-- A package's record. -/
def packageOf (s : State) (p : Nat) : Package := mapGet s.packages p packageNew

/-- The state with a package's record replaced. -/
def putPackage (s : State) (p : Nat) (x : Package) : State := { s with packages := mapSet s.packages p x }

/-! ### Records of structures held in several copies (R229, R341, R348) -/

/-- The number of a structure: 0 to 47 the journal heads of a package, 48 to 79 the epoch table of a croft. -/
def headsOf (p : Nat) : Nat := p

/-- The number of a croft's epoch table among the structures. -/
def tableOf (c : Nat) : Nat := 48 + c

/-- The package that holds copy `n` of a structure: three packages on three Granary ports (DESIGN CHOICE, log entry 103: which). -/
def copyPackage (id n : Nat) : Nat := 4 * ((id / 4 + 4 * n) % 12) + id % 4

/-- The record of copy `n` of a structure appended to the open metadata block of its package: one page row. -/
def appendRecord (id : Nat) (s : State) (n : Nat) : State :=
  let p := copyPackage id n
  match placeRef (packageOf s p) .metadata (.record id n) s.bell.count with
  | none => s
  | some q => putPackage { s with health := { s.health with nandBytes := s.health.nandBytes + 65536 } } p q.2

/-- The new records of a structure appended in the packages of its three copies. -/
def appendRecords (s : State) (id : Nat) : State := [0, 1, 2].foldl (appendRecord id) s

end Sys2Proof.Machine
end

