-- ==== Sys2Proof/Machine/NvmeCq.lean ====
section
/-! DEFINITION. Completions of NVMe commands: the completion queue entry, its phase, and its interrupt (R320). -/

namespace Sys2Proof.Machine

/-- A controller's record. -/
def nvmeOf (s : State) (k : Nat) : Nvme := mapGet s.nvme k nvmeReset

/-- The state with a controller's record replaced. -/
def putNvme (s : State) (k : Nat) (x : Nvme) : State := { s with nvme := mapSet s.nvme k x }

/-- A status field: code type and code, with the do-not-retry bit. -/
def nvmeStatus (sct sc : Nat) (dnr : Bool) : Nat := sc + 256 * sct + (if dnr then 0x4000 else 0)

/-- The 16 bytes of a completion queue entry. -/
def nvmeEntry (dw0 head sq cid status phase : Nat) : List Byte :=
  leBytes 4 dw0 ++ leBytes 4 0 ++ leBytes 2 head ++ leBytes 2 sq ++ leBytes 2 cid ++ leBytes 2 (2 * status + phase)

/-- A completion of an NVMe command, posted to the queue of its submission queue. -/
def nvmeComplete (s : State) (t : NTicket) (dw0 status : Nat) : State :=
  let x := nvmeOf s t.ctrl
  match mapGet? x.sq t.sq with
  | none => s
  | some q =>
    match mapGet? x.cq q.cq with
    | none => s
    | some r =>
      if r.size = 0 then s
      else
        let s1 := hostWrite s (r.base + 16 * (r.posted % r.size))
          (nvmeEntry dw0 t.head t.sq t.cid status (phaseOf r.posted r.size))
        let y := nvmeOf s1 t.ctrl
        putNvme s1 t.ctrl { y with
          cq := mapSet y.cq q.cq { r with posted := r.posted + 1 }
          interrupts := if r.ien then mapSet y.interrupts r.vector (mapGet y.interrupts r.vector 0 + 1) else y.interrupts }

/-! ### Asynchronous events (R321, R330) -/

/-- Bits of feature 0x0B that enable the kinds of event this controller has: SMART warnings in bits 0 to 4, firmware activation bit 9, sanitize done bit 10, the notice of log page 0xC1 bit 11 (PRESUMED for the places the spec does not give). -/
def aenFirmware : Nat := 9
def aenSanitize : Nat := 10
def aenDealloc : Nat := 11

/-- Dword 0 of an asynchronous event: type, information, log page. -/
def aenDw0 (type info page : Nat) : Nat := type + 256 * info + 65536 * page

/-- A feature's value. -/
def nvmeFeat (x : Nvme) (i : Nat) : Nat := mapGet x.feats i 0

/-- An asynchronous event of a controller: reported through an outstanding request, else kept; one of a page is not repeated until its log has been read. -/
def nvmeEvent (s : State) (k bit dw0 : Nat) : State :=
  let x := nvmeOf s k
  let page := dw0 / 65536
  if !x.rdy || nvmeFeat x 0x0B / 2 ^ bit % 2 = 0 || x.maskedAens.contains page then s
  else match x.aers with
    | [] => putNvme s k { x with aens := x.aens ++ [dw0], maskedAens := setIns x.maskedAens page }
    | cid :: rest =>
      let s1 := putNvme s k { x with aers := rest, maskedAens := setIns x.maskedAens page }
      let head := match mapGet? x.sq 0 with
        | some q => q.head
        | none => 0
      nvmeComplete s1 ⟨k, 0, cid, head⟩ dw0 0

end Sys2Proof.Machine
end

