-- ==== Sys2Proof/Machine/MediaOps.lean ====
section
/-! DEFINITION. Store operations and the programs they wait for: protected buffers, durability, completion (R225, R343, R440). -/

namespace Sys2Proof.Machine

/-- Bytes of a segment with its header (R219). -/
def segmentBytes : Nat := 1048576 + 1152

/-- The package of a sector (R346). -/
def sectorPackage (lba : Nat) : Nat := lba / 16 % 48

/-- The package a segment is placed in (DESIGN CHOICE: the serial's turn). -/
def segmentPackage (serial : Nat) : Nat := serial % 48

/-! ### The map (R346, R347) -/

/-- The page of the map that holds an entry: 4,096 entries of a namespace, of the segments or of the spill areas (DESIGN CHOICE for the numbering of pages). -/
def mapPageOf : BackRef → Nat
  | .sector nsid lba => nsid * 2 ^ 36 + lba / 4096
  | .segment n => n / 4096
  | .mapPage n => n
  | .spill n => 2 ^ 72 + n / 4096
  | .record _ _ => 0

/-- The map page of an entry made dirty; the stored map pages themselves are recorded in the head. -/
def markDirty (x : Package) (r : BackRef) : Package :=
  match r with
  | .mapPage _ => x
  | .record _ _ => x
  | _ => { x with dirty := setIns x.dirty (mapPageOf r) }

/-- Where the map says something lies. -/
def mapAt (x : Package) (r : BackRef) : Option (Nat × Nat) := x.map.lookup r

/-- What one journal record does to the map: a relocation only where the entry still points to its old place (R347). -/
def applyRec (m : List (BackRef × Nat × Nat)) : JRec → List (BackRef × Nat × Nat)
  | .mapped r loc => m.filter (fun e => e.1 ≠ r) ++ [(r, loc)]
  | .unmapped rs => m.filter (fun e => !rs.contains e.1)
  | .moved r src dst => if m.lookup r = some src then m.filter (fun e => e.1 ≠ r) ++ [(r, dst)] else m
  | .page n loc => m.filter (fun e => e.1 ≠ .mapPage n) ++ [(.mapPage n, loc)]
  | .block _ _ => m

/-- The map change and the journal append of one record, one atomic act (R347). -/
def journalled (x : Package) (r : JRec) : Package := jot { x with map := applyRec x.map r } r

/-- A map entry set, one journal record (R347). -/
def mapEntry (x : Package) (r : BackRef) (loc : Nat × Nat) : Package := markDirty (journalled x (.mapped r loc)) r

/-- A map entry relocated, one journal record (R347). -/
def moveEntry (x : Package) (r : BackRef) (src dst : Nat × Nat) : Package := markDirty (journalled x (.moved r src dst)) r

/-- A map entry removed, one journal record where it was there. -/
def mapDrop (x : Package) (r : BackRef) : Package :=
  if (mapAt x r).isSome then markDirty (journalled x (.unmapped [r])) r else x

/-! ### Map pages and recovery (R346 to R348, R351) -/

/-- The entries a map page holds. -/
def pageEntries (x : Package) (page : Nat) : List (BackRef × Nat × Nat) :=
  x.map.filter (fun e => match e.1 with
    | .mapPage _ => false
    | .record _ _ => false
    | r => mapPageOf r = page)

/-- The map pages whose entries a journal record changes. -/
def recPages : JRec → List Nat
  | .mapped r _ => [mapPageOf r]
  | .unmapped rs => rs.map mapPageOf
  | .moved r _ _ => [mapPageOf r]
  | .page _ _ => []
  | .block _ _ => []

/-- The sequence number of the first live journal record: the oldest that changes a page not written back since. -/
def firstLive (x : Package) : Nat :=
  ((x.journal.find? (fun e => (recPages e.2).any x.dirty.contains)).map (·.1)).getD x.seq

/-- A map page stored where it now lies, one journal record, and the records no dirty page needs let go (R347, R348). -/
def storePage (x : Package) (page : Nat) (loc : Nat × Nat) : Package :=
  let y := { journalled x (.page page loc) with dirty := x.dirty.filter (· ≠ page), stored := mapSet x.stored page (pageEntries x page) }
  { y with journal := y.journal.filter (fun e => firstLive y ≤ e.1) }

/-- The map rebuilt from a head: the stored pages it lists, then the journal from its first live record on, in sequence order (R351 step 2). -/
def replayed (x : Package) (h : HeadCopy) : List (BackRef × Nat × Nat) :=
  ((x.journal.filter (fun e => h.first ≤ e.1)).map (·.2)).foldl applyRec
    (h.pages.map (fun p => (.mapPage p.1, p.2)) ++ h.pages.flatMap (fun p => mapGet x.stored p.1 []))

/-! ### Protected buffers -/

/-- Usable energy of the bank in mJ (R422): 0 in the fault state (R440). -/
def bankEnergy (s : State) : Nat := if s.plant.bank = 4 then 0 else s.plant.energy

/-- The protected-buffer limit in bytes. -/
def protectedLimit (s : State) : Nat := odGet s 0x6330 1 * 1048576

/-- B_allowed (R440). -/
def protectedAllowed (s : State) : Nat :=
  let m := odGet s 0x6330 2 * 1000
  if bankEnergy s ≤ m then 0
  else min (protectedLimit s) ((bankEnergy s - m) * 60000000000 / 450000)

/-- E_th as its entry reads it: whole mJ, the fraction cut, which is the default's 58,318 (R440). -/
def flushThresholdRead (s : State) : Nat := odGet s 0x6330 2 * 1000 + 450000 * protectedLimit s / 60000000000

/-- The least whole number of mJ that is not below E_th (R440). -/
def flushThreshold (s : State) : Nat := odGet s 0x6330 2 * 1000 + (450000 * protectedLimit s + 59999999999) / 60000000000

/-- Bytes held in protected buffers. -/
def protectedHeld (s : State) : Nat :=
  (s.packages.map (fun p => ((p.2.progs.filter (·.protectedBuf)).map (·.size)).sum)).sum

/-- Whether every package holds its flush reserve (R343). -/
def reserveFull (s : State) : Bool := s.packages.all (fun p => p.2.reserve = 8)

/-- Whether a bank re-learn runs: it writes through (R425). -/
def bankRelearning (s : State) : Bool := s.plant.relearn = 2 && s.plant.relearnState = 1

/-- Whether the conditions of protected mode hold (R416, R425, R440). -/
def protectedNow (s : State) : Bool :=
  s.power.stage = 3 && 536870912 ≤ protectedAllowed s && reserveFull s && !bankRelearning s && !inputBad s 0

/-- Whether a program of `n` bytes enters a protected buffer. -/
def takesBuffer (s : State) (n : Nat) : Bool :=
  s.power.mode = 1 && protectedNow s && protectedHeld s + n ≤ protectedAllowed s

/-- A fresh operation of a croft. -/
def newOp (s : State) (croft : Nat) (t : Option Ticket) (n : Option NTicket) (detail result : Nat) : Nat × State :=
  (s.nextOp, { s with
    ops := s.ops ++ [⟨s.nextOp, croft, t, n, 0, detail, result, false, 0⟩]
    nextOp := s.nextOp + 1 })

/-- The state with one operation changed. -/
def modOp (s : State) (id : Nat) (f : StoreOp → StoreOp) : State :=
  { s with ops := s.ops.map (fun o => if o.id = id then f o else o) }

/-- A program added to a package for an operation: from a protected buffer its data is durable at once, otherwise the operation waits for it (R225). -/
def addProg (s : State) (p : Nat) (refs : List BackRef) (kind : BlkKind) (op size : Nat) (zero : Bool)
    (data : List (Nat × Nat × List Byte)) : State :=
  let buf := takesBuffer s size
  let x := packageOf s p
  let s1 := putPackage s p { x with progs := x.progs ++ [⟨refs, kind, op, buf, size, zero, data⟩] }
  if buf then s1 else modOp s1 op (fun o => { o with left := o.left + 1 })

/-- An operation with nothing left to wait for completes and goes; a commit that covers it counts its time from here (R228). -/
def opFinish (s : State) (id : Nat) : State :=
  match s.ops.find? (fun o => o.id = id) with
  | none => s
  | some o =>
    if o.left ≠ 0 then s
    else
      let s0 := { s with ops := s.ops.filter (fun x => x.id ≠ id) }
      let s1 := modCroft s0 o.croft (fun k => { k with store := { k.store with
        commits := k.store.commits.map (fun m => if m.covered.contains id then { m with since := clock s } else m) } })
      let s2 := match o.ticket with
        | some t => complete s1 t o.status (if o.poison then 2 else 0) o.detail o.result 0 none
        | none => s1
      match o.nticket with
      | some t => nvmeComplete s2 t 0 0
      | none => s2

/-- One program of an operation has become durable. -/
def opProgress (s : State) (id : Nat) : State :=
  opFinish (modOp s id (fun o => { o with left := o.left - 1 })) id

/-- The kind of block a segment of a class is written to (R340). -/
def segKind (cls : Nat) : BlkKind := if cls = 2 then .segT2 else .segT3

end Sys2Proof.Machine
end

