-- ==== Sys2Proof/Machine/StoreOps.lean ====
section
/-! DEFINITION. The segment store: fields of its descriptors, segments and their headers, the open state, quotas, references and freeing (R164, R218 to R224, R230, R231). -/

namespace Sys2Proof.Machine

/-! ### Descriptor fields (R220) -/

def stKey (d : Desc) : Nat := bytesAt d 16 8
def stIndex (d : Desc) : Nat := bytesAt d 24 8
def stEpoch (d : Desc) : Nat := bytesAt d 32 8
def stAddr (d : Desc) : Nat := bytesAt d 40 8
def stCount (d : Desc) : Nat := bytesAt d 48 4
def stBinding (d : Desc) : Nat := bytesAt d 52 4
def stClass (d : Desc) : Nat := byteOf d 56
def stFlags (d : Desc) : Nat := byteOf d 57
def stRaw (d : Desc) : Bool := stFlags d = 8

/-- The sentinel of the latest committed epoch. -/
def epochLatest : Nat := 0xFFFFFFFFFFFFFFFF

/-- Whether the fields an operation leaves unused are zero: bits key 1, index 2, epoch 4, address 8, count 16, binding 32, class 64 say which it uses, and the flag bits it allows (R220). -/
def stFieldsOk (d : Desc) (uses flags : Nat) : Bool :=
  (uses % 2 = 1 || stKey d = 0) && (uses / 2 % 2 = 1 || stIndex d = 0) && (uses / 4 % 2 = 1 || stEpoch d = 0) &&
  (uses / 8 % 2 = 1 || stAddr d = 0) && (uses / 16 % 2 = 1 || stCount d = 0) && (uses / 32 % 2 = 1 || stBinding d = 0) &&
  (if uses / 64 % 2 = 1 then stClass d = 2 || stClass d = 3 else stClass d = 0) &&
  (stFlags d &&& flags) = stFlags d && descZero d 58 63

/-! ### Segments -/

/-- An object's entry in an open state or epoch. -/
def objOf (m : FMap Obj) (key : Nat) : Option Obj := mapGet? m key

/-- A segment by serial. -/
def segOf (s : State) (serial : Nat) : Option Segment := mapGet? s.segs serial

/-- The body bytes of one sheaf. -/
def sheafBytesOf (sh : Sheaf) : List Byte := bodyBytes sh

/-- The 1 MiB body of a segment. -/
def segBody (g : Segment) : List Byte := (List.range 32).flatMap (fun i => bodyBytes (mapGet g.sheaves i sheafZero))

/-- The 1,024 bytes of tags. -/
def segTags (g : Segment) : List Byte := (List.range 32).flatMap (fun i => tagBytes (mapGet g.sheaves i sheafZero).tag)

/-- The body digest of a segment (R219). -/
def segDigest (g : Segment) : List Byte := shake256 64 (segBody g)

/-- The empty segment of a vector set at a place (R474). -/
def segEmpty (c key index : Nat) : Segment := ⟨c, 3, false, false, true, key, index, 0, []⟩

/-- A segment header (R219), with the serial and the empty flag. -/
def segHeader (g : Segment) (serial : Nat) (empty : Bool) : List Byte :=
  let flags := (if g.poison then 1 else 0) + (if g.entries then 2 else 0) + (if empty then 4 else 0) + (if g.isSet then 8 else 0)
  let head := leBytes 4 0x47535744 ++ leBytes 2 1 ++ [BitVec.ofNat 8 g.croft, BitVec.ofNat 8 g.cls, BitVec.ofNat 8 flags] ++
    List.replicate 7 0 ++ leBytes 8 g.key ++ leBytes 8 g.index ++ leBytes 8 g.epoch ++ leBytes 8 serial ++
    segDigest g ++ List.replicate 12 0
  let tags := segTags g
  head ++ leBytes 4 (crc32c (head ++ tags)) ++ tags

/-- Whether raw segment bytes hold a sound header and a body with its digest (R221). -/
def rawOk (b : List Byte) : Bool :=
  leAt b 0 4 = 0x47535744 && leAt b 4 2 = 1 && leAt b 7 1 < 8 && leAt b 8 1 < 16 && zerosAt b 9 15 && zerosAt b 112 123 &&
  leAt b 124 4 = crc32c (sub b 0 124 ++ sub b 128 1024) && sub b 48 64 = shake256 64 (sub b 1152 1048576)

/-- The sheaves of a segment from bodies and tags. -/
def sheavesOf (bodies tags : List Byte) : FMap Sheaf :=
  (List.range 32).filterMap (fun i =>
    let body := cellsOf 0 0 (sub bodies (32768 * i) 32768)
    let tag : BitVec 256 := BitVec.ofNat 256 (leAt tags (32 * i) 32)
    if body.isEmpty && tag = 0 then none else some (i, ⟨tag, body, []⟩))

/-! ### Open state -/

/-- The state with a croft's store changed. -/
def modStore (s : State) (c : Nat) (f : Store → Store) : State := modCroft s c (fun k => { k with store := f k.store })

/-- The mapping the open state started from: the newest frozen one of a commit in progress, else the committed epoch's. -/
def baseMap (st : Store) : FMap Obj :=
  match st.commits.getLast? with
  | some k => k.frozen
  | none => mapGet st.epochs st.epoch []

/-- Whether the open state holds no change. -/
def openEmpty (st : Store) : Bool := st.openState = baseMap st

/-- Whether an epoch's record is the same in every sound copy of the epoch table (R381). -/
def epochAgreed (st : Store) (n : Nat) : Bool :=
  match st.tables.filter (·.valid) with
  | [] => false
  | x :: rest => (mapGet? x.maps n).isSome && rest.all (fun y => mapGet? y.maps n = mapGet? x.maps n)

/-- Whether an epoch is retained and can be named; the sentinel names the latest committed; not one that has been released; with the epoch table in conflict only an epoch all its copies agree on (R224, R230, R231, R381). -/
def epochMap (st : Store) (e : Nat) : Option (Nat × FMap Obj) :=
  let n := if e = epochLatest then st.epoch else e
  if st.released.contains n || (st.readOnly && !epochAgreed st n) then none else (mapGet? st.epochs n).map (fun m => (n, m))

/-- Whether a write to the store is refused because it is read-only: the croft's own conflict or the media's state (R239, R336). -/
def storeReadOnly (s : State) (k : Croft) : Bool := k.store.readOnly || s.mediaReadOnly

/-- Bytes of every croft's T2 segments and spills. -/
def t2ClassUse (s : State) : Nat := (s.crofts.map (fun p => flashUse s p.1 p.2 2)).sum

/-- The class a new segment is placed in: T2 while the quota and the class have room, T3 after that, none where the T3 quota is full (R164, R342). -/
def placeClass (s : State) (c : Nat) (k : Croft) (cls : Nat) : Option Nat :=
  let fits3 := flashUse s c k 3 + 1048576 ≤ quota s c 4
  if cls = 2 && flashUse s c k 2 + 1048576 ≤ quota s c 3 && t2ClassUse s + 1048576 ≤ odGet s 0x4000 1 * 1000000000 then some 2
  else if fits3 then some 3
  else none

/-- One new segment given a serial, charged and counted. -/
def placeNew (s : State) (c : Nat) (cls want : Nat) (g : Segment) : Nat × State :=
  let serial := s.nextSerial
  let s1 := { s with segs := mapSet s.segs serial { g with cls := cls }, nextSerial := serial + 1 }
  let s2 := bump s1 (0xA340 + c) 3 1
  let s3 := if want = 2 && cls = 3 then bump s2 (0xA280 + c) 7 1048576 else s2
  (serial, bump { s3 with health := { s3.health with hostBytes := s3.health.hostBytes + 1048576 } } (0xA380 + c) (if cls = 2 then 0x0B else 0x0D) 1048576)

/-- The program of a segment added for an operation. -/
def progSegment (op : Nat) (s : State) (serial : Nat) : State :=
  match segOf s serial with
  | none => s
  | some g => addProg s (segmentPackage serial) [.segment serial] (segKind g.cls) op segmentBytes false []

/-- One new segment placed, with its program. -/
def addSegment (s : State) (c : Nat) (cls want : Nat) (g : Segment) (op : Nat) : Nat × State :=
  let p := placeNew s c cls want g
  (p.1, progSegment op p.2 p.1)

/-- Places for segments whose data follows, all or none (R164, R223). -/
def placeNews (c want : Nat) : List Segment → State → Option (List Nat × State)
  | [], s => some ([], s)
  | g :: rest, s =>
    match croft? s c with
    | none => none
    | some k =>
      match placeClass s c k want with
      | none => none
      | some cls =>
        let p := placeNew s c cls want g
        (placeNews c want rest p.2).map (fun r => (p.1 :: r.1, r.2))

/-- New segments for a list of contents in a class, all or none (R164): the serials in order, 0 for an empty place. -/
def addSegments (c want : Nat) (op : Nat) : List (Option Segment) → State → Option (List Nat × State)
  | [], s => some ([], s)
  | none :: rest, s => (addSegments c want op rest s).map (fun r => (0 :: r.1, r.2))
  | some g :: rest, s =>
    match croft? s c with
    | none => none
    | some k =>
      match placeClass s c k want with
      | none => none
      | some cls =>
        let p := addSegment s c cls want g op
        (addSegments c want op rest p.2).map (fun r => (p.1 :: r.1, r.2))

/-- The object with serials placed from a segment index on. -/
def placeSerials (o : Obj) (index : Nat) (serials : List Nat) : Obj :=
  { o with segs := o.segs.take index ++ serials ++ o.segs.drop (index + serials.length) }

/-- The open state of a croft with one object set, or removed; the segments it no longer names are kept for the next commit to free (R222). -/
def setOpen (s : State) (c key : Nat) (o : Option Obj) : State :=
  modStore s c (fun st =>
    let now := (o.map (·.segs)).getD []
    let was := ((objOf st.openState key).map (·.segs)).getD []
    { st with
      openState := match o with
        | some x => mapSet st.openState key x
        | none => mapDel st.openState key
      replaced := st.replaced ++ was.filter (fun x => x ≠ 0 && !now.contains x) })

/-- The open state of a croft with one object set. -/
def setObj (s : State) (c key : Nat) (o : Obj) : State := setOpen s c key (some o)

/-- Whether the open state takes an object of a key: one it has, or one more under the limit (R218). -/
def objRoom (st : Store) (key : Nat) : Bool := (objOf st.openState key).isSome || st.openState.length < 1048576

/-- The croft's open epoch number: the one after those of the commits in progress (R219, R226). -/
def openEpoch (st : Store) : Nat := st.epoch + 1 + st.commits.length

/-! ### References and freeing (R230, R231) -/

/-- Serials of a mapping. -/
def mapSerials (m : FMap Obj) : List Nat := m.flatMap (fun p => p.2.segs)

/-- Serials that the readers of a croft still hold: bindings, queued and running batches, commits and waiting persists. -/
def readerSerials (k : Croft) : List Nat :=
  let stepRefs (q : QStep) : List Nat := match q.kind with
    | .search r => mapSerials r.objs
    | .compact _ o => o.segs
    | _ => []
  k.bsets.flatMap (fun b => b.2.binds.flatMap (fun x => x.obj.segs)) ++
  k.jobs.flatMap (fun j => j.2.steps.flatMap stepRefs ++ (match j.2.bound with
    | some b => mapSerials b.2
    | none => [])) ++
  (match k.run with
    | some r => stepRefs r.step
    | none => []) ++
  k.store.persists.flatMap (·.serials) ++ k.store.compacted.flatMap (fun p => p.2.1.segs ++ p.2.2.segs)

/-- Serials a croft still references. -/
def liveSerials (k : Croft) : List Nat :=
  k.store.epochs.flatMap (fun e => mapSerials e.2) ++ mapSerials k.store.openState ++
  k.store.commits.flatMap (fun m => mapSerials m.frozen ++ m.freed) ++ k.store.replaced ++ readerSerials k

/-- Epochs that bindings and batches of a croft, accepted while they were retained, still read (R230). -/
def readEpochs (k : Croft) : List Nat :=
  let stepEpoch (q : QStep) : List Nat := match q.kind with
    | .search r => [r.epoch]
    | _ => []
  k.bsets.flatMap (fun b => (b.2.binds.filter (fun x => x.kind = 2)).map (·.epoch)) ++
  k.jobs.flatMap (fun j => j.2.steps.flatMap stepEpoch ++ (match j.2.bound with
    | some b => [b.1]
    | none => [])) ++
  (match k.run with
    | some r => stepEpoch r.step
    | none => [])

/-- Whether an epoch is kept by the store itself: the latest, a snapshotted one, a held one (R230). -/
def epochKept (st : Store) (e : Nat) : Bool := e = st.epoch || st.snaps.contains e || (mapGet? st.holds e).isSome

/-- A croft without the epochs that are no longer retained (R230, R231). -/
def pruneEpochs (k : Croft) : Croft :=
  let rd := readEpochs k
  let keep (e : Nat) : Bool := epochKept k.store e || rd.contains e
  { k with store := { k.store with epochs := k.store.epochs.filter (fun e => keep e.1), released := k.store.released.filter keep } }

/-- Places dropped from the map: what lay there is stale, and each change is journalled (R347). -/
def dropRefs (s : State) (l : List BackRef) : State :=
  if l.isEmpty then s else { s with packages := mapAll s.packages (fun x => l.foldl mapDrop x) }

/-- Epochs no longer retained gone, and the segments of a croft that nothing references any more freed and counted; their places become stale (R230, R231). -/
def freeSegments (s : State) (c : Nat) : State :=
  match croft? s c with
  | none => s
  | some k0 =>
    let k := pruneEpochs k0
    let live := liveSerials k
    let dead := (s.segs.filter (fun p => p.2.croft = c && !live.contains p.1)).map (·.1)
    bump (dropRefs { putCroft s c k with segs := s.segs.filter (fun p => !dead.contains p.1) } (dead.map .segment)) (0xA340 + c) 4 dead.length

/-! ### Spill areas (R19, R162, R340) -/

/-- A spilled sheaf programmed at a fresh location of the class, never in a protected buffer, its old location stale: the location and the state. -/
def spillWrite (s : State) (old cls : Nat) : Nat × State :=
  let n := s.nextSpill
  let s1 := dropRefs { s with nextSpill := n + 1 } (if old = 0 then [] else [.spill old])
  let p := segmentPackage n
  let x := packageOf s1 p
  (n, putPackage s1 p { x with progs := x.progs ++ [⟨[.spill n], if cls = 2 then .spillT2 else .spillT3, 0, false, sheafBytes + 32, false, []⟩] })

/-- The spill locations of a binding set. -/
def bsetSpills (b : BSet) : List BackRef := (b.binds.flatMap (fun x => x.spill.map (fun e => e.2.2))).filter (· ≠ 0) |>.map .spill

/-- A sheaf as it leaves HBM for the flash: its check made again where words were found uncorrectable, the poison bit set with its marks (R153, R374). -/
def sheafLeaves (was sh : Sheaf) : Sheaf :=
  { sh with tag := tagWith sh.tag (tagOrdinal sh.tag) (if was.body = sh.body then tagCheck sh.tag else bodyCheck sh) (tagPoison sh.tag || !sh.marks.isEmpty) }

/-- Counted retained epochs (R230). -/
def countedEpochs (st : Store) : Nat := (st.holds.foldl (fun l p => setIns l p.1) st.snaps).length

/-- HOLDs accepted whose record is not yet in the hold table. -/
def pendingHolds (k : Croft) : Nat :=
  (k.jobs.filter (fun j => j.2.holdReq.isSome)).length + (k.store.commits.filter (fun m => m.hold.isSome)).length

/-- Whether one more epoch may count as retained: 4,096, the HOLDs under way included (R230). -/
def epochRoom (k : Croft) : Bool := countedEpochs k.store + pendingHolds k < 4096

/-- A record added to the three copies of a croft's epoch table, each in its package (R229, R341). -/
def recordTable (s : State) (c : Nat) : State :=
  appendRecords (modStore s c (fun st => { st with tables := st.tables.map (fun x =>
    tableCopy (x.seq + 1) st.epoch (st.epochs.filter (fun e => epochKept st e.1)) st.snaps st.holds) })) (tableOf c)

/-- The lowest poisoned segment a mapping references that no earlier epoch has, by key and index (R227). -/
def poisonedNew (s : State) (new : FMap Obj) (old : FMap (FMap Obj)) : Option (Nat × Nat) :=
  let had := old.flatMap (fun e => mapSerials e.2)
  (new.flatMap (fun p => p.2.segs.zipIdx.filterMap (fun e =>
    if had.contains e.1 then none
    else match segOf s e.1 with
      | some g => if g.poison then some (p.1, e.2) else none
      | none => none))).head?

/-! ### Reading -/

/-- The segments of an object in a range, none where one has been removed (R232). -/
def segsAt (s : State) (c key : Nat) (o : Obj) (i n : Nat) : Option (List (Nat × Segment)) :=
  ((o.segs.drop i).take n).zipIdx.foldr (fun e acc =>
    match acc with
    | none => none
    | some l =>
      if e.1 = 0 then some ((0, segEmpty c key (i + e.2)) :: l)
      else (segOf s e.1).map (fun g => (e.1, g) :: l)) (some [])

/-- Whether the package of a segment is in conflict (R381). -/
def segConflict (s : State) (serial : Nat) : Bool := serial ≠ 0 && (packageOf s (segmentPackage serial)).conflict

end Sys2Proof.Machine
end

