-- ==== Sys2Proof/Machine/VSet.lean ====
section
/-! DEFINITION. Vector sets: header, columns, reading and rewriting their sheaves, updates (R176 to R182, R474). -/

namespace Sys2Proof.Machine

/-- A vector-set header (R176). -/
structure SetHdr where
  number : Nat
  chunks : Nat
  attr : Nat
  inner : Bool
  fp : Nat
  dims : Nat
  nodes : Bool
  dmax : Nat
  cap : Nat
  cbSh : Nat
  codeSh : Nat
  attrSh : Nat
  idSh : Nat
  tombSh : Nat
  fpSh : Nat
  nodeSh : Nat
  entries : List Nat
  deriving DecidableEq, Repr

/-- The fields of a header's bytes. -/
def setHdrOf (b : List Byte) : SetHdr :=
  { number := leAt b 6 2, chunks := leAt b 8 1, attr := 16 * leAt b 9 1, inner := leAt b 10 1 = 1
    fp := leAt b 11 1, dims := leAt b 12 2, nodes := leAt b 14 1 = 1, dmax := leAt b 15 1, cap := leAt b 16 8
    cbSh := leAt b 24 4, codeSh := leAt b 28 4, attrSh := leAt b 32 4, idSh := leAt b 36 4
    tombSh := leAt b 40 4, fpSh := leAt b 44 4, nodeSh := leAt b 48 4
    entries := (List.range 16).map (fun i => leAt b (56 + 4 * i) 4) }

/-- Subspaces S. -/
def SetHdr.subs (h : SetHdr) : Nat := 32 * h.chunks
/-- Bytes of a full-precision element. -/
def SetHdr.fpBytes (h : SetHdr) : Nat := if h.fp = 2 then 2 else 1
/-- Bytes of a full-precision record. -/
def SetHdr.fpRec (h : SetHdr) : Nat := if h.fp = 0 then 0 else h.dims * h.fpBytes
/-- Loads groups of 32 vectors per code sheaf, G. -/
def SetHdr.groups (h : SetHdr) : Nat := 64 / h.chunks
/-- Vectors per code sheaf. -/
def SetHdr.codePer (h : SetHdr) : Nat := 32 * h.groups
/-- Stride w of a node record (R179). -/
def SetHdr.nodeW (h : SetHdr) : Nat := (16 + h.attr + h.subs / 2 + 4 * h.dmax + 31) / 32 * 32
/-- Node records per 4 KiB page. -/
def SetHdr.nodePage (h : SetHdr) : Nat := 4096 / h.nodeW

/-- Sheaves a column of `per` records needs. -/
def colSheaves (cap per : Nat) : Nat := (cap + per - 1) / per

/-- The present columns: first sheaf, sheaves, mode (R177, R474). -/
def SetHdr.columns (h : SetHdr) : List (Nat × Nat × Nat) :=
  [(h.codeSh, colSheaves h.cap h.codePer, 0), (h.attrSh, colSheaves h.cap (32768 / h.attr), 1),
   (h.idSh, colSheaves h.cap 4096, 2), (h.tombSh, colSheaves h.cap 262144, 3)] ++
  (if h.fp = 0 then [] else [(h.fpSh, colSheaves h.cap (32768 / h.fpRec), 4)]) ++
  (if h.nodes then [(h.nodeSh, colSheaves h.cap (8 * h.nodePage), 5)] else []) ++
  (if h.dims = 0 then [] else [(h.cbSh, (32 * h.dims + 32767) / 32768, 6)])

/-- Whether no two ranges of a list meet. -/
def rangesApart : List (Nat × Nat × Nat) → Bool
  | [] => true
  | x :: xs => xs.all (fun y => x.1 + x.2.1 ≤ y.1 || y.1 + y.2.1 ≤ x.1) && rangesApart xs

/-- Whether a header keeps its table and the layout of R474. -/
def setHdrOk (b : List Byte) : Bool :=
  let h := setHdrOf b
  leAt b 0 4 = 0x53565744 && leAt b 4 2 = 1 && h.number < 1024 && 1 ≤ h.chunks && h.chunks ≤ 8 &&
  (leAt b 9 1 = 1 || leAt b 9 1 = 2) && leAt b 10 1 < 2 && (h.fp = 0 || h.fp = 2 || h.fp = 4) &&
  (if h.fp = 0 then h.dims = 0 else h.dims ≠ 0 && h.dims % h.subs = 0 && h.dims ≤ 4096) &&
  leAt b 14 1 < 2 && h.dmax ≤ 64 && (h.nodes || h.dmax = 0) && h.cap % 32 = 0 && 32 ≤ h.cap &&
  h.cap ≤ (if h.nodes then 2 ^ 32 - 32 else 2 ^ 40) && h.nodeW ≤ 4096 && zerosAt b 52 55 && zerosAt b 120 255 &&
  h.columns.all (fun x => 1 ≤ x.1) && rangesApart h.columns &&
  (h.fp ≠ 0 || h.fpSh = 0) && (h.nodes || h.nodeSh = 0) && (h.dims ≠ 0 || h.cbSh = 0)

/-! ### The sheaves of a set -/

/-- The written sheaves of an object by ordinal. -/
def objImg (s : State) (o : Obj) : FMap Sheaf :=
  o.segs.zipIdx.flatMap (fun e =>
    match segOf s e.1 with
    | some g => g.sheaves.map (fun p => (32 * e.2 + p.1, p.2))
    | none => [])

/-- The sheaf of an ordinal, zero where none is written. -/
def imgSheaf (m : FMap Sheaf) (n : Nat) : Sheaf := mapGet m n sheafZero

/-- `k` bytes at an offset of a sheaf. -/
def imgBytes (m : FMap Sheaf) (n off k : Nat) : List Byte := memGetL 0 (imgSheaf m n).body off k

/-- The sheaves with bytes written at an offset of one. -/
def imgPut (m : FMap Sheaf) (n off : Nat) (bs : List Byte) : FMap Sheaf :=
  let sh := imgSheaf m n
  mapSet m n { sh with body := memPutL 0 sh.body off bs }

/-- The header of a set from its first sheaf. -/
def imgHdr (m : FMap Sheaf) : SetHdr := setHdrOf (imgBytes m 0 0 256)

/-- Code of ordinal `n` in subspace `x` (R178). -/
def imgCode (h : SetHdr) (m : FMap Sheaf) (n x : Nat) : Nat :=
  let ld := (n / 32 % h.groups) * h.chunks + x / 32
  let b := leNat (imgBytes m (h.codeSh + n / h.codePer) (512 * ld + 16 * (x % 32) + n % 32 / 2) 1)
  if n % 2 = 0 then b % 16 else b / 16

/-- The sheaves with one code written. -/
def imgPutCode (h : SetHdr) (m : FMap Sheaf) (n x v : Nat) : FMap Sheaf :=
  let ld := (n / 32 % h.groups) * h.chunks + x / 32
  let sh := h.codeSh + n / h.codePer
  let off := 512 * ld + 16 * (x % 32) + n % 32 / 2
  let b := leNat (imgBytes m sh off 1)
  imgPut m sh off [BitVec.ofNat 8 (if n % 2 = 0 then b / 16 * 16 + v % 16 else b % 16 + 16 * (v % 16))]

/-- Attribute bytes, ID, tombstone bit and full-precision bytes of an ordinal. -/
def imgAttr (h : SetHdr) (m : FMap Sheaf) (n : Nat) : List Byte :=
  imgBytes m (h.attrSh + n / (32768 / h.attr)) (n % (32768 / h.attr) * h.attr) h.attr
def imgId (h : SetHdr) (m : FMap Sheaf) (n : Nat) : Nat := leNat (imgBytes m (h.idSh + n / 4096) (n % 4096 * 8) 8)
def imgTomb (h : SetHdr) (m : FMap Sheaf) (n : Nat) : Bool :=
  leNat (imgBytes m (h.tombSh + n / 262144) (n % 262144 / 8) 1) / 2 ^ (n % 8) % 2 = 1
def imgFp (h : SetHdr) (m : FMap Sheaf) (n : Nat) : List Byte :=
  imgBytes m (h.fpSh + n / (32768 / h.fpRec)) (n % (32768 / h.fpRec) * h.fpRec) h.fpRec

/-- The place of a node record: sheaf and offset (R177, R179). -/
def nodeAt (h : SetHdr) (n : Nat) : Nat × Nat :=
  (h.nodeSh + n / (8 * h.nodePage), n / h.nodePage % 8 * 4096 + n % h.nodePage * h.nodeW)

/-- A node record's bytes. -/
def imgNode (h : SetHdr) (m : FMap Sheaf) (n : Nat) : List Byte :=
  imgBytes m (nodeAt h n).1 (nodeAt h n).2 h.nodeW

/-- The neighbours of a node, in list order. -/
def nodeNeighbours (h : SetHdr) (b : List Byte) : List Nat :=
  (List.range (min (leAt b 8 1) h.dmax)).map (fun i => leAt b (16 + h.attr + h.subs / 2 + 4 * i) 4)

/-- The sheaves with an ordinal tombstoned. -/
def imgKill (h : SetHdr) (m : FMap Sheaf) (n : Nat) : FMap Sheaf :=
  let sh := h.tombSh + n / 262144
  let off := n % 262144 / 8
  let b := leNat (imgBytes m sh off 1)
  imgPut m sh off [BitVec.ofNat 8 (b ||| 2 ^ (n % 8))]

/-- Whether an ordinal below the high water is live. -/
def imgLive (h : SetHdr) (m : FMap Sheaf) (hw n : Nat) : Bool := n < hw && !imgTomb h m n

/-- The live ordinal of an ID (R181). -/
def imgFind (h : SetHdr) (m : FMap Sheaf) (hw id : Nat) : Option Nat :=
  (List.range hw).find? (fun n => imgId h m n = id && imgLive h m hw n)

/-- The high-water ordinal as the ID column's tags carry it: their Records fields (DESIGN CHOICE: where it lies in a set that is moved by raw segments). -/
def imgHw (h : SetHdr) (m : FMap Sheaf) : Nat :=
  (List.range (colSheaves h.cap 4096)).foldl (fun a i =>
    match mapGet? m (h.idSh + i) with
    | some sh => max a (4096 * i + tagRecords sh.tag)
    | none => a) 0

/-- Live records of a set. -/
def imgLiveCount (h : SetHdr) (m : FMap Sheaf) (hw : Nat) : Nat := ((List.range hw).filter (fun n => imgLive h m hw n)).length

/-! ### Writing a set back -/

/-- Records and record stride of sheaf `i` of a column, by the table of R177; the ID column's Records stop at the high water. -/
def columnRecords (h : SetHdr) (hw i : Nat) : Nat → Nat × Nat
  | 0 => (h.groups * h.chunks, 512)
  | 1 => (32768 / h.attr, h.attr)
  | 2 => (min 4096 (hw - 4096 * i), 8)
  | 4 => (32768 / h.fpRec, h.fpRec)
  | 5 => (8 * h.nodePage, h.nodeW)
  | _ => (0, 0)

/-- A column sheaf's tag: kind 0x5, the column's mode, its records and stride with no side data, ordinal and body check; the header sheaf is raw (R150, R151, R177). -/
def columnTag (h : SetHdr) (hw n : Nat) (sh : Sheaf) : BitVec 256 :=
  let base : Nat := match h.columns.find? (fun x => x.1 ≤ n && n < x.1 + x.2.1) with
    | some (f, _, mode) =>
      let r := columnRecords h hw (n - f) mode
      5 + mode * 2 ^ 16 + r.1 * 2 ^ 32 + r.2 * 2 ^ 48 + (r.1 * r.2 + 31) / 32 * 2 ^ 64
    | none => 0
  tagWith (BitVec.ofNat 256 base) n (bodyCheck sh) false

/-- The sheaves whose bodies changed given their tags. -/
def stampImg (h : SetHdr) (hw : Nat) (old new : FMap Sheaf) : FMap Sheaf :=
  new.map (fun p => if (mapGet? old p.1) = some p.2 then p else (p.1, { p.2 with tag := columnTag h hw p.1 p.2 }))

/-- The sheaves of one segment of an image. -/
def imgSegment (m : FMap Sheaf) (i : Nat) : FMap Sheaf :=
  (m.filter (fun p => 32 * i ≤ p.1 && p.1 < 32 * i + 32)).map (fun p => (p.1 - 32 * i, p.2))

/-- Segments in an image: one more than the highest that holds a written sheaf (R474). -/
def imgSegs (m : FMap Sheaf) : Nat := m.foldl (fun a p => max a (p.1 / 32 + 1)) 0

/-- The segments of an image in order: an unchanged segment keeps its serial, an unwritten one is empty, a changed one is written anew, in class T2 (DESIGN CHOICE: R474 names no class); none where the quota is full. -/
def rebuildSegs (c key op epoch : Nat) (o : Obj) (m : FMap Sheaf) : Nat → State → Option (List Nat × State)
  | 0, s => some ([], s)
  | i + 1, s =>
    match rebuildSegs c key op epoch o m i s with
    | none => none
    | some (l, s1) =>
      let sh := imgSegment m i
      let old := (o.segs[i]?).getD 0
      if sh.isEmpty then some (l ++ [0], s1)
      else if ((segOf s1 old).map (·.sheaves)) = some sh then some (l ++ [old], s1)
      else
        (addSegments c 2 op [some ⟨c, 2, sh.any (fun p => tagPoison p.2.tag), true, true, key, i, epoch, sh⟩] s1).map
          (fun r => (l ++ r.1, r.2))

/-- A set's object rebuilt from changed sheaves, with the segments it needs. -/
def rebuildSet (s : State) (c key op : Nat) (o : Obj) (m : FMap Sheaf) (hw : Nat) : Option (Obj × State) :=
  let h := imgHdr m
  let st := stampImg h hw (objImg s o) m
  let epoch := match croft? s c with
    | some k => k.store.epoch + 1
    | none => 0
  (rebuildSegs c key op epoch o st (imgSegs st) s).map (fun r =>
    (⟨r.1, true, hw, imgLiveCount h st hw⟩, r.2))

/-! ### Updates (R182) -/

/-- An update entry: op, key, body. -/
structure UEntry where
  op : Nat
  key : Nat
  body : List Byte
  deriving DecidableEq, Repr

/-- Body bytes of an op in a set. -/
def bodyLen (h : SetHdr) (op : Nat) : Nat :=
  let nb := if h.nodes then 4 * h.dmax else 0
  if op = 1 then h.attr + h.subs / 2 + h.fpRec + nb else if op = 3 then 4 * h.dmax else 0

/-- The neighbour ordinals of a body. -/
def bodyNeighbours (h : SetHdr) (e : UEntry) : List Nat :=
  let off := if e.op = 1 then h.attr + h.subs / 2 + h.fpRec else 0
  if h.nodes then (List.range h.dmax).map (fun i => leAt e.body (off + 4 * i) 4) else []

/-- Degree of a neighbour list: entries before the first all-ones. -/
def degreeOf (l : List Nat) : Nat := (l.takeWhile (· ≠ 0xFFFFFFFF)).length

/-- Whether one entry is sound at the high water it sees. -/
def entryOk (h : SetHdr) (hw : Nat) (e : UEntry) : Bool :=
  let nb := bodyNeighbours h e
  (nb.drop (degreeOf nb)).all (· = 0xFFFFFFFF) && (e.op ≠ 1 || e.key ≠ 0xFFFFFFFFFFFFFFFF) &&
  (e.op ≠ 3 || (h.nodes && e.key < hw))

/-- The entries of an UPDATE's bytes, every one judged; none where any has a fault. -/
def parseEntries (h : SetHdr) : Nat → Nat → List Byte → Option (List UEntry)
  | 0, _, b => if b.isEmpty then some [] else none
  | n + 1, hw, b =>
    if b.isEmpty then some []
    else
      let op := leAt b 0 1
      let len := (16 + bodyLen h op + 31) / 32 * 32
      let e : UEntry := ⟨op, leAt b 8 8, sub b 16 (bodyLen h op)⟩
      if b.length < 16 + bodyLen h op || op = 0 || 3 < op || !zerosAt b 1 7 || !entryOk h hw e then none
      else (parseEntries h n (if op = 1 then min (hw + 1) h.cap else hw) (b.drop len)).map (e :: ·)

/-- The running result of an update: sheaves, high water, first ordinal, inserts, deletes of IDs that are not live, whether an insert met a full set. -/
structure URun where
  img : FMap Sheaf
  hw : Nat
  first : Option Nat
  inserts : Nat
  notFound : Nat
  full : Bool
  deriving DecidableEq, Repr

/-- Neighbour bytes of a node record: the list, all-ones after the degree. -/
def nodeTail (h : SetHdr) (nb : List Nat) : List Byte :=
  (List.range h.dmax).flatMap (fun i => leBytes 4 ((nb[i]?).getD 0xFFFFFFFF))

/-- One insert at the high water: every column of its record (R177 to R179). -/
def insertRec (h : SetHdr) (m : FMap Sheaf) (n : Nat) (e : UEntry) : FMap Sheaf :=
  let attr := sub e.body 0 h.attr
  let code := sub e.body h.attr (h.subs / 2)
  let m1 := (List.range h.subs).foldl (fun m x =>
    let b := leAt code (x / 2) 1
    imgPutCode h m n x (if x % 2 = 0 then b % 16 else b / 16)) m
  let m2 := imgPut m1 (h.attrSh + n / (32768 / h.attr)) (n % (32768 / h.attr) * h.attr) attr
  let m3 := imgPut m2 (h.idSh + n / 4096) (n % 4096 * 8) (leBytes 8 e.key)
  let m4 := imgPut m3 (h.tombSh + n / 262144) 0 (imgBytes m3 (h.tombSh + n / 262144) 0 1)
  let m5 := if h.fp = 0 then m4
    else imgPut m4 (h.fpSh + n / (32768 / h.fpRec)) (n % (32768 / h.fpRec) * h.fpRec) (sub e.body (h.attr + h.subs / 2) h.fpRec)
  if h.nodes then
    let nb := bodyNeighbours h e
    imgPut m5 (nodeAt h n).1 (nodeAt h n).2
      (leBytes 8 e.key ++ [BitVec.ofNat 8 (degreeOf nb)] ++ List.replicate 7 0 ++ attr ++ code ++ nodeTail h nb)
  else m5

/-- One entry applied (R181, R182). -/
def applyEntry (h : SetHdr) (r : URun) (e : UEntry) : URun :=
  match e.op with
  | 1 =>
    if h.cap ≤ r.hw then { r with full := true }
    else
      let m := match imgFind h r.img r.hw e.key with
        | some n => imgKill h r.img n
        | none => r.img
      { r with
        img := insertRec h m r.hw e
        hw := r.hw + 1
        first := some (r.first.getD r.hw)
        inserts := r.inserts + 1 }
  | 2 =>
    match imgFind h r.img r.hw e.key with
    | some n => { r with img := imgKill h r.img n }
    | none => { r with notFound := r.notFound + 1 }
  | _ =>
    let nb := bodyNeighbours h e
    let p := nodeAt h e.key
    let m := imgPut r.img p.1 (p.2 + 8) [BitVec.ofNat 8 (degreeOf nb)]
    { r with img := imgPut m p.1 (p.2 + 16 + h.attr + h.subs / 2) (nodeTail h nb) }

/-- Every set of a mapping with its number. -/
def setsOf (s : State) (m : FMap Obj) : List (Nat × Nat) :=
  (m.filter (fun p => p.2.isSet)).map (fun p => (p.1, (imgHdr (objImg s p.2)).number))

/-- The set of a number in a mapping: key and object. -/
def findSet (s : State) (m : FMap Obj) (number : Nat) : Option (Nat × Obj) :=
  m.find? (fun p => p.2.isSet && (imgHdr (objImg s p.2)).number = number)

end Sys2Proof.Machine
end

