-- ==== Sys2Proof/Machine/JobOps.lean ====
section
/-! DEFINITION. Jobs: readings, training state records, weight-set digests, pins, and the ways a job ends (R106 to R108, R234, R252, R258, R266, R270, R319). -/

namespace Sys2Proof.Machine

/-- The identity private key: the seed and "DWID" through SHAKE256-456 (R451). -/
def identityKey (s : State) : List Byte := shake256 57 (s.fuse.seed ++ [0x44, 0x57, 0x49, 0x44])

/-- The identity public key (R451). -/
def identityPublic (s : State) : List Byte := edPublic (identityKey s)

/-- A message signed under the identity key; the signature made is counted (0xA4C0.03). -/
def identitySign (s : State) (msg : List Byte) : List Byte × State := (edSign (identityKey s) msg, bump s 0xA4C0 3 1)

/-- A job of a croft. -/
def jobOf (s : State) (c id : Nat) : Option Job := (croft? s c).bind (fun k => mapGet? k.jobs id)

/-- The state with a job changed. -/
def modJob (s : State) (c id : Nat) (f : Job → Job) : State := modCroft s c (fun k => { k with jobs := mapMod k.jobs id f })

/-- Open jobs of a croft: not faulted (R266). -/
def openJobs (k : Croft) : List Job := (k.jobs.map (·.2)).filter (fun j => !j.faulted)

/-- Whether this module is the master of its Bell domain: master-capable, and it knows of no better one (R249). -/
def bellMaster (s : State) : Bool := odGet s 0x9100 1 = 2 && s.bell.mPrio = 0x100

/-- The Bell state: the master is locked by definition, a standalone module is free (R249). -/
def bellState (s : State) : Nat := if odGet s 0x9100 1 = 0 then 0 else if bellMaster s then 2 else s.bell.state

/-- The level ceiling in effect for a croft: a written one holds at once where no step runs, and from its next step boundary where one does (R14, R247). -/
def ceilingOf (s : State) (c : Nat) : Nat :=
  let wait (k : Croft) : Option Nat := k.deferred.findSome? (fun d => match d with
    | .entry key v => if key = odKey 0x2300 1 then some v else none
    | _ => none)
  match s.crofts.findSome? (fun p => wait p.2) with
  | some v => if (croft? s c).any (fun k => (wait k).isSome) then odGet s 0x2300 1 else v
  | none => odGet s 0x2300 1

/-- A job's Bell reading (R252). -/
def jobReading (s : State) (j : Job) : Nat := (s.bell.count + j.bellOff) % 2 ^ 64

/-- A job's tag on the link: its group's, else its identifier (R296). -/
def jobTag (j : Job) : Nat := match j.group with
  | some g => leAt g 16 8
  | none => j.id

/-- The step number and attempt a job runs or would run next, and whether it runs. -/
def jobTurn (k : Croft) (j : Job) : Nat × Nat × Bool :=
  match k.run with
  | some r => if r.job = j.id then (r.number, r.step.attempt, true) else (j.published, ((j.steps.head?).map (·.attempt)).getD 0, false)
  | none => (j.published, ((j.steps.head?).map (·.attempt)).getD 0, false)

/-! ### The training state record (R108) -/

def trSeed (b : List Byte) : Nat := leAt b 0 8
def trIndex (b : List Byte) : Nat := leAt b 8 8
def trLse (b : List Byte) : Int := signed 16 (leAt b 16 2)
def trBackoff (b : List Byte) : Int := signed 8 (leAt b 18 1)
def trGrowth (b : List Byte) : Int := signed 8 (leAt b 19 1)
def trInterval (b : List Byte) : Nat := leAt b 20 4
def trClean (b : List Byte) : Nat := leAt b 24 4
def trFloor (b : List Byte) : Int := signed 16 (leAt b 28 2)
def trCeil (b : List Byte) : Int := signed 16 (leAt b 30 2)
def trControl (b : List Byte) : Bool := leAt b 48 1 % 2 = 1

/-- Whether a record keeps the rules of R108. -/
def trainOk (b : List Byte) : Bool :=
  leAt b 48 1 < 2 && zerosAt b 49 63 && trFloor b ≤ trLse b && trLse b ≤ trCeil b && -126 ≤ trFloor b && trCeil b ≤ 127 &&
  -8 ≤ trBackoff b && trBackoff b ≤ -1 && 1 ≤ trGrowth b && trGrowth b ≤ 8 &&
  1 ≤ trInterval b && trInterval b ≤ 1000000 && trClean b < trInterval b

/-- The record built from a croft's entries and a base seed (R107). -/
def trainNew (s : State) (c seed : Nat) : List Byte :=
  let g := fun sub => odGet s (0x3500 + c) sub
  leBytes 8 seed ++ leBytes 8 0 ++ leBytes 2 (g 2) ++ leBytes 1 (g 5) ++ leBytes 1 (g 6) ++ leBytes 4 (g 7) ++ leBytes 4 0 ++
  leBytes 2 (g 3) ++ leBytes 2 (g 4) ++ leBytes 8 0 ++ leBytes 8 0 ++ leBytes 1 (g 1) ++ List.replicate 15 0

/-! ### Digests -/

/-- The image digest of a loaded image (bytes 88 to 151 of its header). -/
def imageDigest (im : Image) : List Byte := memGetL 0 im.bytes 88 64

/-- The bytes one object adds to a weight-set digest (R234). -/
def weightPart (s : State) (key : Nat) (o : Obj) : List Byte :=
  leBytes 8 key ++ leBytes 8 o.segs.length ++
  o.segs.flatMap (fun x => match segOf s x with
    | some g => segDigest g
    | none => segDigest (segEmpty 0 0 0))

/-- The weight-set digest of keys at a mapping; none where a key is missing (R234). -/
def weightDigest (s : State) (m : FMap Obj) (keys : List Nat) : Option (List Byte) :=
  if keys.all (fun k => (objOf m k).isSome) then
    some (shake256 64 (keys.flatMap (fun k => match objOf m k with
      | some o => weightPart s k o
      | none => [])))
  else none

/-- The weight-set digest of a binding set's read-only objects, 64 zero bytes without one (R258). -/
def bindDigest (s : State) (b : BSet) : List Byte :=
  let objs := b.binds.foldl (fun (m : FMap Obj) x => if x.kind = 2 then mapSet m x.key x.obj else m) []
  if objs.isEmpty then List.replicate 64 0
  else shake256 64 (objs.flatMap (fun p => weightPart s p.1 p.2))

/-! ### Pins -/

/-- The pin of an Almanac record by a job: for its running step, or for its next (R166, R168). -/
def pinTag (job record : Nat) (next : Bool) : Nat := job * 2097152 + (if next then 1048576 else 0) + record

/-- Whether a pin belongs to a job. -/
def pinOfJob (job p : Nat) : Bool := p / 2097152 = job

/-- The state with a job's pins gone from its croft's copies and promotions. -/
def releaseJobPins (s : State) (c job : Nat) : State :=
  modCroft s c (fun k => { k with
    copies := k.copies.map (fun y =>
      { y with pins := y.pins.filter (fun p => !pinOfJob job p), jobPin := y.jobPin.filter (· ≠ job) })
    promos := k.promos.map (fun p =>
      { p with record := p.record.filter (fun t => !pinOfJob job t), jobPin := p.jobPin.filter (· ≠ job) }) })

/-! ### Removing what a function made -/

/-- Frames of every binding of a set. -/
def bsetFrames (b : BSet) : List Nat := b.binds.flatMap (fun x => x.frames.map (·.2))

/-- A binding set removed: its frames freed, its spill locations stale, its segments no longer read. -/
def removeBSet (s : State) (c h : Nat) : State :=
  match croft? s c with
  | none => s
  | some k =>
    match mapGet? k.bsets h with
    | none => s
    | some b => freeSegments (dropRefs (freeFrames (putCroft s c { k with bsets := mapDel k.bsets h }) (bsetFrames b)) (bsetSpills b)) c

/-- Whether an open job uses an image or a binding set, or a PERSIST still reads the set. -/
def imageInUse (k : Croft) (h : Nat) : Bool := (openJobs k).any (fun j => j.image = h && j.kind < 2)
def bsetInUse (k : Croft) (h : Nat) : Bool :=
  (openJobs k).any (fun j => j.bset = h && j.kind < 2) || k.store.persists.any (fun w => w.bset = h)

/-- The owner of what a reset function made and no job has let go of yet (R319). -/
def orphanFn : Nat := 0xFF

/-- Images, binding sets and the Almanac whose function was reset, removed once no job uses them (R319). -/
def dropOrphans (s : State) (c : Nat) : State :=
  match croft? s c with
  | none => s
  | some k =>
    let almGone := k.alm.any (fun a => a.fn = orphanFn && !imageInUse k a.image)
    let alm := if almGone then none else k.alm
    let used (h : Nat) : Bool := imageInUse k h || alm.any (fun a => a.image = h)
    let s1 := putCroft s c { k with alm := alm, images := k.images.filter (fun p => p.2.fn ≠ orphanFn || used p.1) }
    let exported (h : Nat) : Bool := s.exports.any (fun p => p.2.croft = c && p.2.bset = h)
    ((k.bsets.filter (fun p => p.2.fn = orphanFn && !bsetInUse k p.1 && !exported p.1)).map (·.1)).foldl (fun s h => removeBSet s c h) s1

/-! ### Ends of a job -/

/-- The tickets of an accepted step: its descriptor's, or its requests'. -/
def stepTickets (q : QStep) : List Ticket :=
  match q.ticket with
  | some t => [t]
  | none => q.reqs.map (·.ticket)

/-- Every ticket of a list completed with a status. -/
def doneAll (s : State) (l : List Ticket) (status : Nat) : State := l.foldl (fun s t => done s t status) s

/-- The tickets a job still owes: queued steps, then requests not yet batched. -/
def jobTickets (j : Job) : List Ticket := j.steps.flatMap stepTickets ++ j.reqs.map (·.ticket)

/-- A pending HOLD passed over by another end of its job: hold-invalid. -/
def dropHold (s : State) (j : Job) : State :=
  match j.holdReq with
  | some h => done s h.ticket 0x18
  | none => s

/-- A job ended: queued work completes with a status, a close is answered, the job and its pins go (R266, R270). -/
def endJob (s : State) (c id status : Nat) : State :=
  match jobOf s c id with
  | none => s
  | some j =>
    let s1 := modCroft s c (fun k => { k with jobs := mapDel k.jobs id })
    let s2 := dropHold (doneAll (releaseJobPins s1 c id) (jobTickets j) status) j
    let s3 := match j.closing with
      | some t => done s2 t 0
      | none => s2
    dropOrphans (freeSegments s3 c) c

/-- A job ended as complete: by STEP with END, a close or a hold (R280). -/
def endJobDone (s : State) (c id : Nat) : State := bump (endJob s c id 0x41) (0xA380 + c) 2 1

/-- A job faulted: every further step queued on it completes job-faulted and is not run; a close waiting on it is answered (R270). -/
def faultJob (s : State) (c id : Nat) : State :=
  match jobOf s c id with
  | none => s
  | some j =>
    let s1 := modJob s c id (fun j => { j with faulted := true, steps := [], reqs := [], holdReq := none, nextIssued := [] })
    let s2 := bump (dropHold (doneAll (releaseJobPins s1 c id) (jobTickets j) 0x40) j) (0xA380 + c) 3 1
    if j.closing.isSome then endJob s2 c id 0x41 else dropOrphans s2 c

end Sys2Proof.Machine
end

