-- ==== Sys2Proof/Machine/OdOps.lean ====
section
/-! DEFINITION. Dictionary responses and the effects a write defers to a step boundary: responses, parked requests, saves, quotas lowered (R14, R160 to R163, R389 to R396). -/

namespace Sys2Proof.Machine

/-! ### Responses -/

/-- A response to a request's 20 header bytes (R389, R391). -/
def replyBytes (hdr : List Byte) (status flags session ty : Nat) (data : List Byte) : List Byte :=
  pdu ((leAt hdr 1 1 + 0x80) % 256) status flags session (leAt hdr 6 2) (leAt hdr 8 2) (leAt hdr 10 1) ty (leAt hdr 12 4) data

/-- A response sent in a session, kept for a repeat of its request (R394). -/
def odAnswer (s : State) (sid : Nat) (hdr : List Byte) (status flags ty : Nat) (data : List Byte) : State :=
  match mapGet? s.sessions sid with
  | none => s
  | some n =>
    let b := replyBytes hdr status flags sid ty data
    let n' := if leAt hdr 6 2 = n.counter then { n with response := b, inProgress := false } else n
    transmit { s with sessions := mapSet s.sessions sid n' } n.transport b

/-- A request of a session put in progress, its response to follow (R395, R396). -/
def odPark (s : State) (sid key : Nat) (croft : Option Nat) (saved : Bool) (hdr data : List Byte) : State :=
  { s with
    parked := s.parked ++ [⟨sid, hdr, key, croft, saved, croft.isSome, data⟩]
    sessions := mapMod s.sessions sid (fun n => { n with inProgress := true })
    savePending := s.savePending || (saved && croft.isNone) }

/-- A parked request answered: the response to an rws write carries the saved flag (R396). -/
def odRelease (s : State) (p : Parked) : State :=
  match odFind (p.key / 256) (p.key % 256) with
  | some e => odAnswer s p.session p.header 0 (if e.acc = 3 then 2 else 0) e.ty p.data
  | none => s

/-- The parked requests of one effect that has taken place: those that need a save wait for it, the others are answered (R395). -/
def odEffectDone (s : State) (key : Nat) : State :=
  let mine (p : Parked) : Bool := p.key = key && p.croft.isSome
  let now := s.parked.filter (fun p => mine p && !p.saved)
  let s1 := { s with
    parked := (s.parked.filter (fun p => !(mine p && !p.saved))).map (fun p => if mine p then { p with croft := none } else p)
    savePending := s.savePending || s.parked.any (fun p => mine p && p.saved) }
  now.foldl odRelease s1

/-- The parked croft commands of a croft whose effect has taken place, answered (R14, R264, R395). -/
def odCroftDone (s : State) (c : Nat) : State :=
  let mine (p : Parked) : Bool := p.key = odKey (0x3000 + c) 8 && p.croft = some c
  (s.parked.filter mine).foldl odRelease { s with parked := s.parked.filter (fun p => !mine p) }

/-- Whether an entry is held in the saved dictionary: the rws entries, and the origins of the calibration values (R388, R424). -/
def odSavedEntry (e : OdEntry) : Bool := e.acc = 3 || (e.acc = 0 && 0x7000 ≤ e.index && e.index < 0x7500)

/-- Every saved value with its key: the dictionary a save programs (R388). -/
def savedVals (s : State) : FMap Nat :=
  s.od.filter (fun p => match odFind (p.1 / 256) (p.1 % 256) with
    | some e => odSavedEntry e
    | none => false)

/-- A save: the older or invalid copy takes the whole dictionary with the next sequence number, and the requests gathered into it are answered (R388, R396); none while the copies conflict (R381). -/
def odSave (s : State) : State :=
  if s.dictConflict then s else
  let copy := dictCopy (max s.dictA.seq s.dictB.seq + 1) (savedVals s) s.doms (wrappedKeys s)
  let s1 := if !s.dictA.valid || (s.dictB.valid && s.dictA.seq < s.dictB.seq) then { s with dictA := copy } else { s with dictB := copy }
  let ready := s1.parked.filter (fun p => p.saved && p.croft.isNone)
  ready.foldl odRelease (bump { s1 with savePending := false, parked := s1.parked.filter (fun p => !(p.saved && p.croft.isNone)) } 0xA500 6 1)

/-! ### Spill (R162, R163) -/

/-- Whether a spill step of a croft is enabled: 0 T0 to T1, 1 T1 to flash, 2 T2 to T3. -/
def spillOn (s : State) (c step : Nat) : Bool := odGet s (0x4100 + c) 6 / 2 ^ step % 2 = 1

/-- How many of `n` more spilled sheaves of a croft T2 takes, within its quota and the size of the class, and how many of the others T3 (R162, R342). -/
def spillSplit (s : State) (c : Nat) (k : Croft) (n : Nat) : Nat × Nat :=
  let two := min n (min ((quota s c 3 - flashUse s c k 2) / sheafBytes) ((odGet s 0x4000 1 * 1000000000 - t2ClassUse s) / sheafBytes))
  (two, min (n - two) ((quota s c 4 - flashUse s c k 3) / sheafBytes))

/-- One T1 sheaf of a binding spilled: read from its frame, which is freed, and programmed in a class (R162, R371). -/
def spillSheaf (c : Nat) (p : Binding × State) (x : (Nat × Nat) × Nat) : Binding × State :=
  let n := x.1.1
  let was := mapGet p.1.sheaves n sheafZero
  let r := readFrame p.2 (some c) x.1.2 was
  let w := spillWrite (freeFrame (hbmMoved r.2.2 c (x.1.2 / stackFrames) sheafBytes) x.1.2) 0 x.2
  ({ p.1 with
      frames := mapDel p.1.frames n, spill := mapSet p.1.spill n (x.2, w.1)
      sheaves := if r.1 = was then p.1.sheaves else mapSet p.1.sheaves n (sheafLeaves was r.1) }, w.2)

/-- The highest T1 sheaves of a binding moved to the flash, the first `two` of them to T2 and the last `three` to T3. -/
def spillBinding (s : State) (c h i : Nat) (b : Binding) (two three : Nat) : State :=
  let gone := (b.frames.drop (b.frames.length - (two + three))).zipIdx.map (fun f => (f.1, if f.2 < two then 2 else 3))
  let r := gone.foldl (spillSheaf c) (b, s)
  let s1 := modCroft r.2 c (fun k => { k with bsets := mapMod k.bsets h (fun x => { x with binds := x.binds.set i r.1 }) })
  bump (bump (bump s1 (0xA280 + c) 6 ((two + three) * sheafBytes)) (0xA380 + c) 0x0B (two * sheafBytes)) (0xA380 + c) 0x0D (three * sheafBytes)

/-- The bindings of a croft with their set and index, the last made last (R163). -/
def bindsByAge (k : Croft) : List (Nat × Nat × Binding) :=
  (k.bsets.mergeSort (fun a b => a.2.order ≤ b.2.order)).flatMap (fun p => p.2.binds.zipIdx.map (fun b => (p.1, b.2, b.1)))

/-- One spill that helps T1: the last made set's last buffer binding that holds frames gives up its highest sheaves, at most `need` of them, as far as the flash takes them. -/
def spillOnce (s : State) (c need : Nat) : State :=
  match croft? s c with
  | none => s
  | some k =>
    match ((bindsByAge k).filter (fun x => x.2.2.kind < 2 && !x.2.2.frames.isEmpty)).getLast? with
    | none => s
    | some (h, i, b) =>
      let m := spillSplit s c k (min need b.frames.length)
      if m.1 + m.2 = 0 then s else spillBinding s c h i b m.1 m.2

/-- Bytes of T1 a croft uses above its quota, in sheaves. -/
def t1Excess (s : State) (c : Nat) : Nat :=
  match croft? s c with
  | none => 0
  | some k => (t1Use s c k - quota s c 2 + sheafBytes - 1) / sheafBytes

/-- Spills until T1 fits, at most `n`. -/
def spillT1 (c : Nat) : Nat → State → State
  | 0, s => s
  | n + 1, s => if t1Excess s c = 0 then s else spillT1 c n (spillOnce s c (t1Excess s c))

/-- Copies dropped until T1 fits, in eviction order, at most `n` (R163). -/
def shedCopies (names : AlmRec → Copy → Bool) (c : Nat) : Nat → State → State
  | 0, s => s
  | n + 1, s =>
    match croft? s c with
    | none => s
    | some k =>
      if t1Use s c k ≤ quota s c 2 then s
      else match evictee k names (-1) none with
        | none => s
        | some y => shedCopies names c n (bump (dropCopy s c y) (0xA280 + c) 8 1)

/-- Whether an Almanac record names a copy: its region's binding, in some open job's set, holds the copy's home sheaf in its range (R169). -/
def recNames (k : Croft) (r : AlmRec) (y : Copy) : Bool :=
  match k.alm with
  | none => false
  | some a =>
    (openJobs k).any (fun j => j.image = a.image && match mapGet? k.images j.image, jobSet k j with
      | some im, some bs =>
        let bi := memLe im.bytes (memLe im.bytes 40 8 + 16 * r.region) 4
        match bs.binds[bi]? with
        | some b => (List.range r.count).any (fun i => homeOf b (r.first + i) = some (y.tp, y.home, y.body))
        | none => false
      | _, _ => false)

/-- T0 sheaves of a binding from an ordinal on moved to T1 frames, those frames charged (R162). -/
def t0ToT1 (s : State) (c h i : Nat) (b : Binding) (start : Nat) : State :=
  match croft? s c with
  | none => s
  | some k =>
    let stop := min b.toT1 b.count
    let r := (List.range (stop - start)).foldl (fun (p : FMap Nat × State) x =>
      let n := start + x
      let a := allocFrame p.2 c (codeOf s c 1) (placeStack k b.mode b.vc b.count n)
      (mapSet p.1 n a.1, hbmMoved a.2 c (a.1 / stackFrames) sheafBytes)) (b.frames, s)
    let b' := { b with frames := r.1, toT1 := start }
    let s1 := modCroft r.2 c (fun k => { k with bsets := mapMod k.bsets h (fun x => { x with binds := x.binds.set i b' }) })
    bump s1 (0xA280 + c) 5 ((stop - start) * sheafBytes)

/-- T0 restored in one physical cluster: unpinned copies dropped in eviction order, then T0 buffers spilled from the last made on (R163). -/
def shedT0 (names : AlmRec → Copy → Bool) (c p : Nat) : Nat → State → State
  | 0, s => s
  | n + 1, s =>
    match croft? s c with
    | none => s
    | some k =>
      if t0Use k p ≤ quota s c 1 then s
      else
        match evictee k names (-1) (some p) with
        | some y => shedT0 names c p n (bump (dropCopy s c y) (0xA280 + c) 8 1)
        | none =>
          match ((bindsByAge k).filter (fun x => x.2.2.kind = 1 && hostCluster k x.2.2.vc = p && 0 < min x.2.2.toT1 x.2.2.count)).getLast? with
          | none => s
          | some (h, i, b) =>
            let held := min b.toT1 b.count
            let need := min held ((t0Use k p - quota s c 1 + sheafBytes - 1) / sheafBytes)
            shedT0 names c p n (t0ToT1 s c h i b (held - need))

/-- The limits restored after a quota of a croft has been lowered (R163). -/
def restoreQuotas (s : State) (c : Nat) : State :=
  match croft? s c with
  | none => s
  | some k =>
    let s1 := (List.range 8).foldl (fun s p => shedT0 (recNames k) c p (k.copies.length + 4096) s) s
    match croft? s1 c with
    | none => s1
    | some k1 =>
      let s2 := shedCopies (recNames k1) c (k1.copies.length + 1) s1
      spillT1 c ((k1.bsets.map (fun b => b.2.binds.length)).sum + 1) s2

/-! ### Deferred entries -/

/-- Whether a write to an entry is deferred to the step boundary of its croft (R14): quotas and spill enables, step limit, search and codes of a croft, its behaviour level, priority and training entries. -/
def deferredCroft (i sub : Nat) : Option Nat :=
  let inRange (b : Nat) : Bool := b ≤ i && i < b + 32
  if inRange 0x4100 && sub ≤ 6 then some (i - 0x4100)
  else if inRange 0x3540 then some (i - 0x3540)
  else if inRange 0x3620 then some (i - 0x3620)
  else none

/-- Whether a write to an entry is deferred to the next step boundary of every croft: the activity ramp and the level ceiling (R48, R247). -/
def deferredAll (i : Nat) : Bool := i = 0x2210 || i = 0x2300

/-- A deferred entry taking effect, once no other croft has it before it: its value, the limits it lowers, and the response that waited. -/
def entryApply (s : State) (key value : Nat) : State :=
  let i := key / 256
  let waits (d : Deferred) : Bool := match d with
    | .entry k _ => k = key
    | _ => false
  if s.crofts.any (fun p => p.2.deferred.any waits) then s
  else
    let s1 := odPut s i (key % 256) value
    let s2 := if 0x4100 ≤ i && i < 0x4120 && key % 256 ≤ 2 then restoreQuotas s1 (i - 0x4100) else s1
    odEffectDone s2 key

end Sys2Proof.Machine
end

