-- ==== Sys2Proof/Machine/Almanac.lean ====
section
/-! DEFINITION. The Almanac: loading, layer positions, record issue, promotions, pins and releases, layer gates and late prefetch (R148, R165 to R173). -/

namespace Sys2Proof.Machine

/-! ### Loading -/

/-- One record of an Almanac's bytes and whether it keeps its table (R165). -/
def almRecOf (b : List Byte) : AlmRec × Bool :=
  let t := leAt b 3 1
  (⟨leAt b 0 2, leAt b 2 1, t % 4 = 1, t / 4 % 8, t / 32 % 4, leAt b 4 4, leAt b 8 4⟩,
   t % 4 ≤ 1 && t / 32 % 4 ≤ 2 && t < 128 && (t % 4 = 1 || t / 4 % 8 = 0) && zerosAt b 12 15)

/-- The records of an Almanac's bytes. -/
def almRecs (b : List Byte) : List (AlmRec × Bool) := (List.range (leAt b 8 4)).map (fun i => almRecOf (sub b (128 + 16 * i) 16))

/-- Whether layers ascend. -/
def layersRise : List AlmRec → Bool
  | a :: b :: r => a.layer ≤ b.layer && layersRise (b :: r)
  | _ => true

/-- Sheaf bytes of the drop and keep records of one layer. -/
def layerBytes (rs : List AlmRec) (l : Nat) : Nat := ((rs.filter (fun r => r.layer = l && r.release ≠ 2)).map (·.count)).sum * sheafBytes

/-- The pinned peak of records over `layers` layers (R171). -/
def almPeak (rs : List AlmRec) (layers lead : Nat) (cyclic : Bool) : Nat :=
  let w := min (lead + 1) layers
  let starts := List.range (if cyclic then layers else layers - w + 1)
  let window (a : Nat) : Nat := ((List.range w).map (fun i => layerBytes rs ((a + i) % layers))).sum
  ((rs.filter (fun r => r.release = 2)).map (·.count)).sum * sheafBytes + ((starts.map window).max?.getD 0)

/-- The reason an Almanac is refused for, none where it loads (R165). -/
def almReason (s : State) (c : Nat) (k : Croft) (im : Image) (b : List Byte) : Option Nat :=
  let layers := leAt b 6 2
  let rs := almRecs b
  let l := rs.map (·.1)
  if b.length < 128 || leAt b 0 4 ≠ 0x4C415744 || leAt b 4 2 ≠ 1 || layers = 0 || leAt b 8 4 = 0 || 1048576 < leAt b 8 4 ||
     1 < leAt b 12 1 || leAt b 13 1 = 0 || 64 < leAt b 13 1 || !zerosAt b 14 23 || !zerosAt b 88 127 ||
     b.length ≠ 128 + 16 * leAt b 8 4 || !rs.all (·.2) then some 1
  else if sub b 24 64 ≠ imageDigest im then some 2
  else if !layersRise l || !l.all (fun r => r.layer < layers && 1 ≤ r.count && r.count ≤ 16777216 &&
      r.region < imgRegions im.bytes && r.first + r.count ≤ regMin im.bytes r.region) then some 3
  else if !l.all (fun r => regTiers im.bytes r.region / (if r.toT0 then 1 else 2) % 2 = 1) then some 4
  else if quota s c 2 < t1Fixed s c k + almPeak l layers (leAt b 13 1) (leAt b 12 1 = 1) then some 5
  else none

/-- A loaded Almanac's record. -/
def almOf (fn image : Nat) (b : List Byte) : Almanac :=
  let l := (almRecs b).map (·.1)
  ⟨fn, image, leAt b 6 2, leAt b 12 1 = 1, leAt b 13 1, l, almPeak l (leAt b 6 2) (leAt b 13 1) (leAt b 12 1 = 1)⟩

/-- LDALM's effect: the Almanac loaded, or refused with its reason (R165, R317). -/
def ldalmEffect (s : State) (c : Nat) (d : Desc) (t : Ticket) : State :=
  match croft? s c with
  | none => done s t 3
  | some k =>
    match mapGet? k.images (bytesAt d 32 4) with
    | none => done s t 0x50
    | some im =>
      match hostRead s (bytesAt d 16 8) (bytesAt d 24 8) with
      | none => done s t 6
      | some b =>
        match almReason s c k im b with
        | some r => complete s t 8 0 r 0 0 none
        | none => done (putCroft s c { k with alm := some (almOf t.fn (bytesAt d 32 4) b) }) t 0

/-! ### Regions and residency -/

/-- The binding of a region of a job's image. -/
def regionBinding (k : Croft) (j : Job) (r : Nat) : Option Binding :=
  match mapGet? k.images j.image, jobSet k j with
  | some im, some bs => if r < imgRegions im.bytes then bs.binds[regBinding im.bytes r]? else none
  | _, _ => none

/-- The Almanac that serves a job: the croft's, where the job runs the image it names. -/
def jobAlm (k : Croft) (j : Job) : Option Almanac :=
  match k.alm with
  | none => none
  | some a =>
    match mapGet? k.images a.image, mapGet? k.images j.image with
    | some x, some y => if j.kind < 2 && imageDigest x = imageDigest y then some a else none
    | _, _ => none

/-- Whether a copy is in the target of a record. -/
def inTarget (k : Croft) (r : AlmRec) (y : Copy) : Bool :=
  if r.toT0 then y.t0.any (fun v => hostCluster k v = hostCluster k r.vc) else y.t0.isNone

/-- The copy of a home sheaf in a record's target. -/
def targetCopy (k : Croft) (r : AlmRec) (h : Bool × Nat × Nat) : Option Copy :=
  k.copies.find? (fun y => y.tp = h.1 && y.home = h.2.1 && y.body = h.2.2 && inTarget k r y && !y.doomed)

/-- The sheaves of a record not resident in its target tier; buffers are at home there (R166). -/
def missing (k : Croft) (j : Job) (r : AlmRec) : List (Bool × Nat × Nat × Nat) :=
  match regionBinding k j r.region with
  | none => []
  | some b => (List.range r.count).filterMap (fun i =>
      match homeOf b (r.first + i) with
      | none => none
      | some h => if (targetCopy k r h).isSome then none else some (h.1, h.2.1, h.2.2, r.first + i))

/-- Whether every record of a layer is resident. -/
def layerResident (k : Croft) (j : Job) (l : Nat) : Bool :=
  match jobAlm k j with
  | none => true
  | some a => (a.recs.filter (fun r => r.layer = l)).all (fun r => (missing k j r).isEmpty)

/-! ### Positions and issue -/

/-- Whether a virtual engine has issued STEP in every queue. -/
def veDone (ve : VEngine) : Bool := ve.qF.done.isSome && ve.qA.done.isSome && ve.qV.done.isSome && ve.qW.done.isSome

/-- The layer position of the running step (R166). -/
def layerPos (a : Almanac) (r : RunStep) : Int :=
  (r.ves.map (fun p => if veDone p.2 then (a.layers : Int) - 1 else match p.2.layer with
    | some l => (l : Int)
    | none => -1)).foldl min ((a.layers : Int) - 1)

/-- A TP read of one sheaf sent to its exporter, with the job's tag, step and attempt (R276, R296, R301). -/
def sendTpRead (s : State) (c : Nat) (x : TpAsk) : State :=
  let dst := x.home / 256 % 256
  sendFrameTo s dst c (mkFrame 6 0 dst (addrTo s dst) c x.tag x.step x.attempt true (paramBlock [x.home % 256, x.body, 1]) [] [])

/-- A TP sheaf asked of its exporter, once (R301). -/
def askPeer (s : State) (c : Nat) (j : Job) (home n : Nat) : State :=
  match croft? s c with
  | none => s
  | some k =>
    if k.tpAsked.any (fun x => x.home = home && x.body = n) || k.landing.any (fun x => x.1 = home && x.2.1 = n) then s
    else
      let t := jobTurn k j
      let x : TpAsk := ⟨home, n, jobTag j, t.1, t.2.1⟩
      sendTpRead (putCroft s c { k with tpAsked := k.tpAsked ++ [x] }) c x

/-- The TP reads of an attempt of a group job that is over: its data would be stale, so what a promotion still wants is asked again for the job's next attempt (R274, R276). -/
def renewAsks (s : State) (c id step attempt : Nat) : State :=
  match croft? s c, jobOf s c id with
  | some k, some j =>
    if j.group.isNone then s
    else
      let mine (x : TpAsk) : Bool := x.tag = jobTag j && x.step = step && x.attempt = attempt
      let t := jobTurn k j
      let again := ((k.tpAsked.filter mine).filter (fun x => k.promos.any (fun p => p.tp && p.home = x.home && p.body = x.body))).map
        (fun x => { x with step := t.1, attempt := t.2.1 })
      again.foldl (fun s x => sendTpRead s c x) (putCroft s c { k with tpAsked := k.tpAsked.filter (fun x => !mine x) ++ again })
  | _, _ => s

/-- One sheaf of a record issued: pinned where it is resident, else its promotion asked for (R166, R168). -/
def issueSheaf (s : State) (c : Nat) (j : Job) (r : AlmRec) (ix : Nat) (next : Bool) (b : Binding) (n : Nat) : State :=
  match croft? s c, homeOf b n with
  | some k, some h =>
    match targetCopy k r h with
    | some y => putCroft s c { k with copies := setCopy k { y with pins := setIns y.pins (pinTag j.id ix next) } }
    | none =>
      let p : Promo := ⟨false, some (pinTag j.id ix next), none, j.id, h.1, h.2.1, h.2.2, if r.toT0 then some r.vc else none, b.mode, b.vc, n, b.count⟩
      let s1 := putCroft s c { k with promos := k.promos ++ [p] }
      if h.1 then askPeer s1 c j h.2.1 n else s1
  | _, _ => s

/-- A record issued (R166). -/
def issueRecord (s : State) (c : Nat) (j : Job) (a : Almanac) (ix : Nat) (next : Bool) : State :=
  match croft? s c, a.recs[ix]? with
  | some k, some r =>
    match regionBinding k j r.region with
    | none => s
    | some b => (List.range r.count).foldl (fun s i => issueSheaf s c j r ix next b (r.first + i)) s
  | _, _ => s

/-- The records of a list of layers bounds that are not in a list of issued ones. -/
def dueRecords (a : Almanac) (lo hi : Int) (issued : List Nat) : List Nat :=
  (a.recs.zipIdx.filter (fun p => lo ≤ (p.1.layer : Int) && (p.1.layer : Int) ≤ hi && !issued.contains p.2)).map (·.2)

/-- A copy let go by a record's pin: dropped at once, kept, or pinned for the job (R168). -/
def letGo (s : State) (c job tag release : Nat) (y : Copy) : State :=
  let y' := { y with pins := y.pins.filter (· ≠ tag), jobPin := if release = 2 then setIns y.jobPin job else y.jobPin }
  let s1 := modCroft s c (fun k => { k with copies := setCopy k y' })
  if release = 0 && y'.pins.isEmpty && y'.jobPin.isEmpty then dropCopy s1 c y' else s1

/-- A promotion of a released record: dropped, no longer pinned, or to be pinned for the job (R168). -/
def promoLetGo (tag job release : Nat) (p : Promo) : Option Promo :=
  if p.record ≠ some tag then some p
  else if release = 0 then none
  else some { p with record := none, jobPin := if release = 2 then some job else p.jobPin }

/-- A record released: the pins of its copies, and its promotions still under way, go under its release field (R168). -/
def releaseRecord (s : State) (c job ix release : Nat) : State :=
  match croft? s c with
  | none => s
  | some k =>
    let tag := pinTag job ix false
    let s1 := putCroft s c { k with promos := k.promos.filterMap (promoLetGo tag job release) }
    (k.copies.filter (fun y => y.pins.contains tag)).foldl (fun s y => letGo s c job tag release y) s1

/-- The Almanac of the running step brought up to its layer position: records of passed layers released, records of the window issued, and at the last layer of a cyclic Almanac those of the next step (R166, R168). -/
def almAdvance (s : State) (c : Nat) : State :=
  match croft? s c with
  | none => s
  | some k =>
    match k.run with
    | none => s
    | some r =>
      match mapGet? k.jobs r.job with
      | none => s
      | some j =>
        match jobAlm k j with
        | none => s
        | some a =>
          let p := layerPos a r
          let past := r.issued.filter (fun i => (a.recs[i]?).any (fun x => (x.layer : Int) < p))
          let s1 := past.foldl (fun s i => releaseRecord s c j.id i ((a.recs[i]?).map (·.release) |>.getD 1)) s
          let due := dueRecords a (p + 1) (p + a.lead) r.issued
          let s2 := due.foldl (fun s i => issueRecord s c j a i false) s1
          let s3 := modCroft s2 c (fun k => { k with run := k.run.map (fun r => { r with issued := r.issued ++ due }) })
          if a.cyclic && p = (a.layers : Int) - 1 then
            let nd := dueRecords a 0 ((a.lead : Int) - 1) j.nextIssued
            modJob (nd.foldl (fun s i => issueRecord s c j a i true) s3) c j.id (fun j => { j with nextIssued := j.nextIssued ++ nd })
          else s3

/-- The pins a job's step has: released when it ends or aborts (R168, R274). -/
def releaseStepPins (s : State) (c job : Nat) (recs : List AlmRec) : State :=
  match croft? s c with
  | none => s
  | some k =>
    let mine (p : Nat) : Bool := p / 1048576 = 2 * job
    let tags := (k.copies.flatMap (fun y => y.pins.filter mine) ++ (k.promos.filterMap (·.record)).filter mine).foldl setIns []
    let rel (t : Nat) : Nat := ((recs[t % 1048576]?).map (·.release)).getD 1
    tags.foldl (fun s t => releaseRecord s c job (t % 1048576) (rel t)) s

/-! ### Promotions -/

/-- Where a promotion's sheaf comes from: its segment, or what the peer has sent. -/
def promoSheaf (s : State) (k : Croft) (p : Promo) : Option Sheaf :=
  if p.tp then (k.landing.find? (fun x => x.1 = p.home && x.2.1 = p.body)).map (·.2.2)
  else segSheaf s p.home p.body

/-- Bytes read from a class counted (R280). -/
def countRead (s : State) (c : Nat) (p : Promo) : State :=
  if p.tp then s
  else match segOf s p.home with
    | some g => flashRead s c g.cls
    | none => s

/-- The memory a promotion aims at: T1, or T0 of a physical cluster. -/
def promoTo (k : Croft) (p : Promo) : Option Nat := p.t0.map (hostCluster k)

/-- Whether two promotions make one copy (R161). -/
def samePromo (k : Croft) (p q : Promo) : Bool := q.tp = p.tp && q.home = p.home && q.body = p.body && promoTo k q = promoTo k p

/-- The position evictions of a croft count from (R169). -/
def evictPos (k : Croft) : Int :=
  match k.run, k.alm with
  | some r, some a => layerPos a r
  | _, _ => -1

/-- A copy placed in T0 of its cluster or in a T1 frame, evicting where the quota is full, and counted (the bytes of every promotion, R280); none while there is no room for it (R155, R169, R170). -/
def placeCopy (s : State) (c : Nat) (p : Promo) (sh : Sheaf) (pins jobPins : List Nat) : Option State :=
  match croft? s c with
  | none => none
  | some k =>
    let s1 := evictFor (recNames k) (evictPos k) c (promoTo k p) (k.copies.length + 1) s
    match croft? s1 c with
    | none => none
    | some k1 =>
      if !copyFits s1 c k1 (promoTo k p) then none
      else
        let f : Option Nat × State := match p.t0 with
          | some _ => (none, bump s1 (0xA380 + c) 9 sheafBytes)
          | none =>
            let f := allocFrame s1 c (codeOf s1 c 2) (placeStack k1 p.mode p.vc p.total p.ordinal)
            (some f.1, hbmMoved f.2 c (f.1 / stackFrames) sheafBytes)
        some (modCroft f.2 c (fun k => { k with
          copies := k.copies ++ [⟨p.tp, p.home, p.body, p.t0, f.1, sh, pins, jobPins, k.arrivals, false⟩], arrivals := k.arrivals + 1 }))

/-- Late-prefetch stalls whose layer is now resident end: the stall time counted, the event above the threshold (R172, R173). -/
def endStalls (s : State) (c : Nat) : State :=
  match croft? s c with
  | none => s
  | some k =>
    match k.run with
    | none => s
    | some r =>
      match mapGet? k.jobs r.job with
      | none => s
      | some j =>
        let ended := r.late.filter (fun x => x.2.2 ≠ 0 && layerResident k j x.1)
        let s1 := modCroft s c (fun k => { k with run := k.run.map (fun r => { r with
          late := r.late.map (fun x => if ended.contains x then (x.1, x.2.1, 0) else x) }) })
        ended.foldl (fun s x =>
          let ns := clock s - x.2.1
          let s2 := bump s (0xA280 + c) 2 ns
          if odGet s (0x4100 + c) 7 * 1000 < ns then
            croftEvent (bump s2 (0xA280 + c) 3 1) c 2
              (leBytes 8 j.id ++ leBytes 8 r.number ++ leBytes 2 x.1 ++ leBytes 4 ns ++ leBytes 4 x.2.2)
          else s2) s1

/-- A virtual engine arrived at a GATE of a layer not yet resident: counted once per layer and step (R172). -/
def noteLate (s : State) (c l : Nat) : State :=
  match croft? s c with
  | none => s
  | some k =>
    match k.run with
    | none => s
    | some r =>
      match mapGet? k.jobs r.job with
      | none => s
      | some j =>
        if layerResident k j l || r.late.any (fun x => x.1 = l) then s
        else
          let n := match jobAlm k j with
            | some a => ((a.recs.filter (fun x => x.layer = l)).map (fun x => (missing k j x).length)).sum
            | none => 0
          bump (modCroft s c (fun k => { k with run := k.run.map (fun r => { r with late := r.late ++ [(l, clock s, n)] }) })) (0xA280 + c) 1 1

/-! ### Whose promotion is served (R167) -/

/-- Whether a promotion can use flash bandwidth: its home is T2 or T3 and its copy fits or an eviction makes room. -/
def canGrant (s : State) (c : Nat) (k : Croft) (p : Promo) : Bool :=
  !p.tp && (copyFits s c k (promoTo k p) || (evictee k (recNames k) (evictPos k) (promoTo k p)).isSome)

/-- The croft whose promotion the flash serves next: the first from the grant pointer on that has one. -/
def flashTurn (s : State) : Option Nat :=
  ((List.range 32).map (fun i => (s.flashPtr + i) % 32)).find? (fun c => (croft? s c).any (fun k => k.promos.any (canGrant s c k)))

/-- Whether promotion `i` of a croft is served now: one from a peer at any time; one from flash at its croft's turn, while no earlier record or demand of the croft can use the bandwidth (R167; DESIGN CHOICE, log entry 100: promotions complete in the order they are granted). -/
def promoServed (s : State) (c : Nat) (k : Croft) (i : Nat) (p : Promo) : Bool :=
  p.tp || (canGrant s c k p && flashTurn s = some c &&
    (k.promos.take i).all (fun q => !canGrant s c k q || (q.demand = p.demand && q.record = p.record)))

/-- Promotion `i` of a croft arrives where it is served: its sheaf checked and placed for every promotion that waits for the same copy, the grant pointer moved past the croft; without room it waits (R148, R152, R166, R167). -/
def promoArrive (s : State) (c i : Nat) : State :=
  match croft? s c with
  | none => s
  | some k =>
    match k.promos[i]? with
    | none => s
    | some p =>
      if !promoServed s c k i p then s
      else
        let gone (s : State) : State := modCroft s c (fun k => { k with promos := k.promos.filter (fun q => !samePromo k p q) })
        let turn (s : State) : State := if p.tp then s else { s with flashPtr := (c + 1) % 32 }
        match promoSheaf s k p with
        | none => if p.tp then s else turn (gone s)
        | some sh0 =>
          let mine := k.promos.filter (samePromo k p)
          let e := enterCheck s c sh0
          match placeCopy (countRead (gone e.2) c p) c p e.1 ((mine.filterMap (·.record)).foldl setIns []) ((mine.filterMap (·.jobPin)).foldl setIns []) with
          | none => s
          | some s1 => endStalls (turn (modCroft s1 c (fun k => { k with
              landing := k.landing.filter (fun x => !(p.tp && x.1 = p.home && x.2.1 = p.body)) }))) c

end Sys2Proof.Machine
end

