-- ==== Sys2Proof/Machine/CroftOps.lean ====
section
/-! DEFINITION. Crofts: engine sets, maps, park areas, and the commands that make, change and remove them (R261 to R265). -/

namespace Sys2Proof.Machine

/-- Physical cluster of a virtual cluster in a map. -/
def mapOf (map : W32) (c : Nat) : Nat := fld map (3 * c + 2) (3 * c)

/-- Engines of a mask in a physical cluster (H_p), and virtual engines mapped to it (V_p) (R262). -/
def hostEngines (mask : W64) (p : Nat) : Nat := ((List.range 8).filter (fun e => bitOf mask (8 * p + e))).length
def hostedVes (map : W32) (p : Nat) : Nat := 8 * ((List.range 8).filter (fun c => mapOf map c = p)).length

/-- Bytes of the park area (R262). -/
def parkArea (mask : W64) (map : W32) : Nat :=
  ((List.range 8).map (fun p => (hostedVes map p - hostEngines mask p) * 6291456)).sum

/-- Whether a map fits an engine set (R262): none fits an empty one, so a croft has no engines only where a start finds them unavailable (R261, R265; DEDUCED, log entry 109). -/
def mapValid (mask : W64) (map : W32) : Bool :=
  fld map 31 24 = 0 && (List.range 8).all (fun c => hostEngines mask (mapOf map c) ≠ 0) &&
    (List.range 8).all (fun p => hostEngines mask p = 0 || (List.range 8).any (fun c => mapOf map c = p))

/-- Engine masks a croft holds or has been promised by a pending apply. -/
def heldMask (k : Croft) : W64 :=
  k.deferred.foldl (fun m d => match d with
    | .apply x _ _ => m ||| x
    | _ => m) k.mask

/-- Whether a mask names only engines that exist and belong to no other croft. -/
def enginesFree (s : State) (c : Nat) (mask : W64) : Bool :=
  mask &&& s.fuse.fused = 0 && s.crofts.all (fun p => p.1 = c || mask &&& heldMask p.2 = 0)

/-- The link share a croft holds, or the greater one a pending apply gives it. -/
def heldShare (k : Croft) : Nat :=
  k.deferred.foldl (fun n d => match d with
    | .apply _ _ x => max n x
    | _ => n) k.share

/-- The link shares of the other crofts. -/
def otherShares (s : State) (c : Nat) : Nat := ((s.crofts.filter (fun p => p.1 ≠ c)).map (fun p => heldShare p.2)).sum

/-- The sum of the T1 quotas of the other crofts. -/
def otherT1 (s : State) (c : Nat) : Nat := (((List.range 32).filter (· ≠ c)).map (fun i => quota s i 2)).sum

/-- The status of a croft's last command set. -/
def croftStatus (s : State) (c v : Nat) : State := odPut s (0x3000 + c) 9 v

/-- The staged engine mask, map and link share. -/
def stagedMask (s : State) (c : Nat) : W64 := BitVec.ofNat 64 (odGet s (0x3000 + c) 2)
def stagedMap (s : State) (c : Nat) : W32 := BitVec.ofNat 32 (odGet s (0x3000 + c) 3)
def stagedShare (s : State) (c : Nat) : Nat := odGet s (0x3000 + c) 4

/-- The first index of every block of croft counters (R280 and the counter tables). -/
def croftCounters : List Nat := [0xA240, 0xA260, 0xA280, 0xA300, 0xA320, 0xA340, 0xA380]

/-- A croft's counters reset (R264, R280). -/
def resetCounters (s : State) (c : Nat) : State :=
  { s with
    od := s.od.filter (fun p => !croftCounters.any (fun b => p.1 / 256 = b + c))
    convs := s.convs.filter (fun p => p.1 / 4 ≠ c) }

/-- A new croft's record. -/
def croftNew (mask : W64) (map : W32) (share key : Nat) : Croft :=
  { state := 1, mask := mask, saved := mask, map := map, share := share, key := key, jobs := [], run := none, evSeq := 0, evDropped := 0
    ering := none, images := [], bsets := [], alm := none, copies := [], arrivals := 0, promos := [], landing := [], tpAsked := []
    store := storeEmpty, deferred := [], park := parkArea mask map, descPtr := 0, t0Flips := [] }

/-- Create (R263): refused, or the croft active with its T1 quota covering the park area and a fresh media key. -/
def croftCreate (s : State) (c : Nat) : State :=
  let mask := stagedMask s c
  let map := stagedMap s c
  let park := parkArea mask map
  if (croft? s c).isSome then croftStatus s c 1
  else if !enginesFree s c mask then croftStatus s c 2
  else if !mapValid mask map then croftStatus s c 3
  else if 100 < otherShares s c + stagedShare s c then croftStatus s c 4
  else if quota s c 2 < park && t1Available < otherT1 s c + park then croftStatus s c 5
  else
    let s1 := if quota s c 2 < park then odPut s (0x4100 + c) 2 park else s
    let s2 := resetCounters (putCroft s1 c (croftNew mask map (stagedShare s c) s1.sec.nextKey)) c
    croftStatus { s2 with sec := { s2.sec with keys := setIns s2.sec.keys s2.sec.nextKey, nextKey := s2.sec.nextKey + 1 }, savePending := true } c 0

/-- An apply taking effect (R264). -/
def applyNow (s : State) (c : Nat) (mask : W64) (map : W32) (share : Nat) : State :=
  wakeKept (modCroft s c (fun k => { k with mask := mask, saved := mask, map := map, share := share, park := parkArea mask map, state := 1 }))

/-- Apply (R264): refused, or in effect now or at the step boundary; a removal that is pending stays so. -/
def croftApply (s : State) (c : Nat) : State :=
  let mask := stagedMask s c
  let map := stagedMap s c
  match croft? s c with
  | none => croftStatus s c 1
  | some k =>
    if !enginesFree s c mask then croftStatus s c 2
    else if !mapValid mask map then croftStatus s c 3
    else if 100 < otherShares s c + stagedShare s c then croftStatus s c 4
    else if quota s c 2 < t1Taken s c k - k.park + parkArea mask map then croftStatus s c 5
    else
      let s1 := croftStatus s c 0
      if k.run.isSome then
        putCroft s1 c { k with state := if k.state = 3 then 3 else 2, deferred := k.deferred ++ [.apply mask map (stagedShare s c)] }
      else applyNow s1 c mask map (stagedShare s c)

/-- A croft gone: its frames and segments freed, its key destroyed after two saves, its quotas at 0, its counters reset (R264, R461). -/
def croftGone (s : State) (c : Nat) (k : Croft) : State :=
  let s1 := { s with
    crofts := mapDel s.crofts c
    frames := s.frames.filter (fun p => p.2.croft ≠ c)
    segs := s.segs.filter (fun p => p.2.croft ≠ c)
    exports := s.exports.filter (fun p => p.2.croft ≠ c)
    sec := { s.sec with keys := s.sec.keys.filter (· ≠ k.key) } }
  let gone : List BackRef := ((s.segs.filter (fun p => p.2.croft = c)).map (fun p => .segment p.1)) ++ k.bsets.flatMap (fun b => bsetSpills b.2)
  let s1' := dropRefs s1 gone
  let s2 := { s1' with
    packages := mapAll s1'.packages (fun x => { x with progs := x.progs.filter (fun g => g.refs.isEmpty || !g.refs.all (fun r => gone.contains r)) })
    ops := s1'.ops.filter (fun o => o.croft ≠ c) }
  let s3 := [1, 2, 3, 4, 5].foldl (fun s i => odPut s (0x4100 + c) i 0) s2
  odSave (odSave (resetCounters s3 c))

/-- Whether the store of a croft holds any object (R264). -/
def storeEmptyNow (st : Store) : Bool := st.openState.isEmpty && st.epochs.all (fun e => e.2.isEmpty) && st.commits.all (fun m => m.frozen.isEmpty)

/-- Remove (R264): any open job bars it, one that the module opened too; a namespace whose keys the croft owns bars it too (R460). -/
def croftRemove (s : State) (c : Nat) : State :=
  match croft? s c with
  | none => croftStatus s c 1
  | some k =>
    if !(openJobs k).isEmpty then croftStatus s c 6
    else if !storeEmptyNow k.store || s.namespaces.any (fun n => n.2.owner = c) then croftStatus s c 7
    else croftStatus (croftGone s c k) c 0

/-- A job ended by a purge as by a close, and counted as aborted unless its fault has been (R264, R280). -/
def purgeJob (c : Nat) (s : State) (id : Nat) : State :=
  bump (endJob s c id 0x41) (0xA380 + c) 3 (if (jobOf s c id).any (fun j => !j.faulted) then 1 else 0)

/-- Every job of a croft ended by a purge. -/
def purgeJobs (s : State) (c : Nat) : State :=
  match croft? s c with
  | none => s
  | some k => (k.jobs.map (·.1)).foldl (purgeJob c) s

/-- Every operation, commit and waiting PERSIST of a croft answered as not made, before its store goes. -/
def dropStoreWork (s : State) (c : Nat) : State :=
  match croft? s c with
  | none => s
  | some k =>
    let s1 := doneAll s ((s.ops.filter (fun o => o.croft = c)).filterMap (·.ticket)) 3
    let s2 := doneAll s1 (k.store.commits.filterMap (·.ticket)) 3
    doneAll s2 (k.store.commits.filterMap (fun m => m.hold.map (·.1.ticket))) 0x18

/-- A purge carried out: jobs ended, then the croft gone (R264). -/
def purgeNow (s : State) (c : Nat) : State :=
  let s1 := dropStoreWork (purgeJobs s c) c
  match croft? s1 c with
  | none => s1
  | some k => croftStatus (croftGone s1 c k) c 0

/-- Remove and purge (R264): at once where no step runs, else at the step boundary; jobs without a running step end now. -/
def croftPurge (s : State) (c : Nat) : State :=
  match croft? s c with
  | none => croftStatus s c 1
  | some k =>
    match k.run with
    | none => purgeNow s c
    | some r =>
      let others := (k.jobs.map (·.1)).filter (· ≠ r.job)
      let s1 := others.foldl (purgeJob c) s
      croftStatus (modCroft s1 c (fun k => { k with state := 3 })) c 0

/-- CROFT_CREATE (R263). -/
def execCroftCreate (c : Fin 32) (s : State) : Out := .next (if powered s && s.reeveUp then croftCreate s c.val else s)

/-- CROFT_APPLY (R264). -/
def execCroftApply (c : Fin 32) (s : State) : Out := .next (if powered s && s.reeveUp then croftApply s c.val else s)

/-- CROFT_REMOVE (R264). -/
def execCroftRemove (c : Fin 32) (s : State) : Out := .next (if powered s && s.reeveUp then croftRemove s c.val else s)

/-- CROFT_REMOVE_AND_PURGE (R264). -/
def execCroftRemoveAndPurge (c : Fin 32) (s : State) : Out := .next (if powered s && s.reeveUp then croftPurge s c.val else s)

end Sys2Proof.Machine
end

