-- ==== Sys2Proof/Machine/DeallocOps.lean ====
section
/-! DEFINITION. Secure deallocation: its record and its last step (R175, R330 to R332). -/

namespace Sys2Proof.Machine

/-- The 64-byte record of a deallocation (R332): status 0 complete, 1 incomplete, 2 superseded. -/
def deallocRecord (x : Dealloc) (status lastGone : Nat) : List Byte :=
  leBytes 4 0x44535744 ++ leBytes 4 x.seq ++
  [if x.segment then 1 else 0, BitVec.ofNat 8 status, BitVec.ofNat 8 ((if x.early then 1 else 0) + (if x.resumed then 2 else 0)), BitVec.ofNat 8 x.croft] ++
  leBytes 4 x.nsid ++ leBytes 8 x.key ++ leBytes 8 x.removed ++ leBytes 4 x.erased ++ leBytes 4 x.moved ++ leBytes 4 x.stuck ++
  leBytes 4 0 ++ leBytes 8 x.unmapped ++ leBytes 8 lastGone

/-- Whether a copy of a deallocated segment is still pinned by a running step (R175). -/
def doomedLeft (s : State) (x : Dealloc) : Bool :=
  s.crofts.any (fun p => p.2.copies.any (fun y => y.doomed && x.gone.contains y.home))

/-- A deallocation recorded and, where its completion waits, completed (R330 step 4). -/
def deallocEnd (s : State) (x : Dealloc) (status : Nat) : State :=
  let b := deallocRecord x status (if status = 2 then 0 else s.bell.count)
  let s1 := { s with
    deallocs := s.deallocs.filter (fun y => y.seq ≠ x.seq)
    sdRecords := (b :: s.sdRecords).take 64 }
  let s2 := match x.recordAt with
    | some a => if hostWritable s1 a 64 then hostWrite s1 a b else s1
    | none => s1
  let s3 := if x.segment then croftEvent s2 x.croft 0x0140 b
    else nvmeEvent s2 x.ctrl aenDealloc (aenDw0 7 0 0xC1)
  if x.early || x.resumed then s3
  else
    let s4 := match x.ticket with
      | some t => complete s3 t 0 0 (if status = 1 then 1 else 0) x.seq 0 none
      | none => s3
    match x.nticket with
    | some t => nvmeComplete s4 t x.seq (if status = 1 then nvmeStatus 1 0xC0 true else 0)
    | none => s4

/-- The deallocations whose last copy has gone ended (R330). -/
def deallocCheck (s : State) : State :=
  (s.deallocs.filter (fun x => x.blocks.isEmpty && !doomedLeft s x)).foldl (fun s x => deallocEnd s x (if x.stuck ≠ 0 then 1 else 0)) s

/-- The doomed copies of a croft overwritten and gone when its step ends (R175). -/
def dropDoomed (s : State) (c : Nat) : State :=
  match croft? s c with
  | none => s
  | some k => (k.copies.filter (·.doomed)).foldl (fun s y => dropCopy s c y) s

/-- The copies of deallocated segments: unpinned ones gone at once, those a running step pins when it ends (R175). -/
def doomCopies (s : State) (c : Nat) (serials : List Nat) : State :=
  match croft? s c with
  | none => s
  | some k =>
    let hit (y : Copy) : Bool := !y.tp && serials.contains y.home
    let s1 := putCroft s c { k with copies := k.copies.map (fun y => if hit y then { y with doomed := true } else y) }
    if k.run.isSome then
      (k.copies.filter (fun y => hit y && y.pins.isEmpty && y.jobPin.isEmpty)).foldl (fun s y => dropCopy s c y) s1
    else dropDoomed s1 c

end Sys2Proof.Machine
end

