-- ==== Sys2Proof/Machine/Blocks.lean ====
section
/-! DEFINITION. Blocks of the flash: wear and spares, opening, placing, relocation, retirement, media read-only (R333 to R362). -/

namespace Sys2Proof.Machine

/-! ### Placing a program (R347, R349) -/

/-- Every reference of a program placed and mapped in turn; none where no block can be opened. -/
def placeAll (kind : BlkKind) (bell : Nat) : List BackRef → Package → Option Package
  | [], x => some x
  | r :: rest, x =>
    match placeRef x kind r bell with
    | none => none
    | some p => placeAll kind bell rest (mapEntry p.2 r p.1)

/-- The valid places of a block: those the map points into (R344). -/
def validPlaces (x : Package) (n : Nat) : List (Nat × BackRef) :=
  (blockAt x n).slots.filter (fun p => mapAt x p.2 = some (n, p.1))

/-- The valid slots of a block. -/
def validSlots (x : Package) (n : Nat) : Nat := ((validPlaces x n).map (fun p => refSlots p.2)).sum

/-! ### Relocation (R349, R350, R353) -/

/-- One copy programmed into a block of the same kind, its relocation record to follow. -/
def copyPlace (kind : BlkKind) (counter bell n : Nat) (x : Package) (p : Nat × BackRef) : Package :=
  match placeRef x kind p.2 bell with
  | none => x
  | some q => { q.2 with moves := q.2.moves ++ [⟨p.2, (n, p.1), q.1, counter⟩] }

/-- A block left by its valid data: it takes the given state and copies of its valid places are programmed (R360). -/
def evacuate (x : Package) (n counter bell : Nat) (st : BlkState) (doom : Nat) : Package :=
  let b := blockAt x n
  let places := validPlaces x n
  places.foldl (copyPlace b.kind counter bell n) (putBlock x n { b with st := st, doom := doom })

/-- Bytes of the copies an evacuation programmed. -/
def moveBytes (x y : Package) : Nat := ((y.moves.drop x.moves.length).map (fun m => refBytes m.ref)).sum

/-- The state after an evacuation of a block of a package. -/
def evacuateIn (s : State) (p n counter : Nat) (st : BlkState) (doom : Nat) : State :=
  let x := packageOf s p
  let y := evacuate x n counter s.bell.count st doom
  let s1 := putPackage s p y
  { s1 with health := { s1.health with nandBytes := s1.health.nandBytes + moveBytes x y } }

/-- One verified copy recorded: applied where the map still points to its old place, else dropped (R347, R350). -/
def applyMove (x : Package) (m : CopyMove) : Package := if mapAt x m.ref = some m.src then moveEntry x m.ref m.src m.dst else x

/-! ### Secure deallocation's blocks (R330, R331) -/

/-- What a deallocation removed, as places name it. -/
def deallocHas (x : Dealloc) (r : BackRef) : Bool :=
  match r with
  | .sector nsid lba => !x.segment && nsid = x.nsid && x.gone.contains lba
  | .segment n => x.segment && x.gone.contains n
  | .mapPage _ => false
  | .spill _ => false
  | .record _ _ => false

/-- Every block that holds a copy of what a deallocation removed, mapped or stale (R330). -/
def deallocBlocks (s : State) (d : Dealloc) : List (Nat × Nat) :=
  s.packages.flatMap (fun p => (p.2.blocks.filter (fun b => b.2.st ≠ .retired && b.2.slots.any (fun r => deallocHas d r.2))).map (fun b => (p.1, b.1)))

/-- A block erased: the deallocations that waited for it have one fewer (R330). -/
def deallocErased (s : State) (p n : Nat) : State :=
  { s with deallocs := s.deallocs.map (fun d =>
      if d.blocks.contains (p, n) then { d with blocks := d.blocks.filter (· ≠ (p, n)), erased := d.erased + 1 } else d) }

/-- A block retired instead: its copies count as retained (R331). -/
def deallocStuck (s : State) (p n : Nat) : State :=
  let b := blockAt (packageOf s p) n
  { s with deallocs := s.deallocs.map (fun d =>
      if d.blocks.contains (p, n) then
        { d with blocks := d.blocks.filter (· ≠ (p, n)), stuck := d.stuck + (b.slots.filter (fun r => deallocHas d r.2)).length }
      else d) }

/-! ### Media events -/

/-- A flash event: package, die, block and page (R383). -/
def flashEvent (s : State) (croft : Option Nat) (cls sev p n page : Nat) (detail : List Byte) : State :=
  errorEvent s croft cls sev 1 p (dieOf n) 0xFF (n % 3455 * 65536 + page) detail

/-- The notice of a critical-warning bit to every controller that has asked for it: type 1, information, log page 0x02 (R321). -/
def smartNotice (s : State) (bit info : Nat) : State := (List.range 33).foldl (fun s k => nvmeEvent s k bit (aenDw0 1 info 2)) s

/-- The media made read-only (R336, R381). -/
def mediaToReadOnly (s : State) (cause : Nat) : State :=
  if s.mediaReadOnly then s
  else smartNotice (logEvent { s with mediaReadOnly := true } 0x0114 4 1 0 0 0xFF 0 [BitVec.ofNat 8 cause]) 3 0

/-- What a loss of spares or a rise of wear brings: read-only at 2 % of spare, an event when the floor passes the free over-provisioning (R336, R342). -/
def mediaCheck (before s : State) : State :=
  let th := odGet s 0x5000 4
  let s0 := if availableSpare s < th && th ≤ availableSpare before then smartNotice s 0 2 else s
  let s1 := if availableSpare s ≤ 2 then mediaToReadOnly s0 0 else s0
  let t2 := odGet s 0x4000 1
  if opFloor before ≤ freeOp before t2 && freeOp s t2 < opFloor s then
    logEvent s1 0x0115 0 1 0 0 0xFF 0 (leBytes 8 (unsigned 64 (freeOp s t2)))
  else s1

/-- The lowest factory spare of a die. -/
def spareOf (x : Package) (d : Nat) : Option Nat :=
  ((List.range 64).map (fun i => d * 3455 + 3391 + i)).find? (fun n => (blockAt x n).st = .spare)

/-- A block retired and replaced by a spare of its die (R338, R354): reason 0 program, 1 erase, 2 blank check, 3 level 3, 4 suspect. -/
def retireBlock (s : State) (p n reason : Nat) : State :=
  let x := packageOf s p
  let y := jotBlock x n { blockAt x n with st := .retired }
  let z := match spareOf y (dieOf n) with
    | some m => jotBlock y m { blockAt y m with st := .fallow }
    | none => y
  let s1 := deallocStuck (putPackage s p z) p n
  let s2 := { s1 with health := { s1.health with retired := s1.health.retired + 1 } }
  mediaCheck s (flashEvent s2 none 0x0113 0 p n 0 [BitVec.ofNat 8 reason])

/-- A fully relocated block: retired where that was decided, else its erase-intent record is journalled (R349, R353). -/
def reclaim (s : State) (p n : Nat) : State :=
  let x := packageOf s p
  let b := blockAt x n
  if !(validPlaces x n).isEmpty || x.moves.any (fun m => m.src.1 = n) then s
  else if b.doom ≠ 0 then retireBlock s p n (b.doom - 1)
  else putPackage s p (jotBlock x n { b with st := .erasePending })

/-- Slots counted in a media counter of 0xA400; counter 0 counts nothing. -/
def countSlots (s : State) (counter n : Nat) : State := if counter = 0 then s else bump s 0xA400 counter n

/-- The verified copies of a block recorded, counted, and the block reclaimed (R349 rules 2 and 3). -/
def relocate (s : State) (p n : Nat) : State :=
  let x := packageOf s p
  let mine := x.moves.filter (fun m => m.src.1 = n)
  let r := mine.foldl (fun (a : Package × List (Nat × Nat)) m =>
    let ok := mapAt a.1 m.ref = some m.src
    (applyMove a.1 m, a.2 ++ [(if ok then m.counter else 2, refSlots m.ref)])) ({ x with moves := x.moves.filter (fun m => m.src.1 ≠ n) }, [])
  reclaim (r.2.foldl (fun s c => countSlots s c.1 c.2) (putPackage s p r.1)) p n

/-! ### Erase (R333, R343, R349) -/

/-- The reserve rebuilt by one block where it is short; when the last package has its reserve again, the rebuild is counted. -/
def rebuildReserve (s : State) (p : Nat) : State :=
  let x := packageOf s p
  if 8 ≤ x.reserve then s
  else
    let s1 := putPackage s p { x with reserve := x.reserve + 1 }
    if reserveFull s1 then bump s1 0xA400 0x0C 1 else s1

/-- An erase-pending block erased, blank-checked and fallow again (R333, R349). -/
def eraseBlock (s : State) (p n : Nat) : State :=
  let x := packageOf s p
  let b := blockAt x n
  let q := kindQlc b.kind
  let b' : Block := { b with
    st := .fallow, ptr := 0, q := b.q + (if q then 1 else 0), s := b.s + (if q then 0 else 1)
    reads := 0, lvl3 := 0, retry := 0, since := 0, doom := 0, slots := [] }
  let y := { jotBlock x n b' with suspends := mapDel x.suspends (dieOf n) }
  mediaCheck s (rebuildReserve (bump (deallocErased (putPackage s p y) p n) 0xA400 5 1) p)

/-- A block with deallocated copies emptied of its other valid data, one plane page counted for each it needs, and erased (R330 step 3). -/
def deallocErase (s : State) (seq p n : Nat) : State :=
  let x := packageOf s p
  let moved := ((validPlaces x n).map (fun r => refPages r.2)).sum
  let s1 := if (blockAt x n).st = .erasePending then s else relocate (evacuateIn s p n 0 .victim 0) p n
  if (blockAt (packageOf s1 p) n).st = .erasePending then
    let s2 := eraseBlock s1 p n
    { s2 with deallocs := s2.deallocs.map (fun d => if d.seq = seq then { d with moved := d.moved + moved } else d) }
  else s1

end Sys2Proof.Machine
end

