-- ==== Sys2Proof/Machine/FlashData.lean ====
section
/-! DEFINITION. Sectors of the namespaces as their readers find them, and programs that end: publication, placing, protected buffers, uncorrectable pages (R225, R323, R324, R346, R357). -/

namespace Sys2Proof.Machine

/-- A namespace. -/
def nsOf (s : State) (nsid : Nat) : Option Namespace := mapGet? s.namespaces nsid

/-- One sector of a program published: its bytes and that it is mapped, or, for an unmapping, zeros and that it is not. -/
def publishOne (zero : Bool) (s : State) (d : Nat × Nat × List Byte) : State :=
  { s with namespaces := mapMod s.namespaces d.1 (fun n => { n with
      data := if zero then memClear n.data (4096 * d.2.1) 4096 else memPutL 0 (memClear n.data (4096 * d.2.1) 4096) (4096 * d.2.1) d.2.2
      mapped := if zero then n.mapped.filter (· ≠ d.2.1) else setIns n.mapped d.2.1
      poisoned := n.poisoned.filter (· ≠ d.2.1) }) }

/-- The program in a protected buffer that last wrote a sector, if one waits: unmapping or not, and the bytes. -/
def bufferedSector (s : State) (nsid lba : Nat) : Option (Bool × List Byte) :=
  ((packageOf s (sectorPackage lba)).progs.reverse.filter (·.protectedBuf)).findSome? (fun g =>
    (g.data.find? (fun d => d.1 = nsid && d.2.1 = lba)).map (fun d => (g.zero, d.2.2)))

/-- The bytes of a sector: the newest durable write, zeros where it is unmapped (R324). -/
def sectorBytes (s : State) (nsid lba : Nat) : List Byte :=
  match bufferedSector s nsid lba with
  | some (z, b) => if z then List.replicate 4096 0 else b
  | none => match nsOf s nsid with
    | some n => memGetL 0 n.data (4096 * lba) 4096
    | none => List.replicate 4096 0

/-- What the flash holds of a mapped sector: its bytes encrypted (R460). -/
def sectorStored (s : State) (nsid lba : Nat) : List Byte :=
  match nsOf s nsid with
  | some n => sectorCipher n lba (memGetL 0 n.data (4096 * lba) 4096)
  | none => []

/-- What the flash holds of slot `j` of a segment's body: its bytes encrypted (R460). -/
def segmentStored (s : State) (serial j : Nat) : List Byte :=
  match segOf s serial with
  | some g => (match croft? s g.croft with
    | some k => segmentCipher k serial j (sub (bodyBytes (mapGet g.sheaves (j / 8) sheafZero)) (4096 * (j % 8)) 4096)
    | none => [])
  | none => []

/-- Whether a sector is mapped. -/
def sectorMapped (s : State) (nsid lba : Nat) : Bool :=
  match bufferedSector s nsid lba with
  | some (z, _) => !z
  | none => match nsOf s nsid with
    | some n => n.mapped.contains lba
    | none => false

/-- Whether a sector's read fails: its slot poisoned or uncorrectable, or its package's map in conflict (R376, R381). -/
def sectorBad (s : State) (nsid lba : Nat) : Bool :=
  if (bufferedSector s nsid lba).isSome then false
  else match nsOf s nsid with
    | some n => n.poisoned.contains lba || (n.mapped.contains lba && (packageOf s (sectorPackage lba)).conflict)
    | none => false

/-- A program without the sectors a newer one has made durable. -/
def progWithout (refs : List BackRef) (g : Prog) : Prog :=
  let gone (r : BackRef) : Bool := refs.contains r
  { g with refs := g.refs.filter (fun r => !gone r), data := g.data.filter (fun d => !gone (.sector d.1 d.2.1)) }

/-- Whether a binding holds a sheaf at a spill location. -/
def spillLive (s : State) (n : Nat) : Bool :=
  s.crofts.any (fun p => p.2.bsets.any (fun b => b.2.binds.any (fun x => x.spill.any (fun e => e.2.2 = n))))

/-- Whether what a reference names still exists. -/
def refLive (s : State) (r : BackRef) : Bool :=
  match r with
  | .sector nsid _ => (nsOf s nsid).isSome
  | .segment n => (segOf s n).isSome
  | .mapPage _ => true
  | .spill n => spillLive s n
  | .record _ _ => true

/-- A program ended on the die: its data placed under the map's and journal's rules, older protected copies of its sectors superseded, its data published, and the operation that waits for it told (R225, R349). Unchanged where no block can be opened. -/
def programEnd (s : State) (p i : Nat) : State :=
  let x := packageOf s p
  match x.progs[i]? with
  | none => s
  | some g =>
    let refs := g.refs.filter (refLive s)
    let placed := if g.zero then some (refs.foldl mapDrop x) else placeAll g.kind s.bell.count refs x
    match placed with
    | none => s
    | some y =>
      let older := (x.progs.take i).map (progWithout refs)
      let s1 := putPackage s p { y with progs := older ++ x.progs.drop (i + 1) }
      let s2 := { s1 with health := { s1.health with nandBytes := s1.health.nandBytes + (if g.zero then 0 else (refs.map refBytes).sum) } }
      let s3 := g.data.foldl (publishOne g.zero) s2
      if g.protectedBuf then s3 else opProgress s3 g.op

/-! ### Page reads (R357, R358) -/

/-- A read counted by how it ended (R358): level 1 a retry, 2 and 3 soft, 4 uncorrectable. -/
def countPageRead (s : State) (level : Nat) : State :=
  { s with health := { s.health with
      retries := s.health.retries + (if level = 1 then 1 else 0)
      soft := s.health.soft + (if level = 2 || level = 3 then 1 else 0)
      uncorrectable := s.health.uncorrectable + (if level = 4 then 1 else 0) } }

/-- The places a plane page of a block holds part of. -/
def pagePlaces (b : Block) (page : Nat) : List (Nat × BackRef) :=
  b.slots.filter (fun p => match p.2 with
    | .sector _ _ => p.1 / 4 = page
    | .segment _ => p.1 = page / 64
    | .mapPage _ => p.1 = page
    | .spill _ => p.1 = page / 2
    | .record _ _ => p.1 = page / 4)

/-- A page's words of a segment marked: half a sheaf, whose tag takes the poison bit with the segment's flag (R357, R374). -/
def poisonSegment (page : Nat) (g : Segment) : Segment :=
  let i := page % 64 / 2
  let h := mapGet g.sheaves i sheafZero
  let tag := tagWith h.tag (tagOrdinal h.tag) (tagCheck h.tag) true
  { g with
    poison := true
    sheaves := mapSet g.sheaves i { h with tag := tag, marks := setInsRange h.marks (page % 2 * 512) 512 } }

/-- A page's words of the sheaf at a spill location marked (R357, R374). -/
def poisonSpill (page n : Nat) (b : Binding) : Binding :=
  match b.spill.find? (fun e => e.2.2 = n) with
  | none => b
  | some e =>
    let h := mapGet b.sheaves e.1 sheafZero
    let tag := tagWith h.tag (tagOrdinal h.tag) (tagCheck h.tag) true
    { b with sheaves := mapSet b.sheaves e.1 { h with tag := tag, marks := setInsRange h.marks (page % 2 * 512) 512 } }

/-- A valid place of an uncorrectable page: the sector, the segment's words or the spilled sheaf's poisoned; a map page makes the media read-only. -/
def poisonPlace (page : Nat) (s : State) (r : BackRef) : State :=
  match r with
  | .sector nsid lba => { s with namespaces := mapMod s.namespaces nsid (fun n => { n with poisoned := setIns n.poisoned lba }) }
  | .segment n => { s with segs := mapMod s.segs n (poisonSegment page) }
  | .mapPage _ => mediaToReadOnly s 1
  | .record _ _ => mediaToReadOnly s 1
  | .spill n => { s with crofts := mapAll s.crofts (fun k => { k with
      bsets := mapAll k.bsets (fun b => { b with binds := b.binds.map (poisonSpill page n) }) }) }

/-- The kind of page an uncorrectable read reports: 0 namespace, 1 segment, 2 journal, 3 map (R384). -/
def pageKind : BlkKind → Nat
  | .nsData => 0
  | .segT3 => 1
  | .segT2 => 1
  | .spillT2 => 1
  | .spillT3 => 1
  | .mapPages => 3
  | .journal => 2
  | .metadata => 2
  | .flush => 0

/-- The croft an uncorrectable page concerns: the owner of its segment or of its spill location. -/
def pageCroft (s : State) (rs : List (Nat × BackRef)) : Option Nat :=
  rs.findSome? (fun r => match r.2 with
    | .segment n => (segOf s n).map (·.croft)
    | .spill n => (s.crofts.find? (fun p => p.2.bsets.any (fun b => b.2.binds.any (fun x => x.spill.any (fun e => e.2.2 = n))))).map (·.1)
    | _ => none)

/-- An uncorrectable page: its valid places poisoned, its event, and read-only media for a journal, map or head page (R357). -/
def pageUncorrectable (s : State) (p n page : Nat) : State :=
  let x := packageOf s p
  let b := blockAt x n
  let rs := (pagePlaces b page).filter (fun r => mapAt x r.2 = some (n, r.1))
  let s1 := (rs.map (·.2)).foldl (poisonPlace page) s
  let s2 := smartNotice (if 2 ≤ pageKind b.kind then mediaToReadOnly s1 1 else s1) 2 0
  flashEvent s2 (pageCroft s rs) 0x0110 2 p n page [BitVec.ofNat 8 (pageKind b.kind)]

/-- A plane page read and decoded: counts, the retry set kept, an uncorrectable page's consequences (R357, R358, R362). -/
def pageRead (s : State) (p n page level : Nat) : State :=
  let s1 := countPageRead s level
  let r := if level = 1 then fresh s1 else (0, s1)
  let x := packageOf r.2 p
  let b := blockAt x n
  let s2 := putPackage r.2 p (putBlock x n { b with
    reads := b.reads + 1, retry := if level = 1 then r.1.toNat % 16 else b.retry })
  if level = 4 then pageUncorrectable s2 p n page else s2

end Sys2Proof.Machine
end

