-- ==== Sys2Proof/Machine/DeallocRun.lean ====
section
/-! DEFINITION. The first steps of a secure deallocation: fence, unmapping, the segments removed (R329, R330). -/

namespace Sys2Proof.Machine

/-- The programs that name what a deallocation removes and were accepted earlier completed first (R330 step 1): those still to reach flash, one by one. -/
def fencePrograms (d : Dealloc) (p : Nat) : Nat → State → State
  | 0, s => s
  | n + 1, s =>
    match (packageOf s p).progs.findIdx? (fun g => !g.protectedBuf && g.refs.any (deallocHas d)) with
    | none => s
    | some i => fencePrograms d p n (programEnd s p i)

/-- The fence over every package. -/
def fence (s : State) (d : Dealloc) : State :=
  s.packages.foldl (fun s p => fencePrograms d p.1 p.2.progs.length s) s

/-- What a deallocation removes unmapped: map entries dropped and journalled, copies in protected buffers discarded, copies on their way by the Gleaner left stale (R330 step 2, R350). -/
def unmapRefs (s : State) (d : Dealloc) : State :=
  { s with packages := mapAll s.packages (fun x =>
      let y := (x.map.filter (fun m => deallocHas d m.1)).foldl (fun y m => mapDrop y m.1) x
      let gone := (x.progs.flatMap (·.refs)).filter (deallocHas d)
      { y with progs := (y.progs.map (progWithout gone)).filter (fun g => !g.refs.isEmpty) }) }

/-- A deallocation entered in the list with its blocks; with EARLY its completion is posted now (R330). -/
def deallocStart (s : State) (d : Dealloc) : State :=
  let d' := { d with blocks := deallocBlocks s d, unmapped := s.bell.count }
  let s1 := bump { s with deallocs := s.deallocs ++ [d'], sdSeq := (s.sdSeq + 1) % 2 ^ 32 } 0xA3C0 1 1
  if d.early then
    let s2 := match d.ticket with
      | some t => complete s1 t 0 0 0 d.seq 0 none
      | none => s1
    match d.nticket with
    | some t => nvmeComplete s2 t d.seq 0
    | none => s2
  else s1

/-- The serials an object holds from a segment on. -/
def objSerials (first count : Nat) (o : Obj) : List Nat :=
  ((if count = 0 then o.segs.drop first else (o.segs.drop first).take count)).filter (· ≠ 0)

/-- Every object a croft knows by a key: in the open state, the retained epochs and the commits in progress. -/
def objsOfKey (k : Croft) (key : Nat) : List Obj :=
  ((k.store.openState :: k.store.epochs.map (·.2)) ++ k.store.commits.map (·.frozen)).filterMap (fun m => objOf m key)

/-- The segment form carried to the end of step 2: the segments gone from the open state and every retained epoch and hold, their copies in T0 and T1 zeroed (R175, R232, R330). -/
def deallocSegments (s : State) (c : Nat) (t : Ticket) (d : Desc) (gone : List Nat) : State :=
  let x : Dealloc := ⟨s.sdSeq, true, stFlags d % 2 = 1, false, c, 0, stKey d, gone.length, [], 0, 0, 0, 0, gone, some t, none, some (stAddr d), false, 0⟩
  let s1 := fence s x
  let s2 := unmapRefs s1 x
  deallocStart (doomCopies { s2 with segs := s2.segs.filter (fun p => !gone.contains p.1) } c gone) x

/-- The deallocations of a croft whose earlier PERSISTs have completed, carried to the end of step 2 in acceptance order (R330). -/
def runDeallocs (s : State) (c : Nat) : State :=
  match croft? s c with
  | none => s
  | some k => k.store.sdWaits.foldl (fun s w => deallocSegments s c w.ticket w.desc w.gone) (modStore s c (fun st => { st with sdWaits := [] }))

end Sys2Proof.Machine
end

