-- ==== Sys2Proof/Machine/CommitOps.lean ====
section
/-! DEFINITION. Commits and holds: acceptance, the layout a compaction publishes, checking, durability, the hold record (R183, R226 to R235). -/

namespace Sys2Proof.Machine

/-! ### Compacted layouts (R183) -/

/-- The sheaves of a set without its records: header and codebook. -/
def bareImg (h : SetHdr) (m : FMap Sheaf) : FMap Sheaf :=
  m.filter (fun p => p.1 = 0 || (h.dims ≠ 0 && h.cbSh ≤ p.1 && p.1 < h.cbSh + (32 * h.dims + 32767) / 32768))

/-- One record copied from a layout to the end of another. -/
def copyRec (h : SetHdr) (src : FMap Sheaf) (n : Nat) (dst : FMap Sheaf) (k : Nat) : FMap Sheaf :=
  let code := (List.range (h.subs / 2)).map (fun i =>
    BitVec.ofNat 8 (imgCode h src n (2 * i) + 16 * imgCode h src n (2 * i + 1)))
  insertRec h dst k ⟨1, imgId h src n, imgAttr h src n ++ code ++ (if h.fp = 0 then [] else imgFp h src n)⟩

/-- The records of ordinals below `hw` that are live, copied in ascending order after `k` records: the layout and its high water. -/
def copyLive (h : SetHdr) (src : FMap Sheaf) (lo hw : Nat) (dst : FMap Sheaf) (k : Nat) : FMap Sheaf × Nat :=
  (List.range (hw - lo)).foldl (fun (p : FMap Sheaf × Nat) i =>
    if imgLive h src hw (lo + i) then (copyRec h src (lo + i) p.1 p.2, p.2 + 1) else p) (dst, k)

/-- The layout a compaction at an epoch writes: the records live there, from ordinal 0. -/
def compactImg (s : State) (o : Obj) : FMap Sheaf × Nat :=
  let m := objImg s o
  let h := imgHdr m
  copyLive h m 0 o.hw (bareImg h m) 0

/-- A record's ID, attributes, code and full-precision bytes. -/
def recBytes (h : SetHdr) (m : FMap Sheaf) (n : Nat) : List Byte :=
  leBytes 8 (imgId h m n) ++ imgAttr h m n ++ (List.range h.subs).map (fun x => BitVec.ofNat 8 (imgCode h m n x)) ++
  (if h.fp = 0 then [] else imgFp h m n)

/-- One ordinal of the open state carried into a compacted layout made from sheaves `was` of `hwE` records: a record unchanged since keeps its place and loses it to a delete by ID, any other is appended, a dead insert with its tombstone. -/
def carryRec (h : SetHdr) (was now : FMap Sheaf) (hwE hwNow : Nat) (p : FMap Sheaf × Nat) (n : Nat) : FMap Sheaf × Nat :=
  let live := imgLive h now hwNow n
  let same : Bool := n < hwE && recBytes h was n = recBytes h now n
  if same && (live || !imgLive h was hwE n) then p
  else if same then
    ((List.range p.2).foldl (fun x k => if imgId h x k = imgId h was n && imgLive h x p.2 k then imgKill h x k else x) p.1, p.2)
  else if live then (copyRec h now n p.1 p.2, p.2 + 1)
  else if hwE ≤ n then (imgKill h (copyRec h now n p.1 p.2) p.2, p.2 + 1)
  else p

/-- A compacted layout brought up to the open state: deletes since applied by ID, inserts since appended (R183); records of the layout whose ordinal now holds another record, by a raw WRITE or a COPY, are deleted. -/
def carryIn (s : State) (done was now : Obj) : FMap Sheaf × Nat :=
  let m := objImg s now
  let h := imgHdr m
  let w := objImg s was
  let gone := (List.range was.hw).filter (fun n => imgLive h w was.hw n && !(n < now.hw && recBytes h w n = recBytes h m n))
  let start := gone.foldl (fun x n =>
    (List.range done.hw).foldl (fun x k => if imgId h x k = imgId h w n then imgKill h x k else x) x) ((bareImg h m).foldl (fun x p => mapSet x p.1 p.2) (objImg s done))
  (List.range now.hw).foldl (carryRec h w m was.hw now.hw) (start, done.hw)

/-- The compacted layouts of a croft put in place of their sets in the open state: the keys published (R183). -/
def publishCompacted (s : State) (c op : Nat) : List Nat × State :=
  match croft? s c with
  | none => ([], s)
  | some k => k.store.compacted.foldl (fun (p : List Nat × State) e =>
      match (croft? p.2 c).bind (fun k => objOf k.store.openState e.1) with
      | none => (p.1, modStore p.2 c (fun st => { st with compacted := mapDel st.compacted e.1 }))
      | some now =>
        if imgHdr (objImg p.2 now) ≠ imgHdr (objImg p.2 e.2.2) then
          (p.1, modStore p.2 c (fun st => { st with compacted := mapDel st.compacted e.1 }))
        else
        let x := carryIn p.2 e.2.1 e.2.2 now
        match rebuildSet p.2 c e.1 op e.2.1 x.1 x.2 with
        | none => p
        | some r =>
          (p.1 ++ [e.1], modStore (setObj r.2 c e.1 r.1) c (fun st => { st with compacted := mapDel st.compacted e.1 }))) ([], s)

/-! ### Acceptance -/

/-- A commit accepted: the open state frozen with the layouts compactions publish, the operations it covers noted (R226). -/
def acceptCommit (s : State) (c : Nat) (retain : Bool) (t : Option Ticket) (hold : Option (HoldReq × List Byte)) : State :=
  let o := newOp s c none none 0 0
  let p := publishCompacted o.2 c o.1
  let s1 := opFinish p.2 o.1
  let covered := (s1.ops.filter (fun x => x.croft = c)).map (·.id)
  modStore s1 c (fun st => { st with
    commits := st.commits ++ [⟨st.openState, retain, covered, hold, st.layouts ++ p.1, st.replaced, clock s, t⟩], layouts := [], replaced := [] })

/-! ### The hold record (R233) -/

/-- Bytes 0 to 343 of a hold record of a job about to be held, its epoch and weight-set digest still zero. -/
def holdPart (s : State) (c : Nat) (k : Croft) (j : Job) (h : HoldReq) : List Byte :=
  let flags := (if h.sign then 1 else 0) + (if j.train.isSome then 2 else 0) + (if j.group.isSome then 4 else 0)
  let dig := match mapGet? k.images j.image with
    | some im => imageDigest im
    | none => List.replicate 64 0
  let tr := j.train.getD (List.replicate 64 0)
  let g := j.group.getD (List.replicate 544 0)
  leBytes 4 0x52485744 ++ leBytes 2 1 ++ leBytes 2 j.level ++ [BitVec.ofNat 8 c, BitVec.ofNat 8 flags] ++
  leBytes 2 h.keys.length ++ leBytes 4 0 ++ leBytes 8 0 ++ leBytes 8 h.key ++ dig ++ List.replicate 64 0 ++
  leBytes 8 (trSeed tr) ++ leBytes 8 (trIndex tr) ++ leBytes 8 (jobReading s j) ++ leBytes 8 j.bellOff ++ leBytes 8 j.id ++
  (List.range 16).flatMap (fun i => leBytes 8 ((h.keys[i]?).getD 0xFFFFFFFFFFFFFFFF)) ++
  leBytes 8 (leAt g 16 8) ++ leBytes 1 (leAt g 8 1) ++ [0] ++ leBytes 2 (if j.group.isSome then leAt g 6 2 else 0) ++ leBytes 4 0

/-- The state object's segment 0: training state record, published steps at byte 64, the persistent semaphores from byte 128 (DESIGN CHOICE: the places within the segment). -/
def stateSheaf (j : Job) : Sheaf :=
  let sems := (List.range 2048).map (fun i => BitVec.ofNat 8 (mapGet j.sems i 0))
  let b := j.train.getD (List.replicate 64 0) ++ leBytes 8 j.published ++ List.replicate 56 0 ++ sems
  let body := cellsOf 0 0 b
  ⟨tagWith 0 0 (bodyCheck ⟨0, body, []⟩) false, body, []⟩

/-- HOLD from its first step on: the job ends, the state object is written, the open state is committed for the hold (R233). -/
def holdProceed (s : State) (c id : Nat) (h : HoldReq) : State :=
  match croft? s c, jobOf s c id with
  | some k, some j =>
    let part := holdPart s c k j h
    let s1 := endJobDone (modJob s c id (fun j => { j with holdReq := none })) c id
    let o := newOp s1 c none none 0 0
    let old := (objOf k.store.openState h.key).getD ⟨[], false, 0, 0⟩
    if !objRoom k.store h.key then done s1 h.ticket 0x17
    else match addSegments c 2 o.1 [some ⟨c, 2, false, false, false, h.key, 0, openEpoch k.store, [(0, stateSheaf j)]⟩] o.2 with
    | none => done s1 h.ticket 0x12
    | some r =>
      let s2 := opFinish (setObj r.2 c h.key (placeSerials old 0 r.1)) o.1
      acceptCommit s2 c false none (some (h, part))
  | _, _ => done s h.ticket 0x18

/-- A hold whose commit is durable as an epoch: the digests, the record to the host and to the hold table (R233, R234). -/
def holdDurable (s : State) (c e : Nat) (m : FMap Obj) (h : HoldReq) (part : List Byte) : State :=
  match weightDigest s m h.keys with
  | none => done s h.ticket 0x10
  | some wd =>
    let b := patch (patch part 16 (leBytes 8 e)) 96 wd
    let dig := shake256 64 b
    let sig := if h.sign then identitySign s dig else (List.replicate 114 0, s)
    let rec_ := b ++ dig ++ sig.1 ++ List.replicate 6 0
    if !hostWritable s (h.addr + 128) 528 then done sig.2 h.ticket 6
    else
      let s1 := modStore (hostWrite sig.2 (h.addr + 128) rec_) c (fun st => { st with holds := mapSet st.holds e rec_ })
      done (recordTable s1 c) h.ticket 0

/-! ### Checking and durability -/

/-- The layouts of a refused commit published by the next one: the one in progress after it, else the one accepted next (R201). -/
def layoutsBack (sets : List Nat) (st : Store) : Store :=
  match st.commits with
  | m :: rest => { st with commits := { m with sets := sets ++ m.sets } :: rest }
  | [] => { st with layouts := sets ++ st.layouts }

/-- A refused commit: the frozen state stays in the open state, no epoch number is consumed (R226, R227). -/
def refuseCommit (s : State) (c : Nat) (m : Commit) (status key index : Nat) : State :=
  let s1 := bump (modStore s c (fun st => layoutsBack m.sets { st with commits := st.commits.drop 1, replaced := m.freed ++ st.replaced })) (0xA340 + c) 2 1
  let s2 := match m.ticket with
    | some t => complete s1 t status 0 0 key index none
    | none => s1
  match m.hold with
  | some h => complete s2 h.1.ticket status 0 0 key index none
  | none => s2

/-- A commit recorded in all three copies: the epoch exists, it is retained where asked, its completion is posted (R226 to R230). -/
def durableCommit (s : State) (c : Nat) (k : Croft) (m : Commit) : State :=
  let e := k.store.epoch + 1
  let room := epochRoom k
  let s1 := recordTable (modStore s c (fun st => { st with
      epoch := e, epochs := mapSet st.epochs e m.frozen, commits := st.commits.drop 1
      snaps := if m.retain && room then setIns st.snaps e else st.snaps })) c
  let s2 := bump (bump s1 (0xA340 + c) 1 1) (0xA300 + c) 0x0A m.sets.length
  let s3 := bumpMax s2 (0xA340 + c) 5 ((clock s - m.since) / 1000)
  let s4 := match m.ticket with
    | some t => complete s3 t (if m.retain && !room then 0x16 else 0) 0 0 e 0 none
    | none => s3
  let s5 := match m.hold with
    | some h => holdDurable s4 c e m.frozen h.1 h.2
    | none => s4
  freeSegments s5 c

/-- The commit at the front of a croft's list, once sealed (R226, R227). -/
def sealedCommit (s : State) (c : Nat) : State :=
  match croft? s c with
  | none => s
  | some k =>
    match k.store.commits with
    | [] => s
    | m :: _ =>
      if m.covered.any (fun id => s.ops.any (fun o => o.id = id)) then s
      else if storeReadOnly s k then refuseCommit s c m 0x14 0 0
      else if s.power.stage < 3 then refuseCommit s c m 0x15 0 0
      else match poisonedNew s m.frozen k.store.epochs with
        | some p => refuseCommit s c m 0x13 p.1 p.2
        | none => durableCommit s c k m

end Sys2Proof.Machine
end

