-- ==== Sys2Proof/Machine/StoreCmds.lean ====
section
/-! DEFINITION. The segment-store operations and SETCREATE (R174, R182, R220 to R235, R474). -/

namespace Sys2Proof.Machine

/-- A segment-store descriptor fetched and judged (R25, R220, R438). -/
def withStore (s : State) (f : Fin 33) (ring : Nat) (d : Desc) (op minStage uses flags : Nat)
    (effect : State → Nat → Ticket → Croft → State) : State :=
  withDescriptor s f ring d op minStage 0x15 (fun s c t =>
    match croft? s c with
    | none => done s t 3
    | some k => if stFieldsOk d uses flags then effect s c t k else done s t 1)

/-- A segment-store operation that changes the store: refused while the store is read-only (R239, R336). -/
def withStoreChange (s : State) (f : Fin 33) (ring : Nat) (d : Desc) (op uses flags : Nat)
    (effect : State → Nat → Ticket → Croft → State) : State :=
  withStore s f ring d op 3 uses flags (fun s c t k => if storeReadOnly s k then done s t 0x14 else effect s c t k)

/-! ### WRITE -/

/-- The segment of a plain WRITE: bodies, then tags (R221). -/
def plainSegment (c key index epoch : Nat) (b : List Byte) : Segment :=
  let sh := sheavesOf (sub b 0 1048576) (sub b 1048576 1024)
  ⟨c, 2, sh.any (fun p => tagPoison p.2.tag), false, false, key, index, epoch, sh⟩

/-- The segment of a raw WRITE: flags and contents kept, the identity fields rewritten; none for an empty one (R221, R474). -/
def rawSegment (c key index epoch : Nat) (b : List Byte) : Option Segment :=
  let fl := leAt b 8 1
  if fl / 4 % 2 = 1 then none
  else some ⟨c, 2, fl % 2 = 1, fl / 2 % 2 = 1, fl / 8 % 2 = 1, key, index, epoch, sheavesOf (sub b 1152 1048576) (sub b 128 1024)⟩

/-- The bytes of segment `i` of a WRITE. -/
def writePart (raw : Bool) (b : List Byte) (i : Nat) : List Byte :=
  let n := if raw then 1049728 else 1049600
  sub b (i * n) n

/-- Whether a raw part's vector-set mark agrees with a set (R474). -/
def partIsSet (b : List Byte) : Bool := leAt b 8 1 / 8 % 2 = 1

/-- Serials without the empty places at their end. -/
def trimSerials (l : List Nat) : List Nat := (l.reverse.dropWhile (· = 0)).reverse

/-- An object after a write of its segments: a vector set counts its segments to the last that holds a written sheaf, and its high water and live count are those its columns show (R474). -/
def refreshObj (s : State) (o : Obj) : Obj :=
  if o.isSet then
    let m := objImg s o
    let h := imgHdr m
    let hw := imgHw h m
    { o with segs := trimSerials o.segs, hw := hw, live := imgLiveCount h m hw }
  else o

/-- WRITE's segments placed in the open state (R164, R222, R225). -/
def writeSegments (s : State) (c : Nat) (t : Ticket) (k : Croft) (d : Desc) (b : List Byte) : State :=
  let raw := stRaw d
  let n := stCount d
  let key := stKey d
  let parts := (List.range n).map (writePart raw b)
  let isSet := raw && parts.any partIsSet
  let old := (objOf k.store.openState key).getD ⟨[], isSet, 0, 0⟩
  if raw && !parts.all rawOk then done s t 0x1C
  else if old.isSet && !raw then done s t 1
  else if raw && !parts.all (fun p => partIsSet p = old.isSet) then done s t 0x1C
  else if old.segs.length < stIndex d || 2 ^ 32 < stIndex d + n then done s t 0x17
  else if !objRoom k.store key then done s t 0x17
  else
    let e := openEpoch k.store
    let segs := parts.zipIdx.map (fun p =>
      if raw then rawSegment c key (stIndex d + p.2) e p.1 else some (plainSegment c key (stIndex d + p.2) e p.1))
    let o := newOp s c (some t) none 0 0
    match addSegments c (stClass d) o.1 segs o.2 with
    | none => done s t 0x12
    | some r => opFinish (setObj r.2 c key (refreshObj r.2 (placeSerials old (stIndex d) r.1))) o.1

/-- WRITE (R221). -/
def execWrite (f : Fin 33) (ring : Nat) (d : Desc) (s : State) : Out :=
  .next (withStoreChange s f ring d 0x10 (1 + 2 + 8 + 16 + 64) 8 (fun s c t k =>
    if stCount d = 0 || 64 < stCount d then done s t 1
    else match hostRead s (stAddr d) (stCount d * (if stRaw d then 1049728 else 1049600)) with
      | none => done s t 6
      | some b => writeSegments s c t k d b))

/-! ### PERSIST -/

/-- The binding a PERSIST names: the binding-set handle in bits [31:8] of its field and the index in bits [7:0] (DESIGN CHOICE: the spec gives no set). -/
def persistBinding (k : Croft) (d : Desc) : Option Binding :=
  (mapGet? k.bsets (stBinding d / 256)).bind (fun b => b.binds[stBinding d % 256]?)

/-- The segment places a PERSIST takes, one for each 32 sheaves begun. -/
def persistPlaces (n : Nat) : Nat := (n + 31) / 32

/-- A segment whose contents are written when the running step ends. -/
def persistBlank (c key index epoch : Nat) : Segment := ⟨c, 2, false, false, false, key, index, epoch, []⟩

/-- The content of one place of a PERSIST from its binding's published sheaves (R153, R223). -/
def persistSheaves (b : Binding) (first count i : Nat) : FMap Sheaf :=
  (b.sheaves.filter (fun p => first + 32 * i ≤ p.1 && p.1 < min (first + count) (first + 32 * i + 32))).map (fun p =>
    (p.1 - (first + 32 * i), if p.2.marks.isEmpty then p.2 else { p.2 with tag := tagWith p.2.tag (tagOrdinal p.2.tag) (tagCheck p.2.tag) true }))

/-- The frames of the named sheaves read through their code, words found uncorrectable marked (R371). -/
def readBindingFrames (s : State) (c : Nat) (b : Binding) (first count : Nat) : FMap Sheaf × State :=
  (b.frames.filter (fun p => first ≤ p.1 && p.1 < first + count)).foldl (fun (q : FMap Sheaf × State) p =>
    let r := readFrame q.2 (some c) p.2 (mapGet q.1 p.1 sheafZero)
    (if mapGet q.1 p.1 sheafZero = r.1 then q.1 else mapSet q.1 p.1 r.1, hbmMoved r.2.2 c (p.2 / stackFrames) sheafBytes))
    (b.sheaves, (b.spill.filter (fun p => first ≤ p.1 && p.1 < first + count)).foldl (fun s p => flashRead s c p.2.1) s)

/-- A PERSIST whose croft's step has ended: its segments take the binding's contents, and their programs begin (R223, R225). -/
def persistRun (s : State) (c : Nat) (w : PersistWait) : State :=
  match croft? s c with
  | none => s
  | some k =>
    match (mapGet? k.bsets w.bset).bind (fun b => b.binds[w.bind]?) with
    | none => opProgress (modStore s c (fun st => { st with persists := st.persists.filter (fun y => y.id ≠ w.id) })) w.id
    | some b =>
      let r := readBindingFrames s c b w.first w.count
      let b' := { b with sheaves := r.1 }
      let fill := w.serials.zipIdx
      let s1 := { r.2 with segs := r.2.segs.map (fun p =>
        match fill.find? (fun x => x.1 = p.1) with
        | none => p
        | some x =>
          let sh := persistSheaves b' w.first w.count x.2
          (p.1, { p.2 with sheaves := sh, poison := sh.any (fun y => tagPoison y.2.tag) })) }
      let s2 := modCroft s1 c (fun k => { k with
        bsets := mapMod k.bsets w.bset (fun x => { x with binds := x.binds.set w.bind b' })
        store := { k.store with persists := k.store.persists.filter (fun y => y.id ≠ w.id) } })
      dropOrphans (opProgress (w.serials.foldl (progSegment w.id) s2) w.id) c

/-- PERSIST accepted: its segments are placed at once, and filled and programmed when no step runs (R222, R223, R225). -/
def persistEffect (d : Desc) (s : State) (c : Nat) (t : Ticket) (k : Croft) : State :=
  match persistBinding k d with
  | none => done s t 0x50
  | some b =>
    let old := (objOf k.store.openState (stKey d)).getD ⟨[], false, 0, 0⟩
    let n := persistPlaces (stCount d)
    if stCount d = 0 || b.kind ≠ 0 || stIndex d % 32 ≠ 0 || old.isSet then done s t 1
    else if b.count < stIndex d + stCount d || old.segs.length < stIndex d / 32 || 2 ^ 32 < stIndex d / 32 + n then done s t 0x17
    else if !objRoom k.store (stKey d) then done s t 0x17
    else
      let o := newOp s c (some t) none 0 0
      let segs := (List.range n).map (fun i => persistBlank c (stKey d) (stIndex d / 32 + i) (openEpoch k.store))
      match placeNews c (stClass d) segs o.2 with
      | none => done s t 0x12
      | some r =>
        let w : PersistWait := ⟨o.1, r.1, stBinding d / 256, stBinding d % 256, stIndex d, stCount d⟩
        let s1 := modOp (setObj r.2 c (stKey d) (placeSerials old (stIndex d / 32) r.1)) o.1 (fun o => { o with left := o.left + 1 })
        let s2 := modStore s1 c (fun st => { st with persists := st.persists ++ [w] })
        if k.run.isSome then s2 else persistRun s2 c w

/-- PERSIST (R221, R223). -/
def execPersist (f : Fin 33) (ring : Nat) (d : Desc) (s : State) : Out :=
  .next (withStoreChange s f ring d 0x11 (1 + 2 + 16 + 32 + 64) 0 (persistEffect d))

/-! ### READ and MANIFEST -/

/-- Whole segments or single sheaves read from their classes counted: `n` bytes of each (R280). -/
def readCounted (s : State) (c n : Nat) (l : List (Nat × Segment)) : State :=
  (l.filter (fun g => g.1 ≠ 0)).foldl (fun s g => bump s (0xA380 + c) (if g.2.cls = 2 then 0x0A else 0x0C) n) s

/-- The segment of each sheaf a READ names. -/
def sheafSegs (segs : List (Nat × Segment)) (first n : Nat) : List (Nat × Segment) :=
  (List.range n).filterMap (fun i => segs[(first + i) / 32 - first / 32]?)

/-- The sheaves a READ names, one after another: body, or none where it is poisoned. -/
def readSheaves (segs : List (Nat × Segment)) (first n : Nat) : List (Option (List Byte)) :=
  (List.range n).map (fun i =>
    match segs[(first + i) / 32 - first / 32]? with
    | none => none
    | some g =>
      let sh := mapGet g.2.sheaves ((first + i) % 32) sheafZero
      if tagPoison sh.tag || !sh.marks.isEmpty then none else some (bodyBytes sh))

/-- Bodies written to the host in turn; a poisoned sheaf's place is left alone. -/
def writeBodies (a : Nat) : List (Option (List Byte)) → State → State
  | [], s => s
  | none :: r, s => writeBodies (a + 32768) r s
  | some b :: r, s => writeBodies (a + 32768) r (hostWrite s a b)

/-- A READ of sheaves (R224). -/
def readPlain (s : State) (c : Nat) (t : Ticket) (d : Desc) (e : Nat) (o : Obj) : State :=
  let i := stIndex d
  let n := stCount d
  if 32 * o.segs.length < i + n then done s t 0x17
  else match segsAt s c (stKey d) o (i / 32) ((i + n + 31) / 32 - i / 32) with
    | none => done s t 0x10
    | some segs =>
      let parts := readSheaves segs i n
      let bad := parts.any (·.isNone) || segs.any (fun g => segConflict s g.1)
      if !hostWritable s (stAddr d) (n * 32768) then done s t 6
      else if segs.any (fun g => segConflict s g.1) then complete s t 0x13 0 0 e 0 none
      else complete (readCounted (writeBodies (stAddr d) parts s) c sheafBytes (sheafSegs segs i n)) t (if bad then 0x13 else 0) 0 0 e 0 none

/-- A raw READ of whole segments with their headers (R224). -/
def readRaw (s : State) (c : Nat) (t : Ticket) (d : Desc) (e : Nat) (o : Obj) : State :=
  if o.segs.length < stIndex d + stCount d then done s t 0x17
  else match segsAt s c (stKey d) o (stIndex d) (stCount d) with
    | none => done s t 0x10
    | some segs =>
      if !hostWritable s (stAddr d) (stCount d * 1049728) then done s t 6
      else
        let b := segs.flatMap (fun g => segHeader g.2 g.1 (g.1 = 0) ++ segBody g.2)
        complete (readCounted (hostWrite s (stAddr d) b) c 1048576 segs) t 0 (if segs.any (fun g => g.2.poison) then 2 else 0) 0 e 0 none

/-- READ (R221, R224). -/
def execRead (f : Fin 33) (ring : Nat) (d : Desc) (s : State) : Out :=
  .next (withStore s f ring d 0x12 2 (1 + 2 + 4 + 8 + 16) 8 (fun s c t k =>
    if stCount d = 0 then done s t 1
    else match epochMap k.store (stEpoch d) with
      | none => done s t 0x11
      | some (e, m) =>
        match objOf m (stKey d) with
        | none => done s t 0x10
        | some o => if stRaw d then readRaw s c t d e o else readPlain s c t d e o))

/-- MANIFEST (R221, R224). -/
def execManifest (f : Fin 33) (ring : Nat) (d : Desc) (s : State) : Out :=
  .next (withStore s f ring d 0x1D 2 (2 + 4 + 8 + 16) 0 (fun s _ t k =>
    match epochMap k.store (stEpoch d) with
    | none => done s t 0x11
    | some (e, m) =>
      let l := (m.filter (fun p => stIndex d < p.1)).take (stCount d)
      if !hostWritable s (stAddr d) (16 * l.length) then done s t 6
      else
        let b := l.flatMap (fun p => leBytes 8 p.1 ++ leBytes 8 p.2.segs.length)
        complete (hostWrite s (stAddr d) b) t 0 0 l.length e 0 none))

/-! ### Changes of the open state -/

/-- TRUNCATE's change of the open state: it completes once the change's journal record is durable (R225; DESIGN CHOICE, log entry 104: a page row in the package of the key). -/
def truncateObj (s : State) (c : Nat) (t : Ticket) (key : Nat) (o : Option Obj) : State :=
  let p := newOp s c (some t) none 0 0
  opFinish (addProg (setOpen p.2 c key o) (key % 48) [] .journal p.1 65536 false []) p.1

/-- TRUNCATE (R221, R222, R225); segments it takes away are freed at the next commit. -/
def execTruncate (f : Fin 33) (ring : Nat) (d : Desc) (s : State) : Out :=
  .next (withStoreChange s f ring d 0x13 (1 + 2) 0 (fun s c t k =>
    match objOf k.store.openState (stKey d) with
    | none => done s t 0x10
    | some o =>
      if o.segs.length < stIndex d then done s t 0x17
      else if o.isSet && stIndex d ≠ 0 then done s t 1
      else truncateObj s c t (stKey d) (if stIndex d = 0 then none else some { o with segs := o.segs.take (stIndex d) })))

/-- UPDATE's entries applied to a set (R182, R225). -/
def updateSet (s : State) (c : Nat) (t : Ticket) (d : Desc) (o : Obj) (b : List Byte) : State :=
  let img := objImg s o
  let h := imgHdr img
  match parseEntries h (b.length + 1) o.hw b with
  | none => done s t 1
  | some es =>
    let r := es.foldl (applyEntry h) ⟨img, o.hw, none, 0, 0, false⟩
    let p := newOp s c (some t) none r.inserts (r.first.getD 0)
    match rebuildSet p.2 c (stKey d) p.1 o r.img r.hw with
    | none => done s t 0x12
    | some x => opFinish (modOp (modStore (setObj x.2 c (stKey d) x.1) c (fun st => { st with notFound := st.notFound + r.notFound })) p.1 (fun y => { y with status := if r.full then 0x27 else 0 })) p.1

/-- UPDATE (R182, R221). -/
def execUpdate (f : Fin 33) (ring : Nat) (d : Desc) (s : State) : Out :=
  .next (withStoreChange s f ring d 0x14 (1 + 8 + 16) 0 (fun s c t k =>
    match hostRead s (stAddr d) (stCount d) with
    | none => done s t 6
    | some b =>
      match objOf k.store.openState (stKey d) with
      | none => done s t 0x10
      | some o => if o.isSet then updateSet s c t d o b else done s t 1))

/-- COPY (R221, R232). -/
def execCopy (f : Fin 33) (ring : Nat) (d : Desc) (s : State) : Out :=
  .next (withStoreChange s f ring d 0x15 (1 + 4) 0 (fun s c t k =>
    match epochMap k.store (stEpoch d) with
    | none => done s t 0x11
    | some (_, m) =>
      if (objOf m (stKey d)).isSome && !objRoom k.store (stKey d) then done s t 0x17
      else done (setOpen s c (stKey d) (objOf m (stKey d))) t 0))

/-- DISCARD: the open state is again what it started from (R221). -/
def execDiscard (f : Fin 33) (ring : Nat) (d : Desc) (s : State) : Out :=
  .next (withStoreChange s f ring d 0x19 0 0 (fun s c t _ =>
    done (freeSegments (modStore s c (fun st => { st with openState := baseMap st, replaced := [] })) c) t 0))

/-- SETCREATE's header and codebook made into an object (R474). -/
def createSet (s : State) (c : Nat) (t : Ticket) (k : Croft) (key a : Nat) (b : List Byte) : State :=
  let h := setHdrOf b
  if (objOf k.store.openState key).isSome then done s t 1
  else if !objRoom k.store key then done s t 0x17
  else if !setHdrOk b || (setsOf s k.store.openState).any (fun p => p.2 = h.number) then done s t 0x23
  else match hostRead s (a + 256) (32 * h.dims) with
    | none => done s t 6
    | some cb =>
      let m0 : FMap Sheaf := [(0, ⟨0, cellsOf 0 0 b, []⟩)]
      let m := (List.range ((cb.length + 32767) / 32768)).foldl (fun m i =>
        mapSet m (h.cbSh + i) ⟨0, cellsOf 0 0 (sub cb (32768 * i) 32768), []⟩) m0
      let o := newOp s c (some t) none 0 0
      match rebuildSet o.2 c key o.1 ⟨[], true, 0, 0⟩ m 0 with
      | none => done s t 0x12
      | some r => opFinish (setObj r.2 c key r.1) o.1

/-- SETCREATE (R474). -/
def execSetcreate (f : Fin 33) (ring : Nat) (d : Desc) (s : State) : Out :=
  .next (withDescriptor s f ring d 6 3 5 (fun s c t =>
    match croft? s c with
    | none => done s t 3
    | some k =>
      if !descZero d 32 63 then done s t 1
      else if storeReadOnly s k then done s t 0x14
      else match hostRead s (bytesAt d 24 8) 256 with
        | none => done s t 6
        | some b => createSet s c t k (bytesAt d 16 8) (bytesAt d 24 8) b))

/-! ### Commits, snapshots and holds -/

/-- COMMIT (R221, R226). -/
def execCommit (f : Fin 33) (ring : Nat) (d : Desc) (s : State) : Out :=
  .next (withStore s f ring d 0x18 3 0 1 (fun s c t _ => acceptCommit s c (stFlags d = 1) (some t) none))

/-- COMMIT_SEALED: every covered operation of the first commit has completed (R226). -/
def execCommitSealed (c : Fin 32) (s : State) : Out := .next (sealedCommit s c.val)

/-- ROLLBACK (R232). -/
def execRollback (f : Fin 33) (ring : Nat) (d : Desc) (s : State) : Out :=
  .next (withStoreChange s f ring d 0x1C 4 2 (fun s c t k =>
    match epochMap k.store (stEpoch d) with
    | none => done s t 0x11
    | some (_, m) =>
      if !openEmpty k.store && stFlags d ≠ 2 then done s t 0x1B
      else acceptCommit (modStore s c (fun st => { st with openState := m, compacted := [], replaced := [] })) c false (some t) none))

/-- SNAPSHOT (R221, R230). -/
def execSnapshot (f : Fin 33) (ring : Nat) (d : Desc) (s : State) : Out :=
  .next (withStoreChange s f ring d 0x1A 4 0 (fun s c t k =>
    match epochMap k.store (stEpoch d) with
    | none => done s t 0x11
    | some (e, _) =>
      let counted := k.store.snaps.contains e || (mapGet? k.store.holds e).isSome
      if !counted && !epochRoom k then done s t 0x16
      else done (recordTable (modStore s c (fun st => { st with snaps := setIns st.snaps e })) c) t 0))

/-- RELEASE (R231). -/
def execRelease (f : Fin 33) (ring : Nat) (d : Desc) (s : State) : Out :=
  .next (withStoreChange s f ring d 0x1B 4 0 (fun s c t k =>
    match epochMap k.store (stEpoch d) with
    | none => done s t 0x11
    | some (e, _) =>
      if e = k.store.epoch || (mapGet? k.store.holds e).isSome then done s t 0x18
      else
        let s1 := modStore s c (fun st => { st with snaps := st.snaps.filter (· ≠ e), released := setIns st.released e })
        done (freeSegments (recordTable s1 c) c) t 0))

/-- UNHOLD (R221, R230). -/
def execUnhold (f : Fin 33) (ring : Nat) (d : Desc) (s : State) : Out :=
  .next (withStoreChange s f ring d 0x22 4 0 (fun s c t k =>
    match epochMap k.store (stEpoch d) with
    | none => done s t 0x11
    | some (e, _) =>
      if (mapGet? k.store.holds e).isNone then done s t 0x18
      else
        let s1 := modStore s c (fun st => { st with holds := mapDel st.holds e })
        done (freeSegments (recordTable s1 c) c) t 0))

/-- Whether keys ascend strictly. -/
def ascending : List Nat → Bool
  | a :: b :: r => a < b && ascending (b :: r)
  | _ => true

/-- Whether a job has started its step N already: published it, or runs it (R235). -/
def startedStep (k : Croft) (j : Job) (n : Nat) : Bool := n < j.published || (n = j.published && k.run.any (fun r => r.job = j.id))

/-- HOLD's job judged and held now or at its boundary; HOLDs under way take their place in the hold table (R230, R233, R235). -/
def holdJob (s : State) (c : Nat) (k : Croft) (t : Ticket) (d : Desc) (keys : List Nat) : State :=
  match mapGet? k.jobs (stIndex d) with
  | none => done s t 0x18
  | some j =>
    let n := stEpoch d
    let badObj := (objOf k.store.openState (stKey d)).any (·.isSet)
    if j.faulted || 1 < j.kind || badObj || !ascending keys then done s t 0x18
    else if !keys.all (fun x => (objOf k.store.openState x).isSome) then done s t 0x10
    else if !objRoom k.store (stKey d) then done s t 0x17
    else if 64 ≤ k.store.holds.length + pendingHolds k - (if j.holdReq.isSome then 1 else 0) || (j.holdReq.isNone && !epochRoom k) then done s t 0x16
    else if (j.group.isSome && (n = epochLatest || startedStep k j n)) || (j.group.isNone && n ≠ epochLatest) then done s t 0x18
    else
      let h : HoldReq := ⟨j.id, stAddr d, keys, stFlags d = 4, stKey d, n, t⟩
      let s1 := dropHold s j
      let running := k.run.any (fun r => r.job = j.id)
      if (j.group.isSome && j.published < n) || running then modJob s1 c j.id (fun j => { j with holdReq := some h })
      else holdProceed (modJob s1 c j.id (fun j => { j with holdReq := some h })) c j.id h

/-- HOLD (R233, R235). -/
def execHold (f : Fin 33) (ring : Nat) (d : Desc) (s : State) : Out :=
  .next (withStore s f ring d 0x20 3 (1 + 2 + 4 + 8 + 16) 4 (fun s c t k =>
    if stCount d = 0 || 16 < stCount d then done s t 0x18
    else match hostRead s (stAddr d) (8 * stCount d) with
      | none => done s t 6
      | some b => holdJob s c k t d ((List.range (stCount d)).map (fun i => leAt b (8 * i) 8))))

end Sys2Proof.Machine
end

