-- ==== Sys2Proof/Machine/Boundary.lean ====
section
/-! DEFINITION. The step boundary of a croft: what waited for it takes effect (R14, R223, R233, R235, R264, R266, R330). -/

namespace Sys2Proof.Machine

/-- One deferred change taking effect. -/
def deferredApply (s : State) (c : Nat) : Deferred → State
  | .entry key value => entryApply s key value
  | .admin d t => ldalmEffect s c d t
  | .apply mask map share => applyNow s c mask map share

/-- The deferred changes of a croft in order. -/
def runDeferred (s : State) (c : Nat) : State :=
  match croft? s c with
  | none => s
  | some k => k.deferred.foldl (fun s d => deferredApply s c d) (putCroft s c { k with deferred := [] })

/-- The waiting PERSISTs of a croft in acceptance order. -/
def runPersists (s : State) (c : Nat) : State :=
  match croft? s c with
  | none => s
  | some k => k.store.persists.foldl (fun s w => persistRun s c w) s

/-- Whether a job's pending hold proceeds now: its job between steps, and for a group job its step N reached (R233, R235). -/
def holdDue (j : Job) : Bool :=
  j.holdReq.any (fun h => j.group.isNone || h.stepN ≤ j.published)

/-- The holds of a croft that are due. -/
def runHolds (s : State) (c : Nat) : State :=
  match croft? s c with
  | none => s
  | some k => (k.jobs.map (·.2)).foldl (fun s j => match j.holdReq with
      | some h => if holdDue j then holdProceed s c j.id h else s
      | none => s) s

/-- The jobs of a croft that a CLOSE waits to end (R270). -/
def runCloses (s : State) (c : Nat) : State :=
  match croft? s c with
  | none => s
  | some k => ((k.jobs.filter (fun p => p.2.closing.isSome)).map (·.1)).foldl (fun s id => endJobDone s c id) s

/-- The step boundary of a croft that runs no step. -/
def boundary (s : State) (c : Nat) : State :=
  match croft? s c with
  | none => s
  | some k =>
    if k.run.isSome then s
    else if k.state = 3 then odCroftDone (purgeNow (runDeallocs (runPersists (runDeferred s c) c) c) c) c
    else odCroftDone (dropOrphans (freeSegments (runCloses (runHolds (runDeallocs (runPersists (runDeferred s c) c) c) c) c) c) c) c

end Sys2Proof.Machine
end

