-- ==== Sys2Proof/Machine/Ready.lean ====
section
/-! DEFINITION. Which steps are ready, in which order they start, and the pre-emption requests they raise (R267, R268, R272). -/

namespace Sys2Proof.Machine

/-- Whether every rank's group check has matched; a job without a group needs none (R297). -/
def groupReady (j : Job) : Bool :=
  match j.group with
  | none => true
  | some g => (List.range (leAt g 6 2)).all (fun q => q = leAt g 8 1 || j.checked.contains q)

/-- Whether a job runs a step now. -/
def jobRuns (k : Croft) (id : Nat) : Bool := k.run.any (fun r => r.job = id)

/-- Whether a job's launch condition is met for a step (R253). -/
def launchMet (q : QStep) : Bool := q.launch.isNone || q.reached.isSome

/-- The step at the head of a job, where nothing but engines keeps it from starting (R267). -/
def readyHead (k : Croft) (j : Job) : Option QStep :=
  if j.faulted || j.closing.isSome || jobRuns k j.id || !groupReady j then none
  else match j.steps with
    | q :: _ => if launchMet q then some q else none
    | [] => none

/-- A job with its ready head marked with the time it first became ready. -/
def markJob (k : Croft) (now : Nat) (j : Job) : Job :=
  match readyHead k j, j.steps with
  | some q, _ :: rest => if q.ready.isNone then { j with steps := { q with ready := some now } :: rest } else j
  | _, _ => j

/-- Whether a ready step comes first: priority number, ready time, job identifier (R268). -/
def readyBefore (a b : Job × QStep) : Bool :=
  a.1.prio < b.1.prio || (a.1.prio = b.1.prio &&
    (a.2.ready.getD 0 < b.2.ready.getD 0 || (a.2.ready.getD 0 = b.2.ready.getD 0 && a.1.id ≤ b.1.id)))

/-- The ready step that starts next. -/
def bestReady (k : Croft) : Option (Job × QStep) :=
  k.jobs.foldl (fun best p => match readyHead k p.2, best with
    | some q, some b => if readyBefore b (p.2, q) then some b else some (p.2, q)
    | some q, none => some (p.2, q)
    | none, _ => best) none

/-- Whether a croft may start a step now. -/
def mayStart (s : State) (k : Croft) : Bool :=
  powered s && 2 ≤ s.power.stage && k.state ≠ 3 && k.run.isNone && k.mask ≠ 0 && !valveRelearning s

/-- The priority of the running step's job. -/
def runPrio (k : Croft) (r : RunStep) : Nat := ((mapGet? k.jobs r.job).map (·.prio)).getD 0

/-- Heads marked ready, and the first pre-emption request against the running step raised and counted (R272, R280). -/
def markReady (s : State) (c : Nat) : State :=
  match croft? s c with
  | none => s
  | some k0 =>
    let k := { k0 with jobs := mapAll k0.jobs (markJob k0 (clock s)) }
    match k.run, bestReady k with
    | some r, some b =>
      if r.preempt.isNone && b.1.prio < runPrio k r then
        bump (putCroft s c { k with run := some { r with preempt := some (clock s) } }) (0xA380 + c) 6 1
      else putCroft s c k
    | _, _ => putCroft s c k

end Sys2Proof.Machine
end

