-- ==== Sys2Proof/Machine/StepEnd.lean ====
section
/-! DEFINITION. How a step leaves the engines: accounting, pins, faults, aborts (R128, R146, R168, R175, R270 to R280). -/

namespace Sys2Proof.Machine

/-- The running step of a croft with its record. -/
def runOf (s : State) (c : Nat) : Option (Croft × RunStep) := (croft? s c).bind (fun k => k.run.map (fun r => (k, r)))

/-- The state with the running step of a croft changed. -/
def modRun (s : State) (c : Nat) (f : RunStep → RunStep) : State := modCroft s c (fun k => { k with run := k.run.map f })

/-- Engines of a croft. -/
def engineCount (k : Croft) : Nat := ((List.range 64).filter (fun i => bitOf k.mask i)).length

/-- The arrays that still had rows streaming when their step left its engines, without streamed rows from now on (R45). -/
def rampLeave (s : State) (r : RunStep) : State :=
  r.ves.foldl (fun s x => (x.2.qA.inflight.filter (fun f => fld f.word 7 0 = 0x22)).foldl (fun s f =>
    match x.2.engine with
    | some e => rampDry s e (fld f.word 34 32)
    | none => s) s) s

/-- The engines free: engine-cycles and the longest pre-emption wait counted, pins let go, doomed copies gone, the croft without a running step (R168, R175, R280). -/
def leaveEngines (s : State) (c : Nat) (k : Croft) (r : RunStep) : State :=
  let recs := ((mapGet? k.jobs r.job).bind (jobAlm k)).map (·.recs) |>.getD []
  let s1 := bump s (0xA380 + c) 8 (engineCount k * (clock s - r.start) * 14 / 10)
  let s2 := match r.preempt with
    | some t => bumpMax s1 (0xA380 + c) 7 ((clock s - t) / 1000)
    | none => s1
  let s3 := releaseStepPins s2 c r.job recs
  dropDoomed (modCroft (rampLeave s3 r) c (fun k => { k with run := none })) c

/-- The croft's boundary after its step has gone, the deallocations that waited for it, and the steps that are ready now. -/
def afterStep (s : State) (c : Nat) : State := markReady (deallocCheck (boundary s c)) c

/-- The 32 bytes of a fault record (R146). -/
def faultRecord (code queue ve phys croft others job step offset detail : Nat) : List Byte :=
  [BitVec.ofNat 8 code, BitVec.ofNat 8 queue, BitVec.ofNat 8 ve, BitVec.ofNat 8 phys, BitVec.ofNat 8 croft, BitVec.ofNat 8 others, 0, 0] ++
  leBytes 8 job ++ leBytes 8 step ++ leBytes 4 offset ++ leBytes 4 detail

/-- A fault of a step's ticket: its completion with the record, and the job faulted with its other work. -/
def faultTickets (s : State) (q : QStep) (number : Nat) (rec_ : List Byte) : State :=
  (stepTickets q).foldl (fun s t => complete s t 0x0F 0 0 number 0 (some rec_)) s

/-- A fault of the running step: it ends at once, nothing it wrote is published, the record goes to its completion and the croft's event ring, its job is faulted (R146, R270). -/
def faultStep (s : State) (c code queue ve offset detail : Nat) : State :=
  match runOf s c with
  | none => s
  | some (k, r) =>
    let phys := ((mapGet? r.ves ve).bind (·.engine)).getD (8 * hostCluster k (ve / 8))
    let b := faultRecord code queue ve phys c 0 r.job r.number offset detail
    let s1 := bump (leaveEngines s c k r) (0xA260 + c) 1 1
    let s2 := croftEvent (faultTickets s1 r.step r.number b) c 1 b
    afterStep (faultJob s2 c r.job) c

/-- The other modules of a job's group: address and croft (R296). -/
def groupPeers (g : List Byte) : List (Nat × Nat) :=
  ((List.range (leAt g 6 2)).filter (fun i => i ≠ leAt g 8 1)).map (fun i => (leAt g (32 + 2 * i) 1, leAt g (33 + 2 * i) 1))

/-- A frame of a job to every other module of its group. -/
def toPeers (s : State) (c : Nat) (g : List Byte) (type step attempt : Nat) (params payload : List Byte) : State :=
  (groupPeers g).foldl (fun s p => sendFrameTo s p.1 c
    (mkFrame type (if isControl type then 8 else 0) p.1 (addrTo s p.1) c (leAt g 16 8) step attempt true params payload [])) s

/-- The frames of a croft's attempt that wait on the ports discarded (R278). -/
def dropQueued (s : State) (c tag step attempt : Nat) : State :=
  { s with ports := mapAll s.ports (fun x => { x with queue := x.queue.filter (fun f =>
      !(f.croft = c && frTag f.bytes = tag && frStep f.bytes = step && frAttempt f.bytes = attempt && frType f.bytes < 0x10)) }) }

/-- An abort's link side for a group job: its untransmitted frames gone, a cancel to every other module (R277, R278). -/
def sendCancels (s : State) (c : Nat) (g : List Byte) (number attempt : Nat) : State :=
  toPeers (dropQueued s c (leAt g 16 8) number attempt) c g 0x10 number attempt [] []

/-- A job faulted with step-time over one of its steps, whose attempt number has run out (R275). -/
def attemptsOut (s : State) (c : Nat) (k : Croft) (id number : Nat) (q : QStep) : State :=
  let b := faultRecord 0x59 0xFF 0 (8 * hostCluster k 0) c 0 id number 0 0
  faultJob (croftEvent (faultTickets (bump s (0xA260 + c) 1 1) q number b) c 1 b) c id

/-- The attempt of queued step `i` of a job raised; past 65,535 the job is faulted (R275, R277). -/
def raiseAttempt (s : State) (c id i attempt : Nat) : State :=
  match croft? s c, jobOf s c id with
  | some k, some j =>
    match j.steps[i]? with
    | none => s
    | some q =>
      if 65535 < attempt then
        attemptsOut (modJob s c id (fun j => { j with steps := j.steps.eraseIdx i })) c k id (j.published + i + (if k.run.any (fun r => r.job = id) then 1 else 0)) q
      else modJob s c id (fun j => { j with steps := j.steps.set i { q with attempt := attempt } })
  | _, _ => s

/-- An abort of the running step (R274, R275): counted where a deadline or a peer's cancel caused it (R280), requeued at the head of its job with the next attempt, or the job faulted at the last attempt. -/
def abortStep (counted : Bool) (s : State) (c : Nat) : State :=
  match runOf s c with
  | none => s
  | some (k, r) =>
    let s0 := match (mapGet? k.jobs r.job).bind (·.group) with
      | some g => dropQueued s c (leAt g 16 8) r.number r.step.attempt
      | none => s
    let s1 := bump (leaveEngines s0 c k r) (0xA380 + c) 5 (if counted then 1 else 0)
    if 65535 ≤ r.step.attempt then afterStep (attemptsOut s1 c k r.job r.number r.step) c
    else
      let s2 := modJob s1 c r.job (fun j => { j with steps := { r.step with attempt := r.step.attempt + 1 } :: j.steps })
      afterStep (renewAsks s2 c r.job r.number r.step.attempt) c

/-- An abort of this module's own: a shared step's peers are told (R277). -/
def abortOwn (counted : Bool) (s : State) (c : Nat) : State :=
  match runOf s c with
  | none => s
  | some (k, r) =>
    match (mapGet? k.jobs r.job).bind (·.group) with
    | some g => abortStep counted (sendCancels s c g r.number r.step.attempt) c
    | none => abortStep counted s c

end Sys2Proof.Machine
end

