-- ==== Sys2Proof/Machine/EngCtl.lean ====
section
/-! DEFINITION. How an engine instruction issues and completes: queues, header waits and signals, semaphore classes, gates, the dispatcher, the end of the streams (R112 to R131). -/

namespace Sys2Proof.Machine

/-- What an engine instruction works with: the croft, the running step, its job, the image, and the virtual engine. -/
structure EngEnv where
  k : Croft
  r : RunStep
  j : Job
  im : Memory
  ve : VEngine
  deriving DecidableEq, Repr

/-- The environment of a virtual engine that a physical engine runs in a program step that has neither ended nor begun to close. -/
def engEnv (s : State) (c v : Nat) : Option EngEnv :=
  if !powered s then none
  else match runOf s c with
    | none => none
    | some (k, r) =>
      match mapGet? k.jobs r.job, mapGet? r.ves v with
      | some j, some ve =>
        match mapGet? k.images j.image with
        | some im => if r.step.kind = .program && !r.closing && !r.ended && ve.engine.isSome then some ⟨k, r, j, im.bytes, ve⟩ else none
        | none => none
      | _, _ => none

/-- What an instruction does: it waits, it raises a fault with a code and a detail, or it takes effect. -/
inductive EngOut where
  | stall (s : State)
  | fault (s : State) (code detail : Nat)
  | done (s : State) (fl : EngFlags)
  deriving DecidableEq, Repr

/-- The state with a virtual engine of the running step replaced. -/
def setVe (s : State) (c v : Nat) (ve : VEngine) : State := modRun s c (fun r => { r with ves := mapSet r.ves v ve })

/-- The state with a virtual engine of the running step changed. -/
def modVe (s : State) (c v : Nat) (f : VEngine → VEngine) : State := modRun s c (fun r => { r with ves := mapMod r.ves v f })

/-- An operation on one virtual engine alone as an instruction's effect. -/
def pureOp (s : State) (c v : Nat) (r : EngRes) : EngOut :=
  match r with
  | .stall => .stall s
  | .fault code d => .fault s code d
  | .done ve fl => .done (setVe s c v ve) fl

/-- A conversion counter of a croft raised, and the module's entry, which sums the crofts (R86). -/
def bumpConv (c : Nat) (s : State) (p : Nat × Nat) : State :=
  if p.2 = 0 then s
  else bump { s with convs := mapSet s.convs (4 * c + p.1) (mapGet s.convs (4 * c + p.1) 0 + p.2) } 0xA220 (p.1 + 1) p.2

/-- Step-overflow and conversion counters of an instruction (R86, R104). -/
def applyFlags (s : State) (c : Nat) (fl : EngFlags) : State :=
  let s1 := if fl.ovf then modRun s c (fun r => { r with overflow := true }) else s
  [(0, fl.sat), (1, fl.ovr), (2, fl.nanIn), (3, fl.nanBlk)].foldl (bumpConv c) s1

/-! ### Semaphores -/

/-- A semaphore of a virtual engine incremented; a count that would pass 255 faults the step (R122). -/
def signalSem (s : State) (c v i queue offset : Nat) : State :=
  match runOf s c with
  | none => s
  | some (_, r) =>
    match mapGet? r.ves v with
    | none => s
    | some ve =>
      if 255 ≤ veSem ve i then faultStep s c 0x54 queue v offset i
      else setVe s c v { ve with sems := mapSet ve.sems i (veSem ve i + 1) }

/-- The signal of a header at its instruction's completion. -/
def headerSignal (s : State) (c v q : Nat) (w : IWord) (off : Nat) : State :=
  if bitOf w 14 then signalSem s c v (fld w 19 15) q off else s

/-- The scope fault of a header: its semaphores declared local for this queue (R123). -/
def headerFault (im : Memory) (v q : Nat) (w : IWord) : Option Nat :=
  if bitOf w 8 && !declWait (semAt im v (fld w 13 9)) q then some (fld w 13 9)
  else if bitOf w 14 && !declSignal (semAt im v (fld w 19 15)) q then some (fld w 19 15)
  else none

/-! ### Gates and steps -/

/-- Whether nothing of a virtual engine is in flight. -/
def veQuiet (ve : VEngine) : Bool := ve.qF.inflight.isEmpty && ve.qA.inflight.isEmpty && ve.qV.inflight.isEmpty && ve.qW.inflight.isEmpty

/-- The GATE words its queues have reached. -/
def gateWords (ve : VEngine) : List IWord := [ve.qF, ve.qA, ve.qV, ve.qW].filterMap (·.gate)

/-- The STEP words its queues have issued. -/
def stepWords (ve : VEngine) : List IWord := [ve.qF, ve.qA, ve.qV, ve.qW].filterMap (·.done)

/-- Whether words agree in bits [127:32]. -/
def bodiesAgree : List IWord → Bool
  | [] => true
  | w :: ws => ws.all (fun u => fld u 127 32 = fld w 127 32)

/-- Whether the barriers its queues have met disagree (R119, R120). -/
def barrierClash (ve : VEngine) : Bool :=
  !bodiesAgree (gateWords ve) || !bodiesAgree (stepWords ve) || (!(gateWords ve).isEmpty && !(stepWords ve).isEmpty)

/-- Whether a virtual engine stands at a GATE with everything before it complete. -/
def atGate (ve : VEngine) : Bool := (gateWords ve).length = 4 && veQuiet ve

/-- Whether a virtual engine has finished its streams. -/
def atStep (ve : VEngine) : Bool := veDone ve && veQuiet ve

/-- The word of the gate a virtual engine stands at. -/
def gateOf (ve : VEngine) : IWord := ve.qF.gate.getD 0

/-- Fields of GATE. -/
def gLayer (w : IWord) : Nat := fld w 47 32
def gSem (w : IWord) : Nat := fld w 52 48
def gWaits (w : IWord) : Bool := bitOf w 53
def gArrive (w : IWord) : Nat := fld w 61 54
def gLive (w : IWord) : Nat := fld w 68 62

/-- Whether the conditions of the gate of a virtual engine are met (R120). -/
def gateReady (k : Croft) (j : Job) (ve : VEngine) : Bool :=
  let w := gateOf ve
  (gLayer w = 0xFFFF || layerResident k j (gLayer w)) && (!gWaits w || gArrive w ≤ veSem ve (gSem w))

/-- A queue past its gate. -/
def queuePass (q : Queue) : Queue := { q with gate := none, stalledOn := none, off := q.off + 1 }

/-- A virtual engine past its gate: arrivals consumed, arrays as at step start, scratch from LIVE on reset, the layer noted (R120). -/
def veGatePass (ve : VEngine) : VEngine :=
  let w := gateOf ve
  let top := 65536 * gLive w
  { ve with
    sems := if gWaits w then mapSet ve.sems (gSem w) (veSem ve (gSem w) - gArrive w) else ve.sems
    arrays := []
    scratch := ve.scratch.filter (fun x => x.1 < top)
    marks := ve.marks.filter (fun u => 32 * u < top)
    outRanges := cutRanges ve.outRanges top scratchBytes
    flips := ve.flips.filter (fun x => 8 * x.1 < top), parity := []
    qF := queuePass ve.qF, qA := queuePass ve.qA, qV := queuePass ve.qV, qW := queuePass ve.qW
    layer := if gLayer w = 0xFFFF then ve.layer else some (gLayer w) }

/-- A gate passed: the four header signals, then the Almanac follows the position (R120, R166). -/
def passGate (s : State) (c v : Nat) (ve : VEngine) : State :=
  let s1 := setVe s c v (veGatePass ve)
  let s2 := [0, 1, 2, 3].foldl (fun s q => match (veQueue ve q).gate with
    | some w => headerSignal s c v q w (veQueue ve q).off
    | none => s) s1
  almAdvance s2 c

/-! ### The dispatcher (R117) -/

/-- Whether a parked virtual engine can go on: at step start, or at a gate whose conditions are met. -/
def parkedReady (k : Croft) (j : Job) (ve : VEngine) : Bool :=
  ve.engine.isNone && ve.parkedAt.isSome && !atStep ve && (!atGate ve || gateReady k j ve)

/-- The ready virtual engine of a host cluster that has been parked longest, the lower number on ties. -/
def nextReady (k : Croft) (r : RunStep) (j : Job) (p : Nat) : Option (Nat × VEngine) :=
  (r.ves.filter (fun x => hostCluster k (x.1 / 8) = p && parkedReady k j x.2)).foldl (fun (b : Option (Nat × VEngine)) x =>
    match b with
    | none => some x
    | some y => if x.2.parkedAt.getD 0 < y.2.parkedAt.getD 0 then some x else some y) none

/-- Granules a virtual engine at a gate keeps, 0 elsewhere. -/
def liveGranules (ve : VEngine) : Nat := if atGate ve then gLive (gateOf ve) else 0

/-- One virtual engine parked and another resumed on its engine, counted with the granules moved (R117). -/
def switchVe (s : State) (c v u : Nat) (a b : VEngine) : State :=
  let s1 := setVe (setVe s c v { a with engine := none, parkedAt := some (clock s) }) c u { b with engine := a.engine, parkedAt := none }
  let n := 65536 * (liveGranules a + liveGranules b)
  hbmMoved (bump (bump s1 (0xA260 + c) 2 1) (0xA260 + c) 3 n) c (a.engine.getD 0 / 8) n

/-- One thing the dispatcher does now: a fault of a barrier, a switch, or a gate passed; none when nothing is due. -/
def settleOne (s : State) (c : Nat) : Option State :=
  match runOf s c with
  | none => none
  | some (k, r) =>
    match mapGet? k.jobs r.job with
    | none => none
    | some j =>
      let hosted := r.ves.filter (fun x => x.2.engine.isSome)
      match hosted.find? (fun x => barrierClash x.2) with
      | some x => some (faultStep s c 0x56 0 x.1 x.2.qF.off 0)
      | none =>
        match hosted.find? (fun x => atGate x.2 && !x.2.chains.isEmpty) with
        | some x => some (faultStep s c 0x24 1 x.1 x.2.qA.off ((x.2.chains.map (·.id)).min?.getD 0))
        | none =>
          let swaps := hosted.filterMap (fun x =>
            if atGate x.2 || atStep x.2 then (nextReady k r j (hostCluster k (x.1 / 8))).map (fun u => (x, u)) else none)
          match swaps.head? with
          | some (x, u) =>
            let s1 := switchVe s c x.1 u.1 x.2 u.2
            let u' := { u.2 with engine := x.2.engine, parkedAt := none }
            some (if atGate u.2 then passGate s1 c u.1 u' else s1)
          | none =>
            match hosted.find? (fun x => atGate x.2 && gateReady k j x.2) with
            | some x => some (passGate s c x.1 x.2)
            | none => none

/-- Whether every virtual engine of the running step has finished. -/
def allFinished (r : RunStep) : Bool := r.ves.all (fun x => atStep x.2)

/-- The dispatcher's work done until nothing is due, at most `n` times; then the end of the streams noted. -/
def settleN (c : Nat) : Nat → State → State
  | 0, s => s
  | n + 1, s =>
    match settleOne s c with
    | some s' => settleN c n s'
    | none => modRun s c (fun r => if r.step.kind = .program && allFinished r then { r with ended := true } else r)

/-- Waits at layer gates noted (R172), and the dispatcher run. -/
def settle (s : State) (c : Nat) : State :=
  match runOf s c with
  | none => s
  | some (_, r) =>
    let ls := (r.ves.filter (fun x => atGate x.2 && gLayer (gateOf x.2) ≠ 0xFFFF)).map (fun x => gLayer (gateOf x.2))
    almAdvance (settleN c 8192 (endStalls (ls.foldl (fun s l => noteLate s c l) s) c)) c

/-! ### Issue and completion -/

/-- A virtual engine's queue after an instruction of it has issued. -/
def queueIssued (w : IWord) (q : Queue) : Queue :=
  { q with stalledOn := none, inflight := q.inflight ++ [⟨w, q.off⟩], off := q.off + 1 }

/-- The virtual engine with a header wait taken. -/
def takeWait (ve : VEngine) (w : IWord) : VEngine :=
  if bitOf w 8 then { ve with sems := mapSet ve.sems (fld w 13 9) (veSem ve (fld w 13 9) - 1) } else ve

/-- The virtual engine stalled on a word. -/
def stallOn (ve : VEngine) (q : Nat) (w : IWord) : VEngine := veSetQueue ve q { veQueue ve q with stalledOn := some w }

/-- Whether a queue can be offered a word: before its barrier, and the word it waits on if it waits. -/
def queueOpen (ve : VEngine) (q : Nat) (w : IWord) : Bool :=
  let x := veQueue ve q
  x.gate.isNone && x.done.isNone && (x.stalledOn.isNone || x.stalledOn = some w)

/-- Whether a word is the next one of a queue's stream in the step entry that the descriptor names (R112, R119). -/
def nextWord (e : EngEnv) (v q : Nat) (w : IWord) : Bool :=
  streamHas e.im e.r.step.entry v q (veQueue e.ve q).off w

/-- The index in its stream of the instruction a queue comes to next. -/
def queueOff (s : State) (c v q : Nat) : Nat := match engEnv s c v with
  | some e => (veQueue e.ve q).off
  | none => 0

/-- An instruction offered to a queue, which takes only the next word of its stream: illegal opcodes, reserved fields and scope breaches fault, an unmet wait stalls, otherwise its effect, on memory as its reads find it (R112, R122, R123, R130, R373). -/
def engIssue (s : State) (c v q : Nat) (op : Nat) (w : IWord) (run : EngEnv → EngOut) (after : State → State) : State :=
  match engEnv s c v with
  | none => s
  | some e =>
    let off := (veQueue e.ve q).off
    if !queueOpen e.ve q w || !nextWord e v q w then s
    else if wop w ≠ op then
      if (opQueues (wop w)).contains q then s else faultStep s c 0x50 q v off 0
    else if !(opQueues op).contains q then faultStep s c 0x50 q v off 0
    else if !rsvOk w then faultStep s c 0x51 q v off 0
    else match headerFault e.im v q w with
      | some i => faultStep s c 0x53 q v off i
      | none =>
        if bitOf w 8 && veSem e.ve (fld w 13 9) = 0 then setVe s c v (stallOn e.ve q w)
        else match run { e with ve := takeWait (sramMet e.im e.ve w) w } with
          | .stall s' => setVe s' c v (stallOn e.ve q w)
          | .fault s' code d => faultStep s' c code q v off d
          | .done s' fl => after (applyFlags (sramLog s' c e.im e.ve w) c fl)

/-- An ordinary instruction: after its effect it is in flight until INSTRUCTION_COMPLETE. -/
def engPlain (s : State) (c v q op : Nat) (w : IWord) (run : EngEnv → EngOut) : State :=
  engIssue s c v q op w run (fun s => modVe s c v (fun ve => veSetQueue ve q (queueIssued w (veQueue ve q))))

/-- An operation on its own virtual engine alone. -/
def engPure (s : State) (c v q op : Nat) (w : IWord) (f : EngEnv → EngRes) : State :=
  engPlain s c v q op w (fun e => pureOp s c v (f e))

/-! ### Control instructions -/

/-- NOP (R130). -/
def execNop (c : Fin 32) (v : Fin 64) (q : Fin 4) (w : IWord) (s : State) : Out :=
  .next (engPure s c v q 0 w (fun e => .done e.ve noFlags))

/-- SIGNAL: a gate semaphore of a virtual engine of the job incremented (R123, R130). -/
def doSignal (s : State) (c v : Nat) (w : IWord) (e : EngEnv) : EngOut :=
  let tve := fld w 37 32
  let tsem := fld w 42 38
  if !declGate (semAt e.im tve tsem) then .fault s 0x53 tsem
  else
    let s1 := setVe s c v e.ve
    let t := (runOf s1 c).bind (fun p => mapGet? p.2.ves tve)
    match t with
    | none => .fault s 0x53 tsem
    | some u =>
      if 255 ≤ veSem u tsem then .fault s 0x54 tsem
      else .done (setVe s1 c tve { u with sems := mapSet u.sems tsem (veSem u tsem + 1) }) noFlags

/-- SIGNAL: its arrival may open the target's gate. -/
def execSignal (c : Fin 32) (v : Fin 64) (q : Fin 4) (w : IWord) (s : State) : Out :=
  .next (settle (engPlain s c v q 1 w (doSignal s c v w)) c)

/-- GATE reached by a queue (R120). -/
def doGate (s : State) (c v q : Nat) (w : IWord) (e : EngEnv) : EngOut :=
  if 96 < gLive w || (gWaits w && gArrive w = 0) then .fault s 0x51 0
  else if gWaits w && !declGate (semAt e.im v (gSem w)) then .fault s 0x53 (gSem w)
  else .done (setVe s c v (veSetQueue e.ve q { veQueue e.ve q with gate := some w, stalledOn := none })) noFlags

/-- GATE (R117, R120). -/
def execGate (c : Fin 32) (v : Fin 64) (q : Fin 4) (w : IWord) (s : State) : Out :=
  .next (engIssue s c v q 2 w (doGate s c v q w) (fun s => settle s c))

/-- STEP issued by a queue (R119). -/
def doStep (s : State) (c v q : Nat) (w : IWord) (e : EngEnv) : EngOut :=
  let x := veQueue e.ve q
  let s1 := setVe s c v (veSetQueue e.ve q { x with done := some w, stalledOn := none, off := x.off + 1 })
  .done (modRun s1 c (fun r => { r with endJob := r.endJob || bitOf w 32 })) noFlags

/-- STEP: its header signals at once, its queue is finished (R119). -/
def execStep (c : Fin 32) (v : Fin 64) (q : Fin 4) (w : IWord) (s : State) : Out :=
  let off := queueOff s c v q
  .next (engIssue s c v q 3 w (doStep s c v q w) (fun s => settle (headerSignal s c v q w off) c))

/-! ### Completion -/

/-- INSTRUCTION_COMPLETE: the last effect of the `i`-th instruction in flight is complete; its header signals (R122). The last MAC of an array leaves it without streamed rows (R45). -/
def instrComplete (s : State) (c v q i : Nat) : State :=
  match engEnv s c v with
  | none => s
  | some e =>
    let x := veQueue e.ve q
    match x.inflight[i]? with
    | none => s
    | some f =>
      let left := x.inflight.eraseIdx i
      let s0 := if wop f.word = 0x22 && !left.any (fun g => wop g.word = 0x22 && fld g.word 34 32 = fld f.word 34 32) then
          rampDry s (e.ve.engine.getD 0) (fld f.word 34 32) else s
      let s1 := setVe s0 c v (veSetQueue e.ve q { x with inflight := left })
      settle (headerSignal s1 c v q f.word f.off) c

/-- INSTRUCTION_COMPLETE (R122). -/
def execInstructionComplete (c : Fin 32) (v : Fin 64) (q : Fin 4) (i : Nat) (s : State) : Out :=
  .next (instrComplete s c v q i)

/-- PROMOTION_COMPLETE (R148, R166, R172). -/
def execPromotionComplete (c : Fin 32) (i : Nat) (s : State) : Out :=
  .next (if powered s then settle (promoArrive s c i) c else s)

end Sys2Proof.Machine
end

