-- ==== Sys2Proof/Machine/Winnower.lean ====
section
/-! DEFINITION. The Winnower: list order, offers, duplicates, exact sums, merging, output records and list images (R202 to R216). -/

namespace Sys2Proof.Machine

/-- Whether score `a` ranks strictly below score `b`: by value, -0 equal to +0, NaN above +infinity (R203). -/
def rankLt (a b : Nat) : Bool :=
  match x32 a, x32 b with
  | .nan, _ => false
  | _, .nan => true
  | u, v => xLt u v

/-- Equal rank (R203). -/
def rankEq (a b : Nat) : Bool := !rankLt a b && !rankLt b a

/-- Whether a score comes strictly after another in a list's direction (R203). -/
def scoreAfter (top : Bool) (a b : Nat) : Bool := if top then rankLt a b else rankLt b a

/-- Whether entry `e` comes before entry `f` in list order: score first, then the lower ID (R203). -/
def entryBefore (top : Bool) (e f : WEntry) : Bool :=
  scoreAfter top f.score.toNat e.score.toNat ||
  (rankEq e.score.toNat f.score.toNat && e.id.toNat < f.id.toNat)

/-- The score as the Winnower holds it: canonical NaN, -0 kept (R203). -/
def heldScore (x : XV) : Nat := (rne fp32 x).bits

/-- Insertion in list order. -/
def insertEntry (top : Bool) (e : WEntry) : List WEntry → List WEntry
  | [] => [e]
  | f :: fs => if entryBefore top e f then e :: f :: fs else f :: insertEntry top e fs

/-- A score in units of 2^-149, for a finite value. -/
def accUnits (x : XV) : Int :=
  match x with
  | .num m e => if e + 149 < 0 then m / 2 ^ (-(e + 149)).toNat else m * 2 ^ (e + 149).toNat
  | _ => 0

/-- Whether a finite score has magnitude 2^64 or above (R207). -/
def outOfRange64 (x : XV) : Bool :=
  match x with
  | .num m e => 64 ≤ xLog2 m e
  | _ => false

/-- A score entered into an exact sum: its units, and the infinite states it sets (R207). -/
def sumScore (x : XV) : Int × Bool × Bool :=
  match x with
  | .nan => (0, false, false)
  | .inf n => (0, !n, n)
  | v => if outOfRange64 v then (0, !xvNeg v, xvNeg v) else (accUnits v, false, false)

/-- An entry left out: it enters the left-out sum and count unless its score is NaN (R204). -/
def leaveOut (l : WList) (e : WEntry) : WList :=
  match x32 e.score.toNat with
  | .nan => l
  | v =>
    let (u, p, n) := sumScore v
    { l with leftAcc := l.leftAcc + u, posInf := l.posInf || p, negInf := l.negInf || n
             leftCount := l.leftCount + 1, leftMarked := l.leftMarked || e.marked }

/-- Which of two entries of one ID is kept: the greater score by value, NaN greatest, +0 over -0, then a poisoned over an unpoisoned one (R205). -/
def keepDup (d e : WEntry) : WEntry :=
  if rankLt d.score.toNat e.score.toNat then e
  else if rankLt e.score.toNat d.score.toNat then d
  else
    match x32 d.score.toNat, x32 e.score.toNat with
    | .zero true, .zero false => e
    | .zero false, .zero true => d
    | _, _ => if e.marked && !d.marked then e else d

/-- The last held entry. -/
def lastHeld (l : WList) : Option WEntry := l.held.getLast?

/-- An offer to a list copy (R204). -/
def offer (l : WList) (e : WEntry) : WList :=
  let x := x32 e.score.toNat
  let l := { l with offered := l.offered + 1, nans := l.nans + (if x = .nan then 1 else 0)
                    outOfRange := l.outOfRange || outOfRange64 x
                    oorCount := l.oorCount + (if outOfRange64 x then 1 else 0) }
  let full : Bool := l.held.length = l.k
  let after : Bool := match lastHeld l with
    | some t => scoreAfter l.top e.score.toNat t.score.toNat
    | none => false
  if full && after then leaveOut l e
  else
    match l.held.find? (fun d => d.id = e.id) with
    | some d =>
      let kept := keepDup d e
      { l with dups := l.dups + 1
               held := insertEntry l.top kept (l.held.filter (fun f => f.id ≠ e.id)) }
    | none =>
      let hs := insertEntry l.top e l.held
      if hs.length = l.k + 1 then
        match hs.getLast? with
        | none => { l with held := hs }
        | some t =>
          let hs' := hs.dropLast
          let l' := leaveOut { l with held := hs' } t
          match hs'.getLast? with
          | none => l'
          | some u => if rankEq t.score.toNat u.score.toNat then { l' with ties := l'.ties + 1 } else { l' with ties := 0 }
      else { l with held := hs }

/-- The union of held entries, one per ID by R205, with the count of duplicates found. -/
def unionHeld (top : Bool) (es : List WEntry) : List WEntry × Nat :=
  es.foldl (fun (p : List WEntry × Nat) e =>
    match p.1.find? (fun d => d.id = e.id) with
    | some d => (insertEntry top (keepDup d e) (p.1.filter (fun f => f.id ≠ e.id)), p.2 + 1)
    | none => (insertEntry top e p.1, p.2)) ([], 0)

/-- Copies of one list merged (R211, R212). -/
def mergeLists (k : Nat) (top : Bool) (cs : List WList) : WList :=
  let u := unionHeld top (cs.flatMap (·.held))
  let sel := u.1.take k
  let rest := u.1.drop k
  let base : WList :=
    { k := k, top := top, held := sel
      offered := (cs.map (·.offered)).sum, dups := (cs.map (·.dups)).sum + u.2
      nans := (cs.map (·.nans)).sum, ties := 0
      leftCount := (cs.map (·.leftCount)).sum, leftAcc := (cs.map (·.leftAcc)).sum
      posInf := cs.any (·.posInf), negInf := cs.any (·.negInf), leftMarked := cs.any (·.leftMarked)
      outOfRange := cs.any (·.outOfRange), oorCount := (cs.map (·.oorCount)).sum, spilled := cs.any (·.spilled) }
  let l := rest.foldl leaveOut base
  match sel.getLast? with
  | none => l
  | some t =>
    if sel.length < k then l
    else
      let fromCopies := (cs.filter (fun c => c.held.length = c.k &&
        (match lastHeld c with | some x => rankEq x.score.toNat t.score.toNat | none => false))).map (·.ties)
      { l with ties := fromCopies.sum + (rest.filter (fun e => rankEq e.score.toNat t.score.toNat)).length }

/-- An exact sum formed at rounding point SS (R208). -/
def sumSS (acc : Int) (p n : Bool) : Nat :=
  if p && n then fp64.nanBits
  else if p then infBits fp64 false
  else if n then infBits fp64 true
  else (rne fp64 (xvOf false acc (-149))).bits

/-- The selected sum of a finished list: units and infinite states (R207). -/
def selectedSum (l : WList) : Int × Bool × Bool :=
  l.held.foldl (fun (p : Int × Bool × Bool) e =>
    let s := sumScore (x32 e.score.toNat)
    (p.1 + s.1, p.2.1 || s.2.1, p.2.2 || s.2.2)) (0, false, false)

/-- One entry as bytes (R209). -/
def entryBytes (e : WEntry) : List Byte :=
  leBytes 4 e.score.toNat ++ [if e.marked then 1 else 0, 0, 0, 0] ++ leBytes 8 e.id.toNat

/-- A padding entry (R209, R210). -/
def padEntry : List Byte := List.replicate 4 0xFF ++ List.replicate 4 0 ++ List.replicate 8 0xFF

/-- The output record of a finished list: header and k entries (R208 to R210). -/
def listRecord (l : WList) (reranked coarse : Bool) : List Byte :=
  let short : Bool := l.held.length < l.k
  let anyM := l.held.any (·.marked)
  let sumM := l.held.any (fun e => e.marked && x32 e.score.toNat ≠ .nan)
  let sel := selectedSum l
  let fl := (if short then 1 else 0) + (if reranked then 2 else 0) + (if coarse then 4 else 0) +
    (if anyM then 8 else 0) + (if l.leftMarked || sumM then 16 else 0) + (if l.spilled then 32 else 0) +
    (if l.outOfRange then 64 else 0)
  leBytes 4 l.held.length ++ leBytes 4 l.k ++ [if l.top then 1 else 0, BitVec.ofNat 8 fl, 0, 0] ++
  leBytes 4 (if short then 0 else l.ties) ++ leBytes 8 (sumSS sel.1 sel.2.1 sel.2.2) ++
  leBytes 8 (sumSS l.leftAcc l.posInf l.negInf) ++ leBytes 8 l.offered ++ leBytes 8 l.leftCount ++
  leBytes 8 l.dups ++ leBytes 8 l.nans ++ l.held.flatMap entryBytes ++
  (List.range (l.k - l.held.length)).flatMap (fun _ => padEntry)

/-- Bytes of a list's output slot (R202). -/
def listSlot (k : Nat) : Nat := (64 + 16 * k + 63) / 64 * 64

/-- Bytes of a list's carry slot (R202). -/
def carrySlot (k : Nat) : Nat := (128 + 16 * k + 63) / 64 * 64

/-- A list image: 128-byte header and held entries (R213). -/
def listImage (l : WList) : List Byte :=
  let st := (if l.posInf then 1 else 0) + (if l.negInf then 2 else 0) + (if l.leftMarked then 4 else 0) +
    (if l.outOfRange then 8 else 0)
  let h := leBytes 4 l.k ++ [if l.top then 1 else 0, BitVec.ofNat 8 st, 0, 0] ++ leBytes 4 l.held.length ++
    leBytes 4 l.ties ++ leBytes 8 l.offered ++ leBytes 8 l.dups ++ leBytes 8 l.nans ++ leBytes 8 l.leftCount ++
    leBytes 32 (unsigned 256 l.leftAcc) ++ List.replicate 44 0
  let es := l.held.flatMap entryBytes
  h ++ leBytes 4 (crc32c (h ++ es)) ++ es

/-- The entry at byte offset `o` of an image. -/
def imageEntry (b : List Byte) (o : Nat) : WEntry :=
  { score := BitVec.ofNat 32 (leAt b o 4), id := BitVec.ofNat 64 (leAt b (o + 8) 8), marked := leAt b (o + 4) 1 % 2 = 1 }

/-- Whether entries are in list order. -/
def inOrder (top : Bool) : List WEntry → Bool
  | e :: f :: rest => entryBefore top e f && inOrder top (f :: rest)
  | _ => true

/-- A list image read back: none where k or direction differ, the check fails, or the order is broken (R213). -/
def readImage (k : Nat) (top : Bool) (b : List Byte) : Option WList :=
  let n := leAt b 8 4
  let es := (List.range n).map (fun i => imageEntry b (128 + 16 * i))
  let st := leAt b 5 1
  if b.length < 128 + 16 * n || leAt b 0 4 ≠ k || leAt b 4 1 ≠ (if top then 1 else 0) || k < n ||
     leAt b 124 4 ≠ crc32c (sub b 0 124 ++ sub b 128 (16 * n)) || !inOrder top es then none
  else some
    { k := k, top := top, held := es, offered := leAt b 16 8, dups := leAt b 24 8, nans := leAt b 32 8
      ties := leAt b 12 4, leftCount := leAt b 40 8, leftAcc := signed 256 (leAt b 48 32)
      posInf := st % 2 = 1, negInf := st / 2 % 2 = 1, leftMarked := st / 4 % 2 = 1, outOfRange := st / 8 % 2 = 1
      oorCount := 0, spilled := false }

/-- A list read from an image whose 32-byte words `marks` came poisoned: the marks of its entries' words stay with them, one in the header marks what left the list (R292; DEDUCED, log entry 108). -/
def markImage (marks : List Nat) (w : WList) : WList :=
  { w with held := w.held.zipIdx.map (fun e => if marks.contains ((128 + 16 * e.2) / 32) then { e.1 with marked := true } else e.1)
           leftMarked := w.leftMarked || marks.any (· < 4) }

/-- Whether a group descriptor's bytes obey its table (R202, R10). -/
def selGroupOk (b : List Byte) : Bool :=
  leAt b 0 2 + leAt b 2 2 ≤ 4096 && 1 ≤ leAt b 2 2 && 1 ≤ leAt b 4 4 && leAt b 4 4 ≤ 1048576 &&
  leAt b 8 1 ≤ 1 && leAt b 9 1 ≤ 1 && leAt b 10 1 ≤ 3 && zerosAt b 11 11 && zerosAt b 14 15 &&
  leAt b 16 8 % 64 = 0 && leAt b 24 8 % 64 = 0

/-- A group descriptor. -/
def selGroupOf (b : List Byte) : SelGroup :=
  { first := leAt b 0 2, count := leAt b 2 2, k := leAt b 4 4, top := leAt b 8 1 = 1, group := leAt b 9 1 = 1
    carryIn := leAt b 10 1 % 2 = 1, carryOut := leAt b 10 1 / 2 % 2 = 1
    outRegion := leAt b 12 1, carryRegion := leAt b 13 1, outOff := leAt b 16 8, carryOff := leAt b 24 8 }

/-- Whether two groups share a list number. -/
def groupsMeet (a b : SelGroup) : Bool := a.first < b.first + b.count && b.first < a.first + a.count

/-- Whether no two groups of a list share a list number (R202). -/
def groupsDisjoint : List SelGroup → Bool
  | [] => true
  | g :: gs => gs.all (fun h => !groupsMeet g h) && groupsDisjoint gs

/-- A selection record: its groups, or none where it breaks a table (R202). -/
def selRecord (b : List Byte) : Option (List SelGroup) :=
  let n := leAt b 6 2
  let parts := (List.range n).map (fun i => sub b (16 + 32 * i) 32)
  let gs := parts.map selGroupOf
  if leAt b 0 4 = 0x52535744 && leAt b 4 2 = 1 && 1 ≤ n && n ≤ 64 && zerosAt b 8 15 &&
     parts.all selGroupOk && groupsDisjoint gs then some gs else none

/-- The Winnower's store: lists placed in ascending list number while their k fit 262,144 entries; the list numbers that spill (R215). -/
def spilledLists (gs : List SelGroup) : List Nat :=
  let ls := gs.flatMap (fun g => (List.range g.count).map (fun i => (g.first + i, g.k)))
  let sorted := ls.mergeSort (fun a b => a.1 ≤ b.1)
  (sorted.foldl (fun (p : Nat × List Nat) l =>
    if p.2.isEmpty && p.1 + l.2 ≤ 262144 then (p.1 + l.2, p.2) else (p.1, p.2 ++ [l.1])) (0, [])).2

/-- Bytes a spilled list may take: 2k + 65,536 entries of 16 bytes (R216). -/
def spillBytes (k : Nat) : Nat := (2 * k + 65536) * 16

end Sys2Proof.Machine
end

