-- ==== Sys2Proof/Machine/EngExec.lean ====
section
/-! DEFINITION. The meanings of the array and vector instructions (R133 to R140, R145). -/

namespace Sys2Proof.Machine

/-- LDSH. -/
def execLdsh (c : Fin 32) (v : Fin 64) (w : IWord) (s : State) : Out := .next (engPure s c v 1 0x20 w (fun e => doLdsh e.ve w))
/-- SWAP. -/
def execSwap (c : Fin 32) (v : Fin 64) (w : IWord) (s : State) : Out := .next (engPure s c v 1 0x21 w (fun e => doSwap e.ve w))
/-- The rows a MAC that was accepted streams through its array (R44). -/
def macRows (s t : State) (c : Fin 32) (v : Fin 64) (w : IWord) : State :=
  match engEnv s c v, engEnv t c v with
  | some e, some f => if e.ve.qA.inflight.length < f.ve.qA.inflight.length then rampRows t (f.ve.engine.getD 0) (fld w 34 32) else t
  | _, _ => t

/-- MAC. -/
def execMac (c : Fin 32) (v : Fin 64) (w : IWord) (s : State) : Out :=
  .next (macRows s (engPure s c v 1 0x22 w (fun e => doMac e.r.ctx e.ve w)) c v w)
/-- TLOAD. -/
def execTload (c : Fin 32) (v : Fin 64) (w : IWord) (s : State) : Out := .next (engPure s c v 1 0x23 w (fun e => doTload e.ve w))
/-- PRELOAD. -/
def execPreload (c : Fin 32) (v : Fin 64) (w : IWord) (s : State) : Out := .next (engPure s c v 1 0x24 w (fun e => doPreload e.ve w))
/-- TAG. -/
def execTag (c : Fin 32) (v : Fin 64) (w : IWord) (s : State) : Out := .next (engPure s c v 1 0x25 w (fun e => doTag e.ve w))
/-- VOP. -/
def execVop (c : Fin 32) (v : Fin 64) (w : IWord) (s : State) : Out := .next (engPure s c v 2 0x30 w (fun e => doVop e.ve w))
/-- VFN. -/
def execVfn (c : Fin 32) (v : Fin 64) (w : IWord) (s : State) : Out := .next (engPure s c v 2 0x31 w (fun e => doVfn e.ve w))
/-- VRED. -/
def execVred (c : Fin 32) (v : Fin 64) (w : IWord) (s : State) : Out := .next (engPure s c v 2 0x32 w (fun e => doVred e.r.ctx e.ve w))
/-- VCVT, with its output spec (R137); a spec index outside the table is a reserved field. -/
def execVcvt (c : Fin 32) (v : Fin 64) (w : IWord) (s : State) : Out :=
  .next (engPure s c v 2 0x33 w (fun e =>
    if fld w 88 81 < imgOspecs e.im then doVcvt e.r.ctx e.ve w (ospecAt e.im (fld w 88 81)) else .fault 0x51 (fld w 88 81)))
/-- VUPD. -/
def execVupd (c : Fin 32) (v : Fin 64) (w : IWord) (s : State) : Out := .next (engPure s c v 2 0x34 w (fun e => doVupd e.r.ctx e.ve w))
/-- VPOS. -/
def execVpos (c : Fin 32) (v : Fin 64) (w : IWord) (s : State) : Out := .next (engPure s c v 2 0x36 w (fun e => doVpos e.ve w))
/-- WPOS. -/
def execWpos (c : Fin 32) (v : Fin 64) (w : IWord) (s : State) : Out := .next (engPure s c v 3 0x46 w (fun e => doWpos e.ve w))

/-- Whether every partial of a mask has arrived at virtual engine `v` (R140). -/
def partsArrived (e : EngEnv) (v mask : Nat) : Bool :=
  (maskList (maskAt e.im mask)).all (fun p => e.r.parts.contains (v, mask, p))

/-- PSUM: the partials that have arrived at this virtual engine summed (R68, R140). -/
def doPsumStep (s : State) (c v : Nat) (w : IWord) (e : EngEnv) : EngOut :=
  let m := fld w 37 32
  if imgMasks e.im ≤ m then .fault s 0x57 m
  else
    let ps := maskList (maskAt e.im m)
    pureOp s c v (doPsum e.ve w ps.length (partsArrived e v m))

/-- PSUM (R68, R140). -/
def execPsum (c : Fin 32) (v : Fin 64) (w : IWord) (s : State) : Out := .next (engPlain s c v 2 0x37 w (doPsumStep s c v w))

/-! ### SELECT -/

/-- The selection group a list belongs to. -/
def groupOfList (gs : List SelGroup) (l : Nat) : Option SelGroup := gs.find? (fun g => g.first ≤ l && l < g.first + g.count)

/-- The scores and IDs of a SELECT as entries (R139, R203, R374). -/
def selEntries (ve : VEngine) (w : IWord) (fc : Nat) : List WEntry :=
  let n := fld w 83 68 + 1
  let es := fmtBits fc / 8
  let a := 32 * fld w 49 32
  let i := 32 * fld w 67 50
  (List.range n).map (fun x =>
    ⟨BitVec.ofNat 32 (heldScore (scrElem ve fc a x)), BitVec.ofNat 64 (scrLe ve (i + 8 * x) 8),
     scrMarked ve (a + es * x) es || scrMarked ve (i + 8 * x) 8⟩)

/-- SELECT: the scores offered to the list copy of the virtual engine's cluster, a spilled copy's runs charged to T1 at its first offer (R139, R202, R204, R216). -/
def doSelect (s : State) (c v : Nat) (w : IWord) (e : EngEnv) : EngOut :=
  let n := fld w 83 68 + 1
  let l := fld w 95 84
  match vecFmt (fld w 97 96) with
  | none => .fault s 0x51 l
  | some fc =>
    if !inScratch (32 * fld w 49 32) (fmtBits fc / 8 * n) || !inScratch (32 * fld w 67 50) (8 * n) then .fault s 0x52 0
    else match groupOfList e.r.groups l with
      | none => .fault s 0x61 l
      | some g =>
        let spill := (spilledLists e.r.groups).contains l
        let key := v / 8 * 4096 + l
        let need := if spill && (mapGet? e.r.lists key).isNone then spillBytes g.k else 0
        if need ≠ 0 && !t1Room s c e.k need then .fault s 0x62 l
        else
          let old := mapGet e.r.lists key { wlistEmpty g.k g.top with spilled := spill }
          let new := (selEntries e.ve w fc).foldl offer old
          .done (modRun (setVe s c v e.ve) c (fun r => { r with lists := mapSet r.lists key new, held := r.held + need })) noFlags

/-- SELECT. -/
def execSelect (c : Fin 32) (v : Fin 64) (w : IWord) (s : State) : Out := .next (engPlain s c v 2 0x35 w (doSelect s c v w))

end Sys2Proof.Machine
end

