-- ==== Sys2Proof/Machine/EngFetch.lean ====
section
/-! DEFINITION. The fetch unit: where a sheaf is read from, its checks, and the options applied on the way into scratch; DRAIN and WCVT with the maps they read (R76, R85, R89 to R95, R132, R141, R142, R148, R152, R154, R371 to R374). -/

namespace Sys2Proof.Machine

/-! ### Where a sheaf lies -/

/-- Where the fetch unit reads a sheaf: a buffer of the croft, a resident copy, its segment, what a peer has sent, or nowhere yet. -/
inductive SrcAt where
  | buffer
  | copy (y : Copy)
  | flash (serial body : Nat)
  | peer (home n : Nat)
  | absent
  deriving DecidableEq, Repr

/-- Whether a binding is exported for a peer to write (R300). -/
def peerWritable (s : State) (c bset index : Nat) : Bool :=
  s.exports.any (fun p => p.2.croft = c && p.2.bset = bset && p.2.index = index && p.2.writable)

/-- Whether a binding is exported. -/
def isExported (s : State) (c bset index : Nat) : Bool := s.exports.any (fun p => p.2.croft = c && p.2.bset = bset && p.2.index = index)

/-- Sheaves of a binding. -/
def bindCount (b : Binding) : Nat := if b.kind = 2 then 32 * b.obj.segs.length else b.count

/-- The source of sheaf `n` of a binding under a region's tiers, for an engine of virtual cluster `vc`: T0, T1, TP, T2, T3 in order, a T1 copy when nothing else is permitted (R148). -/
def sourceOf (s : State) (k : Croft) (tiers vc : Nat) (b : Binding) (n : Nat) : SrcAt :=
  if b.kind < 2 then .buffer
  else match homeOf b n with
    | none => .absent
    | some h =>
      let copies := k.copies.filter (fun y => y.tp = h.1 && y.home = h.2.1 && y.body = h.2.2)
      let t0 := copies.find? (fun y => y.t0.any (fun x => hostCluster k x = hostCluster k vc))
      let t1 := copies.find? (fun y => y.t0.isNone)
      match (if tiers % 2 = 1 then t0 else none), (if tiers / 2 % 2 = 1 then t1 else none) with
      | some y, _ => .copy y
      | none, some y => .copy y
      | none, none =>
        if h.1 then
          if tiers / 16 % 2 = 1 then
            if k.landing.any (fun x => x.1 = h.2.1 && x.2.1 = n) then .peer h.2.1 n else .absent
          else match t1 with
            | some y => .copy y
            | none => .absent
        else
          let cls := match segOf s h.2.1 with
            | some g => g.cls
            | none => 2
          if h.2.1 = 0 || tiers / 2 ^ cls % 2 = 1 then .flash h.2.1 h.2.2
          else match t1 with
            | some y => .copy y
            | none => .absent

/-- What is asked for when a sheaf is nowhere: a TP read where TP is permitted, else a demand promotion into T1 (R148, R301). -/
def askFor (s : State) (c : Nat) (j : Job) (tiers : Nat) (b : Binding) (n : Nat) : State :=
  match croft? s c, homeOf b n with
  | some k, some h =>
    if h.1 && tiers / 16 % 2 = 1 then askPeer s c j h.2.1 n
    else if k.promos.any (fun p => p.tp = h.1 && p.home = h.2.1 && p.body = h.2.2 && p.t0.isNone) then s
    else
      let p : Promo := ⟨true, none, none, j.id, h.1, h.2.1, h.2.2, none, b.mode, b.vc, n, b.count⟩
      let s1 := bump (putCroft s c { k with promos := k.promos.filter (·.demand) ++ p :: k.promos.filter (fun q => !q.demand) }) (0xA280 + c) 4 1
      if h.1 then askPeer s1 c j h.2.1 n else s1
  | _, _ => s

/-- Poisoned words delivered from a stack counted. -/
def countPoison (s : State) (fr : Nat) (sh : Sheaf) : State := bump s (0xA420 + fr / stackFrames) 5 sh.marks.length

/-- A buffer's sheaf read: through its code where it lies in T1, an uncorrectable word staying marked; one spilled to T2 or T3 under its body check (R152, R162, R371, R374). -/
def readBuffer (s : State) (c h i : Nat) (b : Binding) (n : Nat) : Sheaf × State :=
  let sh := mapGet b.sheaves n sheafZero
  match mapGet? b.frames n with
  | none =>
    match mapGet? b.spill n with
    | some e => enterCheck (flashRead s c e.1) c sh
    | none =>
      let r := readT0 s c (bufKey h i n) sh
      (r.1, if r.1 = sh then r.2 else modCroft r.2 c (fun k => { k with bsets := mapMod k.bsets h (fun x => { x with
        binds := x.binds.set i { b with sheaves := mapSet b.sheaves n r.1 } }) }))
  | some fr =>
    let r := readFrame s (some c) fr sh
    let s1 := if r.1 ≠ sh then modCroft r.2.2 c (fun k => { k with bsets := mapMod k.bsets h (fun x => { x with
        binds := x.binds.set i { b with sheaves := mapSet b.sheaves n r.1 } }) }) else r.2.2
    (r.1, hbmMoved (countPoison s1 fr r.1) c (fr / stackFrames) sheafBytes)

/-- A resident copy in a frame filled again from its home, counted and raised as 0x0103 (R372). -/
def repairCopy (s : State) (c fr : Nat) (y : Copy) : Sheaf × State :=
  let lo := fr % stackFrames * 1024
  let fixed := match segSheaf s y.home y.body with
    | some sh => if y.tp then (y.sheaf, s) else enterCheck s c sh
    | none => (y.sheaf, s)
  let s1 := modCroft fixed.2 c (fun k => { k with copies := setCopy k { y with sheaf := fixed.1 } })
  let s2 := { s1 with hbm := mapMod s1.hbm (fr / stackFrames) (fun h => { h with
    errors := h.errors.filter (fun e => e.1 < lo || lo + 1024 ≤ e.1) }) }
  (fixed.1, errorEvent (bump s2 (0xA420 + fr / stackFrames) 4 1) (some c) 0x0103 1 0 (fr / stackFrames) 0 0xFF 0
    (leBytes 2 (tagTensor fixed.1.tag) ++ leBytes 4 (tagOrdinal fixed.1.tag)))

/-- A copy read; one with an uncorrectable word is discarded and filled again from its home (R372). -/
def readCopy (s : State) (c : Nat) (y : Copy) : Sheaf × State :=
  match y.frame with
  | none =>
    let r := readT0 s c (copyKey y) y.sheaf
    (r.1, if r.1 = y.sheaf then r.2 else modCroft r.2 c (fun k => { k with copies := setCopy k { y with sheaf := r.1 } }))
  | some fr =>
    let r := readFrame s (some c) fr y.sheaf
    if r.2.1 then
      let fixed := repairCopy r.2.2 c fr y
      (fixed.1, hbmMoved (countPoison fixed.2 fr fixed.1) c (fr / stackFrames) sheafBytes)
    else
      let s1 := if r.1 ≠ y.sheaf then modCroft r.2.2 c (fun k => { k with copies := setCopy k { y with sheaf := r.1 } }) else r.2.2
      (r.1, hbmMoved (countPoison s1 fr r.1) c (fr / stackFrames) sheafBytes)

/-- One sheaf delivered from its source, checked where it comes from T2, T3 or TP (R152). -/
def readSource (s : State) (c h i : Nat) (b : Binding) (n : Nat) (src : SrcAt) : Sheaf × State :=
  match src with
  | .buffer => readBuffer s c h i b n
  | .copy y => readCopy s c y
  | .flash serial body =>
    match segSheaf s serial body with
    | none => (allMarked sheafZero, s)
    | some sh =>
      let s1 := match segOf s serial with
        | some g => flashRead s c g.cls
        | none => s
      let sh' := if segConflict s serial then allMarked sh else sh
      enterCheck s1 c sh'
  | .peer home n =>
    match (croft? s c).bind (fun k => k.landing.find? (fun x => x.1 = home && x.2.1 = n)) with
    | some x =>
      enterCheck (modCroft s c (fun k => { k with landing := k.landing.filter (fun z => !(z.1 = home && z.2.1 = n)) })) c x.2.2
    | none => (sheafZero, s)
  | .absent => (sheafZero, s)

/-- What a read of sheaves of a region gives: it waits (with what it asked for), it faults, or the sheaves. -/
inductive Got where
  | wait (s : State)
  | bad (code : Nat)
  | ok (shs : List Sheaf) (s : State)
  deriving DecidableEq, Repr

/-- Whether a range of sheaves from `first` on of a binding touches the cluster SRAM of another physical cluster than an engine's (R147): the manual names no fault for it, and it is taken as a region-access fault (DEDUCED, log entry 96). -/
def t0Elsewhere (k : Croft) (b : Binding) (vc first : Nat) : Bool :=
  b.kind = 1 && first < b.toT1 && hostCluster k b.vc ≠ hostCluster k vc

/-- Sheaves `first` on of a region of the job read for virtual engine `v` (R132, R147, R148). -/
def readRegion (s : State) (c v : Nat) (e : EngEnv) (region first count : Nat) : Got :=
  if imgRegions e.im ≤ region || regAccess e.im region % 2 = 0 then .bad 0x55
  else
    let i := regBinding e.im region
    match (jobSet e.k e.j).bind (fun x => x.binds[i]?) with
    | none => .bad 0x55
    | some b =>
      let tiers := regTiers e.im region
      if b.access % 2 = 0 || bindCount b < first + count || peerWritable s c e.j.bset i then .bad 0x55
      else if b.kind < 2 && tiers / (if b.kind = 0 then 2 else 1) % 2 = 0 then .bad 0x55
      else if t0Elsewhere e.k b (v / 8) first then .bad 0x55
      else
        let srcs := (List.range count).map (fun x => (first + x, sourceOf s e.k tiers (v / 8) b (first + x)))
        if srcs.any (fun x => x.2 = .absent) then
          .wait ((srcs.filter (fun x => x.2 = .absent)).foldl (fun s x => askFor s c e.j tiers b x.1) s)
        else
          let r := srcs.foldl (fun (p : List Sheaf × State) x =>
            let y := readSource p.2 c e.j.bset i b x.1 x.2
            (p.1 ++ [y.1], y.2)) ([], s)
          .ok r.1 r.2

/-! ### Elements -/

/-- One element on its way: its bits, whether it is marked. -/
abbrev Elem := Nat × Bool

/-- Bytes of a sheaf's elements: the record bytes, or the whole body of a raw sheaf (R151). -/
def dataBytes (t : BitVec 256) : Nat := if tagKind t = 0 then 32768 else tagRecords t * tagStride t

/-- The elements of a sheaf's data in order. -/
def sheafElems (sh : Sheaf) (f : Nat) : List Elem :=
  let bits := srcBits f
  let n := dataBytes sh.tag * 8 / bits
  (List.range n).map (fun i =>
    let a := i * bits / 8
    let v := leNat (memGetL 0 sh.body a (max 1 (bits / 8)))
    (if bits = 4 then (if i % 2 = 0 then v % 16 else v / 16) else v, sh.marks.contains (a / 32)))

/-- The side byte of a record, with its mark. -/
def sideByte (sh : Sheaf) (record off : Nat) : Elem :=
  let a := tagSide sh.tag + record * tagSideStride sh.tag + off
  ((memGet 0 sh.body a).toNat, sh.marks.contains (a / 32))

/-- The scale of element `i` of a sheaf: 127 without scales (R133, R151; for a load whose scales run along its columns or rows, blocks in row order: DESIGN CHOICE). -/
def elemScale (sh : Sheaf) (f i : Nat) : Elem :=
  let t := sh.tag
  let per := tagStride t * 8 / srcBits f
  if !tagScaled t || per = 0 then (127, false)
  else
    let rec_ := i / per
    let e := i % per
    let n := blkSize (tagBlk t)
    if tagKind t = 1 then
      let cols := 256 / srcBits f
      let r := e / cols
      let x := e % cols
      match tagAxis t with
      | 0 => sideByte sh rec_ ((if tagBlk t = 0 then r / 16 else 0) * cols + x)
      | 1 => sideByte sh rec_ (r * ((cols + n - 1) / n) + x / n)
      | _ => sideByte sh rec_ (r / n * cols + x)
    else if tagAxis t = 2 then sideByte sh (rec_ / n * n) e
    else sideByte sh rec_ (e / n)

/-- The records of a full sheaf of a tag's kind: as many as its body holds with their side data (R151). -/
def sheafCap (t : BitVec 256) : Nat := 32768 / max 1 (tagStride t + tagSideStride t)

/-- Columns of one row of a load of a tag: 16 in the 16-bit mode, else as many elements as 32 bytes hold (R27). -/
def loadCols (t : BitVec 256) (bits : Nat) : Nat := if tagMode t = 2 then 16 else max 1 (256 / max 1 bits)

/-- The logical K row of element `i` of sheaf `n` of a region, `chunks` being the K chunks of the operand where an outlier map names its extent. The manual fixes no order of loads, records and column blocks within a region, so this is the model's choice (DESIGN CHOICE, log entry 97): a region's loads run in ascending chunk order within a column block and block after block, sheaf `n` of streamed rows holds chunk `n`, and a raw sheaf's rows are 32 bytes. -/
def elemK (t : BitVec 256) (chunks : Option Nat) (bits n i : Nat) : Nat :=
  match tagKind t with
  | 1 =>
    let cols := loadCols t bits
    let recE := max 1 (tagStride t * 8 / max 1 bits)
    let per := 32 * cols
    let load := (n * sheafCap t + i / recE) * max 1 (recE / per) + i % recE / per
    let chunk := match chunks with
      | some c => load % max 1 c
      | none => load
    32 * chunk + i % per / cols
  | 2 => 32 * n + i % max 1 (tagStride t * 8 / max 1 bits)
  | _ => n * 1024 + i * bits / 256

/-- The codebook sheaf and record of logical K row `row` (R76). -/
def cbPlace (fs : FSpec) (row : Nat) : Nat × Nat :=
  let grp := if fs.grouped then row / (32 * 2 ^ fs.g) else 0
  let per := if fs.fmt = 0xB then 64 else 128
  (fs.cbSheaf + grp / per, grp % per)

/-- A code of logical K row `row` replaced by its codebook entry, bit for bit (R76). -/
def cbEntry (fs : FSpec) (cbs : FMap Sheaf) (row : Nat) (x : Elem) : Elem :=
  let p := cbPlace fs row
  let sh := mapGet cbs p.1 sheafZero
  let sz := if fs.fmt = 0xB then 2 else 1
  let a := p.2 * (256 * sz) + x.1 * sz
  (leNat (memGetL 0 sh.body a sz), x.2 || sh.marks.contains (a / 32))

/-- The format in scratch after expansion. -/
def entryFmt (f : Nat) : Nat := if f = 9 then 4 else if f = 0xA then 5 else 2

/-- One element descaled to BF16 at FD, with its flags and counts (R85, R86). -/
def descaleElem (f : Nat) (sc x : Elem) : Elem × EngFlags :=
  let v := xScaleCode sc.1 (elemVal f x.1)
  let r := convert 2 0 v none
  let past : Bool := special32 (r.bits * 65536) && xvFinite v
  ((r.bits, x.2 || sc.2), { noFlags with ovf := past, ovr := if past then 1 else 0, nanIn := if v = .nan then 1 else 0 })

/-- Elements transposed in blocks of 1,024; what does not fill a block stays (R95). -/
def transposeElems (xs : List Elem) : List Elem :=
  let full := xs.length / 1024 * 1024
  (List.range xs.length).map (fun i =>
    let j := if i < full then i / 1024 * 1024 + (i % 32) * 32 + i % 1024 / 32 else i
    (xs[j]?).getD (0, false))

/-- Elements as bytes with a mark for every 32-byte unit. -/
def packElems (bits : Nat) (xs : List Elem) : List Byte × List Nat :=
  let bytes := if bits = 4 then packNibbles (xs.map (·.1)) else xs.flatMap (fun x => leBytes (bits / 8) x.1)
  let marks := xs.zipIdx.foldl (fun m p => if p.1.2 then setIns m (p.2 * bits / 256) else m) []
  (bytes, marks)

/-! ### Outlier maps -/

/-- Whether a map record keeps its table (R89). -/
def mapOk (b : List Byte) : Bool :=
  let n := leAt b 8 1
  let k := leAt b 4 4
  1 ≤ k && k < 2 ^ 24 && n ≤ 64 && leAt b 9 1 = 2 && zerosAt b 10 11 && zerosAt b 16 31 &&
  (List.range 64).all (fun i =>
    let x := leAt b (32 + 4 * i) 4
    if i < n then x < k && (i = 0 || leAt b (28 + 4 * i) 4 < x) else x = 0xFFFFFFFF)

/-- The channels a map lists. -/
def mapChans (b : List Byte) : List Nat := (List.range (leAt b 8 1)).map (fun i => leAt b (32 + 4 * i) 4)

/-- A map's K extent and channels. -/
def outMapOf (b : List Byte) : OutMap := ⟨leAt b 4 4, mapChans b⟩

/-- Elements with the listed channels, and the rows at or beyond the K extent, at +0 (R26, R90). The separation of R132 goes no further: the manual names no place in scratch for the values separated, and the outlier pass reads stored slabs (DEDUCED, log entry 97). -/
def zeroChans (t : BitVec 256) (bits n : Nat) (m : OutMap) (xs : List Elem) : List Elem :=
  xs.zipIdx.map (fun p => if m.zeroAt (elemK t (some m.mainChunks) bits n p.2) then (0, false) else p.1)

/-! ### FETCH -/

/-- One sheaf's bytes for scratch, its marked units, and flags (R132). -/
def fetchSheaf (fs : FSpec) (cbs : FMap Sheaf) (om : Option OutMap) (n : Nat) (sh : Sheaf) : (List Byte × List Nat) × EngFlags :=
  if !fs.expand && !fs.descale && !fs.outlier && !fs.transpose then ((bodyBytes sh, sh.marks), noFlags)
  else
    let x0 := sheafElems sh fs.fmt
    let x1 := if fs.expand then x0.zipIdx.map (fun p => cbEntry fs cbs (elemK sh.tag (om.map (·.mainChunks)) (srcBits fs.fmt) n p.2) p.1) else x0
    let f1 := if fs.expand then entryFmt fs.fmt else fs.fmt
    let r2 := if fs.descale then
        let ys := x1.zipIdx.map (fun p => descaleElem f1 (if fs.expand then (127, false) else elemScale sh fs.fmt p.2) p.1)
        (ys.map (·.1), ys.foldl (fun f y => joinFlags f y.2) noFlags)
      else (x1, noFlags)
    let x3 := match om with
      | some m => zeroChans sh.tag (srcBits fs.fmt) n m r2.1
      | none => r2.1
    let x4 := if fs.transpose then transposeElems x3 else x3
    let p := packElems (outBits fs) x4
    -- without widening the rest of the body follows its records unchanged
    if outBits fs = srcBits fs.fmt && !fs.descale then
      let d := dataBytes sh.tag
      ((p.1 ++ (bodyBytes sh).drop d, p.2 ++ sh.marks.filter (fun u => d ≤ 32 * u)), r2.2)
    else (p, r2.2)

/-- Fetched bytes written to scratch with their marks (R374). -/
def putFetched (ve : VEngine) (a : Nat) (p : List Byte × List Nat) : VEngine :=
  let v1 := scrWrite ve a p.1 false
  { v1 with marks := p.2.foldl (fun m u => setIns m (a / 32 + u)) v1.marks }

/-- The sheaves of the codebooks a fetch of sheaves from `first` on needs (R76): a load of 512 elements or more and a streamed row lie in one chunk. -/
def cbSheaves (fs : FSpec) (om : Option OutMap) (first : Nat) (shs : List Sheaf) : List Nat :=
  if !fs.expand then []
  else
    let need := shs.zipIdx.flatMap (fun p => (List.range 64).map (fun i =>
      (cbPlace fs (elemK p.1.tag (om.map (·.mainChunks)) (srcBits fs.fmt) (first + p.2) (512 * i))).1))
    let lo := need.min?.getD fs.cbSheaf
    let hi := need.max?.getD fs.cbSheaf
    (List.range (hi + 1 - lo)).map (fun i => lo + i)

/-- The sheaves of a fetch written to scratch; a range fetched under an outlier map is noted (R90). -/
def fetchWrite (s : State) (c v a0 first : Nat) (e : EngEnv) (fs : FSpec) (cbs : FMap Sheaf) (om : Option OutMap) (shs : List Sheaf) : EngOut :=
  let size := 32768 * outBits fs / srcBits fs.fmt
  let r := shs.zipIdx.foldl (fun (p : VEngine × EngFlags) x =>
    let y := fetchSheaf fs cbs om (first + x.2) x.1
    (putFetched p.1 (a0 + x.2 * size) y.1, joinFlags p.2 y.2)) (e.ve, noFlags)
  let ve := match om with
    | some m => { r.1 with outRanges := ⟨a0, a0 + shs.length * size, m⟩ :: r.1.outRanges }
    | none => r.1
  .done (setVe s c v ve) r.2

/-- FETCH (R132, R148, R152). -/
def doFetch (s : State) (c v : Nat) (w : IWord) (e : EngEnv) : EngOut :=
  let region := fld w 57 50
  let first := fld w 103 72
  let count := fld w 111 104
  let fs := fspecOf (fspecAt e.im (fld w 67 58))
  if imgFspecs e.im ≤ fld w 67 58 || count = 0 || 192 < count then .fault s 0x51 region
  else if !inScratch (32 * fld w 49 32) (count * (32768 * outBits fs / srcBits fs.fmt)) then .fault s 0x52 region
  else
    match readRegion s c v e region first count with
    | .bad code => .fault s code region
    | .wait s1 => .stall s1
    | .ok shs s1 =>
      if shs.any (fun sh => !tagOk sh.tag || tagFmt sh.tag ≠ fs.fmt) then .fault s1 0x30 region
      else
        match (if fs.outlier then readRegion s1 c v e region fs.mapSheaf 1 else Got.ok [] s1) with
        | .bad code => .fault s1 code region
        | .wait s2 => .stall s2
        | .ok mp s2 =>
          let map := memGetL 0 ((mp.head?).getD sheafZero).body 0 288
          if fs.outlier && !mapOk map then .fault s2 0x32 region
          else
            let om := if fs.outlier then some (outMapOf map) else none
            let cbl := cbSheaves fs om first shs
            match (if cbl.isEmpty then Got.ok [] s2 else readRegion s2 c v e fs.cbRegion (cbl.headD 0) cbl.length) with
            | .bad code => .fault s2 code fs.cbRegion
            | .wait s3 => .stall s3
            | .ok cb s3 => fetchWrite s3 c v (32 * fld w 49 32) first e fs (cbl.zip cb) om shs

/-- FETCH. -/
def execFetch (c : Fin 32) (v : Fin 64) (w : IWord) (s : State) : Out := .next (engPlain s c v 0 0x10 w (doFetch s c v w))

/-! ### DRAIN and WCVT -/

/-- The channels of the outlier map an output spec names, with what the read left (R91). -/
def specChans (s : State) (c v : Nat) (e : EngEnv) (o : OSpec) : Got :=
  if o.slab then readRegion s c v e o.mapRegion o.mapSheaf 1 else .ok [] s

/-- A write-back under an output spec and its outlier map. -/
def withSpec (s : State) (c v : Nat) (e : EngEnv) (ix : Nat) (f : List Byte → List Nat → EngRes) : EngOut :=
  if imgOspecs e.im ≤ ix then .fault s 0x51 ix
  else
    let b := ospecAt e.im ix
    match specChans s c v e (ospecOf b) with
    | .bad code => .fault s code ix
    | .wait s1 => .stall s1
    | .ok mp s1 =>
      match mp.head? with
      | none => pureOp s1 c v (f b [])
      | some sh =>
        let map := memGetL 0 sh.body 0 288
        if mapOk map then pureOp s1 c v (f b (mapChans map)) else .fault s1 0x32 ix

/-- DRAIN (R63, R90, R141). -/
def execDrain (c : Fin 32) (v : Fin 64) (w : IWord) (s : State) : Out :=
  .next (engPlain s c v 3 0x40 w (fun e => withSpec s c v e (fld w 79 72) (fun b ch => doDrain e.r.ctx e.ve w b ch)))

/-- WCVT (R110, R142). -/
def execWcvt (c : Fin 32) (v : Fin 64) (w : IWord) (s : State) : Out :=
  .next (engPlain s c v 3 0x41 w (fun e => withSpec s c v e (fld w 107 100) (fun b ch => doWcvt e.r.ctx e.ve w b ch)))

end Sys2Proof.Machine
end

