-- ==== Sys2Proof/Machine/EngStore.lean ====
section
/-! DEFINITION. Stores, sends, reductions and Tally items of a step (R64 to R68, R142 to R144, R153, R257, R298). -/

namespace Sys2Proof.Machine

/-! ### STORE -/

/-- The sheaf a STORE stages from scratch under its binding's tag template (R153, R374). -/
def storedSheaf (ve : VEngine) (a n : Nat) (template : BitVec 256) : Sheaf :=
  let body := memSlice ve.scratch a 32768 0
  let marks := (ve.marks.filter (fun u => a ≤ 32 * u && 32 * u < a + 32768)).map (fun u => u - a / 32)
  let sh : Sheaf := ⟨0, body, marks⟩
  { sh with tag := tagWith template n (bodyCheck sh) (!marks.isEmpty) }

/-- STORE: sheaves staged for publication (R142, R147). -/
def doStore (s : State) (c v : Nat) (w : IWord) (e : EngEnv) : EngOut :=
  let a := 32 * fld w 49 32
  let region := fld w 57 50
  let first := fld w 95 64
  let count := fld w 103 96
  if count = 0 || 192 < count then .fault s 0x51 region
  else if imgRegions e.im ≤ region || regAccess e.im region / 2 % 2 = 0 then .fault s 0x55 region
  else
    let i := regBinding e.im region
    match (jobSet e.k e.j).bind (fun x => x.binds[i]?) with
    | none => .fault s 0x55 region
    | some b =>
      if b.kind = 2 || b.access / 2 % 2 = 0 || b.count < first + count || isExported s c e.j.bset i then .fault s 0x55 region
      else if t0Elsewhere e.k b (v / 8) first then .fault s 0x55 region
      else if !inScratch a (count * 32768) then .fault s 0x52 region
      else
        let new := (List.range count).map (fun x =>
          (⟨i, first + x, storedSheaf e.ve (a + 32768 * x) (first + x) b.tag, bitOf w 58⟩ : Staged))
        let bad := new.any (fun x => !x.sheaf.marks.isEmpty)
        .done (modRun (setVe s c v e.ve) c (fun r => { r with staged := r.staged ++ new, poison := r.poison || bad })) noFlags

/-- STORE. -/
def execStore (c : Fin 32) (v : Fin 64) (w : IWord) (s : State) : Out := .next (engPlain s c v 3 0x42 w (doStore s c v w))

/-! ### Deliveries -/

/-- Bytes delivered into a virtual engine's scratch or park image, with marked units (R118, R292). -/
def deliverBytes (s : State) (c u a : Nat) (bs : List Byte) (marks : List Nat) : State :=
  modVe s c u (fun ve =>
    let v1 := scrWrite ve a bs false
    { v1 with marks := marks.foldl (fun m x => setIns m (a / 32 + x)) v1.marks })

/-- Units of a byte range that carry the mark, counted from its start. -/
def unitMarks (ve : VEngine) (a n : Nat) : List Nat :=
  (ve.marks.filter (fun u => a / 32 ≤ u && 32 * u < a + n)).map (fun u => u - a / 32)

/-- The gate semaphore of a receiver incremented; a count past 255 faults (R122). -/
def arriveSem (s : State) (c u sem : Nat) : State := signalSem s c u sem 0xFF 0

/-! ### SEND -/

/-- A frame of the running step to a rank of its group (R276). -/
def toRank (s : State) (c : Nat) (g : List Byte) (number attempt rank type : Nat) (last : Bool) (params payload : List Byte) (marks : List Nat) : State :=
  let dst := leAt g (32 + 2 * rank) 1
  sendFrameTo s dst c (mkFrame type 0 dst (addrTo s dst) c (leAt g 16 8) number attempt last params payload marks)

/-- SEND over Kamlin: frames of up to 32 KiB, the last one marked. -/
def sendRemote (s : State) (c : Nat) (e : EngEnv) (g : List Byte) (w : IWord) : State :=
  let a := 32 * fld w 49 32
  let units := fld w 105 88
  let n := (units + 1023) / 1024
  (List.range n).foldl (fun s i =>
    let len := min 1024 (units - 1024 * i)
    let src := a + 32768 * i
    toRank s c g e.r.number e.r.step.attempt (fld w 81 74) 1 (i + 1 = n)
      (paramBlock [fld w 73 68, fld w 87 83, fld w 67 50 + 1024 * i, len])
      (memGetL 0 e.ve.scratch src (32 * len)) (unitMarks e.ve src (32 * len))) s

/-- SEND: to a virtual engine of this module at once, or to a rank of the group (R123, R142). -/
def doSend (s : State) (c v : Nat) (w : IWord) (e : EngEnv) : EngOut :=
  let a := 32 * fld w 49 32
  let d := 32 * fld w 67 50
  let n := 32 * fld w 105 88
  let u := fld w 73 68
  let sem := fld w 87 83
  if n = 0 || 6291456 < n then .fault s 0x51 sem
  else if !inScratch a n || !inScratch d n then .fault s 0x52 0
  else
    let s1 := setVe s c v e.ve
    if bitOf w 82 then
      match e.j.group with
      | none => .fault s 0x53 sem
      | some g =>
        if leAt g 6 2 ≤ fld w 81 74 || fld w 81 74 = leAt g 8 1 then .fault s 0x53 sem
        else .done (sendRemote s1 c e g w) noFlags
    else if !declGate (semAt e.im u sem) then .fault s 0x53 sem
    else if 255 ≤ ((mapGet? e.r.ves u).map (fun x => veSem x sem)).getD 0 then .fault s 0x54 sem
    else
      .done (arriveSem (deliverBytes s1 c u d (memGetL 0 e.ve.scratch a n) (unitMarks e.ve a n)) c u sem) noFlags

/-- SEND. -/
def execSend (c : Fin 32) (v : Fin 64) (w : IWord) (s : State) : Out := .next (settle (engPlain s c v 3 0x43 w (doSend s c v w)) c)

/-! ### Reductions -/

/-- An element of a reduction: hi (or FP32), lo, mark. -/
abbrev RElem := Nat × Nat × Bool

/-- The exact value of a pair. -/
def pairVal (x : RElem) : XV := xAdd (x32 x.1) (x32 x.2.1)

/-- FP32 bits in an order in which the greater value comes later and +0 after -0. -/
def totKey (b : Nat) : Nat := if b < 0x80000000 then b + 0x80000000 else 0xFFFFFFFF - b

/-- Of two pairs of equal exact value, whether `a` wins: the greater hi, and where hi is the same the greater lo, so that the result does not depend on which input is left (R66; the order by lo is a DESIGN CHOICE, log entry 94). -/
def pairWins (a b : RElem) : Bool := totKey b.1 < totKey a.1 || (a.1 = b.1 && totKey b.2.1 ≤ totKey a.2.1)

/-- Whether the pair `a` is the result of a max or min node (R66). -/
def pairLeft (isMax : Bool) (a b : RElem) : Bool :=
  let va := pairVal a
  let vb := pairVal b
  let na : Bool := 0x80000000 ≤ a.1
  let nb : Bool := 0x80000000 ≤ b.1
  if !xEq va vb then (if isMax then xLt vb va else xLt va vb)
  else match va, vb with
    | .zero _, .zero _ => if na = nb then pairWins a b else if isMax then nb else na
    | _, _ => pairWins a b

/-- One node of the tree: sum 0, max 1, min 2; FP32 or pair; with the overflow condition (R60, R66). -/
def nodeElem (op : Nat) (pair : Bool) (a b : RElem) : RElem × Bool :=
  let mk := a.2.2 || b.2.2
  if !pair then
    match op with
    | 0 => let r := vaAdd (x32 a.1) (x32 b.1); ((r.bits, 0, mk), r.ovf)
    | 1 => (((rne fp32 (xMax (x32 a.1) (x32 b.1))).bits, 0, mk), false)
    | _ => (((rne fp32 (xMin (x32 a.1) (x32 b.1))).bits, 0, mk), false)
  else
    let va := pairVal a
    let vb := pairVal b
    if op = 0 then
      let p := pairOf (xAdd va vb)
      ((p.1, p.2, mk), special32 p.1 && xvFinite va && xvFinite vb)
    else if va = .nan || vb = .nan then ((fp32.nanBits, 0, mk), false)
    else
      let w := if pairLeft (op = 1) a b then a else b
      ((w.1, w.2.1, mk), false)

/-- Two inputs of a node, absent ones passed through. -/
def nodeList (op : Nat) (pair : Bool) : Option (List RElem) → Option (List RElem) → Option (List RElem) × Bool
  | none, x => (x, false)
  | x, none => (x, false)
  | some a, some b =>
    let r := (a.zip b).map (fun p => nodeElem op pair p.1 p.2)
    (some (r.map (·.1)), r.any (·.2))

/-- One level of the tree. -/
def treeLevel (op : Nat) (pair : Bool) : List (Option (List RElem)) → List (Option (List RElem)) × Bool
  | a :: b :: rest =>
    let n := nodeList op pair a b
    let r := treeLevel op pair rest
    (n.1 :: r.1, n.2 || r.2)
  | l => (l, false)

/-- `n` levels of the tree. -/
def treeLevels (op : Nat) (pair : Bool) : Nat → List (Option (List RElem)) → List (Option (List RElem)) × Bool
  | 0, l => (l, false)
  | n + 1, l =>
    let x := treeLevel op pair l
    let y := treeLevels op pair n x.1
    (y.1, x.2 || y.2)

/-- The trailing zero bits of a rank: levels at which it is a left input. -/
def rankBits : Nat → Nat → Nat
  | 0, _ => 0
  | n + 1, r => if r % 2 = 1 then 0 else 1 + rankBits n (r / 2)

/-- The child ranks of a rank in the tree, with their bit, lowest first (R298). -/
def childRanks (g : List Byte) : List (Nat × Nat) :=
  let me := leAt g 8 1
  ((List.range (rankBits 8 me)).map (fun b => (me + 2 ^ b, b))).filter (fun p => p.1 < leAt g 6 2)

/-- The parent rank and the bit at which this rank joins it; none at rank 0. -/
def parentRank (g : List Byte) : Option (Nat × Nat) :=
  let me := leAt g 8 1
  if me = 0 then none
  else
    let b := rankBits 8 me
    some (me - 2 ^ b, b)

/-- Fields of REDUCE. -/
def rdOp (w : IWord) : Nat := fld w 34 33
def rdPair (w : IWord) : Bool := bitOf w 35
def rdAll (w : IWord) : Bool := bitOf w 36
def rdGroup (w : IWord) : Bool := bitOf w 37
def rdMask (w : IWord) : Nat := fld w 43 38
def rdAddr (w : IWord) : Nat := 32 * fld w 79 62
def rdLen (w : IWord) : Nat := fld w 95 80 + 1
def rdSem (w : IWord) : Nat := fld w 106 102
def rdBytes (w : IWord) : Nat := if rdPair w then 8 else 4

/-- The partial of a REDUCE read from scratch. -/
def rdElems (ve : VEngine) (w : IWord) : List RElem :=
  let a := 32 * fld w 61 44
  (List.range (rdLen w)).map (fun i =>
    let x := a + rdBytes w * i
    (scrLe ve x 4, if rdPair w then scrLe ve (x + 4) 4 else 0, scrMarked ve x (rdBytes w)))

/-- Elements as bytes and the units that carry a mark. -/
def rdPack (pair : Bool) (xs : List RElem) : List Byte × List Nat :=
  let n := if pair then 8 else 4
  (xs.flatMap (fun x => leBytes 4 x.1 ++ (if pair then leBytes 4 x.2.1 else [])),
   xs.zipIdx.foldl (fun m p => if p.1.2.2 then setIns m (p.2 * n / 32) else m) [])

/-- Elements read back from a payload. -/
def rdUnpack (pair : Bool) (bs : List Byte) (marks : List Nat) : List RElem :=
  let n := if pair then 8 else 4
  (List.range (bs.length / n)).map (fun i =>
    (leAt bs (n * i) 4, if pair then leAt bs (n * i + 4) 4 else 0, marks.contains (n * i / 32)))

/-- The result of a reduction delivered to this module's receivers, each one's semaphore incremented (R143). -/
def rdDeliver (s : State) (c : Nat) (w : IWord) (recv : List Nat) (xs : List RElem) : State :=
  let p := rdPack (rdPair w) xs
  recv.foldl (fun s u => arriveSem (deliverBytes s c u (rdAddr w) p.1 p.2) c u (rdSem w)) s

/-- The receivers on this module. -/
def rdReceivers (im : Memory) (w : IWord) (rank : Nat) : List Nat :=
  let ps := maskList (maskAt im (rdMask w))
  if rdAll w then ps else if rank = 0 then ps.take 1 else []

/-- Elements a frame carries. -/
def rdChunk (w : IWord) : Nat := if rdPair w then 4096 else 8192

/-- A reduction's elements sent to a rank in frames (type 2 partial, 3 result). -/
def rdSendTo (s : State) (c : Nat) (e : EngEnv) (g : List Byte) (w : IWord) (rank type level : Nat) (xs : List RElem) : State :=
  let n := (xs.length + rdChunk w - 1) / rdChunk w
  (List.range n).foldl (fun s i =>
    let p := rdPack (rdPair w) ((xs.drop (rdChunk w * i)).take (rdChunk w))
    let params := if type = 2 then paramBlock [rdMask w, level, 1, rdChunk w * i] else paramBlock [rdMask w, rdChunk w * i, rdSem w]
    toRank s c g e.r.number e.r.step.attempt rank type (i + 1 = n) params p.1 p.2) s

/-- Received words put together as elements: pairs take two words each. -/
def rdJoin (pair : Bool) : List RElem → List RElem
  | a :: b :: rest => if pair then (a.1, b.1, a.2.2 || b.2.2) :: rdJoin pair rest else a :: b :: rest
  | l => if pair then [] else l

/-- The input received for a tree bit, once all its elements are there; words are kept as they came. -/
def rdInput (x : Reduction) (pair : Bool) (len chunk bit_ : Nat) : Option (List RElem) :=
  let n := (len + chunk - 1) / chunk
  let parts := (List.range n).map (fun i => mapGet? x.inputs (bit_ * 131072 + chunk * i))
  if parts.all Option.isSome then some ((rdJoin pair ((parts.filterMap id).flatten)).take len) else none

/-- The state with a reduction of the running step replaced. -/
def putReduction (s : State) (c : Nat) (x : Reduction) : State :=
  modRun s c (fun r =>
    let same := fun (y : Reduction) => y.mask == x.mask && y.ord == x.ord
    let put := if r.reductions.any same then r.reductions.map (fun y => if same y then x else y) else r.reductions ++ [x]
    { r with reductions := put })

/-- This module's part of a reduction: the tree over its participants (R65 levels 1 to 6). -/
def rdLocal (x : Reduction) (w : IWord) : Option (List RElem) × Bool :=
  let leaves := (List.range 64).map (fun u => (x.parts.find? (fun p => p.ve = u)).map (·.elems))
  let t := treeLevels (rdOp w) (rdPair w) 6 leaves
  (t.1.headD none, t.2)

/-- The result carried on with the inputs of the child ranks, in order (R65 levels 7 and above). -/
def rdUpward (x : Reduction) (w : IWord) (kids : List (Nat × Nat)) (base : Option (List RElem)) : Option (List RElem) × Bool :=
  kids.foldl (fun (p : Option (List RElem) × Bool) k =>
    let n := nodeList (rdOp w) (rdPair w) p.1 (rdInput x (rdPair w) (rdLen w) (rdChunk w) k.2)
    (n.1, p.2 || n.2)) (base, false)

/-- A reduction taken as far as its inputs allow: delivered on this module, or sent up the group's tree (R65, R143, R298). -/
def rdProgress (s : State) (c : Nat) (e : EngEnv) (x : Reduction) : State :=
  match x.parts.head? with
  | none => s
  | some p0 =>
    let w : IWord := BitVec.ofNat 128 p0.word
    let ps := maskList (maskAt e.im x.mask)
    if x.sent || !ps.all (fun u => x.parts.any (fun p => p.ve = u)) then s
    else if !rdGroup w then
      let t := rdLocal x w
      let s1 := if t.2 then modRun s c (fun r => { r with overflow := true }) else s
      rdDeliver (putReduction s1 c { x with sent := true, delivered := true }) c w (rdReceivers e.im w 0) (t.1.getD [])
    else match e.j.group with
      | none => s
      | some g =>
        let kids := childRanks g
        if !kids.all (fun k => (rdInput x (rdPair w) (rdLen w) (rdChunk w) k.2).isSome) then s
        else
          let t := rdLocal x w
          let u := rdUpward x w kids t.1
          let s1 := if t.2 || u.2 then modRun s c (fun r => { r with overflow := true }) else s
          let xs := u.1.getD []
          match parentRank g with
          | some (q, b) => rdSendTo (putReduction s1 c { x with sent := true, delivered := !rdAll w }) c e g w q 2 (7 + b) xs
          | none =>
            let s2 := rdDeliver (putReduction s1 c { x with sent := true, delivered := true }) c w (rdReceivers e.im w 0) xs
            if rdAll w then kids.foldl (fun s k => rdSendTo s c e g w k.1 3 0 xs) s2 else s2

/-- REDUCE on the partial path: the partial written to the gathering virtual engine, the reduction's fields noted (R68, R143). -/
def rdPartial (s : State) (c v : Nat) (w : IWord) (e : EngEnv) (x : Reduction) : EngOut :=
  let ps := maskList (maskAt e.im (rdMask w))
  let k := (ps.filter (· < v)).length
  let gve := fld w 101 96
  let n := 4 * rdLen w
  let d := rdAddr w + k * up32 n
  if !inScratch d n then .fault s 0x52 0
  else if !declGate (semAt e.im gve (rdSem w)) then .fault s 0x53 (rdSem w)
  else if 255 ≤ ((mapGet? e.r.ves gve).map (fun x => veSem x (rdSem w))).getD 0 then .fault s 0x54 (rdSem w)
  else
    let a := 32 * fld w 61 44
    let s0 := putReduction (setVe s c v e.ve) c { x with sent := true, delivered := true }
    let s1 := deliverBytes s0 c gve d (memGetL 0 e.ve.scratch a n) (unitMarks e.ve a n)
    .done (arriveSem (modRun s1 c (fun r => { r with parts := if r.parts.contains (gve, rdMask w, v) then r.parts else r.parts ++ [(gve, rdMask w, v)] })) c gve (rdSem w)) noFlags

/-- Whether two REDUCE words agree in every field but SADDR. -/
def rdAgree (a b : IWord) : Bool := fld a 43 32 = fld b 43 32 && fld a 127 62 = fld b 127 62

/-- Ordinals from here on are those of inputs that came before this module's first REDUCE of theirs. -/
def earlyOrd : Nat := 2 ^ 40

/-- The reduction of a mask and ordinal that a REDUCE joins: the one begun, or a new one, which on the group path takes over the earliest inputs that came before it (R67, R143). -/
def rdJoined (r : RunStep) (w : IWord) (ord : Nat) : Reduction :=
  let m := rdMask w
  match r.reductions.find? (fun x => x.mask = m && x.ord = ord) with
  | some x => x
  | none =>
    let early := (r.reductions.filter (fun x => x.mask = m && earlyOrd ≤ x.ord)).head?
    ⟨m, ord, [], if rdGroup w then (early.map (·.inputs)).getD [] else [], false, false⟩

/-- The running step without the early inputs that a REDUCE has just taken over. -/
def rdTaken (r : RunStep) (w : IWord) (ord : Nat) : RunStep :=
  let m := rdMask w
  if rdGroup w && !r.reductions.any (fun x => x.mask = m && x.ord = ord) then
    match r.reductions.find? (fun x => x.mask = m && earlyOrd ≤ x.ord) with
    | some y => { r with reductions := r.reductions.erase y }
    | none => r
  else r

/-- REDUCE (R64 to R68, R143). For a partial-path REDUCE of another operation, of pairs or of the group the manual names no run-time fault: it is taken as a reserved-field fault (DESIGN CHOICE, log entry 94). -/
def doReduce (s : State) (c v : Nat) (w : IWord) (e : EngEnv) : EngOut :=
  let m := rdMask w
  let ps := maskList (maskAt e.im m)
  if rdOp w = 3 || (bitOf w 32 && (rdOp w ≠ 0 || rdPair w || rdGroup w)) then .fault s 0x51 m
  else if imgMasks e.im ≤ m || !ps.contains v then .fault s 0x57 m
  else if bitOf w 32 && (imgTraining e.im || e.j.tally) then .fault s 0x25 m
  else if !inScratch (32 * fld w 61 44) (rdBytes w * rdLen w) || !inScratch (rdAddr w) (rdBytes w * rdLen w) then .fault s 0x52 0
  else
    let ord := mapGet e.ve.reduces m 0
    let ve := { e.ve with reduces := mapSet e.ve.reduces m (ord + 1) }
    if rdGroup w && e.j.group.isNone then .fault s 0x53 (rdSem w)
    else if !bitOf w 32 && !(rdReceivers e.im w 0).all (fun u => declGate (semAt e.im u (rdSem w))) then .fault s 0x53 (rdSem w)
    else
      let old := rdJoined e.r w ord
      if old.parts.any (fun p => !rdAgree (BitVec.ofNat 128 p.word) w) then .fault s 0x57 m
      else
        let x := { old with parts := old.parts ++ [⟨v, w.toNat, if bitOf w 32 then [] else rdElems e.ve w, rdAddr w⟩] }
        if bitOf w 32 then rdPartial s c v w { e with ve := ve } x
        else .done (rdProgress (putReduction (modRun (setVe s c v ve) c (fun r => rdTaken r w ord)) c x) c e x) noFlags

/-- REDUCE. -/
def execReduce (c : Fin 32) (v : Fin 64) (w : IWord) (s : State) : Out := .next (settle (engPlain s c v 3 0x44 w (doReduce s c v w)) c)

/-! ### TALLY -/

/-- The item digest of bytes absorbed (R257). -/
def itemDigest (role v n : Nat) (marked : Bool) (bs : List Byte) : List Byte :=
  shake256 64 ([0x44, 0x57, 0x54, 0x49, BitVec.ofNat 8 role, BitVec.ofNat 8 v, 0, 0] ++ leBytes 4 n ++ leBytes 8 bs.length ++
    [if marked then 1 else 0] ++ bs)

/-- TALLY: one item absorbed; nothing in a job without a Tally (R144, R257). -/
def doTally (s : State) (c v : Nat) (w : IWord) (e : EngEnv) : EngOut :=
  let role := fld w 33 32
  let a := 32 * fld w 51 34
  let n := 32 * fld w 69 52
  if 1 < role || n = 0 || 6291456 < n then .fault s 0x51 0
  else if !inScratch a n then .fault s 0x52 0
  else if !e.j.tally then .done (setVe s c v e.ve) noFlags
  else
    let mk := scrMarked e.ve a n
    let it : TallyItem := ⟨role, v, e.ve.tallies, itemDigest role v e.ve.tallies mk (memGetL 0 e.ve.scratch a n), mk⟩
    .done (modRun (setVe s c v { e.ve with tallies := e.ve.tallies + 1 }) c (fun r => { r with tallies := r.tallies ++ [it] })) noFlags

/-- TALLY. -/
def execTally (c : Fin 32) (v : Fin 64) (w : IWord) (s : State) : Out := .next (engPlain s c v 3 0x45 w (doTally s c v w))

end Sys2Proof.Machine
end

