-- ==== Sys2Proof/Machine/StepPublish.lean ====
section
/-! DEFINITION. The end of a program step: list merge, step-end exchange, overflow decision, publication, Tally record, completion (R104 to R106, R119, R202, R212 to R217, R256 to R260, R273, R298, R301). -/

namespace Sys2Proof.Machine

/-! ### Buffers -/

/-- Error patterns of a frame's words gone: the words have been written. -/
def clearFrame (s : State) (fr : Nat) : State :=
  let lo := fr % stackFrames * 1024
  { s with hbm := mapMod s.hbm (fr / stackFrames) (fun h => { h with
    errors := h.errors.filter (fun e => e.1 < lo || lo + 1024 ≤ e.1)
    selfRefresh := false }) }

/-- A binding of a set. -/
def bindingOf (s : State) (c h i : Nat) : Option Binding := (croft? s c).bind (fun k => (mapGet? k.bsets h).bind (fun x => x.binds[i]?))

/-- The state with a binding of a set replaced. -/
def putBind (s : State) (c h i : Nat) (b : Binding) : State :=
  modCroft s c (fun k => { k with bsets := mapMod k.bsets h (fun x => { x with binds := x.binds.set i b }) })

/-- A sheaf of a buffer binding replaced: in its frame, or at a fresh location of the spill area in the class it spilled to, counted (R19, R162, R280). -/
def putBufSheaf (s : State) (c h i n : Nat) (sh : Sheaf) : State :=
  match bindingOf s c h i with
  | none => s
  | some b =>
    let b' := { b with sheaves := mapSet b.sheaves n sh }
    match mapGet? b.frames n with
    | some fr => hbmMoved (clearFrame (putBind s c h i b') fr) c (fr / stackFrames) sheafBytes
    | none => match mapGet? b.spill n with
      | none => clearT0 (putBind s c h i b') c (bufKey h i n)
      | some e =>
        let w := spillWrite s e.2 e.1
        bump (putBind w.2 c h i { b' with spill := mapSet b.spill n (e.1, w.1) }) (0xA380 + c) (if e.1 = 2 then 0x0B else 0x0D) sheafBytes

/-- Bytes of a buffer binding. -/
def bufRead (b : Binding) (off n : Nat) : List Byte :=
  ((List.range ((off % 32768 + n + 32767) / 32768)).flatMap (fun i => bodyBytes (mapGet b.sheaves (off / 32768 + i) sheafZero))).drop (off % 32768) |>.take n

/-- Whether a byte range of a buffer holds a poisoned word. -/
def bufMarked (b : Binding) (off n : Nat) : Bool :=
  b.sheaves.any (fun p => p.2.marks.any (fun u => rangesMeet off n (32768 * p.1 + 32 * u) 32))

/-- The part of a write at `off` that falls in sheaf `n`. -/
def bufPart (off n : Nat) (bs : List Byte) : Nat × List Byte :=
  let lo := max off (32768 * n)
  (lo - 32768 * n, (bs.drop (lo - off)).take (32768 * (n + 1) - lo))

/-- Bytes written to a buffer binding: bodies patched, marks of words wholly written gone, tags made again (R153, R375). -/
def bufWrite (s : State) (c h i off : Nat) (bs : List Byte) : State :=
  if bs.isEmpty then s
  else (List.range ((off + bs.length - 1) / 32768 + 1 - off / 32768)).foldl (fun s x =>
    let n := off / 32768 + x
    match bindingOf s c h i with
    | none => s
    | some b =>
      let old := mapGet b.sheaves n sheafZero
      let p := bufPart off n bs
      let marks := old.marks.filter (fun u => !(p.1 ≤ 32 * u && 32 * u + 32 ≤ p.1 + p.2.length))
      let new : Sheaf := ⟨0, memPutL 0 old.body p.1 p.2, marks⟩
      putBufSheaf s c h i n { new with tag := tagWith b.tag n (bodyCheck new) (!marks.isEmpty) }) s

/-- Bytes a buffer binding holds: none for an object or a peer's export. -/
def bufSize (b : Binding) : Nat := if b.kind < 2 then b.count * 32768 else 0

/-! ### Lists (R212, R213) -/

/-- The lists of a group: numbers from its first. -/
def groupLists (g : SelGroup) : List Nat := (List.range g.count).map (fun i => g.first + i)

/-- The image read back for a carry-in, none where it mismatches (R213). -/
def carryImage (s : State) (c : Nat) (e : EngEnv) (g : SelGroup) (l : Nat) : Option WList :=
  match bindingOf s c e.j.bset (regBinding e.im g.carryRegion) with
  | none => none
  | some b => readImage g.k g.top (bufRead b (g.carryOff + (l - g.first) * carrySlot g.k) (carrySlot g.k))

/-- Whether this module merges the carried copy of a group's lists: rank 0, where the group's lists are the group step's (R212). -/
def takesCarry (e : EngEnv) (g : SelGroup) : Bool :=
  g.carryIn && (!g.group || (e.j.group.map (fun b => leAt b 8 1)).getD 0 = 0)

/-- This module's result of a list: the copies of its virtual clusters, and the carried copy where there is one; none on a mismatch (R212, R214). -/
def moduleList (s : State) (c : Nat) (e : EngEnv) (g : SelGroup) (l : Nat) : Option WList :=
  let own := (List.range 8).filterMap (fun v => mapGet? e.r.lists (v * 4096 + l))
  let spill := (spilledLists e.r.groups).contains l
  let finish (cs : List WList) : WList := { mergeLists g.k g.top cs with spilled := spill }
  if takesCarry e g then
    (carryImage s c e g l).map (fun x => finish (x :: own))
  else some (finish own)

/-- The images of a list received from every other rank to their last frames, with their poisoned words, none while one is missing. -/
def rankImages (r : RunStep) (ranks l : Nat) : Option (List (List Byte × List Nat)) :=
  let xs := (List.range ranks).filterMap (fun q => if q = 0 then none else some (r.images.find? (fun x => x.1 = q && x.2.1 = l && x.2.2.1)))
  if xs.all Option.isSome then some (xs.filterMap (fun x => x.map (·.2.2.2))) else none

/-- What the merge of the step's lists gives: an image is missing, a mismatch, or the finished lists with their groups (none where another rank writes them). -/
inductive Merged where
  | wait
  | mismatch
  | ok (lists : List (SelGroup × Nat × WList))
  deriving DecidableEq, Repr

/-- One list merged into the results so far. -/
def mergeOne (s : State) (c : Nat) (e : EngEnv) (g : SelGroup) (m : Merged) (l : Nat) : Merged :=
  match m with
  | .ok acc =>
    match moduleList s c e g l, e.j.group with
    | none, _ => .mismatch
    | some w, some b =>
      if !g.group then .ok (acc ++ [(g, l, w)])
      else if leAt b 8 1 ≠ 0 then .ok acc
      else match rankImages e.r (leAt b 6 2) l with
        | none => .wait
        | some is_ =>
          let ws := is_.map (fun x => (readImage g.k g.top x.1).map (markImage x.2))
          if ws.all Option.isSome then .ok (acc ++ [(g, l, mergeLists g.k g.top (w :: ws.filterMap id))]) else .mismatch
    | some w, none => .ok (acc ++ [(g, l, w)])
  | x => x

/-- The step's lists merged. -/
def mergeAll (s : State) (c : Nat) (e : EngEnv) : Merged :=
  e.r.groups.foldl (fun m g => (groupLists g).foldl (fun m l => mergeOne s c e g m l) m) (.ok [])

/-- The list images a rank other than 0 sends to rank 0, in frames of up to 32 KiB. -/
def sendImages (s : State) (c : Nat) (e : EngEnv) (b : List Byte) : State :=
  (e.r.groups.filter (·.group)).foldl (fun s g => (groupLists g).foldl (fun s l =>
    match moduleList s c e g l with
    | none => s
    | some w =>
      let im := listImage w
      let n := (im.length + 32767) / 32768
      (List.range n).foldl (fun s i =>
        toRank s c b e.r.number e.r.step.attempt 0 5 (i + 1 = n) (paramBlock [l]) (sub im (32768 * i) (min 32768 (im.length - 32768 * i))) []) s) s) s

/-- Duplicates of one list found in this step on this module, among its copies' offers and in merging them (R205, R212); those a carried image counts were counted in their own steps. -/
def listDups (s : State) (c : Nat) (e : EngEnv) (g : SelGroup) (l : Nat) : Nat :=
  ((moduleList s c e g l).map (·.dups)).getD 0 - (if takesCarry e g then ((carryImage s c e g l).map (·.dups)).getD 0 else 0)

/-- Duplicates that the merge of the ranks' images of one list found (R212). -/
def rankDups (s : State) (c : Nat) (e : EngEnv) (x : SelGroup × Nat × WList) : Nat :=
  match e.j.group with
  | some b =>
    if x.1.group then
      x.2.2.dups - ((moduleList s c e x.1 x.2.1).map (·.dups)).getD 0 -
        (((rankImages e.r (leAt b 6 2) x.2.1).getD []).map (fun im => leAt im.1 24 8)).sum
    else 0
  | none => 0

/-- Duplicates of a step's lists found on this module (R217). -/
def stepDups (s : State) (c : Nat) (e : EngEnv) (ls : List (SelGroup × Nat × WList)) : Nat :=
  (e.r.groups.flatMap (fun g => (groupLists g).map (listDups s c e g))).sum + (ls.map (rankDups s c e)).sum

/-- The counters of the lists' offers on this module (R217). -/
def countOffers (s : State) (c dups : Nat) (own : List WList) : State :=
  let s1 := bump (bump s (0xA320 + c) 4 dups) (0xA320 + c) 5 ((own.map (·.nans)).sum)
  bump (bump s1 (0xA320 + c) 6 ((own.map (·.offered)).sum)) (0xA320 + c) 7 ((own.map (·.oorCount)).sum)

/-- What a finished list is written as, and where: region, byte offset, its output record or its carry image (R209, R214). -/
def listPlace (x : SelGroup × Nat × WList) : Nat × Nat × List Byte :=
  let g := x.1
  let i := x.2.1 - g.first
  if g.carryOut then (g.carryRegion, g.carryOff + i * carrySlot g.k, listImage x.2.2)
  else (g.outRegion, g.outOff + i * listSlot g.k, sub (listRecord x.2.2 false false) 0 (listSlot g.k))

/-- Whether a region of the step's image is bound to a peer's export. -/
def overTp (s : State) (c : Nat) (e : EngEnv) (region : Nat) : Bool := (bindingOf s c e.j.bset (regBinding e.im region)).any (fun b => b.kind = 3)

/-- One finished list published into its buffer, and counted (R209, R214); one that goes to a peer is sent with its sheaf. -/
def publishList (s : State) (c : Nat) (e : EngEnv) (x : SelGroup × Nat × WList) : State :=
  let p := listPlace x
  let s1 := if overTp s c e p.1 then s else bufWrite s c e.j.bset (regBinding e.im p.1) p.2.1 p.2.2
  if x.1.carryOut then s1
  else bump (bump s1 (0xA320 + c) 1 1) (0xA320 + c) 2 (if x.2.2.held.length < x.2.2.k then 1 else 0)

/-- Sheaf `n` of a peer's export with the lists that fall in it; what the sheaf holds beside them is a free value, since a TP write carries a whole sheaf (R202, R301; log entry 102). -/
def tpListSheaf (bind n : Nat) (tag : BitVec 256) (ps : List (Nat × Nat × List Byte)) (s : State) : Staged × State :=
  let base := freshBytes 32768 s
  let body := ps.foldl (fun m p => let q := bufPart p.2.1 n p.2.2; memPutL 0 m q.1 q.2) (cellsOf 0 0 base.1)
  let sh : Sheaf := ⟨0, body, []⟩
  (⟨bind, n, { sh with tag := tagWith tag n (bodyCheck sh) false }, false⟩, base.2)

/-- The sheaves of peers' exports that finished lists are written to. -/
def tpLists (s : State) (c : Nat) (e : EngEnv) (ls : List (SelGroup × Nat × WList)) : List Staged × State :=
  let ps := (ls.map listPlace).filterMap (fun p => if overTp s c e p.1 then some (regBinding e.im p.1, p.2) else none)
  let keys := (ps.flatMap (fun p => (List.range ((p.2.1 % 32768 + p.2.2.length + 32767) / 32768)).map (fun i => (p.1, p.2.1 / 32768 + i)))).eraseDups
  keys.foldl (fun (a : List Staged × State) k =>
    let tag := ((bindingOf s c e.j.bset k.1).map (·.tag)).getD 0
    let r := tpListSheaf k.1 k.2 tag (ps.filter (fun p => p.1 = k.1)) a.2
    (a.1 ++ [r.1], r.2)) ([], s)

/-- Every list published, its offers counted, and the lists that spilled on this module (R217). -/
def publishLists (s : State) (c : Nat) (e : EngEnv) (dups : Nat) (ls : List (SelGroup × Nat × WList)) : State :=
  ls.foldl (fun s x => publishList s c e x)
    (bump (countOffers s c dups (e.r.lists.map (·.2))) (0xA320 + c) 3 (spilledLists e.r.groups).length)

/-! ### Training state (R105, R106) -/

/-- Whether a step with this combined flag is skipped: every overflow (R105), but with loss-scale control 0 no step is (R107). -/
def skips (j : Job) (ovf : Bool) : Bool := ovf && (j.train.map trControl).getD true

/-- A training state record after a step (R106); an overflow with loss-scale control 0 takes the overflow branch, its step counted as completed since R107 skips none (DEDUCED, log entry 30). -/
def trainNext (b : List Byte) (ovf : Bool) : List Byte × Bool :=
  let b1 := patch b 8 (leBytes 8 ((trIndex b + 1) % 2 ^ 64))
  let count := if ovf && trControl b then 32 else 40
  let b2 := patch b1 count (leBytes 8 ((leAt b count 8 + 1) % 2 ^ 64))
  if ovf then
    let b3 := patch b2 24 (leBytes 4 0)
    if trLse b + trBackoff b < trFloor b then (b3, true)
    else (patch b3 16 (leBytes 2 (unsigned 16 (trLse b + trBackoff b))), false)
  else
    if trClean b + 1 = trInterval b then
      (patch (patch b2 16 (leBytes 2 (unsigned 16 (min (trLse b + trGrowth b) (trCeil b))))) 24 (leBytes 4 0), false)
    else (patch b2 24 (leBytes 4 (trClean b + 1)), false)

/-- The record of a job brought on, its counters and the floor event (R106, R107). -/
def trainStep (s : State) (c : Nat) (j : Job) (ovf : Bool) : State :=
  match j.train with
  | none => s
  | some b =>
    let p := trainNext b ovf
    let s1 := modJob s c j.id (fun j => { j with train := some p.1 })
    let s2 := bump s1 (0xA240 + c) (if ovf && trControl b then 2 else 1) 1
    if p.2 then croftEvent (bump s2 (0xA240 + c) 3 1) c 5 (leBytes 8 j.id) else s2

/-! ### The Tally record (R256 to R260) -/

/-- Whether an item comes before another: role, virtual engine, ordinal. -/
def tallyBefore (a b : TallyItem) : Bool :=
  a.role < b.role || (a.role = b.role && (a.ve < b.ve || (a.ve = b.ve && a.ord ≤ b.ord)))

/-- The rank a Tally names. -/
def tallyRank (j : Job) : Nat := (j.group.map (fun g => leAt g 8 1)).getD 0

/-- The Tally digest (R259), level 1 without the rank (R245). -/
def tallyDigest (e : EngEnv) (ovf skip : Bool) : List Byte :=
  let items := e.r.tallies.mergeSort tallyBefore
  let tr := e.j.train.getD (List.replicate 64 0)
  let bad := items.any (·.marked)
  let fl := (if ovf then 1 else 0) + (if skip then 2 else 0) + (if bad then 4 else 0)
  let one : Bool := e.j.level = 1
  shake256 64 (leBytes 4 0x59545744 ++ leBytes 2 (if one then 1 else 2) ++ leBytes 2 e.j.level ++ leBytes 8 e.r.number ++
    leBytes 4 e.r.step.r ++ leBytes 4 e.r.step.q ++ [BitVec.ofNat 8 fl, if one then 0 else BitVec.ofNat 8 (tallyRank e.j)] ++
    List.replicate 6 0 ++ memGetL 0 e.im 88 64 ++ sub e.j.wset 0 64 ++ leBytes 8 (trSeed tr) ++ leBytes 8 (trIndex tr) ++
    leBytes 8 items.length ++ items.flatMap (·.digest))

/-- The Tally record of a step (R260): its start reading is the job's reading as long ago as the step started, which acquiring steps do not move (R252). -/
def tallyRecord (s : State) (c : Nat) (e : EngEnv) (ovf skip : Bool) : List Byte :=
  let bad := e.r.tallies.any (·.marked)
  let fl := (if e.j.sign then 1 else 0) + (if ovf then 2 else 0) + (if skip then 4 else 0) + (if bad then 8 else 0)
  let start := unsigned 64 ((jobReading s e.j : Int) - ((clock s : Int) - e.r.start))
  let b := leBytes 4 0x52545744 ++ leBytes 2 1 ++ leBytes 2 e.j.level ++
    [BitVec.ofNat 8 c, BitVec.ofNat 8 fl, BitVec.ofNat 8 (tallyRank e.j)] ++ List.replicate 5 0 ++
    leBytes 8 e.j.id ++ leBytes 8 e.r.number ++ leBytes 8 start ++ leBytes 8 (jobReading s e.j) ++
    tallyDigest e ovf skip ++ List.replicate 16 0
  b ++ (if e.j.sign then edSign (identityKey s) b else List.replicate 114 0) ++ List.replicate 14 0

/-- The record written to its slot of the job's Tally buffer. -/
def writeTally (s : State) (c : Nat) (e : EngEnv) (ovf skip : Bool) : State :=
  if !e.j.tally then s
  else
    let a := e.j.tbuf + e.r.number % e.j.slots * 256
    let s1 := if e.j.sign then bump s 0xA4C0 3 1 else s
    if hostWritable s a 256 then hostWrite s1 a (tallyRecord s c e ovf skip) else s1

/-! ### Publication -/

/-- What an engine-side event works with where no virtual engine is named. -/
def stepEnv (s : State) (c : Nat) : Option EngEnv :=
  match runOf s c with
  | none => none
  | some (k, r) =>
    match mapGet? k.jobs r.job with
    | none => none
    | some j => (mapGet? k.images j.image).map (fun im => ⟨k, r, j, im.bytes, veStart⟩)

/-- A TP write of a staged sheaf sent to its exporter (R301). -/
def sendTpWrite (s : State) (c : Nat) (j : Job) (r : RunStep) (x : Staged) : State :=
  match bindingOf s c j.bset x.bind with
  | some b =>
    let dst := b.key / 256 % 256
    sendFrameTo s dst c (mkFrame 8 0 dst (addrTo s dst) c (jobTag j) r.number r.step.attempt true (paramBlock [b.key % 256, x.ordinal])
      (tagBytes x.sheaf.tag ++ bodyBytes x.sheaf) (x.sheaf.marks.map (· + 1)))
  | none => s

/-- A staged store published: into its buffer, or as a TP write to its exporter (R142, R301). -/
def publishStore (s : State) (c : Nat) (e : EngEnv) (x : Staged) : State :=
  match bindingOf s c e.j.bset x.bind with
  | none => s
  | some b =>
    if b.kind < 2 then putBufSheaf s c e.j.bset x.bind x.ordinal x.sheaf
    else if b.kind = 3 then modRun (sendTpWrite s c e.j e.r x) c (fun r => { r with tpWait := r.tpWait + 1 })
    else s

/-- The persistent semaphores as the step leaves them (R124). -/
def persistentSems (e : EngEnv) : FMap Nat :=
  e.r.ves.foldl (fun m p => p.2.sems.foldl (fun m x =>
    if declPersistent (semAt e.im p.1 x.1) then mapSet m (32 * p.1 + x.1) x.2 else m) m) e.j.sems

/-- Whether a finished list carries a poisoned entry or sum. -/
def listPoisoned (x : SelGroup × Nat × WList) : Bool := x.2.2.leftMarked || x.2.2.held.any (·.marked)

/-- A step past its end point published: stores, lists, semaphores, Tally, training state (R105, R119, R142). -/
def publishStep (s : State) (c : Nat) (e : EngEnv) (ovf : Bool) (ls : List (SelGroup × Nat × WList)) : State :=
  let skip := skips e.j ovf
  let s1 := (e.r.staged.filter (fun x => !(skip && x.update))).foldl (fun s x => publishStore s c e x) s
  let s2 := publishLists s1 c e (stepDups s c e ls) ls
  let tp := tpLists s2 c e ls
  let s3 := modJob (tp.1.foldl (fun s x => publishStore s c e x) tp.2) c e.j.id (fun j => { j with sems := persistentSems e })
  let s4 := writeTally s3 c e ovf skip
  let bad := ls.any (fun x => !x.1.carryOut && listPoisoned x)
  let kept := (e.r.staged ++ tp.1).filter (fun x => !(skip && x.update) && (bindingOf s c e.j.bset x.bind).any (fun b => b.kind = 3))
  modRun (trainStep s4 c e.j ovf) c (fun r => { r with orResult := some ovf, poison := r.poison || bad, staged := kept })

/-! ### Completion -/

/-- Offsets of a serving step's requests: rows before each. -/
def reqOffsets (l : List ServReq) : List (Nat × ServReq) :=
  (l.foldl (fun (p : Nat × List (Nat × ServReq)) q => (p.1 + q.rows, p.2 ++ [(p.1, q)])) (0, [])).2

/-- Flags of a step's completion (R313). -/
def stepFlags (j : Job) (r : RunStep) (ovf poison : Bool) : Nat :=
  (if poison then 2 else 0) + (if r.step.late.isSome then 4 else 0) + (if r.step.unsync then 8 else 0) +
  (if skips j ovf then 16 else 0) + (if ovf then 32 else 0)

/-- A request's results copied to the host and its completion posted (R269, R312). -/
def completeReq (s : State) (c : Nat) (j : Job) (r : RunStep) (ovf : Bool) (x : Nat × ServReq) : State :=
  let n := x.2.rows * x.2.outBytes
  let off := x.1 * x.2.outBytes
  match bindingOf s c j.bset 1 with
  | none => complete s x.2.ticket 1 0 x.1 r.number 0 none
  | some b =>
    let fl := stepFlags j r ovf (r.poison || bufMarked b off n)
    let fits : Bool := (bindingOf s c j.bset 0).any (fun y => x.1 * x.2.inBytes + x.2.data.length ≤ bufSize y)
    if bufSize b < off + n || !fits then complete s x.2.ticket 1 fl x.1 r.number 0 none
    else if !hostWritable s x.2.outAddr n then complete s x.2.ticket 6 fl x.1 r.number 0 none
    else complete (hostWrite s x.2.outAddr (bufRead b off n)) x.2.ticket 0 fl x.1 r.number 0 none

/-- The completions of a published step. -/
def completeStep (s : State) (c : Nat) (j : Job) (r : RunStep) (ovf : Bool) : State :=
  match r.step.ticket with
  | some t => complete s t 0 (stepFlags j r ovf r.poison) (min (r.step.late.getD 0) 0xFFFFFFFF) r.number 0 none
  | none => (reqOffsets r.step.reqs).foldl (fun s x => completeReq s c j r ovf x) s

/-- A combined group OR kept for a child that sends its step-end frame again (R287): the two last of each job tag. -/
def keepResult (s : State) (x : OrDone) : State :=
  let mine := s.orDone.filter (fun y => y.tag = x.tag)
  { s with orDone := s.orDone.filter (fun y => y.tag ≠ x.tag) ++ mine.drop (mine.length - 1) ++ [x] }

/-- A published step ended: engines free, completions, the job's next step or its end, the step boundary (R119, R266, R270, R280). -/
def finishStep (s : State) (c : Nat) (k : Croft) (j : Job) (r : RunStep) (ovf : Bool) : State :=
  let s1 := bump (leaveEngines s c k r) (0xA380 + c) 4 1
  let s2 := modJob s1 c j.id (fun j => { j with published := j.published + 1 })
  let s3 := completeStep s2 c j r ovf
  afterStep (if r.endJob then endJobDone s3 c j.id else renewAsks s3 c j.id r.number r.step.attempt) c

/-! ### The step-end exchange (R104, R273, R298) -/

/-- The overflow inputs of a rank's children, none while one is missing. -/
def orOfChildren (r : RunStep) (g : List Byte) : Option Bool :=
  let xs := (childRanks g).map (fun q => mapGet? r.orInputs q.1)
  if xs.all Option.isSome then some (xs.any (fun x => x = some true)) else none

/-- Ranks of the subtree below a rank, itself included. -/
def subtreeRanks (g : List Byte) : Nat := min (2 ^ rankBits 8 (leAt g 8 1)) (leAt g 6 2 - leAt g 8 1)

/-- The result sent down to the children. -/
def sendDown (s : State) (c : Nat) (e : EngEnv) (g : List Byte) (ovf : Bool) : State :=
  (childRanks g).foldl (fun s q =>
    toRank s c g e.r.number e.r.step.attempt q.1 4 true (paramBlock [if ovf then 1 else 0, leAt g 6 2]) [] []) s

/-- The decision taken with the combined flag: the step is published and, once its TP writes are done, completed. -/
def decideStep (s : State) (c : Nat) (e : EngEnv) (ovf : Bool) (ls : List (SelGroup × Nat × WList)) : State :=
  let s1 := publishStep s c e ovf ls
  match runOf s1 c with
  | some (k, r) => if r.tpWait = 0 then finishStep s1 c k ((mapGet? k.jobs r.job).getD e.j) r ovf else s1
  | none => s1

/-- The lists of a step that has merged. -/
def mergedOf : Merged → List (SelGroup × Nat × WList)
  | .ok l => l
  | _ => []

/-- Whether credits of a croft's attempt are still out (R278). -/
def creditsOut (s : State) (c tag step attempt : Nat) : Bool :=
  s.ports.any (fun x => x.2.out.any (fun o => o.croft = c && o.tag = tag && o.step = step && o.attempt = attempt))

/-- A shared step that holds the group OR past its end point, once every credit it used has been returned (R278). -/
def passEnd (s : State) (c : Nat) : State :=
  match stepEnv s c with
  | none => s
  | some e =>
    match e.r.orHeld with
    | none => s
    | some ovf =>
      if e.r.orResult.isSome || creditsOut s c (jobTag e.j) e.r.number e.r.step.attempt then s
      else decideStep s c e ovf (mergedOf (mergeAll s c e))

/-- The group OR held: kept for children that ask again, sent down, and the end point passed as soon as the credits are back (R104, R273, R278, R287, R298). -/
def holdResult (s : State) (c : Nat) (e : EngEnv) (g : List Byte) (ovf : Bool) : State :=
  let kids := (childRanks g).map (fun q => leAt g (32 + 2 * q.1) 1)
  let s1 := sendDown (keepResult s ⟨leAt g 16 8, e.r.number, e.r.step.attempt, c, ovf, kids, leAt g 6 2⟩) c e g ovf
  passEnd (modRun s1 c (fun r => { r with closing := true, orHeld := some ovf })) c

/-- The step-end exchange taken as far as its inputs allow; the step is closing from the moment this module sends its own (R273). -/
def closeProgress (s : State) (c : Nat) (e : EngEnv) (ls : List (SelGroup × Nat × WList)) : State :=
  match e.j.group with
  | none => decideStep s c e e.r.overflow ls
  | some g =>
    match orOfChildren e.r g with
    | none => s
    | some kids =>
      let own := e.r.overflow || kids
      match parentRank g with
      | none => holdResult s c e g own
      | some (q, _) =>
        if (mapGet? e.r.orInputs (leAt g 8 1)).isSome then s
        else
          modRun (toRank s c g e.r.number e.r.step.attempt q 4 true (paramBlock [if own then 1 else 0, subtreeRanks g]) [] []) c
            (fun r => { r with closing := true, orInputs := mapSet r.orInputs (leAt g 8 1) own })

/-- This module's list images sent to rank 0, once, where it is another rank. -/
def imagesOut (s : State) (c : Nat) (e : EngEnv) : State :=
  match e.j.group with
  | some g => if e.r.imagesSent || leAt g 8 1 = 0 then s else modRun (sendImages s c e g) c (fun r => { r with imagesSent := true })
  | none => s

/-- A program step whose streams have ended taken as far as it can go: merge, exchange, publication. -/
def endProgress (s : State) (c : Nat) : State :=
  match stepEnv s c with
  | none => s
  | some e =>
    if !e.r.ended || e.r.orResult.isSome then s
    else if e.r.orHeld.isSome then passEnd s c
    else match mergeAll s c e with
      | .wait => s
      | .mismatch => if e.r.closing then s else faultStep s c 0x63 0xFF 0 0 0
      | .ok ls => closeProgress (imagesOut s c e) c e ls

/-- The group OR come down from the parent: passed on, and held. -/
def resultArrives (s : State) (c : Nat) (ovf : Bool) : State :=
  match stepEnv s c with
  | none => s
  | some e =>
    match e.j.group with
    | none => s
    | some g => if !e.r.closing || e.r.orHeld.isSome || e.r.orResult.isSome then s else holdResult s c e g ovf

end Sys2Proof.Machine
end

