-- ==== Sys2Proof/Machine/StepFrames.lean ====
section
/-! DEFINITION. Frames of shared steps as they arrive: which attempt they belong to, and what each does (R118, R143, R212, R276, R292, R294, R298, R299). -/

namespace Sys2Proof.Machine

/-! ### The job a frame belongs to -/

/-- The rank of a job's group that a frame comes from, where the job is of the frame's group and croft (R276, R299). -/
def sourceRank (c : Nat) (j : Job) (b : List Byte) : Option Nat :=
  match j.group with
  | none => none
  | some g =>
    let me := leAt g 8 1
    if j.faulted || leAt g 16 8 ≠ frTag b || leAt g (32 + 2 * me) 1 ≠ frDst b || leAt g (33 + 2 * me) 1 ≠ c then none
    else (List.range (leAt g 6 2)).find? (fun q => q ≠ me && leAt g (32 + 2 * q) 1 = frSrc b && leAt g (33 + 2 * q) 1 = frCroft b)

/-- The croft, job and source rank of a frame. -/
def frameJob (s : State) (b : List Byte) : Option (Nat × Job × Nat) :=
  s.crofts.findSome? (fun p => p.2.jobs.findSome? (fun x => (sourceRank p.1 x.2 b).map (fun q => (p.1, x.2, q))))

/-- How a frame's attempt stands to the job's: running now, over, or still to come. -/
inductive Turn where
  | now
  | stale
  | later
  deriving DecidableEq, Repr

/-- The turn of a frame. -/
def frameTurn (k : Croft) (j : Job) (b : List Byte) : Turn :=
  let t := jobTurn k j
  if frStep b < t.1 || (frStep b = t.1 && frAttempt b < t.2.1) then .stale
  else if frStep b = t.1 && frAttempt b = t.2.1 && t.2.2 then .now
  else .later

/-! ### Effects -/

/-- A send frame: its bytes in the receiver's scratch or park image, the semaphore after the last frame (R142, R299). -/
def sendArrives (s : State) (c : Nat) (b : List Byte) : State :=
  match stepEnv s c with
  | none => s
  | some e =>
    let u := frParam b 0
    let sem := frParam b 1
    let a := 32 * frParam b 2
    let n := 32 * frParam b 3
    if 64 ≤ u || 32 ≤ sem || !declGate (semAt e.im u sem) then faultStep s c 0x53 0xFF (u % 64) 0 sem
    else if !inScratch a n then faultStep s c 0x52 0xFF u 0 0
    else
      let s1 := deliverBytes s c u a (sub (frPayload b) 0 n) (frMarks b)
      if frLast b then arriveSem s1 c u sem else s1

/-- The key that marks the message of a tree bit as whole. -/
def wholeKey (bit_ : Nat) : Nat := bit_ * 131072 + 131071

/-- Whether a child's message of a tree bit has begun in a reduction. -/
def hasInput (x : Reduction) (bit_ : Nat) : Bool := x.inputs.any (fun p => p.1 / 131072 = bit_)

/-- The group reduction of a mask that a frame of a child's partial belongs to: reductions of the mask take a child's messages in order, whatever this module has issued (R67, R143). -/
def childReduction (r : RunStep) (mask bit_ key : Nat) : Option Reduction :=
  let group (x : Reduction) : Bool := x.mask = mask &&
    (earlyOrd ≤ x.ord || (x.parts.head?).any (fun p => rdGroup (BitVec.ofNat 128 p.word)))
  let open_ := ((r.reductions.filter (fun x => group x && (mapGet? x.inputs (wholeKey bit_)).isNone && (mapGet? x.inputs key).isNone)).mergeSort
    (fun a b => a.ord ≤ b.ord))
  if key % 131072 = 0 then open_.find? (fun x => !hasInput x bit_)
  else match open_.find? (fun x => hasInput x bit_) with
    | some x => some x
    | none => open_.head?

/-- The ordinal of the next early inputs of a mask. -/
def nextEarly (r : RunStep) (mask : Nat) : Nat :=
  match ((r.reductions.filter (fun x => x.mask = mask && earlyOrd ≤ x.ord)).map (·.ord)).max? with
  | some m => m + 1
  | none => earlyOrd

/-- The reduction of a mask that still lacks a result: the earliest (R143). -/
def lacking (r : RunStep) (mask key : Nat) (want : Reduction → Bool) : Option Reduction :=
  ((r.reductions.filter (fun x => x.mask = mask && want x && (mapGet? x.inputs key).isNone)).mergeSort (fun a b => a.ord ≤ b.ord)).head?

/-- A reduction partial of a child rank put in its place (R65, R298). -/
def partialArrives (s : State) (c : Nat) (b : List Byte) : State :=
  match stepEnv s c with
  | none => s
  | some e =>
    let mask := frParam b 0
    let bit_ := frParam b 1 - 7
    let key := bit_ * 131072 + frParam b 3
    let x := (childReduction e.r mask bit_ key).getD ⟨mask, nextEarly e.r mask, [], [], false, false⟩
    let ins := mapSet x.inputs key (rdUnpack false (frPayload b) (frMarks b))
    let x' := { x with inputs := if frLast b then mapSet ins (wholeKey bit_) [] else ins }
    rdProgress (putReduction s c x') c e x'

/-- The key under which a result's elements are gathered. -/
def resultKey : Nat := 31

/-- A reduction result of the parent rank: once whole, delivered here and passed down the tree (R143, R298). -/
def rdResultArrives (s : State) (c : Nat) (b : List Byte) : State :=
  match stepEnv s c with
  | none => s
  | some e =>
    let key := resultKey * 131072 + frParam b 1
    match lacking e.r (frParam b 0) key (fun x => x.sent && !x.delivered), e.j.group with
    | some x, some g =>
      let x' := { x with inputs := mapSet x.inputs key (rdUnpack false (frPayload b) (frMarks b)) }
      let w : IWord := BitVec.ofNat 128 ((x.parts.head?).map (·.word) |>.getD 0)
      match rdInput x' (rdPair w) (rdLen w) (rdChunk w) resultKey with
      | none => putReduction s c x'
      | some xs =>
        let s1 := rdDeliver (putReduction s c { x' with delivered := true }) c w (rdReceivers e.im w 1) xs
        (childRanks g).foldl (fun s q => rdSendTo s c e g w q.1 3 0 xs) s1
    | _, _ => s

/-- A step-end frame: the group OR from the parent, or a child's input (R104, R298). -/
def stepEndArrives (s : State) (c : Nat) (q : Nat) (b : List Byte) : State :=
  match stepEnv s c with
  | none => s
  | some e =>
    match e.j.group with
    | none => s
    | some g =>
      let ovf : Bool := frParam b 0 % 2 = 1
      if (parentRank g).any (fun p => p.1 = q) then resultArrives s c ovf
      else if e.r.orHeld.isSome then toRank s c g e.r.number e.r.step.attempt q 4 true (paramBlock [if e.r.orHeld = some true then 1 else 0, leAt g 6 2]) [] []
      else endProgress (modRun s c (fun r => { r with orInputs := mapSet r.orInputs q ovf })) c

/-- A list image of a rank: its bytes gathered to its last frame, the merge tried again (R212, R213). -/
def imageArrives (s : State) (c : Nat) (q : Nat) (b : List Byte) : State :=
  let l := frParam b 0
  let add (r : RunStep) : RunStep :=
    if r.images.any (fun x => x.1 = q && x.2.1 = l) then
      { r with images := r.images.map (fun x => if x.1 = q && x.2.1 = l then
        (q, l, frLast b, x.2.2.2.1 ++ frPayload b, x.2.2.2.2 ++ (frMarks b).map (· + x.2.2.2.1.length / 32)) else x) }
    else { r with images := r.images ++ [(q, l, frLast b, frPayload b, frMarks b)] }
  endProgress (modRun s c add) c

/-- The effect of a frame of the running attempt. -/
def frameEffect (s : State) (c q : Nat) (b : List Byte) : State :=
  match frType b with
  | 1 => settle (sendArrives s c b) c
  | 2 => settle (partialArrives s c b) c
  | 3 => settle (rdResultArrives s c b) c
  | 4 => stepEndArrives s c q b
  | _ => imageArrives s c q b

/-- A frame taken into the running attempt: its effect, its bytes counted, its credits owed (R280, R294). -/
def acceptFrame (s : State) (p c q : Nat) (b : List Byte) : State :=
  oweCredits (frameEffect (bump s (0xA380 + c) 0x0F (32 * frUnits b)) c q b) p b

/-- A child's step-end frame of an attempt whose OR this module has combined is answered with the result again; a result that comes again is ignored (R287). -/
def resendResult (s : State) (b : List Byte) : State :=
  match s.orDone.find? (fun x => x.tag = frTag b && x.step = frStep b && x.attempt = frAttempt b) with
  | some x =>
    if frType b = 4 && x.kids.contains (frSrc b) then
      sendFrameTo s (frSrc b) x.croft (mkFrame 4 0 (frSrc b) (addrTo s (frSrc b)) x.croft (frTag b) (frStep b) (frAttempt b) true
        (paramBlock [if x.overflow then 1 else 0, x.ranks]) [] [])
    else s
  | none => s

/-- A frame kept in its buffer, its credits still held, until its attempt starts (R294). -/
def holdFrame (s : State) (p : Nat) (b : List Byte) : State :=
  let x := portOf s p
  putPort s p { x with held := x.held ++ [b] }

/-- A frame of a shared step (R276, R294, R299). -/
def stepFrame (s : State) (p : Nat) (b : List Byte) : State :=
  match frameJob s b with
  | none => routingEvent (discardFrame (resendResult s b) p b) p b
  | some (c, j, q) =>
    match croft? s c with
    | none => s
    | some k =>
      match frameTurn k j b with
      | .now => acceptFrame s p c q b
      | .later => holdFrame s p b
      | .stale => discardFrame (resendResult s b) p b

/-- The frames held on the ports that belong to the attempt a croft has just started, taken in. -/
def takeHeld (s : State) (c : Nat) : State :=
  (List.range 8).foldl (fun s p =>
    (portOf s p).held.foldl (fun s b =>
      match frameJob s b, croft? s c with
      | some (c', j, q), some k =>
        if c' ≠ c then s
        else match frameTurn k j b with
          | .later => s
          | .now =>
            let s1 := putPort s p { portOf s p with held := (portOf s p).held.erase b }
            acceptFrame s1 p c q b
          | .stale => discardFrame (putPort s p { portOf s p with held := (portOf s p).held.erase b }) p b
      | _, _ => s) s) s

/-! ### The rows -/

/-- SEND_FRAME. -/
def execSendFrame (p : Fin 8) (frame : List Byte) (s : State) : Out := .next (withFrame s p.val frame 1 (fun s => stepFrame s p.val frame))

/-- REDUCTION_PARTIAL. -/
def execReductionPartial (p : Fin 8) (frame : List Byte) (s : State) : Out := .next (withFrame s p.val frame 2 (fun s => stepFrame s p.val frame))

/-- REDUCTION_RESULT. -/
def execReductionResult (p : Fin 8) (frame : List Byte) (s : State) : Out := .next (withFrame s p.val frame 3 (fun s => stepFrame s p.val frame))

/-- STEP_END_FRAME. -/
def execStepEndFrame (p : Fin 8) (frame : List Byte) (s : State) : Out := .next (withFrame s p.val frame 4 (fun s => stepFrame s p.val frame))

/-- LIST_IMAGE_FRAME. -/
def execListImageFrame (p : Fin 8) (frame : List Byte) (s : State) : Out := .next (withFrame s p.val frame 5 (fun s => stepFrame s p.val frame))

end Sys2Proof.Machine
end

