-- ==== Sys2Proof/Machine/JobOpen.lean ====
section
/-! DEFINITION. How a job opens: OPEN, RESUME, the group check (R103, R107, R108, R236, R237, R246, R252, R258, R266, R269, R296, R297, R312). -/

namespace Sys2Proof.Machine

/-- What RESUME restores: level, published steps, semaphores, the recorded Bell reading, and the target epoch's objects. -/
structure Restored where
  level : Nat
  published : Nat
  sems : FMap Nat
  reading : Nat
  epoch : Nat
  objs : FMap Obj
  deriving DecidableEq, Repr

/-- The settings a job opens with: those of OPEN's table, and what RESUME restores. -/
structure OpenReq where
  image : Nat
  bset : Nat
  prio : Nat
  flags : Nat
  slots : Nat
  seed : Nat
  train : Option (List Byte)
  tbuf : Nat
  group : Option (List Byte)
  restored : Option Restored
  deriving DecidableEq, Repr

/-- Flag bits of OPEN. -/
def rqServing (r : OpenReq) : Bool := r.flags % 2 = 1
def rqTally (r : OpenReq) : Bool := r.flags / 4 % 2 = 1
def rqSign (r : OpenReq) : Bool := r.flags / 8 % 2 = 1

/-- Whether a group record keeps its layout (R296). -/
def groupRecOk (b : List Byte) : Bool :=
  leAt b 0 4 = 0x47525744 && leAt b 4 2 = 1 && 2 ≤ leAt b 6 2 && leAt b 6 2 ≤ 256 && leAt b 8 1 < leAt b 6 2 &&
  zerosAt b 9 15 && zerosAt b 24 31 && (List.range 256).all (fun i => i < leAt b 6 2 || leAt b (32 + 2 * i) 2 = 0xFFFF)

/-- The Kamlin addresses of a group's ranks. -/
def groupAddrs (b : List Byte) : List Nat := (List.range (leAt b 6 2)).map (fun i => leAt b (32 + 2 * i) 1)

/-- Whether no address stands twice and the own rank's entry is this module's (R297). -/
def groupMine (s : State) (b : List Byte) : Bool :=
  (groupAddrs b).eraseDups.length = leAt b 6 2 && leAt b (32 + 2 * leAt b 8 1) 1 = s.kamlinAddr

/-- Whether an output spec names block scales along rows (R269). -/
def scalesRows (b : List Byte) : Bool := leAt b 3 1 % 2 = 1 && (leAt b 3 1 / 2 % 4 = 1 || leAt b 7 1 % 2 = 1)

/-- Whether a binding of the set is smaller than the region that names it asks (R312). -/
def bindingShort (im : Memory) (b : BSet) : Bool :=
  (List.range (imgRegions im)).any (fun r => match b.binds[regBinding im r]? with
    | some x => bindCount x < regMin im r
    | none => false)

/-- What a resumed job's object bindings read: its target epoch's objects of the set's keys (R237). -/
def reqBound (r : OpenReq) (b : BSet) : Option (Nat × FMap Obj) :=
  r.restored.map (fun x => (x.epoch, x.objs.filter (fun o => b.binds.any (fun y => y.kind = 2 && y.key = o.1))))

/-- Whether a binding is a buffer. -/
def isBuffer (b : BSet) (i : Nat) : Bool := (b.binds[i]?).any (fun x => x.kind < 2)

/-- The refusal of an opening, status and Detail; none where the job opens (R266, R269, R296, R297, R312). -/
def openRefusal (s : State) (k : Croft) (r : OpenReq) : Option (Nat × Nat) :=
  match mapGet? k.images r.image, mapGet? k.bsets r.bset with
  | some im, some b =>
    if 7 < r.prio || bindingShort im.bytes (boundSet (reqBound r b) b) then some (1, 0)
    else if rqTally r && (rqServing r || r.slots = 0 || 4096 < r.slots) then some (1, 0)
    else if !rqTally r && (r.slots ≠ 0 || r.tbuf ≠ 0 || rqSign r) then some (1, 0)
    else if rqServing r && (List.range (imgOspecs im.bytes)).any (fun i => scalesRows (ospecAt im.bytes i)) then some (8, 9)
    else if rqServing r && !(isBuffer b 0 && isBuffer b 1) then some (1, 0)
    else if 256 ≤ (openJobs k).length then some (4, 0)
    else match r.group with
      | some g => if !groupRecOk g then some (1, 0) else if !groupMine s g then some (0x43, 0) else none
      | none => none
  | _, _ => some (0x50, 0)

/-- The training state record a job starts with: the supplied one, the croft's defaults for an image of training class, none otherwise (R103, R107). -/
def openTrain (s : State) (c : Nat) (im : Memory) (r : OpenReq) : Option (List Byte) :=
  match r.train with
  | some b => some b
  | none => if imgTraining im && r.restored.isNone then some (trainNew s c r.seed) else none

/-- The record of a job as it opens. -/
def newJob (s : State) (t : Ticket) (im : Memory) (b : BSet) (r : OpenReq) (train : Option (List Byte)) : Job :=
  { id := s.nextJob, fn := t.fn, kind := if rqServing r then 1 else 0, image := r.image, bset := r.bset, bound := reqBound r b, prio := r.prio
    tally := rqTally r, sign := rqSign r, slots := r.slots, tbuf := r.tbuf, train := train, group := r.group, checked := []
    wset := bindDigest s (boundSet (reqBound r b) b)
    sems := (r.restored.map (·.sems)).getD [], published := (r.restored.map (·.published)).getD 0
    bellOff := match r.restored with
      | some x => unsigned 64 ((x.reading : Int) - s.bell.count)
      | none => 0
    level := (r.restored.map (·.level)).getD (imgLevel im), steps := [], reqs := [], holdReq := none, faulted := false
    closing := none, nextIssued := [] }

/-! ### The group check (R297) -/

/-- The digest of a group record with its own rank set to 0. -/
def groupDigest (g : List Byte) : List Byte := shake256 64 (patch g 8 [0])

/-- What a group check carries: in its parameter block the level and the digest's first 30 bytes, in two payload units the other 34 (DESIGN CHOICE, log entry 110: the 64 bytes of the digest do not fit the 32 of the block). -/
def checkBlock (j : Job) (g : List Byte) : List Byte := leBytes 2 j.level ++ sub (groupDigest g) 0 30
def checkRest (g : List Byte) : List Byte := sub (sub (groupDigest g) 30 34) 0 64

/-- The group job of a tag. -/
def tagJob (s : State) (tag : Nat) : Option (Nat × Job) :=
  s.crofts.findSome? (fun p => p.2.jobs.findSome? (fun x =>
    if !x.2.faulted && (x.2.group.map (fun g => leAt g 16 8)) = some tag then some (p.1, x.2) else none))

/-- A group check frame judged against its job: the rank's check matched, or the job ended with group-mismatch. -/
def checkJob (s : State) (c : Nat) (j : Job) (g b : List Byte) : State :=
  let src := (List.range (leAt g 6 2)).find? (fun q => leAt g (32 + 2 * q) 2 = frSrc b + 256 * frCroft b && q ≠ leAt g 8 1)
  match src with
  | some q => if sub b 32 32 = checkBlock j g && frPayload b = checkRest g then markReady (modJob s c j.id (fun j => { j with checked := setIns j.checked q })) c
      else endJob s c j.id 0x43
  | none => endJob s c j.id 0x43

/-- A group check frame: judged now, or kept until its job opens. -/
def checkFrame (s : State) (p : Nat) (b : List Byte) : State :=
  match tagJob s (frTag b) with
  | some (c, j) => match j.group with
    | some g => oweCredits (checkJob s c j g b) p b
    | none => s
  | none => holdFrame s p b

/-- The kept group checks of a job that has just opened. -/
def takeChecks (s : State) (tag : Nat) : State :=
  (List.range 8).foldl (fun s p => ((portOf s p).held.filter (fun b => frType b = 0x0A && frTag b = tag)).foldl (fun s b =>
    checkFrame (putPort s p { portOf s p with held := (portOf s p).held.erase b }) p b) s) s

/-- GROUP_CHECK. -/
def execGroupCheck (p : Fin 8) (frame : List Byte) (s : State) : Out :=
  .next (withFrame s p.val frame 0x0A (fun s => checkFrame s p.val frame))

/-- GROUP_CHECK_TIMEOUT: a missing check ends the job (R297). -/
def execGroupCheckTimeout (c : Fin 32) (job : Nat) (s : State) : Out :=
  .next (if !powered s then s else match jobOf s c job with
    | some j => if j.group.isSome && !groupReady j && !j.faulted then endJob s c job 0x43 else s
    | none => s)

/-! ### Opening -/

/-- A job opened with its record, counted and completed, its group checks sent. -/
def openWith (s : State) (c : Nat) (k : Croft) (t : Ticket) (im : Memory) (b : BSet) (r : OpenReq) (train : Option (List Byte)) : State :=
  let j := newJob s t im b r train
  let s1 := putCroft { s with nextJob := s.nextJob + 1 } c { k with jobs := mapSet k.jobs j.id j }
  let s2 := complete (bump s1 (0xA380 + c) 1 1) t 0 0 0 j.id 0 none
  match r.group with
  | some g => takeChecks (toPeers s2 c g 0x0A 0 0 (checkBlock j g) (checkRest g)) (leAt g 16 8)
  | none => s2

/-- An opening judged and done: refused, a training-state fault, or a job (R108, R312). -/
def openJobReq (s : State) (c : Nat) (t : Ticket) (r : OpenReq) : State :=
  match croft? s c with
  | none => done s t 3
  | some k =>
    match openRefusal s k r, mapGet? k.images r.image, mapGet? k.bsets r.bset with
    | none, some im, some b =>
      let train := openTrain s c im.bytes r
      if train.all trainOk then openWith s c k t im.bytes b r train
      else
        let f := faultRecord 0x40 0xFF 0 (8 * hostCluster k 0) c 0 0 0 0 0
        croftEvent (complete s t 0x0F 0 0 0 0 (some f)) c 1 f
    | some x, _, _ => complete s t x.1 0 x.2 0 0 none
    | none, _, _ => done s t 0x50

/-- A host record named by an address whose flag is set; the inner none where an access faults. -/
def flagRead (s : State) (flag : Bool) (a n : Nat) : Option (Option (List Byte)) :=
  if flag then (hostRead s a n).map some else some none

/-- OPEN's descriptor judged and its records read (R10, R312, R314). -/
def openDesc (s : State) (c : Nat) (t : Ticket) (d : Desc) : State :=
  let fl := byteOf d 25
  let bad : Bool := 7 < byteOf d 24 || 31 < fl || !descZero d 28 31 || (fl / 2 % 2 = 0 && !descZero d 40 47) ||
    (fl / 4 % 2 = 0 && !descZero d 48 55) || (fl / 16 % 2 = 0 && !descZero d 56 63)
  if bad then done s t 1
  else match flagRead s (fl / 2 % 2 = 1) (bytesAt d 40 8) 64, flagRead s (fl / 16 % 2 = 1) (bytesAt d 56 8) 544 with
    | some tr, some g =>
      openJobReq s c t ⟨bytesAt d 16 4, bytesAt d 20 4, byteOf d 24, fl, bytesAt d 26 2, bytesAt d 32 8, tr, bytesAt d 48 8, g, none⟩
    | _, _ => done s t 6

/-- OPEN. -/
def execOpenJob (f : Fin 33) (ring : Nat) (d : Desc) (s : State) : Out :=
  .next (withDescriptor s f ring d 1 3 5 (fun s c t => wakeKept (openDesc s c t d)))

/-! ### RESUME -/

/-- Whether a hold record's reserved fields are zero, its magic and version right (R233). -/
def holdRecOk (b : List Byte) : Bool :=
  leAt b 0 4 = 0x52485744 && leAt b 4 2 = 1 && leAt b 9 1 < 8 && zerosAt b 12 15 && zerosAt b 337 337 && zerosAt b 340 343 &&
  zerosAt b 522 527 && 1 ≤ leAt b 10 2 && leAt b 10 2 ≤ 16

/-- Whether a hold record's digest and signature verify (R237). -/
def holdSigned (s : State) (b : List Byte) : Bool :=
  let dig := sub b 344 64
  let sig := sub b 408 114
  dig = shake256 64 (sub b 0 344) &&
  (if leAt b 9 1 % 2 = 1 then edVerify (identityPublic s) dig sig || Config.foreignVerify (BitVec.ofNat 512 (leAt dig 0 64)) (BitVec.ofNat 912 (leAt sig 0 114))
   else zerosAt b 408 521)

/-- Whether the resume header's reserved fields are zero (R236). -/
def resumeHdrOk (h : List Byte) : Bool :=
  leAt h 8 1 < 8 && leAt h 9 1 &&& 0xE2 = 0 && zerosAt h 12 15 && zerosAt h 32 127

/-- Whether a header's group flag and record agree with the hold record (R237). -/
def groupAgrees (b : List Byte) (g : Option (List Byte)) : Bool :=
  match g with
  | some g => leAt b 9 1 / 4 % 2 = 1 && leAt g 16 8 = leAt b 328 8 && leAt g 8 1 = leAt b 336 1 && leAt g 6 2 = leAt b 338 2
  | none => leAt b 9 1 / 4 % 2 = 0

/-- The behaviour levels a croft takes: implemented, and under the ceiling where there is one (R245, R247). -/
def levelAllowed (s : State) (c l : Nat) : Bool := levelKnown l && (ceilingOf s c = 0 || l ≤ ceilingOf s c)

/-- The state object's bytes: segment 0, first sheaf (R233). -/
def stateBytes (s : State) (o : Obj) : List Byte :=
  match o.segs.head? with
  | some x => (segSheaf s x 0).elim [] bodyBytes
  | none => []

/-- A resume block judged in the order of R237's table, and the job opened. -/
def resumeBlock (s : State) (c : Nat) (k : Croft) (t : Ticket) (d : Desc) (h b : List Byte) (g : Option (List Byte)) : State :=
  let keys := (List.range (leAt b 10 2)).map (fun i => leAt b (200 + 8 * i) 8)
  if !holdRecOk b || !holdSigned s b || !resumeHdrOk h then done s t 0x18
  else if !levelAllowed s c (leAt b 6 2) then done s t 0x19
  else match mapGet? k.images (leAt h 0 4), mapGet? k.bsets (leAt h 4 4), epochMap k.store (stEpoch d) with
    | some im, some _, some (e, m) =>
      if imageDigest im ≠ sub b 32 64 then done s t 0x1A
      else if weightDigest s m keys ≠ some (sub b 96 64) then done s t 0x1A
      else match objOf m (leAt b 24 8) with
        | none => done s t 0x10
        | some o =>
          if !groupAgrees b g then done s t 0x18
          else
            let st := stateBytes s o
            let sems := (List.range 2048).filterMap (fun i => if leAt st (128 + i) 1 = 0 then none else some (i, leAt st (128 + i) 1))
            openJobReq s c t ⟨leAt h 0 4, leAt h 4 4, leAt h 8 1, leAt h 9 1, leAt h 10 2, leAt b 160 8,
              if leAt b 9 1 / 2 % 2 = 1 then some (sub st 0 64) else none, leAt h 16 8, g,
              some ⟨leAt b 6 2, leAt st 64 8, sems, leAt b 176 8, e, m⟩⟩
    | some _, some _, none => done s t 0x11
    | _, _, _ => done s t 0x50

/-- RESUME (R221, R236, R237). -/
def execResume (f : Fin 33) (ring : Nat) (d : Desc) (s : State) : Out :=
  .next (withStore s f ring d 0x21 3 (4 + 8) 0 (fun s c t k =>
    match hostRead s (stAddr d) 656 with
    | none => done s t 6
    | some x =>
      let h := sub x 0 128
      match flagRead s (leAt h 9 1 / 16 % 2 = 1) (leAt h 24 8) 544 with
      | none => done s t 6
      | some g =>
        if (g.isNone && leAt h 24 8 ≠ 0) then done s t 1
        else resumeBlock s c k t d h (sub x 128 528) g))

end Sys2Proof.Machine
end

