-- ==== Sys2Proof/Machine/Jobs.lean ====
section
/-! DEFINITION. Work of open jobs: step descriptors and launches, serving requests and batches, closes, cancels (R253, R254, R269, R270, R277, R278, R312). -/

namespace Sys2Proof.Machine

/-- The job a descriptor names, or the status it completes with: a job of the kind asked, invalid-field for one never opened or of another kind, job-ended, job-faulted (R270, R312). -/
def lookJob (s : State) (c : Nat) (d : Desc) (kinds : Nat → Bool) : Job ⊕ Nat :=
  let id := bytesAt d 8 8
  match jobOf s c id with
  | some j => if !kinds j.kind then .inr 1 else if j.faulted then .inr 0x40 else .inl j
  | none => if id ≠ 0 && id < s.nextJob && !s.crofts.any (fun p => (mapGet? p.2.jobs id).isSome) then .inr 0x41 else .inr 1

/-! ### Launches (R253, R254) -/

/-- The count a launch selects: the job's reading, or the module's counter. -/
def launchCount (s : State) (j : Job) (byJob : Bool) : Nat := if byJob then jobReading s j else s.bell.count

/-- Whether the counter is locked, or in holdover within its limit. -/
def bellSound (s : State) : Bool := bellState s = 2 || (bellState s = 3 && !s.bell.stale)

/-- A launch refused or missed: counted and completed, nothing else (R254). -/
def launchRefused (s : State) (t : Ticket) (status : Nat) : State := done (bump s 0xA360 2 1) t status

/-- Whether a job's ready head would start at once: its croft may start a step, and no other step comes before it. -/
def startsNow (s : State) (c id : Nat) : Bool :=
  (croft? s c).any (fun k => mayStart s k && (bestReady k).any (fun b => b.1.id = id))

/-- Whether the selected count has reached a step's launch count (R253). -/
def countReached (s : State) (j : Job) (q : QStep) : Bool := q.launch.any (fun x => x.1 ≤ launchCount s j x.2.1)

/-- The first of a job's steps that still waits for a count which has been reached, with its place. -/
def waitingLaunch (s : State) (j : Job) : Option (Nat × QStep) :=
  ((List.range j.steps.length).filterMap (fun i => (j.steps[i]?).map (fun q => (i, q)))).find? (fun x => !launchMet x.2 && countReached s j x.2)

/-- The selected count has reached a step's launch count: the step may start, or under late policy 1 it is missed when the engines are busy or the domain count is not synchronised; while the count is below L nothing happens (R253, R254). -/
def launchReached (s : State) (c id : Nat) : State :=
  match jobOf s c id with
  | none => s
  | some j =>
    match waitingLaunch s j with
    | none => s
    | some (i, q) =>
      match q.launch, q.ticket with
      | some (_, byJob, strict), some t =>
        let q' := { q with reached := some (clock s), unsync := !byJob && !bellSound s }
        let s1 := markReady (modJob s c id (fun j => { j with steps := j.steps.set i q' })) c
        if strict && (q'.unsync || i ≠ 0 || !startsNow s1 c id) then
          launchRefused (markReady (modJob s c id (fun j => { j with steps := j.steps.eraseIdx i })) c) t 0x30
        else s1
      | _, _ => s

/-- LAUNCH_COUNT_REACHED. -/
def execLaunchCountReached (c : Fin 32) (job : Nat) (s : State) : Out :=
  .next (if powered s then launchReached s c.val job else s)

/-! ### STEP -/

/-- The accepted step of a STEP descriptor. -/
def stepOf (d : Desc) (t : Ticket) : QStep :=
  let la := byteOf d 18
  { kind := .program, ticket := some t, entry := bytesAt d 16 2, r := bytesAt d 20 4, q := bytesAt d 24 4
    selBind := bytesAt d 28 4, selOff := bytesAt d 32 8
    launch := if la % 2 = 1 then some (bytesAt d 40 8, la / 2 % 2 = 1, la / 4 % 2 = 1) else none
    reached := none, late := none, unsync := false, ready := none, attempt := 0, began := false, reqs := [] }

/-- A step queued at the end of its job. -/
def queueStep (s : State) (c id : Nat) (q : QStep) : State :=
  markReady (modJob s c id (fun j => { j with steps := j.steps ++ [q] })) c

/-- A step accepted, its launch count judged at fetch (R254). -/
def acceptStep (s : State) (c : Nat) (j : Job) (d : Desc) (t : Ticket) : State :=
  let q := stepOf d t
  match q.launch with
  | none => queueStep s c j.id q
  | some (l, byJob, strict) =>
    let n := launchCount s j byJob
    if n + 60000000000 < l then launchRefused s t 0x31
    else if n < l then queueStep s c j.id q
    else
      let unsync : Bool := !byJob && !bellSound s
      let s1 := queueStep s c j.id { q with reached := some (clock s), late := if n = l then none else some (n - l), unsync := unsync }
      if strict && (n ≠ l || unsync || !j.steps.isEmpty || !startsNow s1 c j.id) then launchRefused s t 0x30 else s1

/-- STEP_DESCRIPTOR. -/
def execStepDescriptor (f : Fin 33) (ring : Nat) (d : Desc) (s : State) : Out :=
  .next (withDescriptor s f ring d 2 3 5 (fun s c t =>
    if 7 < byteOf d 18 || !descZero d 19 19 || !descZero d 48 63 then done s t 1
    else match lookJob s c d (fun x => x = 0) with
      | .inr x => done s t x
      | .inl j =>
        let entries := ((croft? s c).bind (fun k => mapGet? k.images j.image)).elim 0 (fun im => imgSteps im.bytes)
        if entries ≤ bytesAt d 16 2 then done s t 1 else acceptStep s c j d t))

/-! ### Serving -/

/-- Batch block rows of a croft. -/
def blockRows (s : State) (c : Nat) : Nat := odGet s (0x3000 + c) 6

/-- The longest run of requests whose rows total no more than a limit. -/
def takeRows : Nat → List ServReq → List ServReq
  | _, [] => []
  | n, q :: rest => if q.rows ≤ n then q :: takeRows (n - q.rows) rest else []

/-- A serving step of requests: step entry 0, Q 0, R their rows (R269). -/
def servingStep (l : List ServReq) : QStep :=
  { kind := .program, ticket := none, entry := 0, r := (l.map (·.rows)).sum, q := 0, selBind := 0xFFFFFFFF, selOff := 0
    launch := none, reached := none, late := none, unsync := false, ready := none, attempt := 0, began := false, reqs := l }

/-- One batch formed from the front of a job's queued requests; a request larger than the block rows as they stand now forms one alone. -/
def formBatch (s : State) (c id : Nat) : State :=
  match jobOf s c id with
  | none => s
  | some j =>
    let l := if (takeRows (blockRows s c) j.reqs).isEmpty then j.reqs.take 1 else takeRows (blockRows s c) j.reqs
    if l.isEmpty then s
    else queueStep (modJob s c id (fun j => { j with reqs := j.reqs.drop l.length })) c id (servingStep l)

/-- Batches formed while the queued rows reach the block rows, or while the wait limit is 0 (R269). -/
def batchNow (c id : Nat) : Nat → State → State
  | 0, s => s
  | n + 1, s =>
    match jobOf s c id with
    | none => s
    | some j =>
      if j.reqs.isEmpty || ((j.reqs.map (·.rows)).sum < blockRows s c && odGet s (0x3000 + c) 7 ≠ 0) then s
      else batchNow c id n (formBatch s c id)

/-- BATCH_WAIT_EXPIRY: the oldest queued request has waited the batch wait limit. -/
def execBatchWaitExpiry (c : Fin 32) (job : Nat) (s : State) : Out :=
  .next (if powered s then formBatch s c.val job else s)

/-- A serving request judged, read from the host and queued (R269, R314). -/
def acceptRequest (s : State) (c : Nat) (j : Job) (d : Desc) (t : Ticket) : State :=
  let rows := bytesAt d 16 2
  let n := rows * bytesAt d 20 4
  if blockRows s c < rows then done s t 0x42
  else if rows = 0 then done s t 1
  else match hostRead s (bytesAt d 32 8) n with
    | none => done s t 6
    | some b =>
      let q : ServReq := ⟨rows, bytesAt d 20 4, bytesAt d 24 4, b, bytesAt d 40 8, clock s, t⟩
      batchNow c j.id (j.reqs.length + 1) (modJob s c j.id (fun j => { j with reqs := j.reqs ++ [q] }))

/-- REQUEST. -/
def execRequest (f : Fin 33) (ring : Nat) (d : Desc) (s : State) : Out :=
  .next (withDescriptor s f ring d 3 3 5 (fun s c t =>
    if !descZero d 18 19 || !descZero d 28 31 || !descZero d 48 63 then done s t 1
    else match lookJob s c d (fun x => x = 1) with
      | .inr x => done s t x
      | .inl j => acceptRequest s c j d t))

/-! ### CLOSE -/

/-- A job closed now, or at the end of its running step (R270). -/
def closeOne (s : State) (c : Nat) (j : Job) (t : Ticket) : State :=
  let s1 := modJob s c j.id (fun j => { j with closing := some t })
  if (croft? s c).any (fun k => jobRuns k j.id) then s1 else endJobDone s1 c j.id

/-- CLOSE. -/
def execCloseJob (f : Fin 33) (ring : Nat) (d : Desc) (s : State) : Out :=
  .next (withDescriptor s f ring d 4 3 5 (fun s c t =>
    if !descZero d 16 63 then done s t 1
    else match lookJob s c d (fun x => x < 2) with
      | .inr x => done s t x
      | .inl j => if j.closing.isSome then done s t 0x41 else closeOne s c j t))

/-! ### CANCEL -/

/-- The place of a job's queued step that a cancel reaches: the step it names, whose attempt is the cancelled one or an earlier one (R277). -/
def cancelQueued (k : Croft) (j : Job) (step attempt : Nat) : Option Nat :=
  let first := if jobRuns k j.id then j.published + 1 else j.published
  match j.steps[step - first]? with
  | some q => if first ≤ step && q.attempt ≤ attempt then some (step - first) else none
  | none => none

/-- The frames of a cancelled attempt that wait in the receive buffers discarded, their credits owed (R278). -/
def dropHeld (s : State) (tag step attempt : Nat) : State :=
  (List.range 8).foldl (fun s p => ((portOf s p).held.filter (fun b =>
      frTag b = tag && frStep b = step && frAttempt b = attempt && frType b < 0x0A)).foldl (fun s b =>
    discardFrame (putPort s p { portOf s p with held := (portOf s p).held.erase b }) p b) s) s

/-- A cancel's effect on its job: the running attempt aborted with a fault record in the event ring, a queued one started later with the next attempt, one still to come remembered (R277). -/
def cancelEffect (s : State) (p c : Nat) (j : Job) (b : List Byte) : State :=
  match croft? s c with
  | none => s
  | some k =>
    let t := jobTurn k j
    if t.2.2 && frStep b = t.1 && frAttempt b = t.2.1 then
      if k.run.any (fun r => r.orHeld.isSome || r.orResult.isSome) then s
      else croftEvent (abortOwn true s c) c 1 (faultRecord 0x58 0xFF 0 (8 * hostCluster k 0) c 0 j.id (frStep b) 0 0)
    else if t.2.2 && frStep b = t.1 && t.2.1 < frAttempt b then holdFrame s p b
    else match cancelQueued k j (frStep b) (frAttempt b) with
      | some i => raiseAttempt s c j.id i (frAttempt b + 1)
      | none => if j.published + (if t.2.2 then 1 else 0) + j.steps.length ≤ frStep b then holdFrame s p b else s

/-- A cancel received: the attempt's frames discarded, its credits sent back at once in one message (R277, R278). -/
def cancelFrame (s : State) (p : Nat) (b : List Byte) : State :=
  let s1 := dropHeld s (frTag b) (frStep b) (frAttempt b)
  let s2 := match frameJob s1 b with
    | some (c, j, _) => cancelEffect s1 p c j b
    | none => s1
  sendCredits (oweCredits s2 p b) p (frTag b) (frStep b) (frAttempt b)

/-- CANCEL. -/
def execCancel (p : Fin 8) (frame : List Byte) (s : State) : Out :=
  .next (withFrame s p.val frame 0x10 (fun s => cancelFrame s p.val frame))

/-- The cancels remembered for the step a job starts now: each raises its attempt. -/
def takeCancels (s : State) (c id : Nat) : State :=
  (List.range 8).foldl (fun s p => ((portOf s p).held.filter (fun b => frType b = 0x10)).foldl (fun s b =>
    match frameJob s b, croft? s c with
    | some (c', j, _), some k =>
      if c' ≠ c || j.id ≠ id then s
      else match cancelQueued k j (frStep b) (frAttempt b) with
        | some i => raiseAttempt (putPort s p { portOf s p with held := (portOf s p).held.erase b }) c id i (frAttempt b + 1)
        | none => s
    | _, _ => s) s) s

end Sys2Proof.Machine
end

