-- ==== Sys2Proof/Machine/SearchFn.lean ====
section
/-! DEFINITION. What a search batch computes: predicates, tables, code scores, sweep, walk, scan, rerank, summary (R184 to R200). -/

namespace Sys2Proof.Machine

/-! ### The batch record (R184) -/

def qbSet (b : List Byte) : Nat := leAt b 6 2
def qbMode (b : List Byte) : Nat := leAt b 8 1
def qbFlag (b : List Byte) (i : Nat) : Bool := leAt b 9 1 / 2 ^ i % 2 = 1
def qbQ (b : List Byte) : Nat := leAt b 10 2
def qbK (b : List Byte) : Nat := leAt b 12 4
def qbDepth (b : List Byte) : Nat := leAt b 16 4
def qbBeam (b : List Byte) : Nat := leAt b 20 2
def qbHops (b : List Byte) : Nat := leAt b 24 4
def qbVisits (b : List Byte) : Nat := leAt b 28 4
def qbEpoch (b : List Byte) : Nat := leAt b 32 8
def qbFirst (b : List Byte) : Nat := leAt b 40 8
def qbCount (b : List Byte) : Nat := leAt b 48 8

/-- Whether the table of the record's fixed fields is kept. -/
def qbTableOk (b : List Byte) : Bool :=
  512 ≤ b.length && leAt b 0 4 = 0x42515744 && leAt b 4 2 = 1 && qbMode b ≤ 2 && leAt b 9 1 < 16 && zerosAt b 22 23 &&
  zerosAt b 56 127 && zerosAt b 400 511

/-- First byte of the query vectors, of the thresholds, and the bytes a record needs. -/
def qbVectors (b : List Byte) (h : SetHdr) : Nat := 512 + (if qbFlag b 1 then 64 * qbQ b * h.subs else 0)
def qbThetas (b : List Byte) (h : SetHdr) : Nat :=
  qbVectors b h + (if !qbFlag b 1 || qbFlag b 0 then 4 * h.dims * qbQ b else 0)
def qbNeed (b : List Byte) (h : SetHdr) : Nat := qbThetas b h + (if qbFlag b 3 then 4 * qbQ b else 0)

/-- Whether the limits of the batch's mode are kept on a set of high water `hw` (R184); before full service the rerank flag asks for nothing (R198), though the record keeps the layout it gives (DEDUCED: the flag is ignored as a request, and the queries lie where R184 puts them). -/
def qbLimitsOk (b : List Byte) (h : SetHdr) (hw : Nat) (coarse : Bool) : Bool :=
  let q := qbQ b
  let k := qbK b
  (match qbMode b with
   | 0 => 1 ≤ q && q ≤ 256 / h.chunks && 1 ≤ k && k ≤ 1048576
   | 1 => 1 ≤ q && q ≤ 4096 && 1 ≤ k && k ≤ qbBeam b && 1 ≤ qbBeam b && qbBeam b ≤ 1024 && h.nodes && 1 ≤ h.dmax &&
      h.entries.any (fun e => e < hw)
   | _ => 1 ≤ q && q ≤ 64 && 1 ≤ k && k ≤ 4096 && h.nodes) &&
  (!qbFlag b 3 || qbMode b = 2) && (qbFlag b 1 || h.dims ≠ 0) &&
  (!qbFlag b 0 || coarse || (h.fp ≠ 0 && k ≤ qbDepth b && qbDepth b ≤ 65536)) && qbNeed b h ≤ b.length

/-! ### Predicates (R187) -/

/-- A term of a predicate. -/
structure Term where
  word : Nat
  op : Nat
  neg : Bool
  group : Nat
  mask : Nat
  a : Nat
  b : Nat
  deriving DecidableEq, Repr

/-- A term from its 16 bytes. -/
def termOf (b : List Byte) : Term :=
  ⟨leAt b 0 1 % 8, leAt b 1 1 % 16, leAt b 1 1 / 16 % 2 = 1, leAt b 2 1 % 16, leAt b 4 4, leAt b 8 4, leAt b 12 4⟩

/-- Whether a term's bytes are valid for a set of so many attribute words. -/
def termOk (words : Nat) (b : List Byte) : Bool :=
  let t := termOf b
  leAt b 0 1 < 8 && leAt b 1 1 < 32 && leAt b 2 1 < 16 && leAt b 3 1 = 0 && t.word < words && t.op ≤ 5 &&
  ((t.op ≠ 2 && t.op ≠ 3) || t.mask = 0xFFFFFFFF) && (t.op ≠ 3 || (x32 t.a ≠ .nan && x32 t.b ≠ .nan))

/-- A predicate's terms, none where it is invalid. -/
def predTerms (words : Nat) (b : List Byte) : Option (List Term) :=
  let n := leAt b 0 1
  let parts := (List.range (min n 16)).map (fun t => sub b (16 + 16 * t) 16)
  if n ≤ 16 && zerosAt b 1 15 && (n = 16 || zerosAt b (16 + 16 * n) 271) && parts.all (termOk words) then some (parts.map termOf) else none

/-- Whether a term's condition holds of an attribute word. -/
def termCond (t : Term) (w : Nat) : Bool :=
  match t.op with
  | 0 => w &&& t.mask = t.a
  | 1 => t.a ≤ w &&& t.mask && w &&& t.mask ≤ t.b
  | 2 => signed 32 t.a ≤ signed 32 w && signed 32 w ≤ signed 32 t.b
  | 3 => x32 w ≠ .nan && !xLt (x32 w) (x32 t.a) && !xLt (x32 t.b) (x32 w)
  | 4 => w &&& t.mask ≠ 0
  | _ => w &&& t.mask = t.mask

/-- Whether a record with these attribute bytes passes. -/
def predPass (ts : List Term) (attrs : List Byte) : Bool :=
  ts.all (fun t => (ts.filter (fun u => u.group = t.group)).any (fun u => termCond u (leAt attrs (4 * u.word) 4) != u.neg))

/-! ### Poison of a set's bytes -/

/-- Whether bytes of a sheaf of a set carry the mark. -/
def imgMark (m : FMap Sheaf) (n off k : Nat) : Bool :=
  let sh := imgSheaf m n
  k ≠ 0 && (tagPoison sh.tag || sh.marks.any (fun u => off < 32 * u + 32 && 32 * u < off + k))

/-- Marks of a record's code loads, attributes, ID, tombstone word and full-precision bytes. -/
def markCode (h : SetHdr) (m : FMap Sheaf) (n : Nat) : Bool :=
  imgMark m (h.codeSh + n / h.codePer) (512 * ((n / 32 % h.groups) * h.chunks)) (512 * h.chunks)
def markAttr (h : SetHdr) (m : FMap Sheaf) (n : Nat) : Bool :=
  imgMark m (h.attrSh + n / (32768 / h.attr)) (n % (32768 / h.attr) * h.attr) h.attr
def markId (h : SetHdr) (m : FMap Sheaf) (n : Nat) : Bool := imgMark m (h.idSh + n / 4096) (n % 4096 * 8) 8
def markTomb (h : SetHdr) (m : FMap Sheaf) (n : Nat) : Bool := imgMark m (h.tombSh + n / 262144) (n % 262144 / 8) 1
def markFp (h : SetHdr) (m : FMap Sheaf) (n : Nat) : Bool :=
  imgMark m (h.fpSh + n / (32768 / h.fpRec)) (n % (32768 / h.fpRec) * h.fpRec) h.fpRec

/-- Marks of parts of a node record: offset in it and length. -/
def markNode (h : SetHdr) (m : FMap Sheaf) (n off k : Nat) : Bool := imgMark m (nodeAt h n).1 ((nodeAt h n).2 + off) k

/-! ### Tables and code scores (R186, R189) -/

/-- The PT22 entries of one table: 16 centroids. -/
abbrev Tab := List XV

/-- FP32 element of the record at a byte offset. -/
def qbF32 (b : List Byte) (off : Nat) : XV := x32 (leAt b off 4)

/-- A centroid value of the codebook column. -/
def centroid (h : SetHdr) (m : FMap Sheaf) (s v i : Nat) : XV :=
  let off := ((16 * s + v) * (h.dims / h.subs) + i) * 2
  decodeF bf16 (leNat (imgBytes m (h.cbSh + off / 32768) (off % 32768) 2))

/-- A distance or product over dimension lists, in the row order of a level. -/
def metricSum (inner : Bool) (level : Nat) (q x : List XV) (rev : Bool) : FRes :=
  if inner then rowDot level (x.zip q)
  else
    let e := (q.zip x).map (fun p => x32 (if rev then vaAdd p.2 (xNeg p.1) else vaAdd p.1 (xNeg p.2)).bits)
    rowDot level (e.zip e)

/-- One table entry T_m[s][v], rounded to PT22. -/
def tabEntry (h : SetHdr) (m : FMap Sheaf) (b : List Byte) (level mq s v : Nat) : XV :=
  if qbFlag b 1 then (roundPT (qbF32 b (512 + 4 * (16 * (mq * h.subs + s) + v)))).1
  else
    let l := h.dims / h.subs
    let q := (List.range l).map (fun i => qbF32 b (512 + 4 * (h.dims * mq + s * l + i)))
    let c := (List.range l).map (fun i => centroid h m s v i)
    (roundPT (x32 (metricSum h.inner level q c false).bits)).1

/-- The tables of one query. -/
def queryTabs (h : SetHdr) (m : FMap Sheaf) (b : List Byte) (level mq : Nat) : List Tab :=
  (List.range h.subs).map (fun s => (List.range 16).map (fun v => tabEntry h m b level mq s v))

/-- Whether the tables are poisoned: a codebook byte carries the mark (R200, R374). -/
def tabsMarked (h : SetHdr) (m : FMap Sheaf) (b : List Byte) : Bool :=
  !qbFlag b 1 && (List.range ((32 * h.dims + 32767) / 32768)).any (fun i => imgMark m (h.cbSh + i) 0 (min 32768 (32 * h.dims - 32768 * i)))

/-- The score of codes over the first `chunks` chunks: a table-mode chain from -0 (R189). -/
def codeScore (tabs : List Tab) (codes : List Nat) (chunks : Nat) : Nat :=
  (List.range chunks).foldl (fun a j =>
    (accFP32 a (colSum true ((List.range 32).map (fun r =>
      ((tabs.getD (32 * j + r) []).getD (codes.getD (32 * j + r) 0) (.zero false))))) none).bits) 0x80000000

/-- The codes of a record of the code column. -/
def codesOf (h : SetHdr) (m : FMap Sheaf) (n : Nat) : List Nat := (List.range h.subs).map (fun x => imgCode h m n x)

/-- The codes of a node record. -/
def nodeCodes (h : SetHdr) (rec_ : List Byte) : List Nat :=
  (List.range h.subs).map (fun x => let b := leAt rec_ (16 + h.attr + x / 2) 1; if x % 2 = 0 then b % 16 else b / 16)

/-! ### Counts and offers -/

/-- What a batch counts (R199, R201). -/
structure SCount where
  scored : Nat
  masked : Nat
  tomb : Nat
  reads : Nat
  savings : Nat
  skipped : Nat
  hops : Nat
  bread : Nat
  bpass : Nat
  idLo : Nat
  idHi : Nat
  deriving DecidableEq, Repr

/-- Nothing counted. -/
def countZero : SCount := ⟨0, 0, 0, 0, 0, 0, 0, 0, 0, 0, 0⟩

/-- An offer whose ID is read only where R191 reads it: an unread ID's mark does not count. -/
def offerRec (l : WList) (score id : Nat) (sm im : Bool) : WList :=
  let out : Bool := l.held.length = l.k && (lastHeld l).any (fun x => scoreAfter l.top score x.score.toNat)
  offer l ⟨BitVec.ofNat 32 score, BitVec.ofNat 64 id, sm || (im && !out)⟩

/-- The lists of a batch before any offer: direction and k of the first selection, spilled ones flagged (R215). -/
def batchLists (h : SetHdr) (q k : Nat) : List WList :=
  let sp := spilledLists [⟨0, q, k, h.inner, false, false, false, 0, 0, 0, 0⟩]
  (List.range q).map (fun m => { wlistEmpty k h.inner with spilled := sp.contains m })

/-! ### Sweep (R188 to R191) -/

/-- The end of the batch's ordinal range. -/
def rangeEnd (b : List Byte) (hw : Nat) : Nat := if qbCount b = 0 then hw else qbFirst b + qbCount b

/-- The virtual cluster that sweeps code sheaf `i` of `n`. -/
def sweepCluster (i n : Nat) : Nat := (64 * (i + 1) + n - 1) / n - 1

/-- How a record of the columns is masked: 0 not, 2 tombstoned, 3 by the predicate (R188, R200). -/
def maskOf (h : SetHdr) (m : FMap Sheaf) (ts : List Term) (n : Nat) : Nat :=
  if imgTomb h m n && !markTomb h m n then 2
  else if !ts.isEmpty && !markAttr h m n && !predPass ts (imgAttr h m n) then 3
  else 0

/-- Ordinals of the batch's range that are written, with their masks. -/
def sweepMasks (h : SetHdr) (m : FMap Sheaf) (ts : List Term) (b : List Byte) (hw : Nat) : List (Nat × Nat) :=
  let lo := qbFirst b
  (List.range (min (rangeEnd b hw) hw - lo)).map (fun i => (lo + i, maskOf h m ts (lo + i)))

/-- A sweep: one list per query and virtual cluster, merged per query; its counts, per vector. The ID of a vector not strictly after the last k-th score of some query's copy is read in every order of arrival, any other one's in some (R191, R199). -/
def sweep (h : SetHdr) (m : FMap Sheaf) (ts : List Term) (b : List Byte) (level hw k : Nat) : List WList × SCount :=
  let per := h.codePer
  let lo := qbFirst b
  let hi := rangeEnd b hw
  let fs := lo / per
  let n := if lo < hi then (hi - 1) / per + 1 - fs else 0
  let ms := sweepMasks h m ts b hw
  let live := (ms.filter (fun x => x.2 = 0)).map (·.1)
  let read := (live.foldl (fun l x => setIns l (x / per)) ([] : List Nat)).length
  let tm := tabsMarked h m b
  let offers := live.map (fun x => (sweepCluster (x / per - fs) n / 8, x, codesOf h m x, imgId h m x,
    tm || markCode h m x || markTomb h m x || (!ts.isEmpty && markAttr h m x), markId h m x))
  let lists := (batchLists h (qbQ b) k).zipIdx.map (fun e =>
    let tabs := queryTabs h m b level e.2
    let copies := (List.range 8).map (fun c => (offers.filter (fun o => o.1 = c)).foldl (fun l o =>
      offerRec l (codeScore tabs o.2.2.1 h.chunks) o.2.2.2.1 o.2.2.2.2.1 o.2.2.2.2.2) e.1)
    (copies, { mergeLists k h.inner copies with spilled := e.1.spilled }))
  let near (x : Nat × Nat × List Nat × Nat × Bool × Bool) : Bool := lists.zipIdx.any (fun l =>
    (l.1.1[x.1]?).any (fun c => c.held.length < c.k || !((lastHeld c).any (fun t =>
      scoreAfter h.inner (codeScore (queryTabs h m b level l.2) x.2.2.1 h.chunks) t.score.toNat))))
  (lists.map (·.2), { countZero with
    scored := live.length, masked := (ms.filter (fun x => x.2 = 3)).length, tomb := (ms.filter (fun x => x.2 = 2)).length
    reads := read, savings := n - read, skipped := n - read
    idLo := (offers.filter near).length, idHi := offers.length })

/-! ### Walk (R194) -/

/-- A beam entry: score bits, ordinal, expanded. -/
structure BeamE where
  score : Nat
  node : Nat
  expanded : Bool
  deriving DecidableEq, Repr

/-- A walk under way. -/
structure Walk where
  beam : List BeamE
  visited : List Nat
  list : WList
  count : SCount
  waits : Nat
  visitLimit : Bool
  hopLimit : Bool
  stop : Bool
  deriving DecidableEq, Repr

/-- What a walk works with. -/
structure WalkEnv where
  h : SetHdr
  m : FMap Sheaf
  ts : List Term
  tabs : List Tab
  tm : Bool
  strict : Bool
  width : Nat
  visits : Nat
  hw : Nat

/-- Beam order: by score in the metric's direction, then by ordinal. -/
def beamBefore (top : Bool) (a b : BeamE) : Bool :=
  scoreAfter top b.score a.score || (rankEq a.score b.score && a.node < b.node)

/-- A beam with an entry in order. -/
def beamInsert (top : Bool) (e : BeamE) : List BeamE → List BeamE
  | [] => [e]
  | f :: r => if beamBefore top e f then e :: f :: r else f :: beamInsert top e r

/-- A visit of a node. -/
def walkVisit (e : WalkEnv) (w : Walk) (n : Nat) : Walk :=
  if w.stop then w
  else if e.visits ≤ w.visited.length then { w with stop := true, visitLimit := true }
  else
    let h := e.h
    let rec_ := imgNode h e.m n
    let score := codeScore e.tabs (nodeCodes h rec_) h.chunks
    let dead := imgTomb h e.m n && !markTomb h e.m n
    let am := !e.ts.isEmpty && markNode h e.m n 16 h.attr
    let pass := e.ts.isEmpty || am || predPass e.ts (sub rec_ 16 h.attr)
    let sm := e.tm || am || markTomb h e.m n || markNode h e.m n (16 + h.attr) (h.subs / 2)
    let count := { w.count with scored := w.count.scored + 1, tomb := w.count.tomb + (if dead then 1 else 0)
                                masked := w.count.masked + (if !dead && !pass then 1 else 0) }
    let list := if !dead && pass then offerRec w.list score (leAt rec_ 0 8) sm (markNode h e.m n 0 8) else w.list
    let w1 := { w with visited := w.visited ++ [n], count := count, list := list }
    if (e.strict && dead) || x32 score = .nan then w1
    else
      let x : BeamE := ⟨score, n, false⟩
      if w.beam.length < e.width || (w.beam.getLast?).any (fun y => beamBefore h.inner x y) then
        { w1 with beam := (beamInsert h.inner x w.beam).take e.width }
      else w1

/-- Distinct elements in order. -/
def distinct (l : List Nat) : List Nat := l.foldl (fun a x => if a.contains x then a else a ++ [x]) []

/-- The hops of a walk, at most `n` more. -/
def walkHops (e : WalkEnv) : Nat → Walk → Walk
  | 0, w => if w.stop then w else { w with hopLimit := true }
  | n + 1, w =>
    if w.stop then w
    else match w.beam.find? (fun x => !x.expanded) with
      | none => w
      | some u =>
        let nb := nodeNeighbours e.h (imgNode e.h e.m u.node)
        let new := distinct (nb.filter (fun x => x < e.hw && !w.visited.contains x))
        let w1 := { w with
          beam := w.beam.map (fun x => if x.node = u.node then { x with expanded := true } else x)
          waits := w.waits + 2
          count := { w.count with hops := w.count.hops + 1, reads := w.count.reads + 1 + new.length } }
        walkHops e n (new.foldl (walkVisit e) w1)

/-- A whole walk of one query. -/
def walkQuery (e : WalkEnv) (hops : Nat) (list : WList) : Walk :=
  let es := distinct (e.h.entries.filter (fun x => x < e.hw))
  let w0 : Walk := ⟨[], [], list, { countZero with reads := es.length }, 1, false, false, false⟩
  walkHops e hops (es.foldl (walkVisit e) w0)

/-- The walks of a batch. -/
def walkAll (h : SetHdr) (m : FMap Sheaf) (ts : List Term) (b : List Byte) (level hw k : Nat) : List Walk :=
  (batchLists h (qbQ b) k).zipIdx.map (fun l =>
    walkQuery ⟨h, m, ts, queryTabs h m b level l.2, tabsMarked h m b, qbFlag b 2, qbBeam b, qbVisits b, hw⟩ (qbHops b) l.1)

/-- The counts of several walks together: savings are the nodes expanded. -/
def walkCount (ws : List Walk) : SCount :=
  let sum (f : SCount → Nat) : Nat := (ws.map (fun w => f w.count)).sum
  { countZero with scored := sum (·.scored), masked := sum (·.masked), tomb := sum (·.tomb), reads := sum (·.reads)
                   savings := sum (·.hops), hops := sum (·.hops) }

/-! ### Scan (R196 to R198) -/

/-- Whether a coarse score is no worse than a threshold. -/
def noWorse (inner : Bool) (score theta : Nat) : Bool :=
  let a := x32 score
  let t := x32 theta
  if inner then xLt t a || xEq a t else xLt a t || xEq a t

/-- What the bridge and the controller make of one node record: its mask code (0 scored, 2 tombstoned, 3 predicate, 4 held back), whether it was forwarded, and the queries it passes for. -/
def bridgeOf (h : SetHdr) (m : FMap Sheaf) (ts : List Term) (b : List Byte) (tabs : List (List Tab)) (n : Nat) : Nat × Bool × List Nat :=
  let rec_ := imgNode h m n
  let am := !ts.isEmpty && markNode h m n 16 h.attr
  let pass := ts.isEmpty || am || predPass ts (sub rec_ 16 h.attr)
  let codes := nodeCodes h rec_
  let qs := (List.range (qbQ b)).filter (fun q =>
    !qbFlag b 3 || noWorse h.inner (codeScore (tabs.getD q []) codes 1) (leAt b (qbThetas b h + 4 * q) 4))
  let dead := imgTomb h m n && !markTomb h m n
  (if dead then 2 else if !pass then 3 else if qs.isEmpty then 4 else 0, pass && !qs.isEmpty, qs)

/-- A scan: full or coarse scores. -/
def scan (h : SetHdr) (m : FMap Sheaf) (ts : List Term) (b : List Byte) (level hw k : Nat) (coarse : Bool) : List WList × SCount :=
  let lo := qbFirst b
  let ns := (List.range (min (rangeEnd b hw) hw - lo)).map (fun i => lo + i)
  let tabs := (List.range (qbQ b)).map (fun q => queryTabs h m b level q)
  let rs := ns.map (fun n => (n, bridgeOf h m ts b tabs n))
  let tm := tabsMarked h m b
  let lists := (batchLists h (qbQ b) k).zipIdx.map (fun l =>
    (rs.filter (fun r => r.2.1 = 0 && r.2.2.2.contains l.2)).foldl (fun x r =>
      let rec_ := imgNode h m r.1
      let sm := tm || (!ts.isEmpty && markNode h m r.1 16 h.attr) || markTomb h m r.1 || markNode h m r.1 (16 + h.attr) (h.subs / 2)
      offerRec x (codeScore (tabs.getD l.2 []) (nodeCodes h rec_) (if coarse then 1 else h.chunks)) (leAt rec_ 0 8) sm
        (markNode h m r.1 0 8)) l.1)
  let cnt (c : Nat) : Nat := (rs.filter (fun r => r.2.1 = c)).length
  (lists, { countZero with scored := cnt 0, tomb := cnt 2, masked := cnt 3, savings := cnt 4, reads := ns.length
                           bread := ns.length, bpass := (rs.filter (fun r => r.2.2.1)).length })

/-! ### Rerank (R193) -/

/-- The full-precision values of a record, widened exactly. -/
def fpVals (h : SetHdr) (m : FMap Sheaf) (n : Nat) : List XV :=
  let bs := imgFp h m n
  (List.range h.dims).map (fun i => decodeF (if h.fp = 2 then bf16 else e4m3) (leAt bs (h.fpBytes * i) h.fpBytes))

/-- Whether a search counts an ordinal live: not tombstoned, or under a poisoned tombstone word (R200). -/
def countsLive (h : SetHdr) (m : FMap Sheaf) (hw n : Nat) : Bool := n < hw && (!imgTomb h m n || markTomb h m n)

/-- The ordinal of a survivor: of its ID, and where a poisoned tombstone word leaves two, the one its code score came from. -/
def survivorOf (h : SetHdr) (m : FMap Sheaf) (hw : Nat) (tabs : List Tab) (e : WEntry) : Option Nat :=
  let same := (List.range hw).filter (fun n => imgId h m n = e.id.toNat && countsLive h m hw n)
  match same.find? (fun n => codeScore tabs (codesOf h m n) h.chunks = e.score.toNat) with
  | some n => some n
  | none => same.head?

/-- The survivors of one query scored again, each with the mark it had and those of what is read now (R193, R200). -/
def rerank (h : SetHdr) (m : FMap Sheaf) (b : List Byte) (level hw q : Nat) (l : WList) : WList :=
  let qv := (List.range h.dims).map (fun i => qbF32 b (qbVectors b h + 4 * (h.dims * q + i)))
  let tabs := queryTabs h m b level q
  l.held.foldl (fun x e =>
    match survivorOf h m hw tabs e with
    | none => x
    | some n => offer x ⟨BitVec.ofNat 32 (metricSum h.inner level qv (fpVals h m n) true).bits, e.id, e.marked || markFp h m n || markId h m n⟩)
    { wlistEmpty (qbK b) h.inner with spilled := l.spilled }

/-! ### The result -/

/-- What a batch gives: its lists, counts, and the limit flags of its walks. -/
structure SResult where
  lists : List WList
  offers : List WList
  count : SCount
  reranked : Bool
  coarse : Bool
  visitLimit : Bool
  hopLimit : Bool
  deriving DecidableEq, Repr

/-- The k of the first selection. -/
def qbFirstK (b : List Byte) (coarse : Bool) : Nat := if qbFlag b 0 && !coarse then qbDepth b else qbK b

/-- A batch run over the sheaves of its set. -/
def runBatch (h : SetHdr) (m : FMap Sheaf) (ts : List Term) (b : List Byte) (level hw : Nat) (coarse : Bool) : SResult :=
  let k := qbFirstK b coarse
  let first : List WList × SCount × Bool × Bool := match qbMode b with
    | 0 => let r := sweep h m ts b level hw k; (r.1, r.2, false, false)
    | 1 => let ws := walkAll h m ts b level hw k
      (ws.map (·.list), walkCount ws, ws.any (·.visitLimit), ws.any (·.hopLimit))
    | _ => let r := scan h m ts b level hw k coarse; (r.1, r.2, false, false)
  let again : Bool := qbFlag b 0 && !coarse
  let lists := if again then first.1.zipIdx.map (fun l => rerank h m b level hw l.2 l.1) else first.1
  ⟨lists, if again then first.1 ++ lists else lists, first.2.1, again, coarse, first.2.2.1, first.2.2.2⟩

/-- Output lists of a batch, each 64 bytes and k entries. -/
def batchRecords (r : SResult) : List (List Byte) := r.lists.map (fun l => listRecord l r.reranked r.coarse)

/-- The summary record (R199). -/
def summaryBytes (status mode flags q epoch : Nat) (c : SCount) (ids : Nat) : List Byte :=
  [BitVec.ofNat 8 status, BitVec.ofNat 8 mode, BitVec.ofNat 8 flags, 0] ++ leBytes 2 q ++ [0, 0] ++ leBytes 8 epoch ++
  leBytes 8 c.scored ++ leBytes 8 c.masked ++ leBytes 8 c.tomb ++ leBytes 8 ids ++ leBytes 8 c.reads ++ leBytes 8 c.savings

/-- Whether any list carries a poisoned entry or sum. -/
def batchPoisoned (r : SResult) : Bool := r.lists.any (fun l => l.leftMarked || l.held.any (·.marked))

/-- The flags of a batch's summary. -/
def batchFlags (r : SResult) : Nat :=
  (if r.reranked then 1 else 0) + (if r.coarse then 2 else 0) + (if batchPoisoned r then 4 else 0) +
  (if r.visitLimit then 8 else 0) + (if r.hopLimit then 16 else 0) + (if r.lists.any (fun l => l.held.length < l.k) then 32 else 0)

end Sys2Proof.Machine
end

