-- ==== Sys2Proof/Machine/SearchOps.lean ====
section
/-! DEFINITION. Search batches and compactions as jobs of a croft: acceptance, start, reads returned, end (R183 to R185, R195, R198 to R201, R216, R217, R246, R247, R266). -/

namespace Sys2Proof.Machine

/-! ### Jobs the module opens (R266) -/

/-- The record of a job the module opens. -/
def moduleJob (id kind prio level : Nat) : Job :=
  { id := id, fn := 0xFE, kind := kind, image := 0, bset := 0, bound := none, prio := prio, tally := false, sign := false, slots := 0, tbuf := 0
    train := none, group := none, checked := [], wset := [], sems := [], published := 0, bellOff := 0, level := level
    steps := [], reqs := [], holdReq := none, faulted := false, closing := none, nextIssued := [] }

/-- The level of built-in work: the croft level, or the ceiling, whichever is lower (R246, R247). -/
def builtinLevel (s : State) (c : Nat) : Nat :=
  let ceil := if ceilingOf s c = 0 then 2 else ceilingOf s c
  let own := odGet s (0x3620 + c) 1
  if own = 0 then ceil else min own ceil

/-- Whether a croft has, or has room for, the open job of a kind the module opens: 256 open jobs at most (R266). -/
def ownRoom (k : Croft) (kind : Nat) : Bool := (openJobs k).any (fun j => j.kind = kind) || (openJobs k).length < 256

/-- The croft's open job of a kind the module opens, opened and counted on first use, at a priority and the level of built-in work now. -/
def ownJob (s : State) (c kind prio : Nat) : Nat × State :=
  match ((croft? s c).map openJobs).bind (fun l => l.find? (fun j => j.kind = kind)) with
  | some j => (j.id, modJob s c j.id (fun j => { j with prio := prio, level := builtinLevel s c }))
  | none =>
    let j := moduleJob s.nextJob kind prio (builtinLevel s c)
    (j.id, bump (modCroft { s with nextJob := s.nextJob + 1 } c (fun k => { k with jobs := mapSet k.jobs j.id j })) (0xA380 + c) 1 1)

/-- A step of a job the module opens. -/
def ownStep (kind : StepKind) (t : Option Ticket) : QStep :=
  { kind := kind, ticket := t, entry := 0, r := 0, q := 0, selBind := 0xFFFFFFFF, selOff := 0, launch := none, reached := none
    late := none, unsync := false, ready := none, attempt := 0, began := false, reqs := [] }

/-! ### Acceptance of a batch (R184, R185, R198) -/

/-- A batch's record with the croft defaults in place of zeros and its epoch fixed (R184, R185). -/
def fillRecord (s : State) (c e : Nat) (b : List Byte) : List Byte :=
  let d := fun (x sub : Nat) => if x = 0 then odGet s (0x3580 + c) sub else x
  patch (patch (patch (patch b 20 (leBytes 2 (d (qbBeam b) 2))) 24 (leBytes 4 (d (qbHops b) 3))) 28 (leBytes 4 (d (qbVisits b) 4)))
    32 (leBytes 8 e)

/-- A batch not run: its summary written where there is room, its completion with 0x20 plus the summary status (R199, R314). -/
def batchFails (s : State) (t : Ticket) (b : List Byte) (out len status epoch detail : Nat) : State :=
  let s1 := if 64 ≤ len && hostWritable s out 64 then
      hostWrite s out (summaryBytes status (qbMode b) 0 (qbQ b) epoch countZero 0) else s
  complete s1 t (0x20 + status) 0 detail epoch 0 none

/-- Bytes of a batch's output: its lists, then the summary. -/
def batchOut (b : List Byte) : Nat := qbQ b * listSlot (qbK b) + 64

/-- A batch's set in its epoch: header, sheaves, high water. -/
def batchSet (s : State) (r : SearchReq) : Option (SetHdr × FMap Sheaf × Nat) :=
  (findSet s r.objs (qbSet r.record)).map (fun x => let m := objImg s x.2; (imgHdr m, m, x.2.hw))

/-- A batch that keeps every rule queued on the croft's search job. -/
def queueBatch (s : State) (c : Nat) (t : Ticket) (r : SearchReq) : State :=
  let j := ownJob s c 2 (odGet s (0x3000 + c) 0x0A)
  queueStep j.2 c j.1 (ownStep (.search r) (some t))

/-- A batch judged at fetch: stage, epoch, set, table and limits, predicate, output length. -/
def acceptBatch (s : State) (c : Nat) (k : Croft) (t : Ticket) (b0 : List Byte) (out len : Nat) : State :=
  let early : Bool := s.power.stage < 3
  let coarseOk : Bool := qbMode b0 = 2 && qbFlag b0 1 && (qbEpoch b0 = epochLatest || qbEpoch b0 = k.store.epoch) && qbK b0 ≤ 256
  if early && !coarseOk then batchFails s t b0 out len 5 0 s.power.stage
  else if !qbTableOk b0 then batchFails s t b0 out len 3 0 0
  else match epochMap k.store (qbEpoch b0) with
    | none => batchFails s t b0 out len 2 (qbEpoch b0) 0
    | some (e, m) =>
      let b := fillRecord s c e b0
      let r : SearchReq := ⟨b, e, m, out, len, early⟩
      match batchSet s r with
      | none => batchFails s t b out len 1 e 0
      | some (h, _, hw) =>
        if !qbLimitsOk b h hw early then batchFails s t b out len 3 e 0
        else if (predTerms (h.attr / 4) (sub b 128 272)).isNone then batchFails s t b out len 4 e 0
        else if len < batchOut b then done s t 1
        else if !ownRoom k 2 then done s t 4
        else queueBatch s c t r

/-- SEARCH. -/
def execSearch (f : Fin 33) (ring : Nat) (d : Desc) (s : State) : Out :=
  .next (withDescriptor s f ring d 5 2 0x25 (fun s c t =>
    if !descZero d 40 63 then done s t 1
    else match hostRead s (bytesAt d 16 8) (bytesAt d 24 4), croft? s c with
      | some b, some k => acceptBatch s c k t b (bytesAt d 32 8) (bytesAt d 28 4)
      | none, _ => done s t 6
      | _, none => done s t 3))

/-! ### Running a batch -/

/-- T1 bytes a batch's state takes: spilled lists, and beams and visited sets of a walk (R195, R216). -/
def batchState (b : List Byte) (coarse : Bool) : Nat :=
  let k := qbFirstK b coarse
  let groups : List SelGroup := [⟨0, qbQ b, k, false, false, false, false, 0, 0, 0, 0⟩]
  (spilledLists groups).length * (if qbMode b = 0 then 8 else 1) * spillBytes k +
  (if qbMode b = 1 then qbQ b * (8 * qbBeam b + 8 * qbVisits b) else 0)

/-- The waits of each query of a walk batch; none of other modes (R194, R195). -/
def batchWaits (s : State) (c : Nat) (r : SearchReq) : List Nat :=
  match batchSet s r with
  | some (h, m, hw) =>
    if qbMode r.record = 1 then
      (walkAll h m ((predTerms (h.attr / 4) (sub r.record 128 272)).getD []) r.record (builtinLevel s c) hw (qbFirstK r.record r.coarse)).map (·.waits)
    else []
  | none => []

/-- The IDs a sweep read: any number from those read in every order of arrival to those of all unmasked vectors, a free value (R191). -/
def idsRead (s : State) (n : SCount) : Nat × State :=
  let x := fresh s
  (n.idLo + x.1.toNat % (n.idHi - n.idLo + 1), x.2)

/-- The bytes a batch read from T1, T2 and T3: they depend on timing and grade, each a free value (R242, R280). -/
def batchBytes (s : State) (c : Nat) : State :=
  [9, 0x0A, 0x0C].foldl (fun s sub => let x := fresh s; bump x.2 (0xA380 + c) sub x.1.toNat) s

/-- The search counters of a finished batch: the batch itself only where it completes done (R201). -/
def batchCounters (s : State) (c : Nat) (done : Bool) (n : SCount) (ids : Nat) : State :=
  let b := 0xA300 + c
  bump (bump (bump (bump (bump (bump (bump (bump (bump s b 1 (if done then 1 else 0)) b 2 n.scored) b 3 n.masked) b 4 n.tomb) b 5 ids) b 6 n.skipped) b 7 n.hops)
    b 8 n.bread) b 9 n.bpass

/-- The selection counters of its lists: offers, duplicates and spills of every selection, records and short lists where they are written (R217). -/
def listCounters (s : State) (c : Nat) (written : Bool) (r : SResult) : State :=
  let s1 := bump (countOffers s c (r.offers.map (·.dups)).sum r.offers) (0xA320 + c) 3 (r.lists.filter (·.spilled)).length
  if written then bump (bump s1 (0xA320 + c) 1 r.lists.length) (0xA320 + c) 2 (r.lists.filter (fun l => l.held.length < l.k)).length else s1

/-- A batch finished: lists and summary to the host, counters, completion, the engines free (R199, R201, R217). -/
def endBatch (s : State) (c : Nat) (k : Croft) (run : RunStep) (r : SearchReq) (t : Ticket) : State :=
  match batchSet s r with
  | none => s
  | some (h, m, hw) =>
    let ts := (predTerms (h.attr / 4) (sub r.record 128 272)).getD []
    let res := runBatch h m ts r.record (builtinLevel s c) hw r.coarse
    let ids := idsRead s res.count
    let data := (batchRecords res).flatMap (fun l => sub l 0 (listSlot (qbK r.record))) ++
      summaryBytes 0 (qbMode r.record) (batchFlags res) (qbQ r.record) r.epoch res.count ids.1
    let fl := if batchPoisoned res then 2 else 0
    let s1 := modJob (bump (leaveEngines (batchBytes ids.2 c) c k run) (0xA380 + c) 4 1) c run.job (fun j => { j with published := j.published + 1 })
    let written := hostWritable s r.outAddr data.length
    let s2 := listCounters (batchCounters s1 c written res.count ids.1) c written res
    let s3 := if written then complete (hostWrite s2 r.outAddr data) t 0 fl 0 r.epoch 0 none
      else complete s2 t 6 fl 0 r.epoch 0 none
    afterStep s3 c

/-! ### The Drovers (R195) -/

/-- Contexts of a Drover. -/
def droverContexts : Nat := 4096

/-- The physical cluster whose Drover holds query `m` of a batch of a croft. -/
def walkCluster (k : Croft) (m : Nat) : Nat := hostCluster k (m % 8)

/-- The contexts of a physical cluster's Drover that queries hold. -/
def contextsHeld (s : State) (p : Nat) : List Nat :=
  s.crofts.flatMap (fun c => match c.2.run with
    | some r => r.contexts.zipIdx.filterMap (fun x => if walkCluster c.2 x.2 = p && x.1.waits ≠ 0 then x.1.slot else none)
    | none => [])

/-- The lowest free context of a physical cluster's Drover. -/
def freeContext (s : State) (p : Nat) : Option Nat := (List.range droverContexts).find? (fun i => !(contextsHeld s p).contains i)

/-- Query `m` of a croft given a free context, where it waits for one. -/
def takeContext (s : State) (c m : Nat) : State :=
  match croft? s c with
  | none => s
  | some k =>
    match k.run with
    | none => s
    | some r =>
      match r.contexts[m]?, freeContext s (walkCluster k m) with
      | some x, some i =>
        if x.waits = 0 || x.slot.isSome then s
        else modRun s c (fun r => { r with contexts := r.contexts.set m { x with slot := some i } })
      | _, _ => s

/-- Free contexts given to the queries that wait, in order of acceptance: by the start of their steps, then croft, then query. -/
def giveContexts (s : State) : State :=
  let runs := (s.crofts.filterMap (fun p => p.2.run.map (fun r => (r.start, p.1, r.contexts.length)))).mergeSort
    (fun a b => a.1 < b.1 || (a.1 = b.1 && a.2.1 ≤ b.2.1))
  runs.foldl (fun s x => (List.range x.2.2).foldl (fun s m => takeContext s x.2.1 m) s) s

/-- All reads of a query's present wait returned: its Drover switches to it, the pointer past its context, and a query with no wait left hands its context on. -/
def readsReturned (s : State) (c m : Nat) : State :=
  match runOf s c with
  | none => s
  | some (k, r) =>
    match r.contexts[m]? with
    | some ⟨n + 1, some i⟩ =>
      let s1 := modRun s c (fun r => { r with contexts := r.contexts.set m ⟨n, some i⟩ })
      giveContexts { s1 with droverPtr := mapSet s1.droverPtr (walkCluster k m) ((i + 1) % droverContexts) }
    | _ => s

/-- DROVER_READS_RETURNED: all reads of a query's present wait have returned (R195). -/
def execDroverReadsReturned (c : Fin 32) (m : Nat) (s : State) : Out := .next (if powered s then readsReturned s c.val m else s)

/-! ### Compaction (R183) -/

/-- A compaction step of a set queued on the croft's compaction job. -/
def queueCompaction (s : State) (c key : Nat) (o : Obj) (t : Option Ticket) : State :=
  let j := ownJob s c 3 7
  queueStep j.2 c j.1 (ownStep (.compact key o) t)

/-- COMPACT of a set at the latest committed epoch: a set with a node column is not compacted by the module. -/
def compactSet (s : State) (c number : Nat) (t : Ticket) : State :=
  match (croft? s c).bind (fun k => epochMap k.store epochLatest) with
  | none => done s t 3
  | some (_, m) =>
    match findSet s m number with
    | none => done s t 0x21
    | some (key, o) => 
      if (imgHdr (objImg s o)).nodes then done s t 0x23
      else if (croft? s c).any (fun k => ownRoom k 3) then queueCompaction s c key o (some t) else done s t 4

/-- COMPACT. -/
def execCompact (f : Fin 33) (ring : Nat) (d : Desc) (s : State) : Out :=
  .next (withDescriptor s f ring d 7 3 5 (fun s c t =>
    if !descZero d 18 63 then done s t 1
    else if (croft? s c).any (fun k => storeReadOnly s k) then done s t 0x14
    else compactSet s c (bytesAt d 16 2) t))

/-- Whether a compaction of an object key waits or runs in a croft. -/
def compacting (k : Croft) (key : Nat) : Bool :=
  let is_ (q : QStep) : Bool := match q.kind with
    | .compact x _ => x = key
    | _ => false
  k.jobs.any (fun p => p.2.steps.any is_) || k.run.any (fun r => is_ r.step) || (mapGet? k.store.compacted key).isSome

/-- COMPACTION_TRIGGER: tombstoned ordinals above the trigger share of H start a compaction (R183). -/
def compactionTrigger (s : State) (c number : Nat) : State :=
  match (croft? s c).bind (fun k => (epochMap k.store epochLatest).map (fun e => (k, e.2))) with
  | none => s
  | some (k, m) =>
    match findSet s m number with
    | none => s
    | some (key, o) =>
      let share := odGet s (0x3580 + c) 1
      if share = 0 || (o.hw - o.live) * 100 ≤ share * o.hw || (imgHdr (objImg s o)).nodes || compacting k key || storeReadOnly s k || !ownRoom k 3 then s
      else queueCompaction s c key o none

/-- COMPACTION_TRIGGER. -/
def execCompactionTrigger (c : Fin 32) (set : Nat) (s : State) : Out :=
  .next (if powered s && s.power.stage = 3 then compactionTrigger s c set else s)

/-- The segments of an object read whole by a compaction, counted by class (R280). -/
def compactReads (s : State) (c : Nat) (o : Obj) : State :=
  o.segs.foldl (fun s x => match segOf s x with
    | some g => bump s (0xA380 + c) (if g.cls = 2 then 0x0A else 0x0C) 1048576
    | none => s) s

/-- A compaction pass finished: the new layout's segments written, to be published by a later commit (R183). -/
def endCompaction (s : State) (c : Nat) (k : Croft) (run : RunStep) (key : Nat) (o : Obj) : State :=
  let s1 := modJob (bump (leaveEngines (compactReads s c o) c k run) (0xA380 + c) 4 1) c run.job (fun j => { j with published := j.published + 1 })
  let x := compactImg s1 o
  let op := newOp s1 c run.step.ticket none 0 0
  match rebuildSet op.2 c key op.1 o x.1 x.2 with
  | none => afterStep (match run.step.ticket with
      | some t => done s1 t 0x12
      | none => s1) c
  | some r => afterStep (opFinish (modStore r.2 c (fun st => { st with compacted := mapSet st.compacted key (r.1, o) })) op.1) c

/-- The end of a search batch or a compaction, once every read it waits for has returned. -/
def builtinEnd (s : State) (c : Nat) : State :=
  match runOf s c with
  | none => s
  | some (k, r) =>
    if !r.contexts.all (fun x => x.waits = 0) then s
    else match r.step.kind, r.step.ticket with
      | .search q, some t => endBatch s c k r q t
      | .compact key o, _ => endCompaction s c k r key o
      | _, _ => s

end Sys2Proof.Machine
end

