-- ==== Sys2Proof/Machine/Sched.lean ====
section
/-! DEFINITION. The scheduler of a croft: how the next step starts, ends, runs out of time or is pre-empted (R117, R124, R128, R166, R202, R254, R267 to R275). -/

namespace Sys2Proof.Machine

/-! ### The selection record (R202) -/

/-- Bytes an output or a carry place may lie in: a buffer's, or a peer export's that is written over TP (R202). -/
def placeSize (b : Binding) : Nat := if b.kind = 2 then 0 else b.count * 32768

/-- Whether an extent lies in what a region names, with the access it needs. -/
def selFits (im : Memory) (bs : BSet) (region off len : Nat) (write : Bool) : Bool :=
  region < imgRegions im && (!write || regAccess im region / 2 % 2 = 1) &&
  (bs.binds[regBinding im region]?).any (fun b => off + len ≤ placeSize b)

/-- Whether a group's output and carry places exist. -/
def selPlacesOk (im : Memory) (bs : BSet) (g : SelGroup) : Bool :=
  selFits im bs g.outRegion g.outOff (g.count * listSlot g.k) true &&
  (!(g.carryIn || g.carryOut) || ((bs.binds[regBinding im g.carryRegion]?).any (fun b => b.kind = 0) &&
    selFits im bs g.carryRegion g.carryOff (g.count * carrySlot g.k) g.carryOut))

/-- The groups of a step's selection record; none where the record is refused. -/
def selectionGroups (im : Memory) (bs : BSet) (q : QStep) : Option (List SelGroup) :=
  if q.selBind = 0xFFFFFFFF then some []
  else match bs.binds[q.selBind]? with
    | none => none
    | some b =>
      let n := 16 + 32 * leAt (bufRead b q.selOff 16) 6 2
      if b.kind = 0 && q.selOff + n ≤ bufSize b then (selRecord (bufRead b q.selOff n)).filter (fun gs => gs.all (selPlacesOk im bs))
      else none

/-! ### Virtual engines at step start -/

/-- The engines of a croft in a physical cluster, ascending. -/
def clusterEngines (k : Croft) (p : Nat) : List Nat := (List.range 8).filterMap (fun e => if bitOf k.mask (8 * p + e) then some (8 * p + e) else none)

/-- The virtual engines hosted by a physical cluster, ascending. -/
def clusterVes (k : Croft) (p : Nat) : List Nat := (List.range 64).filter (fun v => hostCluster k (v / 8) = p)

/-- The engine each virtual engine starts on: the lowest of its host set in order, none for those parked (R117). -/
def startEngine (k : Croft) (v : Nat) : Option Nat :=
  let p := hostCluster k (v / 8)
  (clusterEngines k p)[((clusterVes k p).filter (· < v)).length]?

/-- A queue at step start: one whose stream is a STEP without a wait has issued it (R166). -/
def startQueue (ws : List IWord) : Queue :=
  match ws with
  | [w] => if wop w = 3 && !bitOf w 8 then { queueStart with done := some w, off := 1 } else queueStart
  | _ => queueStart

/-- A virtual engine at step start: persistent semaphores carried, queues, its engine or its place among the parked (R31, R113, R117, R124). -/
def startVe (k : Croft) (j : Job) (im : Memory) (entry now v : Nat) : VEngine :=
  let q := fun i => startQueue (streamWords im entry v i)
  let e := startEngine k v
  { veStart with
    sems := (j.sems.filter (fun x => x.1 / 32 = v)).map (fun x => (x.1 % 32, x.2))
    qF := q 0, qA := q 1, qV := q 2, qW := q 3, engine := e, parkedAt := if e.isSome then none else some now }

/-- The record of a step as it starts. -/
def runNew (s : State) (c : Nat) (k : Croft) (j : Job) (im : Memory) (q : QStep) : RunStep :=
  let tr := j.train.getD []
  let ves := if q.kind = .program then (List.range 64).map (fun v => (v, startVe k j im q.entry (clock s) v)) else []
  { job := j.id, step := q, number := j.published, start := clock s
    ctx := ⟨q.r, q.q, j.level, j.train.map (fun b => (trSeed b, trIndex b)), if j.train.isSome then trLse tr else 0⟩
    ves := ves, overflow := false, poison := false, staged := [], groups := [], lists := [], images := [], tallies := []
    reductions := [], parts := [], preempt := none, closing := false, ended := false
    endJob := ves.any (fun x => (stepWords x.2).any (fun w => bitOf w 32))
    issued := j.nextIssued, late := [], orInputs := [], orHeld := none, orResult := none, imagesSent := false, tpWait := 0
    contexts := match q.kind with
      | .search r => (batchWaits s c r).map (fun n => ⟨n, none⟩)
      | _ => []
    held := 0 }

/-- The pins a cyclic Almanac issued ahead become those of the step that starts (R166). -/
def turnPins (k : Croft) (job : Nat) : Croft :=
  let turn (p : Nat) : Nat := if pinOfJob job p && p / 1048576 % 2 = 1 then p - 1048576 else p
  { k with copies := k.copies.map (fun y => { y with pins := (y.pins.map turn).foldl setIns [] })
           promos := k.promos.map (fun p => { p with record := p.record.map turn }) }

/-- The rows of a serving step copied into binding 0 where they fit (R269, R312). -/
def copyRows (s : State) (c : Nat) (j : Job) (q : QStep) : State :=
  (reqOffsets q.reqs).foldl (fun s x =>
    match bindingOf s c j.bset 0 with
    | some b =>
      let off := x.1 * x.2.inBytes
      if off + x.2.data.length ≤ bufSize b then bufWrite s c j.bset 0 off x.2.data else s
    | none => s) s

/-- The header signals of the STEP words issued at step start. -/
def startSignals (s : State) (c : Nat) : State :=
  match runOf s c with
  | none => s
  | some (_, r) => r.ves.foldl (fun s x => [0, 1, 2, 3].foldl (fun s q => match (veQueue x.2 q).done with
      | some w => headerSignal s c x.1 q w 0
      | none => s) s) s

/-- The lateness of a launched step at its first start: the selected count past L, where L had passed at fetch or its engines were busy at L (R254). -/
def lateness (s : State) (j : Job) (q : QStep) : Option Nat :=
  match q.launch with
  | some (l, byJob, _) =>
    if q.began then q.late
    else if q.late.isSome || q.reached.any (· < clock s) then some (launchCount s j byJob - l)
    else none
  | none => none

/-- Whether a late policy 1 step is past its launch count at its first start: it is not run (R254). -/
def missed (q : QStep) (late : Option Nat) : Bool := !q.began && late.isSome && q.launch.any (fun x => x.2.2)

/-! ### STEP_START -/

/-- A program step started: engines taken, rows copied, the selection record read, the first Almanac issues, held frames taken in (R13, R117, R202, R267). -/
def startProgram (s : State) (c : Nat) (k : Croft) (j : Job) (q : QStep) : State :=
  match mapGet? k.images j.image, jobSet k j with
  | some im, some bs =>
    let k1 := turnPins k j.id
    let s1 := putCroft s c { k1 with
      jobs := mapSet k1.jobs j.id { j with steps := j.steps.drop 1, nextIssued := [] }
      run := some (runNew s c k j im.bytes q) }
    let s2 := copyRows s1 c j q
    match selectionGroups im.bytes bs q with
    | none => faultStep s2 c 0x60 0xFF 0 0 0
    | some gs => takeHeld (settle (startSignals (modRun s2 c (fun r => { r with groups := gs })) c) c) c
  | _, _ => s

/-- A step of a job the module opened started, its queries in their contexts and its state charged to T1; a batch whose state does not fit the remaining T1 quota is not run (R195, R216). -/
def startBuiltin (s : State) (c : Nat) (k : Croft) (j : Job) (q : QStep) : State :=
  let s1 := putCroft s c { k with
    jobs := mapSet k.jobs j.id { j with steps := j.steps.drop 1 }
    run := some (runNew s c k j [] q) }
  match q.kind, q.ticket with
  | .search r, some t =>
    if !t1Room s c k (batchState r.record r.coarse) then
      markReady (batchFails (putCroft s c { k with jobs := mapSet k.jobs j.id { j with steps := j.steps.drop 1 } }) t r.record r.outAddr r.outLen 6 r.epoch 0) c
    else giveContexts (modRun s1 c (fun x => { x with held := batchState r.record r.coarse }))
  | _, _ => s1

/-- A missed step taken from the head of its job and completed launch-missed (R254). -/
def dropMissed (s : State) (c : Nat) (j : Job) (q : QStep) : State :=
  match q.ticket with
  | some t => launchRefused (markReady (modJob s c j.id (fun j => { j with steps := j.steps.drop 1 })) c) t 0x30
  | none => s

/-- The next step of a croft started (R267, R268). -/
def stepStart (s : State) (c : Nat) : State :=
  match (croft? s c).bind bestReady with
  | none => s
  | some b =>
    let s0 := takeCancels s c b.1.id
    match croft? s0 c with
    | none => s
    | some k =>
      match bestReady k with
      | none => s
      | some (j, q0) =>
        if !mayStart s0 k then s
        else
          let late := lateness s0 j q0
          let q := { q0 with late := late, began := true }
          let s1 := wakeCroft (if !q0.began && late.isSome then bump s0 0xA360 1 1 else s0) c
          if missed q0 late then dropMissed s0 c j q0
          else if q.kind = .program then (if s.power.stage < 3 then s else startProgram s1 c k j q) else startBuiltin s1 c k j q

/-- STEP_START. -/
def execStepStart (c : Fin 32) (s : State) : Out := .next (stepStart s c.val)

/-! ### Ends -/

/-- BATCH_STEP_END: every queue has issued its STEP and everything before it is complete (R119). -/
def batchStepEnd (s : State) (c : Nat) : State :=
  match runOf s c with
  | none => s
  | some (_, r) => if r.step.kind = .program then endProgress s c else builtinEnd s c

/-- BATCH_STEP_END. -/
def execBatchStepEnd (c : Fin 32) (s : State) : Out := .next (if powered s then batchStepEnd s c.val else s)

/-- Whether the running step can still be stopped by its own limits: neither closing nor past its end point (R128, R273). -/
def stoppable (r : RunStep) : Bool := !r.closing && r.orResult.isNone

/-- STEP_TIME_LIMIT: a step-time fault (R128). -/
def execStepTimeLimit (c : Fin 32) (s : State) : Out :=
  .next (match runOf s c.val with
    | some (_, r) => if powered s && stoppable r then faultStep s c.val 0x59 0xFF 0 0 0 else s
    | none => s)

/-- PREEMPTION_DEADLINE: the running step aborted where a pre-emption request stands (R272, R273). -/
def execPreemptionDeadline (c : Fin 32) (s : State) : Out :=
  .next (match runOf s c.val with
    | some (_, r) => if powered s && stoppable r && r.preempt.isSome then abortOwn true s c.val else s
    | none => s)

end Sys2Proof.Machine
end

