-- ==== Sys2Proof/Machine/Admin.lean ====
section
/-! DEFINITION. The admin commands of PF1: rings, images, Almanacs, binding sets, exports (R12, R14, R25, R162, R164, R165, R300, R306, R308, R315, R317, R318). The fields of a command stand from byte 16 on in the order R317 lists them, each at its natural alignment: numbers of rings and vectors U16, sizes, counts, indices and handles U32, addresses and lengths U64, thresholds, export numbers and kinds U8. -/

namespace Sys2Proof.Machine

/-- Opcodes of the admin commands (R317). -/
def adminOpcodes : List Nat := [0x81, 0x82, 0x83, 0x84, 0x85, 0x88, 0x89, 0x8A, 0x8B, 0x8C, 0x8D, 0x8E]

/-- Rings of each kind and vectors of a function (R307). -/
def ringCount (f : Nat) : Nat := if f = 0 then 1024 else 64
def vectorCount (f : Nat) : Nat := if f = 0 then 2048 else 64

/-- The croft byte of a command. -/
def adCroft (d : Desc) : Nat := byteOf d 2

/-- An admin command fetched and judged: one at a time, a virtual function's croft its own, envelope, used bytes, stage, the Reeve answering; then its effect (R15, R25, R306, R317, R438). -/
def withAdmin (s : State) (f : Fin 33) (d : Desc) (op used minStage : Nat) (effect : State → Nat → Ticket → State) : State :=
  let idle : Bool := (mapGet? (pf1Of s f.val).wr 0xFFFF).any (fun w => w.outstanding.isEmpty)
  if !fetchable s f.val 0xFFFF d || !idle then s
  else if opc d ≠ op then
    if adminOpcodes.contains (opc d) then s
    else let p := takeTicket s f.val 0xFFFF d; done p.2 p.1 2
  else
    let p := takeTicket s f.val 0xFFFF d
    let scope := (pf1Of s f.val).scope
    if f.val ≠ 0 && scope = 0xFF then done p.2 p.1 3
    else if (f.val ≠ 0 && adCroft d ≠ scope) || 31 < adCroft d || !envelopeOk 0xFFFF d || !descZero d (16 + used) 63 then done p.2 p.1 1
    else if !s.reeveUp then done p.2 p.1 4
    else if s.power.stage < minStage then complete p.2 p.1 5 0 s.power.stage 0 0 none
    else effect p.2 (adCroft d) p.1

/-- An admin command that needs its croft to be present. -/
def withAdminCroft (s : State) (f : Fin 33) (d : Desc) (op used minStage : Nat) (effect : State → Nat → Ticket → Croft → State) : State :=
  withAdmin s f d op used minStage (fun s c t => match croft? s c with
    | some k => effect s c t k
    | none => done s t 3)

/-! ### Rings -/

/-- Whether a ring size is a power of two from 16 to 65,536 (R308). -/
def ringSizeOk (n : Nat) : Bool := 16 ≤ n && n ≤ 65536 && (List.range 17).any (fun i => n = 2 ^ i)

/-- A new work ring and a new completion ring. -/
def newWRing (size base croft comp : Nat) : WRing := ⟨size, base, croft, comp, 0, 0, false, [], none⟩
def newCRing (size base vector countTh timeTh : Nat) : CRing := ⟨size, base, vector, countTh, timeTh, 0, 0, 0, 0, false⟩

/-- MKWR: ring 16, size 20, base 24, completion ring 32. -/
def makeWRing (s : State) (f c : Nat) (t : Ticket) (d : Desc) : State :=
  let p := pf1Of s f
  let n := bytesAt d 16 2
  let comp := bytesAt d 32 2
  if !descZero d 18 19 || ringCount f ≤ n || !ringSizeOk (bytesAt d 20 4) || bytesAt d 24 8 % 4096 ≠ 0 then done s t 1
  else if (mapGet? p.wr n).isSome then done s t 0x51
  else if ringCount f ≤ comp || (mapGet? p.cr comp).isNone then done s t 1
  else done (putPf1 s f { p with wr := mapSet p.wr n (newWRing (bytesAt d 20 4) (bytesAt d 24 8) c comp) }) t 0

/-- MKWR. -/
def execMkwr (f : Fin 33) (d : Desc) (s : State) : Out :=
  .next (withAdmin s f d 0x81 18 2 (fun s c t => makeWRing s f.val c t d))

/-- RMWR: fetching stops, the completion follows the ring's last outstanding descriptor (R318). -/
def removeWRing (s : State) (f n : Nat) (t : Ticket) : State :=
  let p := pf1Of s f
  if n = 0xFFFF then done s t 1
  else match mapGet? p.wr n with
    | none => done s t 1
    | some w => if w.removing.isSome then done s t 1
      else ringDrained (putPf1 s f { p with wr := mapSet p.wr n { w with removing := some t } }) f n

/-- RMWR: ring 16. -/
def execRmwr (f : Fin 33) (d : Desc) (s : State) : Out :=
  .next (withAdmin s f d 0x82 2 2 (fun s _ t => removeWRing s f.val (bytesAt d 16 2) t))

/-- MKCR: ring 16, size 20, base 24, vector 32, count threshold 34, time threshold 35. -/
def makeCRing (s : State) (f : Nat) (t : Ticket) (d : Desc) : State :=
  let p := pf1Of s f
  let n := bytesAt d 16 2
  if !descZero d 18 19 || ringCount f ≤ n || !ringSizeOk (bytesAt d 20 4) || bytesAt d 24 8 % 4096 ≠ 0 || vectorCount f ≤ bytesAt d 32 2 then done s t 1
  else if (mapGet? p.cr n).isSome then done s t 0x51
  else done (putPf1 s f { p with cr := mapSet p.cr n (newCRing (bytesAt d 20 4) (bytesAt d 24 8) (bytesAt d 32 2) (byteOf d 34) (byteOf d 35)) }) t 0

/-- MKCR. -/
def execMkcr (f : Fin 33) (d : Desc) (s : State) : Out :=
  .next (withAdmin s f d 0x83 20 2 (fun s _ t => makeCRing s f.val t d))

/-- RMCR: a ring that a work ring posts to is in use (R317). -/
def removeCRing (s : State) (f n : Nat) (t : Ticket) : State :=
  let p := pf1Of s f
  if n = 0xFFFF || (mapGet? p.cr n).isNone then done s t 1
  else if p.wr.any (fun w => w.2.comp = n) then done s t 0x51
  else done (putPf1 s f { p with cr := mapDel p.cr n }) t 0

/-- RMCR: ring 16. -/
def execRmcr (f : Fin 33) (d : Desc) (s : State) : Out :=
  .next (withAdmin s f d 0x84 2 2 (fun s _ t => removeCRing s f.val (bytesAt d 16 2) t))

/-- SETEV: size 16, base 24, vector 32; size 0 removes the croft's event ring (R315). -/
def setEventRing (s : State) (f c : Nat) (t : Ticket) (k : Croft) (d : Desc) : State :=
  let size := bytesAt d 16 4
  if !descZero d 20 23 then done s t 1
  else if size = 0 then done (putCroft s c { k with ering := none }) t 0
  else if !ringSizeOk size || bytesAt d 24 8 % 4096 ≠ 0 || vectorCount f ≤ bytesAt d 32 2 then done s t 1
  else done (overflowEvent (putCroft s c { k with ering := some ⟨f, size, bytesAt d 24 8, bytesAt d 32 2, 0, 0, false⟩ }) c) t 0

/-- SETEV. -/
def execSetev (f : Fin 33) (d : Desc) (s : State) : Out :=
  .next (withAdminCroft s f d 0x85 18 2 (fun s c t k => setEventRing s f.val c t k d))

/-! ### Images and Almanacs -/

/-- The reason an image is refused with, the level ceiling counted (R114, R247). -/
def loadReason (s : State) (c : Nat) (im : Memory) (length : Nat) : Option Nat :=
  match imageReason im length with
  | some r => if 3 < r && !levelAllowed s c (imgLevel im) then some 3 else some r
  | none => if levelAllowed s c (imgLevel im) then none else some 3

/-- LDIMG: an image read, judged and given a handle (R114); one that the T1 quota, which covers images (R161), has no room for is refused as quota (DEDUCED, log entry 99). -/
def loadImage (s : State) (c : Nat) (t : Ticket) (k : Croft) (a n : Nat) : State :=
  match hostRead s a n with
  | none => done s t 6
  | some b =>
    let im := cellsOf 0 0 b
    match loadReason s c im n with
    | some r => complete s t 8 0 r 0 0 none
    | none =>
      if !t1Room s c k ((n + 32767) / 32768 * 32768) then done s t 0x12
      else doneResult (putCroft { s with nextHandle := s.nextHandle + 1 } c { k with images := mapSet k.images s.nextHandle ⟨t.fn, im, n⟩ }) t s.nextHandle

/-- LDIMG: address 16, length 24. -/
def execLdimg (f : Fin 33) (d : Desc) (s : State) : Out :=
  .next (withAdminCroft s f d 0x88 16 3 (fun s c t k => loadImage s c t k (bytesAt d 16 8) (bytesAt d 24 8)))

/-- RMIMG: an image that an open job or an Almanac uses stays (R317). -/
def removeImage (s : State) (c : Nat) (t : Ticket) (k : Croft) (h : Nat) : State :=
  if (mapGet? k.images h).isNone then done s t 0x50
  else if imageInUse k h || k.alm.any (fun a => a.image = h) then done s t 0x51
  else done (putCroft s c { k with images := mapDel k.images h }) t 0

/-- RMIMG: handle 16. -/
def execRmimg (f : Fin 33) (d : Desc) (s : State) : Out :=
  .next (withAdminCroft s f d 0x89 4 2 (fun s c t k => removeImage s c t k (bytesAt d 16 4)))

/-- LDALM: address 16, length 24, image handle 32; in effect at the step boundary (R14, R165). -/
def execLdalm (f : Fin 33) (d : Desc) (s : State) : Out :=
  .next (withAdminCroft s f d 0x8A 20 3 (fun s c t k =>
    if k.run.isSome then putCroft s c { k with deferred := k.deferred ++ [.admin d t] } else ldalmEffect s c d t))

/-! ### Binding sets (R155, R162, R164, R318) -/

/-- Whether a binding entry keeps its table. -/
def bindEntryOk (e : List Byte) : Bool :=
  let kind := leAt e 0 1
  let mode := leAt e 2 1 % 4
  leAt e 0 1 < 4 && leAt e 1 1 < 4 && leAt e 2 1 < 32 && zerosAt e 4 7 &&
  (match kind with
   | 0 => mode ≠ 3 && (mode = 1 || leAt e 2 1 < 4) && [0, 2, 3].contains (leAt e 3 1) && leAt e 8 8 ≠ 0 && zerosAt e 16 31
   | 1 => mode = 0 && leAt e 3 1 = 0 && leAt e 8 8 ≠ 0 && zerosAt e 16 31
   | 2 => mode ≠ 3 && (mode = 1 || leAt e 2 1 < 4) && leAt e 1 1 < 2 && leAt e 3 1 = 0 && leAt e 8 8 = 0
   | _ => leAt e 2 1 = 0 && leAt e 3 1 = 0 && leAt e 8 8 ≠ 0 && zerosAt e 18 31)

/-- The binding of an entry before any space is found for it. -/
def bindOf (e : List Byte) : Binding :=
  { kind := leAt e 0 1, access := leAt e 1 1, mode := leAt e 2 1 % 4, vc := leAt e 2 1 / 4 % 8, cls := leAt e 3 1, count := leAt e 8 8
    key := leAt e 16 8, epoch := leAt e 24 8, tag := BitVec.ofNat 256 (leAt e 32 32), sheaves := [], frames := []
    toT1 := 0, spill := [], obj := ⟨[], false, 0, 0⟩ }

/-- The state with a binding added at the end of a set. -/
def addBinding (s : State) (c h : Nat) (b : Binding) : State :=
  modCroft s c (fun k => { k with bsets := mapMod k.bsets h (fun x => { x with binds := x.binds ++ [b] }) })

/-- T1 frames for the ordinals of a binding from `lo` to below `hi` (R155). -/
def bindFrames (s : State) (c : Nat) (k : Croft) (b : Binding) (lo hi : Nat) : FMap Nat × State :=
  (List.range (hi - lo)).foldl (fun (p : FMap Nat × State) x =>
    let a := allocFrame p.2 c (codeOf s c 1) (placeStack k b.mode b.vc b.count (lo + x))
    (mapSet p.1 (lo + x) a.1, a.2)) ([], s)

/-- A buffer given its space: T0 where it fits, T1 frames beside what the Almanac's peak keeps, then the spill area, its highest ordinals in T3; the status where it cannot be (R162, R171). -/
def bindBuffer (s : State) (c h : Nat) (k : Croft) (b : Binding) : Nat ⊕ State :=
  let n := b.count
  let inT0 := if b.kind = 1 then min n ((quota s c 1 - t0Use k (hostCluster k b.vc)) / sheafBytes) else 0
  let inT1 := min (n - inT0) ((quota s c 2 - t1Taken s c k) / sheafBytes)
  let out := n - inT0 - inT1
  let m := spillSplit s c k out
  if (b.kind = 1 && inT0 < n && !spillOn s c 0) || (out ≠ 0 && !spillOn s c 1) || m.1 + m.2 < out then .inl 0x12
  else
    let f := bindFrames s c k b inT0 (inT0 + inT1)
    let b' := { b with
      frames := f.1, toT1 := inT0
      spill := (List.range out).map (fun i => (inT0 + inT1 + i, if i < m.1 then 2 else 3, 0)) }
    let s1 := bump f.2 (0xA280 + c) 5 (if b.kind = 1 then (n - inT0) * sheafBytes else 0)
    .inr (addBinding (bump s1 (0xA280 + c) 6 (out * sheafBytes)) c h b')

/-- One entry bound into a set, or the status it is refused with: object-unknown too where a segment of the object has been removed (R232, R318). -/
def bindEntry (s : State) (c h : Nat) (e : List Byte) : Nat ⊕ State :=
  match croft? s c with
  | none => .inl 3
  | some k =>
    let b := bindOf e
    if !bindEntryOk e then .inl 1
    else if b.kind < 2 then bindBuffer s c h k b
    else if b.kind = 2 then
      match epochMap k.store b.epoch with
      | none => .inl 0x11
      | some (n, m) => match objOf m b.key with
        | none => .inl 0x10
        | some o =>
          if o.segs.any (fun x => x ≠ 0 && (segOf s x).isNone) then .inl 0x10
          else .inr (addBinding s c h { b with epoch := n, obj := o, count := 32 * o.segs.length })
    else if quota s c 5 < tpUse k + b.count * sheafBytes then .inl 0x12
    else .inr (addBinding s c h b)

/-- The entries of a set bound in order; the first refusal undoes the set. -/
def bindAll (c h : Nat) : List (List Byte) → State → Nat ⊕ State
  | [], s => .inr s
  | e :: rest, s => match bindEntry s c h e with
    | .inl x => .inl x
    | .inr s' => bindAll c h rest s'

/-- MKBND: address 16, count 24. -/
def makeBinding (s : State) (c : Nat) (t : Ticket) (k : Croft) (d : Desc) : State :=
  let n := bytesAt d 24 4
  if n = 0 || 256 < n then done s t 1
  else match hostRead s (bytesAt d 16 8) (64 * n) with
    | none => done s t 6
    | some b =>
      let h := s.nextHandle
      let s1 := putCroft { s with nextHandle := h + 1 } c { k with bsets := mapSet k.bsets h ⟨t.fn, h, []⟩ }
      match bindAll c h ((List.range n).map (fun i => sub b (64 * i) 64)) s1 with
      | .inl x => done s t x
      | .inr s2 => doneResult s2 t h

/-- MKBND. -/
def execMkbnd (f : Fin 33) (d : Desc) (s : State) : Out :=
  .next (withAdminCroft s f d 0x8B 12 2 (fun s c t k => makeBinding s c t k d))

/-- RMBND: a set that an open job uses, or that is exported, stays. -/
def removeBinding (s : State) (c : Nat) (t : Ticket) (k : Croft) (h : Nat) : State :=
  if (mapGet? k.bsets h).isNone then done s t 0x50
  else if bsetInUse k h || s.exports.any (fun p => p.2.croft = c && p.2.bset = h) then done s t 0x51
  else done (removeBSet s c h) t 0

/-- RMBND: handle 16. -/
def execRmbnd (f : Fin 33) (d : Desc) (s : State) : Out :=
  .next (withAdminCroft s f d 0x8C 4 2 (fun s c t k => removeBinding s c t k (bytesAt d 16 4)))

/-! ### Exports (R300) -/

/-- The peers of an EXPORT: pairs of address and croft from byte 26, unused ones 0xFFFF. -/
def exportPeers (d : Desc) : List (Nat × Nat) :=
  ((List.range 16).map (fun i => (byteOf d (26 + 2 * i), byteOf d (27 + 2 * i)))).filter (fun p => p ≠ (0xFF, 0xFF))

/-- EXPORT: handle 16, binding index 20, number 24, kind 25, peers from 26. -/
def makeExport (s : State) (c : Nat) (t : Ticket) (k : Croft) (d : Desc) : State :=
  let h := bytesAt d 16 4
  let i := bytesAt d 20 4
  let n := byteOf d 24
  let peers := exportPeers d
  match mapGet? k.bsets h with
  | none => done s t 0x50
  | some b =>
    if !((b.binds[i]?).any (fun x => x.kind = 0)) || 1 < byteOf d 25 || (byteOf d 25 = 1 && peers.length ≠ 1) then done s t 1
    else if (mapGet? s.exports n).isSome then done s t 0x51
    else
      done { s with exports := mapSet s.exports n ⟨t.fn, c, h, i, byteOf d 25 = 1, peers, []⟩ } t 0

/-- EXPORT. -/
def execExportSet (f : Fin 33) (d : Desc) (s : State) : Out :=
  .next (withAdminCroft s f d 0x8D 42 2 (fun s c t k => makeExport s c t k d))

/-- An export withdrawn. -/
def dropExport (s : State) (n : Nat) : State := { s with exports := mapDel s.exports n }

/-- UNEXPORT: an export that a peer binds stays (R300). -/
def removeExport (s : State) (c : Nat) (t : Ticket) (n : Nat) : State :=
  match mapGet? s.exports n with
  | none => done s t 0x50
  | some x =>
    if x.croft ≠ c then done s t 0x50
    else if !x.bound.isEmpty then done s t 0x51
    else done (dropExport s n) t 0

/-- UNEXPORT: number 16. -/
def execUnexportSet (f : Fin 33) (d : Desc) (s : State) : Out :=
  .next (withAdminCroft s f d 0x8E 1 2 (fun s c t _ => removeExport s c t (byteOf d 16)))

end Sys2Proof.Machine
end

