-- ==== Sys2Proof/Machine/BellElect.lean ====
section
/-! DEFINITION. The election of a Bell master: what each port has heard, the best of it, and what a change does (R249, R303). -/

namespace Sys2Proof.Machine

/-- Whether one master is better than another: lower priority, then lower serial. -/
def masterBefore (p1 s1 p2 s2 : Nat) : Bool := p1 < p2 || (p1 = p2 && s1 < s2)

/-- The master this module follows or is, with the hops to it: priority 0x100 where it knows none. -/
def ownMaster (s : State) : Master :=
  if bellMaster s then ⟨odGet s 0x9100 2, s.serial.toNat, 0, s.kamlinAddr⟩ else ⟨s.bell.mPrio, s.bell.mSerial, s.bell.mHops, s.bell.mAddr⟩

/-- The masters the neighbours offer, one hop further: those of ports that carry Bell frames, with known hops, this module itself left out. -/
def offers (s : State) : List Master :=
  (List.range 8).filterMap (fun p =>
    let x := portOf s p
    match x.master with
    | some m => if (x.state = 2 || x.state = 5) && m.hops < 0xFE && m.serial ≠ s.serial.toNat then some { m with hops := m.hops + 1 } else none
    | none => none)

/-- Whether two offers name one master. -/
def sameMaster (a b : Master) : Bool := a.prio = b.prio && a.serial = b.serial

/-- The best of some masters: the better one, and of one master the nearer route. -/
def bestOffer (l : List Master) : Option Master :=
  l.foldl (fun b x => match b with
    | none => some x
    | some y => if masterBefore x.prio x.serial y.prio y.serial || (sameMaster x y && x.hops < y.hops) then some x else some y) none

/-- The counter without another master: this module is the master, or the counter is free. -/
def followNone (s : State) : State :=
  { s with bell := { s.bell with mPrio := 0x100, mSerial := 0, mHops := 0xFF, mAddr := 0, state := 0, good := 0, bad := 0, slew := 0, stale := false } }

/-- The counter under a master heard: its hops renewed where it is followed already, else followed from now on, acquiring; a better one than the last is a master change. -/
def follow (s : State) (x : Master) : State :=
  let m := ownMaster s
  if !bellMaster s && sameMaster x m then { s with bell := { s.bell with mHops := x.hops, mAddr := x.addr } }
  else
    let s1 := { s with bell := { s.bell with
      mPrio := x.prio, mSerial := x.serial, mHops := x.hops, mAddr := x.addr, state := 1, good := 0, bad := 0, slew := 0, stale := false } }
    if m.prio ≠ 0x100 && masterBefore x.prio x.serial m.prio m.serial then bump s1 0xA360 5 1 else s1

/-- The election among this module, where it is master-capable, and the masters its ports offer (R249). A locked follower that no longer hears any keeps its master until its holdover runs out (DEDUCED, log entry 107). -/
def elect (s : State) : State :=
  if odGet s 0x9100 1 = 0 then followNone s
  else match bestOffer (offers s) with
    | none => if odGet s 0x9100 1 = 2 || s.bell.state < 2 then followNone s else s
    | some x =>
      if odGet s 0x9100 1 = 2 && !masterBefore x.prio x.serial (odGet s 0x9100 2) s.serial.toNat then
        (if bellMaster s then s else followNone s)
      else follow s x

/-- A neighbour's offer heard on a port. -/
def hearMaster (s : State) (p : Nat) (m : Master) : State := elect (putPort s p { portOf s p with master := some m })

end Sys2Proof.Machine
end

