-- ==== Sys2Proof/Machine/Kamlin.lean ====
section
/-! DEFINITION. Kamlin ports: training, flits and retry, recovery, credits, link management, and the frames of tier TP (R282 to R295, R300, R301). -/

namespace Sys2Proof.Machine

/-! ### Recovery (R286, R287) -/

/-- A port whose replay and receive buffers are emptied, sequences at 0 and every credit back, in a state; frames not yet transmitted wait on (R287). -/
def portClean (x : Port) (state : Nat) : Port :=
  { (portStart true) with state := state, width := x.width, neighbour := x.neighbour, addr := x.addr, queue := x.queue }

/-- Whether a job's group includes a module routed over a port. -/
def groupOver (s : State) (p : Nat) (j : Job) : Bool :=
  j.group.any (fun g => (groupPeers g).any (fun x => routePort s x.1 = some p))

/-- The next shared step of a job, which has not started, raised to its next attempt, with cancels. -/
def raiseNext (s : State) (c : Nat) (k : Croft) (id : Nat) : State :=
  match mapGet? k.jobs id with
  | none => s
  | some j => match j.steps.head?, j.group with
    | some q, some g =>
      raiseAttempt (sendCancels s c g (if jobRuns k id then j.published + 1 else j.published) q.attempt) c id 0 (q.attempt + 1)
    | _, _ => s

/-- The running shared step of a job aborted; where it is closing or past its end point, or none runs, the next one raised to its next attempt (R287). -/
def recoverJob (s : State) (c id : Nat) : State :=
  match croft? s c with
  | none => s
  | some k =>
    if k.run.any (fun r => r.job = id && !r.closing && r.orResult.isNone) then abortOwn false s c else raiseNext s c k id

/-- Every shared step over a port treated as aborted. -/
def recoverSteps (s : State) (jobs : List (Nat × Nat)) : State := jobs.foldl (fun s x => recoverJob s x.1 x.2) s

/-- The group jobs of the module that reach a peer over a port. -/
def jobsOver (s : State) (p : Nat) : List (Nat × Nat) :=
  s.crofts.flatMap (fun k => (k.2.jobs.filter (fun j => !j.2.faulted && groupOver s p j.2)).map (fun j => (k.1, j.1)))

/-- Every step that holds its group OR taken on: credits it waited for may be back (R278). -/
def passEnds (s : State) : State := (s.crofts.map (·.1)).foldl passEnd s

/-- A port's traffic lost: what it held discarded, shared steps over it aborted, the Bell master elected anew; the port in a state (R249, R287). -/
def portLost (s : State) (p state : Nat) : State :=
  elect (passEnds (recoverSteps (putPort s p (portClean (portOf s p) state)) (jobsOver s p)))

/-- A port enters recovery, counted (R286). -/
def linkRecovery (s : State) (p : Nat) : State :=
  if (portOf s p).state = 2 then bump (portLost s p 3) (0xA3A0 + p) 5 1 else s

/-! ### When a route returns (R287, R301) -/

/-- What a closing or published step has sent and still waits on, sent again. -/
def resendStep (s : State) (c : Nat) : State :=
  match stepEnv s c with
  | none => s
  | some e =>
    match e.r.orResult, e.j.group with
    | some _, _ => if e.r.tpWait = 0 then s else e.r.staged.foldl (fun s x => sendTpWrite s c e.j e.r x) s
    | none, some g =>
      match mapGet? e.r.orInputs (leAt g 8 1), parentRank g with
      | some own, some (q, _) =>
        if e.r.closing && e.r.orHeld.isNone then toRank s c g e.r.number e.r.step.attempt q 4 true (paramBlock [if own then 1 else 0, subtreeRanks g]) [] [] else s
      | _, _ => s
    | none, none => s

/-- TP reads asked over a port asked again. -/
def reissueReads (s : State) (p c : Nat) : State :=
  match croft? s c with
  | none => s
  | some k => (k.tpAsked.filter (fun x => routePort s (x.home / 256 % 256) = some p)).foldl (fun s x => sendTpRead s c x) s

/-- A port that has come up: waiting frames go, those that waited for a route first, steps and reads resend what the port lost. -/
def routeBack (s : State) (p : Nat) : State :=
  (s.crofts.map (·.1)).foldl (fun s c => reissueReads (resendStep s c) p c) (pump (reroute s) p)

/-! ### Training (R282, R288) -/

/-- The effective Kamlin address: the entry's, or SLOT_ID[5:0] (R288). -/
def ownAddress (s : State) : Nat :=
  match s.od.lookup (odKey 0x9000 1) with
  | some v => v
  | none => s.slotId % 64

/-- The widest width that good lanes allow: all four, lanes 0 and 1 or 2 and 3, lane 0. -/
def goodWidth (good : Nat) : Nat :=
  if good % 16 = 15 then 4 else if good % 4 = 3 || good / 4 % 4 = 3 then 2 else if good % 2 = 1 then 1 else 0

/-- A port's entry into down or conflict, with its event (R282). -/
def portTrouble (s : State) (p state : Nat) : State :=
  logEvent (putPort s p { portOf s p with state := state }) 0x0121 0 2 p 0 0xFF 0 [BitVec.ofNat 8 state]

/-- Whether a neighbour's address is one already reached over another port that is up. -/
def reached (s : State) (p a : Nat) : Bool :=
  (List.range 8).any (fun q => q ≠ p && portUp s q && (portOf s q).neighbour = a)

/-- Training or recovery finished: up, conflict, or down below the minimum width. -/
def linkDone (s : State) (p good neighbour : Nat) : State :=
  let w := goodWidth good
  if w = 0 || w < odGet s (0x9020 + p) 2 then portTrouble s p 4
  else
    let s1 := putPort s p { portOf s p with width := w, neighbour := neighbour }
    if neighbour = (portOf s p).addr then portTrouble s1 p 5
    else if reached s p neighbour then s1
    else routeBack (putPort s1 p { portOf s1 p with state := 2 }) p

/-- Training finished: the port takes the module's address as the entry has it now (R288). -/
def trained (s : State) (p good neighbour : Nat) : State :=
  linkDone (putPort { s with kamlinAddr := ownAddress s } p { portOf s p with addr := ownAddress s }) p good neighbour

/-- Whether a port is enabled. -/
def portEnabled (s : State) (p : Nat) : Bool := odGet s (0x9020 + p) 1 = 1

/-- TRAINING_COMPLETE. -/
def execTrainingComplete (p : Fin 8) (good : Fin 16) (neighbour : Byte) (s : State) : Out :=
  .next (if powered s && (portOf s p.val).state = 1 && portEnabled s p.val then trained s p.val good.val neighbour.toNat else s)

/-- RECOVERY_COMPLETE. -/
def execRecoveryComplete (p : Fin 8) (good : Fin 16) (neighbour : Byte) (s : State) : Out :=
  .next (if powered s && (portOf s p.val).state = 3 then linkDone s p.val good.val neighbour.toNat else s)

/-- TRAINING_FAIL_TIMEOUT. -/
def execTrainingFailTimeout (p : Fin 8) (s : State) : Out :=
  .next (if powered s && ((portOf s p.val).state = 1 || (portOf s p.val).state = 3) then portTrouble s p.val 4 else s)

/-- DOWN_RETRY_TIMEOUT. -/
def execDownRetryTimeout (p : Fin 8) (s : State) : Out :=
  .next (if powered s && (portOf s p.val).state = 4 && portEnabled s p.val then
    putPort s p.val { portOf s p.val with state := 1 } else s)

/-- A write to a port's configuration retrains it: disabled, or training. -/
def retrain (s : State) (p : Nat) : State := portLost s p (if portEnabled s p then 1 else 0)

/-! ### Flits (R283 to R286) -/

/-- A replay asked for with a retry-request flit that names the expected sequence; the eighth in a row for one sequence is a recovery. -/
def askReplay (s : State) (p : Nat) : State :=
  let x := portOf s p
  let s1 := bump (putPort { s with freeCtr := s.freeCtr + 1 } p { x with asked := true, asks := x.asks + 1 }) (0xA3A0 + p) 2 1
  if 8 ≤ x.asks + 1 then linkRecovery s1 p
  else transmit s1 (16 + p) (flitBytes x 2 0 0xFFFF ((List.range 1264).map (Config.flitFill s.freeCtr)))

/-- Kept flits up to a sequence let go; none where the sequence lies outside the replay buffer. -/
def ackTo (x : Port) (seq : Nat) : Option Port :=
  let n := (seq + 4096 - x.ackSeq) % 4096
  if x.replay.length < n then none else some { x with ackSeq := seq, replay := x.replay.drop n }

/-- Flits acknowledged up to a sequence: the replay buffer freed, waiting frames sent; an acknowledgement outside the buffer is a sequence error. -/
def acknowledge (s : State) (p seq : Nat) : State :=
  match ackTo (portOf s p) seq with
  | none => linkRecovery s p
  | some x => pump (putPort s p x) p

/-- A replay asked for by the neighbour: what comes before the named sequence is acknowledged, the rest sent again in order, then waiting frames (R284). -/
def replayFrom (s : State) (p seq : Nat) : State :=
  match ackTo (portOf s p) seq with
  | none => linkRecovery s p
  | some x => pump (sendFlits (putPort s p x) p seq x.replay) p

/-- A sound frame-data flit by its sequence: the expected one taken in, others discarded; the first that is out of order asks for a replay. -/
def dataFlit (s : State) (p seq : Nat) : State :=
  let x := portOf s p
  if seq = x.rxSeq then putPort s p { x with rxSeq := (x.rxSeq + 1) % 4096, asked := false, asks := 0 }
  else if 2048 ≤ (seq + 4096 - x.rxSeq) % 4096 then linkRecovery s p
  else if x.asked then s else askReplay s p

/-- A flit that does not decode or fails its CRC: discarded; a replay is asked for once, and again where the flit that came again is damaged (R284, R286; DEDUCED, log entry 105). -/
def badFlit (s : State) (p seq : Nat) : State :=
  let x := portOf s p
  if x.asked && seq ≠ x.rxSeq then s else askReplay s p

/-- Whether a flit keeps its layout and its CRC. -/
def flitOk (b : List Byte) : Bool :=
  b.length = 1280 && leAt b 1 1 / 16 < 3 && leAt b 3 1 < 32 && zerosAt b 6 7 && leAt b 1272 8 = crc64 (sub b 0 1272)

/-- A flit received: counted, discarded with a replay request, or taken in. -/
def receiveFlit (s : State) (p : Nat) (b : List Byte) (decoded : Bool) (symbols : Nat) : State :=
  let s1 := bump (bump s (0xA3A0 + p) 3 symbols) (0xA3A0 + p) 4 (if decoded then 0 else 1)
  if !decoded || !flitOk b then badFlit s1 p (leAt b 0 2 % 4096)
  else if leAt b 1 1 / 16 = 2 then replayFrom s1 p (leAt b 2 2 % 4096)
  else
    let s2 := if bitOf (BitVec.ofNat 16 (leAt b 2 2)) 12 then acknowledge s1 p (leAt b 2 2 % 4096) else s1
    if leAt b 1 1 / 16 = 1 && (portOf s2 p).state = 2 then dataFlit s2 p (leAt b 0 2 % 4096) else s2

/-- FLIT_RECEIVE. -/
def execFlitReceive (p : Fin 8) (flit : List Byte) (decoded : Bool) (symbols : Nat) (s : State) : Out :=
  .next (if powered s && (portOf s p.val).state = 2 then receiveFlit s p.val flit decoded symbols else s)

/-- RETRY_REQUEST. -/
def execRetryRequest (p : Fin 8) (seq : Fin 4096) (s : State) : Out :=
  .next (if powered s && (portOf s p.val).state = 2 then replayFrom s p.val seq.val else s)

/-- ACK_TIMEOUT: 1 ms without an acknowledgement while flits are unacknowledged. -/
def execAckTimeout (p : Fin 8) (s : State) : Out :=
  .next (if powered s && (portOf s p.val).replay.length ≠ 0 then linkRecovery s p.val else s)

/-! ### Credits (R278, R293, R294) -/

/-- CREDIT_RETURN_TIMEOUT: a cancel's credit return has not come within 10 ms. -/
def execCreditReturnTimeout (p : Fin 8) (s : State) : Out :=
  .next (if powered s && !(portOf s p.val).awaiting.isEmpty then linkRecovery s p.val else s)

/-- CREDIT_RETURN_SEND. -/
def execCreditReturnSend (p : Fin 8) (s : State) : Out :=
  .next (if powered s && portUp s p.val then sendCredits s p.val 0 0 0 else s)

/-- The credits out after `n` of a class have been returned, the oldest first (DEDUCED, log entry 106). -/
def takeReturned (cls : Nat) : Nat → List OutCredit → List OutCredit
  | _, [] => []
  | n, o :: rest =>
    if o.cls ≠ cls then o :: takeReturned cls n rest
    else if o.cost ≤ n then takeReturned cls (n - o.cost) rest
    else { o with cost := o.cost - n } :: rest

/-- Credits received: each class up to its full count, the answer to a cancel no longer awaited, steps that waited for their credits taken on (R278, R293). -/
def creditsBack (s : State) (p : Nat) (b : List Byte) : State :=
  let x := portOf s p
  let full (k : Nat) : Nat := if k = 8 then 512 else 2048
  let credits := (List.range 9).map (fun k => (k, min (full k) (portCredits x k + leAt b (32 + 2 * k) 2)))
  let out := (List.range 9).foldl (fun o k => takeReturned k (leAt b (32 + 2 * k) 2) o) x.out
  let x' := { x with credits := credits, out := out, awaiting := x.awaiting.erase (frTag b, frStep b, frAttempt b) }
  passEnds (pump (oweCredits (putPort s p x') p b) p)

/-- CREDIT_RETURN. -/
def execCreditReturn (p : Fin 8) (frame : List Byte) (s : State) : Out :=
  .next (withFrame s p.val frame 0x11 (fun s => creditsBack s p.val frame))

/-! ### Link management and forwarding -/

/-- A link-management frame: the neighbour's address; a clash enters conflict, the end of a clash leaves it (R282). -/
def linkManage (s : State) (p : Nat) (b : List Byte) : State :=
  let a := leAt b 32 1
  let s1 := putPort s p { portOf s p with neighbour := a }
  let s2 := oweCredits s1 p b
  if a = (portOf s p).addr then (if (portOf s p).state = 5 then s2 else portTrouble s2 p 5)
  else if (portOf s p).state = 5 && !reached s p a then routeBack (putPort s2 p { portOf s2 p with state := 2 }) p
  else s2

/-- LINK_MANAGEMENT. -/
def execLinkManagement (p : Fin 8) (frame : List Byte) (s : State) : Out :=
  .next (withFrame s p.val frame 0x13 (fun s => linkManage s p.val frame))

/-- FRAME_FORWARD: a data frame for another module passed on (R289, R290). -/
def execFrameForward (p : Fin 8) (frame : List Byte) (s : State) : Out :=
  .next (if powered s && portUp s p.val then
    (if !frameOk frame then discardFrame s p.val frame
     else if frDst frame ≠ (portOf s p.val).addr && frType frame < 0x12 then forwardFrame s p.val frame else s) else s)

/-! ### Tier TP (R300, R301) -/

/-- Whether a peer may use an export, to write it or only to read it. -/
def exportOpen (x : PeerExport) (b : List Byte) (write : Bool) : Bool :=
  x.peers.contains (frSrc b, frCroft b) && (!write || x.writable)

/-- An export with a peer noted as bound. -/
def noteBound (s : State) (n : Nat) (b : List Byte) : State :=
  { s with exports := mapMod s.exports n (fun x => if x.bound.contains (frSrc b, frCroft b) then x else { x with bound := x.bound ++ [(frSrc b, frCroft b)] }) }

/-- One sheaf of an export sent to a reader. -/
def answerRead (s : State) (x : PeerExport) (b : List Byte) (n : Nat) : State :=
  match bindingOf s x.croft x.bset x.index with
  | none => s
  | some y =>
    let r := readBuffer s x.croft x.bset x.index y n
    sendFrameTo r.2 (frSrc b) 0xFF (mkFrame 7 0 (frSrc b) (addrTo r.2 (frSrc b)) 0xFF (frTag b) (frStep b) (frAttempt b) true
      (paramBlock [frParam b 0, n]) (tagBytes r.1.tag ++ bodyBytes r.1) (r.1.marks.map (· + 1)))

/-- A TP read answered from HBM; one that no export admits is discarded with a routing event. -/
def tpReadFrame (s : State) (p : Nat) (b : List Byte) : State :=
  match mapGet? s.exports (frParam b 0) with
  | none => routingEvent (discardFrame s p b) p b
  | some x =>
    let count := ((bindingOf s x.croft x.bset x.index).map (·.count)).getD 0
    if !exportOpen x b false || count < frParam b 1 + frParam b 2 then routingEvent (discardFrame s p b) p b
    else
      let s1 := noteBound (oweCredits s p b) (frParam b 0) b
      (List.range (frParam b 2)).foldl (fun s i => answerRead s x b (frParam b 1 + i)) s1

/-- TP_READ. -/
def execTpRead (p : Fin 8) (frame : List Byte) (s : State) : Out :=
  .next (withFrame s p.val frame 6 (fun s => tpReadFrame s p.val frame))

/-- The sheaf of a TP frame: tag, body, and the marks of its words; a mark on the tag's word stays as one on every word of the body (R292; DEDUCED, log entry 108). -/
def frameSheaf (b : List Byte) : Sheaf :=
  let pay := frPayload b
  let marks := if (frMarks b).contains 0 then List.range 1024 else (frMarks b).map (· - 1)
  ⟨BitVec.ofNat 256 (leAt pay 0 32), cellsOf 0 0 (sub pay 32 32768), marks⟩

/-- A TP data frame: its sheaf lands for every croft whose read it answers, of the attempt that asked, and is counted as accepted payload (R276, R301). -/
def tpDataFrame (s : State) (p : Nat) (b : List Byte) : State :=
  let home := frParam b 0 + 256 * frSrc b
  let n := frParam b 1
  let mine (x : TpAsk) : Bool := x.home = home && x.body = n && x.tag = frTag b && x.step = frStep b && x.attempt = frAttempt b
  let who := (s.crofts.filter (fun k => k.2.tpAsked.any mine)).map (·.1)
  if who.isEmpty then discardFrame s p b
  else
    who.foldl (fun s c => bump (modCroft s c (fun k => { k with
      tpAsked := k.tpAsked.filter (fun x => !mine x), landing := k.landing ++ [(home, n, frameSheaf b)] })) (0xA380 + c) 0x0F (32 * frUnits b))
      (oweCredits s p b)

/-- TP_DATA. -/
def execTpData (p : Fin 8) (frame : List Byte) (s : State) : Out :=
  .next (withFrame s p.val frame 7 (fun s => tpDataFrame s p.val frame))

/-- A TP write: the sheaf put into the exported buffer and its done sent back. -/
def tpWriteFrame (s : State) (p : Nat) (b : List Byte) : State :=
  match mapGet? s.exports (frParam b 0) with
  | none => routingEvent (discardFrame s p b) p b
  | some x =>
    let count := ((bindingOf s x.croft x.bset x.index).map (·.count)).getD 0
    if !exportOpen x b true || count ≤ frParam b 1 then routingEvent (discardFrame s p b) p b
    else
      let s1 := putBufSheaf (noteBound (oweCredits s p b) (frParam b 0) b) x.croft x.bset x.index (frParam b 1) (frameSheaf b)
      sendFrameTo s1 (frSrc b) 0xFF (mkFrame 9 0 (frSrc b) (addrTo s1 (frSrc b)) 0xFF (frTag b) (frStep b) (frAttempt b) true (paramBlock [frParam b 0, 1]) [] [])

/-- TP_WRITE. -/
def execTpWrite (p : Fin 8) (frame : List Byte) (s : State) : Out :=
  .next (withFrame s p.val frame 8 (fun s => tpWriteFrame s p.val frame))

/-- The croft whose published step a write-done frame belongs to. -/
def doneCroft (s : State) (b : List Byte) : Option Nat :=
  s.crofts.findSome? (fun k => (k.2.run.bind (fun r => (mapGet? k.2.jobs r.job).bind (fun j =>
    if jobTag j = frTag b && r.number = frStep b && r.step.attempt = frAttempt b && r.orResult.isSome && r.tpWait ≠ 0 then some k.1 else none))))

/-- The staged writes of an export number with the first `n` of a peer's gone. -/
def dropStaged (s : State) (c : Nat) (j : Job) (key : Nat) : Nat → List Staged → List Staged
  | _, [] => []
  | 0, l => l
  | n + 1, x :: rest =>
    if (bindingOf s c j.bset x.bind).any (fun b => b.key % 65536 = key) then dropStaged s c j key n rest
    else x :: dropStaged s c j key (n + 1) rest

/-- A TP write done: once every sheaf is covered, the step is completed. -/
def tpDoneFrame (s : State) (p : Nat) (b : List Byte) : State :=
  match doneCroft s b with
  | none => discardFrame s p b
  | some c =>
    match stepEnv s c with
    | none => discardFrame s p b
    | some e =>
      let left := dropStaged s c e.j (frParam b 0 + 256 * frSrc b) (frParam b 1) e.r.staged
      let s1 := modRun (oweCredits s p b) c (fun r => { r with staged := left, tpWait := left.length })
      match runOf s1 c with
      | some (k, r) => if r.tpWait = 0 then finishStep s1 c k e.j r (r.orResult.getD false) else s1
      | none => s1

/-- TP_WRITE_DONE. -/
def execTpWriteDone (p : Fin 8) (frame : List Byte) (s : State) : Out :=
  .next (withFrame s p.val frame 9 (fun s => tpDoneFrame s p.val frame))

end Sys2Proof.Machine
end

