-- ==== Sys2Proof/Machine/Health.lean ====
section
/-! DEFINITION. Health: the native record, its warnings, and the capacity of the user pool (R17, R324, R333 to R336). -/

namespace Sys2Proof.Machine

/-- The temperatures of the sensors, as their entries read. -/
def sensorTemps (s : State) : List W32 := (List.range 24).map (fun j => mapGet s.plant.temps j 0)

/-- The composite temperature in K. -/
def compositeTemp (s : State) : Nat := (Config.compositeKelvin (sensorTemps s)).toNat

/-- Whether the composite temperature is over the threshold PF0's feature 0x04 sets; no threshold is set at reset. -/
def overTemp (s : State) : Bool :=
  match mapGet? (nvmeOf s 0).feats 4 with
  | some v => v % 65536 < compositeTemp s
  | none => false

/-- Structures whose copies conflict (R382). -/
def conflicts (s : State) : Nat :=
  (s.packages.filter (fun p => p.2.conflict)).length + (s.crofts.filter (fun p => p.2.store.readOnly)).length +
  (if s.dictConflict then 1 else 0)

/-- The critical warning byte (R335). -/
def criticalWarning (s : State) : Nat :=
  (if availableSpare s < odGet s 0x5000 4 then 1 else 0) + (if overTemp s then 2 else 0) +
  (if s.health.uncorrectable ≠ 0 || conflicts s ≠ 0 then 4 else 0) + (if s.mediaReadOnly then 8 else 0) +
  (if bankEnergy s < flushThreshold s then 16 else 0)

/-- Hours the module has run. -/
def powerOnHours (s : State) : Nat := (s.health.ranNs + clock s) / 3600000000000

/-- The life-used percentage (R334). -/
def lifeUsed (s : State) : Nat := wearFigure s / 10000

/-- The native health record of 128 bytes (R335). -/
def nativeRecord (s : State) : List Byte :=
  let h := s.health
  leBytes 4 0x4C485744 ++ leBytes 2 1 ++ leBytes 1 (criticalWarning s) ++ leBytes 1 (if s.mediaReadOnly then 1 else 0) ++
  leBytes 4 (wearFigure s) ++ leBytes 4 (wearHighest s) ++ leBytes 2 (lifeUsed s) ++ leBytes 1 (availableSpare s) ++
  leBytes 1 (odGet s 0x5000 4) ++ leBytes 4 (odGet s 0x4000 1) ++ leBytes 8 h.hostBytes ++ leBytes 8 h.nandBytes ++
  leBytes 4 h.retired ++ leBytes 2 (compositeTemp s) ++ leBytes 2 0 ++ leBytes 8 h.soft ++ leBytes 8 h.retries ++
  leBytes 8 h.uncorrectable ++ leBytes 8 (powerOnHours s) ++ leBytes 8 h.unsafeStops ++ leBytes 4 s.plant.energy ++
  List.replicate 36 0

/-- The user pool in bytes (R17). -/
def userPool : Nat := 122880000000000

/-- Bytes of the pool in use by namespaces and by the T2 and T3 quotas of the crofts (R324). -/
def poolUsed (s : State) : Nat :=
  (s.namespaces.map (fun p => 4096 * p.2.size)).sum + ((List.range 32).map (fun c => quotaPeak s c 3 + quotaPeak s c 4)).sum

end Sys2Proof.Machine
end

