-- ==== Sys2Proof/Machine/Pcie.lean ====
section
/-! DEFINITION. The PCIe side of the functions: doorbells, registers, enables, interrupts, resets (R305 to R309, R315, R316, R319, R328). -/

namespace Sys2Proof.Machine

/-- Whether a function's port answers: powered, stage 1 reached, PERST_N released, link up (R437). -/
def pcieUp (s : State) : Bool := powered s && 1 ≤ s.power.stage && !s.perst && s.linkUp

/-! ### Doorbells (R309) -/

/-- A work ring's new tail, or its ring-error. -/
def tailDoorbell (s : State) (f n v : Nat) : State :=
  let p := pf1Of s f
  match mapGet? p.wr n with
  | none => s
  | some w =>
    if !p.en then s
    else if w.size ≤ v then ringError (putPf1 s f { p with wr := mapSet p.wr n { w with error := true } }) f w.croft n 0
    else putPf1 s f { p with wr := mapSet p.wr n { w with tail := v } }

/-- WORK_RING_TAIL_DOORBELL. -/
def execWorkRingTailDoorbell (f : Fin 33) (n : Nat) (v : W32) (s : State) : Out :=
  .next (if pcieUp s then tailDoorbell s f.val n (fld v 15 0) else s)

/-- The croft that hears of a completion ring's error: that of a work ring posting to it. -/
def compCroft (p : Pf1) (n : Nat) : Nat := ((p.wr.find? (fun w => w.2.comp = n)).map (·.2.croft)).getD 0xFF

/-- A completion ring's new head, or its ring-error. -/
def compDoorbell (s : State) (f n v : Nat) : State :=
  let p := pf1Of s f
  match mapGet? p.cr n with
  | none => s
  | some r =>
    if !p.en then s
    else if r.size ≤ v then ringError (putPf1 s f { p with cr := mapSet p.cr n { r with error := true } }) f (compCroft p n) n 1
    else putPf1 s f { p with cr := mapSet p.cr n { r with head := v } }

/-- COMPLETION_RING_HEAD_DOORBELL. -/
def execCompletionRingHeadDoorbell (f : Fin 33) (n : Nat) (v : W32) (s : State) : Out :=
  .next (if pcieUp s then compDoorbell s f.val n (fld v 15 0) else s)

/-- An event ring's new head, after which the overflow entry may go, or its ring-error. -/
def eventDoorbell (s : State) (f c v : Nat) : State :=
  match croft? s c with
  | none => s
  | some k =>
    match k.ering with
    | none => s
    | some e =>
      if e.fn ≠ f || !(pf1Of s f).en then s
      else if e.size ≤ v then ringError (putCroft s c { k with ering := some { e with error := true } }) f c c 2
      else overflowEvent (putCroft s c { k with ering := some { e with head := v } }) c

/-- EVENT_RING_HEAD_DOORBELL. -/
def execEventRingHeadDoorbell (f : Fin 33) (c : Fin 32) (v : W32) (s : State) : Out :=
  .next (if pcieUp s then eventDoorbell s f.val c.val (fld v 15 0) else s)

/-! ### CTRL.EN (R307, R319) -/

/-- The admin rings of a function by AQA, AWQ and ACQ; none where a size or a base breaks R308. -/
def adminRings (p : Pf1) : Option (WRing × CRing) :=
  let a := fld p.aqa 11 0 + 1
  let b := fld p.aqa 27 16 + 1
  if ringSizeOk a && ringSizeOk b && p.awq.toNat % 4096 = 0 && p.acq.toNat % 4096 = 0 then
    some (newWRing a p.awq.toNat 0xFF 0xFFFF, newCRing b p.acq.toNat 0 0 0)
  else none

/-- CTRL.EN set: the admin rings accept commands; with sizes or bases that break R308 the function has no admin ring. A ring that was still going (R319) is gone. -/
def enableFn (s : State) (f : Nat) : State :=
  let p := pf1Of s f
  if p.en || p.fatal then s
  else match adminRings p with
    | some r => putPf1 s f { p with en := true, wr := [(0xFFFF, r.1)], cr := [(0xFFFF, r.2)] }
    | none => putPf1 s f { p with en := true, wr := [], cr := [] }

/-- CTRL_EN_SET. -/
def execCtrlEnSet (f : Fin 33) (s : State) : Out := .next (if pcieUp s then enableFn s f.val else s)

/-- A ticket that no ring answers. -/
def noTicket (f : Nat) : Ticket := ⟨f, 0xFFFE, 0, 0, false, 0, 0⟩

/-- The jobs of a croft opened through a function closed as by CLOSE. -/
def closeJobsOf (s : State) (f c : Nat) : State :=
  match croft? s c with
  | none => s
  | some k => ((k.jobs.filter (fun j => j.2.kind < 2 && j.2.fn = f)).map (·.2)).foldl (fun s j =>
      if j.faulted || j.closing.isSome then s else closeOne s c j (noTicket f)) s

/-- What a function made in a croft left to go once no job uses it, and its event ring deleted. -/
def orphanCroft (f : Nat) (k : Croft) : Croft :=
  { k with
    images := mapAll k.images (fun x => if x.fn = f then { x with fn := orphanFn } else x)
    bsets := mapAll k.bsets (fun x => if x.fn = f then { x with fn := orphanFn } else x)
    alm := k.alm.map (fun a => if a.fn = f then { a with fn := orphanFn } else a)
    ering := if k.ering.any (fun e => e.fn = f) then none else k.ering }

/-- The exports left once a function is reset: its own stay only while a peer binds them (R300, R319). -/
def leftExports (l : FMap PeerExport) (f : Nat) : FMap PeerExport :=
  mapAll (l.filter (fun x => x.2.fn ≠ f || !x.2.bound.isEmpty)) (fun x => if x.fn = f then { x with fn := orphanFn } else x)

/-- The effects of R319 on what a function owns: its rings fetch nothing further, its jobs are closed, and each ring goes when every descriptor fetched from it has completed, as RMWR and RMCR would delete it. -/
def dropFunction (s : State) (f : Nat) : State :=
  let p := pf1Of s f
  let s1 := putPf1 s f { p with en := false, wr := mapAll p.wr (fun w => { w with removing := some (w.removing.getD (noTicket f)) }) }
  let s2 := { s1 with exports := leftExports s1.exports f }
  let s3 := (s2.crofts.map (·.1)).foldl (fun s c => markReady (dropOrphans (closeJobsOf (modCroft s c (orphanCroft f)) f c) c) c) s2
  idleComps ((p.wr.map (·.1)).foldl (fun s n => ringDrained s f n) s3) f

/-- CTRL_EN_CLEAR. -/
def execCtrlEnClear (f : Fin 33) (s : State) : Out :=
  .next (if pcieUp s && (pf1Of s f.val).en then dropFunction s f.val else s)

/-! ### Resets (R306, R319, R328) -/

/-- The croft bound to a PF1 function from now on: none for PF1 itself (R306). -/
def boundCroft (s : State) (f : Nat) : Nat := if f = 0 then 0xFF else odGet s 0x2400 f

/-- A PF1 function at reset: R319, its registers at their reset values, a new binding in effect. -/
def resetPf1 (s : State) (f : Nat) : State :=
  let s1 := dropFunction s f
  putPf1 s1 f { pf1Reset with scope := boundCroft s f, nextOrd := (pf1Of s1 f).nextOrd }

/-- PF1_FLR. -/
def execPf1Flr (f : Fin 33) (s : State) : Out := .next (if pcieUp s then resetPf1 s f.val else s)

/-- A controller's record after a reset: saved features, counters and logs stay (R328). -/
def nvmeKept (x : Nvme) : Nvme :=
  { nvmeReset with
    feats := x.savedFeats, savedFeats := x.savedFeats, errors := x.errors, errCount := x.errCount
    unitsRead := x.unitsRead, unitsWritten := x.unitsWritten, reads := x.reads, writes := x.writes, scope := x.scope }

/-- A controller reset as NVMe defines: queues and staging gone, outstanding commands without completion; saved features, counters and logs stay (R328). -/
def resetNvme (s : State) (k : Nat) : State :=
  let s1 := putNvme s k (nvmeKept (nvmeOf s k))
  let mine (t : Option NTicket) : Option NTicket := t.filter (fun t => t.ctrl ≠ k)
  { s1 with
    ops := s1.ops.map (fun o => { o with nticket := mine o.nticket })
    deallocs := s1.deallocs.map (fun d => { d with nticket := mine d.nticket })
    sec := { s1.sec with commit := s1.sec.commit.map (fun j => { j with reply := mine j.reply }) } }

/-- The croft bound to a PF0 function from now on: none for PF0 itself (R306). -/
def nvmeBound (s : State) (k : Nat) : Nat := if k = 0 then 0xFF else odGet s 0x2401 k

/-- One controller reset by its function's FLR: a new binding in effect (R306). -/
def flrOne (s : State) (k : Nat) : State :=
  let s1 := resetNvme s k
  putNvme s1 k { nvmeOf s1 k with scope := nvmeBound s k }

/-- An FLR of PF0 resets its virtual functions too. -/
def flrNvme (s : State) (k : Nat) : State := if k = 0 then (List.range 33).foldl flrOne s else flrOne s k

/-- PF0_FLR. -/
def execPf0Flr (k : Fin 33) (s : State) : Out := .next (if pcieUp s then flrNvme s k.val else s)

/-- Every PF1 function reset by its port, over which nothing can be posted any more: the rings are gone first. -/
def resetAllPf1 (s : State) : State :=
  (List.range 33).foldl resetPf1 { s with pf1 := mapAll s.pf1 (fun p => { p with wr := [], cr := [] }) }

/-- A reset of one port: in the x16 layout port 0 carries every function, in the other port 0 carries PF0 and port 1 PF1 with their virtual functions (R305). -/
def resetPort (s : State) (port : Nat) : State :=
  if s.layout = 0 then (if port = 0 then resetAllPf1 (flrNvme s 0) else s)
  else if port = 0 then flrNvme s 0
  else resetAllPf1 s

/-- HOT_RESET: a hot reset, or loss of link, of a port. -/
def execHotReset (port : Fin 2) (s : State) : Out := .next (if pcieUp s then resetPort s port.val else s)

/-! ### Registers (R307) -/

/-- A half of a 64-bit register replaced. -/
def putHalf (x : W64) (hi : Bool) (v : Nat) : W64 :=
  if hi then BitVec.ofNat 64 (v % 2 ^ 32 * 2 ^ 32 + x.toNat % 2 ^ 32) else BitVec.ofNat 64 (x.toNat / 2 ^ 32 * 2 ^ 32 + v % 2 ^ 32)

/-- An aligned 32-bit write in BAR0. -/
def barWord (s : State) (f offset v : Nat) : State :=
  let p := pf1Of s f
  if offset = 0x08 then (if v % 2 = 1 then enableFn s f else if p.en then dropFunction s f else s)
  else if offset = 0x0C then putPf1 s f { p with rerr := p.rerr && v / 16 % 2 = 0 }
  else if offset = 0x10 then putPf1 s f { p with aqa := BitVec.ofNat 32 v &&& 0x0FFF0FFF }
  else if offset = 0x18 || offset = 0x1C then putPf1 s f { p with awq := putHalf p.awq (offset = 0x1C) v }
  else if offset = 0x20 || offset = 0x24 then putPf1 s f { p with acq := putHalf p.acq (offset = 0x24) v }
  else if offset = 0x1000 then tailDoorbell s f 0xFFFF (v % 65536)
  else if offset = 0x1004 then compDoorbell s f 0xFFFF (v % 65536)
  else if 0x1008 ≤ offset && offset < 0x1008 + 8 * ringCount f then
    (if offset % 8 = 0 then tailDoorbell s f ((offset - 0x1008) / 8) (v % 65536) else compDoorbell s f ((offset - 0x1008) / 8) (v % 65536))
  else if 0x4000 ≤ offset && offset < 0x4080 then eventDoorbell s f ((offset - 0x4000) / 4) (v % 65536)
  else s

/-- A write in BAR0: aligned 32-bit words, aligned 64-bit words for the base addresses, nothing else. -/
def barWrite (s : State) (f offset width v : Nat) : State :=
  if width = 4 && offset % 4 = 0 then barWord s f offset (v % 2 ^ 32)
  else if width = 8 && (offset = 0x18 || offset = 0x20) then barWord (barWord s f offset (v % 2 ^ 32)) f (offset + 4) (v / 2 ^ 32)
  else s

/-- A vector unmasked: a pending interrupt is sent (R316). -/
def unmaskVector (s : State) (f v : Nat) : State :=
  let p := pf1Of s f
  let s1 := putPf1 s f { p with masked := p.masked.filter (· ≠ v), pba := p.pba.filter (· ≠ v) }
  if p.pba.contains v then interrupt s1 f v else s1

/-- MSIX_UNMASK. -/
def execMsixUnmask (f : Fin 33) (vector : Nat) (s : State) : Out :=
  .next (if pcieUp s && (pf1Of s f.val).masked.contains vector then unmaskVector s f.val vector else s)

/-- A word written in the MSI-X table at 0x0: address and data words kept, bit 0 of the control word the mask. -/
def msixWord (s : State) (f offset v : Nat) : State :=
  let p := pf1Of s f
  let n := offset / 16
  if vectorCount f ≤ n then s
  else if offset % 16 = 12 then
    (if v % 2 = 1 then putPf1 s f { p with masked := setIns p.masked n } else if p.masked.contains n then unmaskVector s f n else s)
  else putPf1 s f { p with msix := mapSet p.msix (offset / 4) v }

/-- A write in the MSI-X table. -/
def msixWrite (s : State) (f offset width v : Nat) : State :=
  if width = 4 && offset % 4 = 0 then msixWord s f offset (v % 2 ^ 32)
  else if width = 8 && offset % 8 = 0 then msixWord (msixWord s f offset (v % 2 ^ 32)) f (offset + 4) (v / 2 ^ 32)
  else s

/-- A write to the admin queue registers of an NVMe controller: AQA 0x24, ASQ 0x28, ACQ 0x30. -/
def nvmeRegWrite (s : State) (k offset width v : Nat) : State :=
  let x := nvmeOf s k
  if offset = 0x24 && width = 4 then putNvme s k { x with aqa := BitVec.ofNat 32 v &&& 0x0FFF0FFF }
  else if offset = 0x28 && width = 8 then putNvme s k { x with asq := BitVec.ofNat 64 v }
  else if offset = 0x30 && width = 8 then putNvme s k { x with acq := BitVec.ofNat 64 v }
  else if (offset = 0x28 || offset = 0x2C) && width = 4 then putNvme s k { x with asq := putHalf x.asq (offset = 0x2C) v }
  else if (offset = 0x30 || offset = 0x34) && width = 4 then putNvme s k { x with acq := putHalf x.acq (offset = 0x34) v }
  else s

/-! ### Interrupt coalescing (R316) -/

/-- INTERRUPT_TIME_THRESHOLD: the oldest unsignalled entry of a completion ring is older than the ring's threshold; event rings have no threshold. -/
def execInterruptTimeThreshold (f : Fin 33) (r : RingRef) (s : State) : Out :=
  .next (match r with
    | .completion n =>
      let p := pf1Of s f.val
      match mapGet? p.cr n with
      | some x => if pcieUp s && x.timeTh ≠ 0 && x.unsignalled ≠ 0 then
          interrupt (putPf1 s f.val { p with cr := mapSet p.cr n { x with unsignalled := 0 } }) f.val x.vector else s
      | none => s
    | .event _ => s)

end Sys2Proof.Machine
end

