-- ==== Sys2Proof/Machine/NvmeCmd.lean ====
section
/-! DEFINITION. NVMe commands: fields of a submission entry, taking one from its queue, the checks before its meaning, data transfer by PRP (R320 to R322, R327). -/

namespace Sys2Proof.Machine

/-! ### Fields -/

def sqOpcode (e : Desc) : Nat := byteOf e 0
def sqCid (e : Desc) : Nat := bytesAt e 2 2
def sqNsid (e : Desc) : Nat := bytesAt e 4 4
def sqPrp1 (e : Desc) : Nat := bytesAt e 24 8
def sqPrp2 (e : Desc) : Nat := bytesAt e 32 8

/-- Command dword n, 10 to 15. -/
def cdw (e : Desc) (n : Nat) : Nat := bytesAt e (4 * n) 4

/-! ### Completion with a status -/

/-- A status field by code and code type (code + 256 × type), its do-not-retry bit open except in success (R320). -/
def stField (st : Nat) : Nat := if st = 0 then 0 else st % 2048 + (if Config.nvmeDnr st then 0x4000 else 0)

/-- An entry of log page 0x01 for a command that failed: count, queue, command, status, LBA, namespace. -/
def errorEntry (n : Nat) (t : NTicket) (status lba nsid : Nat) : List Byte :=
  leBytes 8 n ++ leBytes 2 t.sq ++ leBytes 2 t.cid ++ leBytes 2 (2 * status) ++ leBytes 2 0xFFFF ++ leBytes 8 lba ++ leBytes 4 nsid ++
  List.replicate 36 0

/-- A command completed with success and dword 0. -/
def nvmeDone (s : State) (t : NTicket) (dw0 : Nat) : State := nvmeComplete s t dw0 0

/-- A command completed with an error status. -/
def nvmeFail (s : State) (t : NTicket) (st : Nat) : State := nvmeComplete s t 0 (stField st)

/-- A command that met an error of the media or the module: its log entry, then its completion (R383). -/
def nvmeMediaFail (s : State) (t : NTicket) (st lba nsid : Nat) : State :=
  let x := nvmeOf s t.ctrl
  let n := x.errCount + 1
  nvmeFail (putNvme s t.ctrl { x with errCount := n, errors := (errorEntry n t (stField st) lba nsid :: x.errors).take 64 }) t st

/-- Status codes. -/
def ncInvalidOpcode : Nat := 0x01
def ncInvalidField : Nat := 0x02
def ncDataTransfer : Nat := 0x04
def ncInternal : Nat := 0x06
def ncAborted : Nat := 0x07
def ncInvalidNs : Nat := 0x0B
def ncPrpOffset : Nat := 0x13
def ncSanitizeFailed : Nat := 0x1C
def ncSanitizeRunning : Nat := 0x1D
def ncWriteProtected : Nat := 0x20
def ncLbaRange : Nat := 0x80
def ncNsNotReady : Nat := 0x82
def ncUnrecovered : Nat := 0x281
def ncCompareFailure : Nat := 0x285

/-! ### Taking a command -/

/-- Whether a controller takes commands on a queue: its port up, enabled and ready, the queue and its completion queue there (R322). -/
def nvmeTakes (s : State) (k q : Nat) : Bool :=
  let x := nvmeOf s k
  pcieUp s && x.en && x.rdy && match mapGet? x.sq q with
    | some sq => (mapGet? x.cq sq.cq).isSome
    | none => false

/-- A command taken from its queue: its ticket, the queue's head advanced. -/
def nvmeTicket (s : State) (k q : Nat) (e : Desc) : NTicket × State :=
  let x := nvmeOf s k
  match mapGet? x.sq q with
  | none => (⟨k, q, sqCid e, 0⟩, s)
  | some sq =>
    let h := (sq.head + 1) % sq.size
    (⟨k, q, sqCid e, h⟩, putNvme s k { x with sq := mapSet x.sq q { sq with head := h } })

/-- Opcodes of the admin and I/O commands (R320). -/
def nvmeAdminOps : List Nat := [0x00, 0x01, 0x02, 0x04, 0x05, 0x06, 0x08, 0x09, 0x0A, 0x0C, 0x0D, 0x10, 0x11, 0x15, 0x80, 0x84]
def nvmeIoOps : List Nat := [0x00, 0x01, 0x02, 0x05, 0x08, 0x09, 0x0C, 0x81]

/-- Admin commands of PF0 alone. -/
def pf0Only : List Nat := [0x0D, 0x10, 0x11, 0x15, 0x80, 0x84]

/-- Admin commands and I/O commands served in stage 2 (R322). -/
def stage2Admin : List Nat := [0x00, 0x01, 0x02, 0x04, 0x05, 0x06, 0x09, 0x0A, 0x0C]
def stage2Io : List Nat := [0x00, 0x01, 0x02, 0x05, 0x08, 0x09, 0x0C]

/-- Commands let through while a sanitize runs or has failed: the admin commands that touch no namespace, Sanitize itself, and Flush (PRESUMED, from the NVMe specification the spec cites). -/
def sanitizeAllows (admin : Bool) (op : Nat) : Bool :=
  if admin then op ≠ 0x0D && op ≠ 0x80 && op ≠ 0x10 && op ≠ 0x15 else op = 0x00

/-- The reserved bits of dwords 10 to 15 of a command, as masks (R10; PRESUMED, log entry 111: the dwords of the NVM Express specifications R320 names). -/
def reservedMasks (admin : Bool) (op : Nat) : List Nat :=
  let all := 0xFFFFFFFF
  if admin then
    if op = 0x00 || op = 0x04 then [0xFFFF0000, all, all, all, all, all]
    else if op = 0x01 then [0, 0xFFF8, 0xFFFF0000, all, all, all]
    else if op = 0x05 then [0, 0xFFFC, all, all, all, all]
    else if op = 0x02 then [0, 0, 0, 0, 0x7FFF80, all]
    else if op = 0x06 then [0xFF00, 0xFF0000, all, all, 0xFFFFFF80, all]
    else if op = 0x08 then [0, all, all, all, all, all]
    else if op = 0x09 then [0x7FFFFF00, 0, 0, 0, 0xFFFFFF80, 0]
    else if op = 0x0A then [0xFFFFF800, 0, 0, 0, 0xFFFFFF80, 0]
    else if op = 0x0C then [all, all, all, all, all, all]
    else if op = 0x0D then [0xFFFFFFF0, 0xFFFFFF, all, all, all, all]
    else if op = 0x10 then [0x7FFFFFC0, all, all, all, all, all]
    else if op = 0x11 then [0, 0, all, all, all, all]
    else if op = 0x15 then [0xFFFFFFF0, all, all, all, all, all]
    else if op = 0x80 then [0xFFFFC000, all, all, all, all, all]
    else if op = 0x84 then [0xFFFFFC00, 0, all, all, all, all]
    else []
  else if op = 0x00 then [all, all, all, all, all, all]
  else if op = 0x01 then [0, 0, 0x20F0000, 0xFF00, 0, 0]
  else if op = 0x02 then [0, 0, 0x2FF0000, 0xFFFFFF00, 0, 0]
  else if op = 0x05 || op = 0x0C then [0, 0, 0x2FF0000, all, 0, 0]
  else if op = 0x08 then [0, 0, 0xFF0000, all, 0, 0]
  else if op = 0x09 then [0xFFFFFF00, 0xFFFFFFF8, all, all, all, all]
  else []

/-- Whether a command's reserved fields are zero: byte 1, dwords 2 and 3 of a command that addresses no blocks, and its own of dwords 10 to 15 (R10). -/
def reservedOk (admin : Bool) (e : Desc) : Bool :=
  byteOf e 1 = 0 && (!(admin || sqOpcode e = 0 || sqOpcode e = 9) || descZero e 8 15) &&
  (reservedMasks admin (sqOpcode e)).zipIdx.all (fun m => cdw e (10 + m.2) &&& m.1 = 0)

/-- The status of a command before its own meaning is looked at, 0 where it goes on: opcode, function, reserved fields with the fused and SGL bits, stage, sanitize (R320, R322, R327). -/
def nvmeGate (s : State) (k : Nat) (admin : Bool) (e : Desc) : Nat :=
  let op := sqOpcode e
  if admin && k ≠ 0 && pf0Only.contains op then ncInvalidOpcode
  else if !reservedOk admin e then ncInvalidField
  else if s.power.stage < 3 && !(if admin then stage2Admin.contains op else stage2Io.contains op) then ncNsNotReady
  else if sanitizeAllows admin op then 0
  else if s.sanitize.running then ncSanitizeRunning
  else if s.sanitize.failed then ncSanitizeFailed
  else 0

/-- A command of the given opcode taken, judged and given its effect; an unknown opcode completes as invalid, the word of another row is left for that row; not-ready names the stage in dword 0 (R25; DEDUCED, log entry 111). -/
def withNvme (s : State) (k : Fin 33) (q : Nat) (e : Desc) (op : Nat) (effect : State → NTicket → State) : State :=
  let admin := q = 0
  if !nvmeTakes s k.val q then s
  else if sqOpcode e ≠ op then
    if (if admin then nvmeAdminOps.contains (sqOpcode e) else nvmeIoOps.contains (sqOpcode e)) then s
    else let p := nvmeTicket s k.val q e; nvmeFail p.2 p.1 ncInvalidOpcode
  else
    let p := nvmeTicket s k.val q e
    let g := nvmeGate s k.val admin e
    if g = ncNsNotReady then nvmeComplete p.2 p.1 s.power.stage ncNsNotReady
    else if g ≠ 0 then nvmeFail p.2 p.1 g
    else effect p.2 p.1

/-- An I/O command: never on the admin queue. -/
def withIo (s : State) (k : Fin 33) (q : Nat) (e : Desc) (op : Nat) (effect : State → NTicket → State) : State :=
  if q = 0 then s else withNvme s k q e op effect

/-! ### PRP lists -/

/-- Entries of a PRP list read from the host until `n` bytes are covered; the last entry of a page chains while more than a page is left. `fuel` bounds the entries. -/
def prpList (s : State) : Nat → Nat → Nat → Option (List (Nat × Nat))
  | 0, _, _ => none
  | fuel + 1, a, n =>
    if n = 0 then some []
    else match hostRead s a 8 with
      | none => none
      | some b =>
        let p := leAt b 0 8
        if a % 4096 = 4088 && 4096 < n then prpList s fuel p n
        else (prpList s fuel (a + 8) (n - min n 4096)).map (fun l => (p, min n 4096) :: l)

/-- The host ranges of a transfer of `n` bytes: a status, or the (address, length) pieces (PRP offset invalid, data transfer error). -/
def prpPieces (s : State) (e : Desc) (n : Nat) : Except Nat (List (Nat × Nat)) :=
  let a := sqPrp1 e
  let first := min n (4096 - a % 4096)
  let rest := n - first
  if a % 4 ≠ 0 then .error ncPrpOffset
  else if rest = 0 then .ok [(a, first)]
  else if rest ≤ 4096 then (if sqPrp2 e % 4096 = 0 then .ok [(a, first), (sqPrp2 e, rest)] else .error ncPrpOffset)
  else if sqPrp2 e % 8 ≠ 0 then .error ncPrpOffset
  else match prpList s 1024 (sqPrp2 e) rest with
    | none => .error ncDataTransfer
    | some l => if l.all (fun p => p.1 % 4096 = 0) then .ok ((a, first) :: l) else .error ncPrpOffset

/-- The bytes of host ranges in order, none where one faults or is poisoned (R376). -/
def readPieces (s : State) : List (Nat × Nat) → Option (List Byte)
  | [] => some []
  | p :: rest =>
    match hostRead s p.1 p.2, readPieces s rest with
    | some a, some b => some (a ++ b)
    | _, _ => none

/-- Bytes spread over host ranges in order. -/
def writePieces (s : State) : List (Nat × Nat) → List Byte → State
  | [], _ => s
  | p :: rest, b => writePieces (hostWrite s p.1 (b.take p.2)) rest (b.drop p.2)

/-- Data from the host: a status or the bytes. -/
def dataIn (s : State) (e : Desc) (n : Nat) : Except Nat (List Byte) :=
  match prpPieces s e n with
  | .error x => .error x
  | .ok l => match readPieces s l with
    | some b => .ok b
    | none => .error ncDataTransfer

/-- Whether the host takes `n` bytes of a command. -/
def dataFits (s : State) (e : Desc) (n : Nat) : Bool :=
  match prpPieces s e n with
  | .error _ => false
  | .ok l => l.all (fun p => hostWritable s p.1 p.2)

/-- A command that transfers data to the host and completes, or fails. -/
def dataOut (s : State) (t : NTicket) (e : Desc) (b : List Byte) (dw0 : Nat) : State :=
  match prpPieces s e b.length with
  | .error x => nvmeFail s t x
  | .ok l => if l.all (fun p => hostWritable s p.1 p.2) then nvmeDone (writePieces s l b) t dw0 else nvmeFail s t ncDataTransfer

/-! ### Namespaces of a controller -/

/-- A namespace as a command of a controller names it: a status, or the namespace attached to it (R324). -/
def nsNamed (s : State) (k nsid : Nat) : Except Nat Namespace :=
  if nsid = 0 || 256 < nsid then .error ncInvalidNs
  else match nsOf s nsid with
    | some n => if n.ctrl = some k then .ok n else .error ncInvalidField
    | none => .error ncInvalidField

end Sys2Proof.Machine
end

