-- ==== Sys2Proof/Machine/Hbm.lean ====
section
/-! DEFINITION. HBM: scrub engines and patrol, the corrected-rate and hot-channel monitors, throttling by temperature and self-refresh (R158, R159, R371, R372, R377 to R380, R385, R434). -/

namespace Sys2Proof.Machine

/-- The state with a stack's record replaced. -/
def putStack (s : State) (st : Nat) (h : Stack) : State := { s with hbm := mapSet s.hbm st h }

/-! ### Who holds a frame -/

/-- What a T1 frame holds: a sheaf of a buffer binding (croft, set, binding, sheaf) or a resident copy. -/
inductive Holder where
  | buffer (c h i n : Nat) (sh : Sheaf)
  | copy (c : Nat) (y : Copy)
  deriving DecidableEq, Repr

/-- The buffer sheaf of a croft in a frame. -/
def bufferIn (c : Nat) (k : Croft) (fr : Nat) : Option Holder :=
  k.bsets.findSome? (fun b => b.2.binds.zipIdx.findSome? (fun x =>
    (x.1.frames.find? (fun f => f.2 = fr)).map (fun f => .buffer c b.1 x.2 f.1 (mapGet x.1.sheaves f.1 sheafZero))))

/-- The holder of a frame. -/
def holderOf (s : State) (fr : Nat) : Option Holder :=
  s.crofts.findSome? (fun p => match bufferIn p.1 p.2 fr with
    | some h => some h
    | none => (p.2.copies.find? (fun y => y.frame = some fr)).map (fun y => .copy p.1 y))

/-- The sheaf of a holder. -/
def heldSheaf : Holder → Sheaf
  | .buffer _ _ _ _ sh => sh
  | .copy _ y => y.sheaf

/-- The croft of a holder. -/
def heldCroft : Holder → Nat
  | .buffer c _ _ _ _ => c
  | .copy c _ => c

/-- A holder's sheaf replaced in place. -/
def putHeld (s : State) (sh : Sheaf) : Holder → State
  | .buffer c h i n _ => modCroft s c (fun k => { k with bsets := mapMod k.bsets h (fun x => { x with
      binds := x.binds.mapIdx (fun j b => if j = i then { b with sheaves := mapSet b.sheaves n sh } else b) }) })
  | .copy c y => modCroft s c (fun k => { k with copies := setCopy k { y with sheaf := sh } })

/-! ### Scanning -/

/-- What a scan has found: corrected, uncorrectable, already poisoned, address errors, the first uncorrectable word, copies repaired, and corrections by symbol position. -/
structure Scan where
  corrected : Nat
  bad : Nat
  poisoned : Nat
  address : Nat
  first : Option Nat
  repaired : Nat
  histogram : FMap Nat
  deriving DecidableEq, Repr

/-- A scan that has found nothing. -/
def scanNone : Scan := ⟨0, 0, 0, 0, none, 0, []⟩

/-- The scan with one decoded word counted by what it was found to be (R378). -/
def scanCount (z : Scan) (w : Nat) (d : Decoded) : Scan :=
  if d.bad then { z with
    bad := z.bad + 1, address := z.address + (if d.address then 1 else 0), first := match z.first with
      | some x => some x
      | none => some w }
  else match d.fix with
    | some (i, _) => { z with corrected := z.corrected + 1, histogram := mapSet z.histogram i (mapGet z.histogram i 0 + 1) }
    | none => if d.poisoned then { z with poisoned := z.poisoned + 1 } else z

/-- One word that carries an error pattern scanned: a corrected one is written back, an uncorrectable one rewritten poisoned, or its copy filled again from its home (R371, R372, R378). -/
def scanWord (st : Nat) (p : Scan × State) (w : Nat) : Scan × State :=
  match mapGet? (stackOf p.2 st).errors w with
  | none => p
  | some e =>
    let fr := st * stackFrames + w / 1024
    let strong := (mapGet p.2.frames fr ⟨0, true⟩).strong
    match holderOf p.2 fr with
    | some h =>
      let r := readWord strong e (heldSheaf h) (w % 1024)
      let s1 := putPattern (wordEvents p.2 (some (heldCroft h)) st w strong r.2) st w 0
      let z := scanCount p.1 w r.2
      match h, r.2.bad with
      | .copy c y, true => ({ z with repaired := z.repaired + 1 }, (repairCopy s1 c fr y).2)
      | _, _ => (z, if r.1 = heldSheaf h then s1 else putHeld s1 r.1 h)
    | none =>
      let d := decodeWord strong ((stackOf p.2 st).logged.contains w) e
      let s1 := putPattern (wordEvents p.2 none st w strong d) st w 0
      let h1 := stackOf s1 st
      (scanCount p.1 w d, if d.bad then putStack s1 st { h1 with logged := setIns h1.logged w } else s1)

/-- Poisoned words of a range that carry no error pattern: marks of the sheaves in its frames, and words outside any sheaf. -/
def poisonedIn (s : State) (st lo n : Nat) : Nat :=
  let clean (w : Nat) : Bool := lo ≤ w && w < lo + n && !(stackOf s st).errors.any (fun e => e.1 = w)
  ((s.frames.filter (fun f => f.1 / stackFrames = st)).map (fun f => match holderOf s f.1 with
    | some h => ((heldSheaf h).marks.filter (fun i => clean (f.1 % stackFrames * 1024 + i))).length
    | none => 0)).sum + ((stackOf s st).logged.filter clean).length

/-- The words from `lo` on scanned in ascending order (R378). -/
def scanRange (s : State) (st lo n : Nat) : Scan × State :=
  let ws := ((stackOf s st).errors.map (·.1)).filter (fun w => lo ≤ w && w < lo + n)
  ws.foldl (scanWord st) ({ scanNone with poisoned := poisonedIn s st lo n }, stackAccess s st)

/-- The summary record of a scrub (R379). -/
def scrubSummary (st flags start len words : Nat) (z : Scan) (t0 t1 : Nat) : List Byte :=
  leBytes 4 0x43535744 ++ leBytes 2 1 ++ leBytes 1 st ++ leBytes 1 flags ++ leBytes 8 start ++ leBytes 8 len ++ leBytes 8 words ++
  leBytes 8 z.corrected ++ leBytes 8 z.bad ++ leBytes 8 z.poisoned ++ leBytes 8 z.address ++
  leBytes 8 (match z.first with
    | some w => 32 * w
    | none => 2 ^ 64 - 1) ++
  leBytes 8 z.repaired ++ leBytes 8 t0 ++ leBytes 8 t1 ++
  (List.range 36).flatMap (fun i => leBytes 4 (mapGet z.histogram i 0)) ++ List.replicate 16 0

/-! ### Scrubs -/

/-- Bytes of a stack. -/
def stackBytes : Nat := 68719476736

/-- Whether a scrub of a stack may start with the range its entries hold (R377). -/
def scrubMayStart (s : State) (st : Nat) : Bool :=
  let start := odGet s (0x5200 + st) 1
  let len := odGet s (0x5200 + st) 2
  (stackOf s st).scrub.state ≠ 1 && start % 32 = 0 && len % 32 = 0 && len ≠ 0 && start + len ≤ stackBytes

/-- A scrub started (R377). -/
def scrubStart (s : State) (st : Nat) : State :=
  if scrubMayStart s st then
    let h := stackOf s st
    putStack s st { h with scrub := { h.scrub with
      state := 1, start := odGet s (0x5200 + st) 1, length := odGet s (0x5200 + st) 2, bell := s.bell.count } }
  else s

/-- A running scrub ends after a number of words, with its summary and event 0x0104 (R377 to R379). -/
def scrubFinish (s : State) (st words flags state : Nat) : State :=
  let c := (stackOf s st).scrub
  let p := scanRange s st (c.start / 32) words
  let h := stackOf p.2 st
  let b := scrubSummary st flags c.start c.length words p.1 c.bell s.bell.count
  logEvent (putStack p.2 st { h with scrub := { h.scrub with state := state, summary := b } }) 0x0104 0 0 st 0 0xFF 0
    [BitVec.ofNat 8 st, BitVec.ofNat 8 flags]

/-- A running scrub stopped: how many words it has scanned by then the spec leaves open (R377). -/
def scrubHalt (s : State) (st flags : Nat) : State :=
  if (stackOf s st).scrub.state = 1 then
    let p := fresh s
    scrubFinish p.2 st (p.1.toNat % ((stackOf s st).scrub.length / 32 + 1)) flags 3
  else s

/-- SCRUB_START: the stacks are trained at full service (R25, R437). -/
def execScrubStart (st : Fin 8) (s : State) : Out := .next (if powered s && s.reeveUp && s.power.stage = 3 then scrubStart s st.val else s)

/-- SCRUB_STOP. -/
def execScrubStop (st : Fin 8) (s : State) : Out := .next (if powered s && s.reeveUp then scrubHalt s st.val 2 else s)

/-- SCRUB_END: the end of the range is reached. -/
def execScrubEnd (st : Fin 8) (s : State) : Out :=
  .next (if powered s && (stackOf s st.val).scrub.state = 1 then
    scrubFinish s st.val ((stackOf s st.val).scrub.length / 32) 1 2 else s)

/-- PATROL_SCRUB: a pass over the whole stack, unless patrol is disabled or a commanded scrub runs (R380). -/
def execPatrolScrub (st : Fin 8) (s : State) : Out :=
  .next (if powered s && s.power.stage = 3 && odGet s 0x5208 2 ≠ 0 && (stackOf s st.val).scrub.state ≠ 1 then
    let p := scanRange s st.val 0 (stackBytes / 32)
    let h := stackOf p.2 st.val
    putStack p.2 st.val { h with scrub := { h.scrub with
      patrol := scrubSummary st.val 9 0 stackBytes (stackBytes / 32) p.1 s.bell.count s.bell.count } }
  else s)

/-! ### Monitors -/

/-- CORRECTED_RATE_THRESHOLD: more corrected words in the hour than the threshold raise event 0x0100 once (R385). -/
def execCorrectedRateThreshold (st : Fin 8) (ch : Fin 32) (s : State) : Out :=
  .next (
    let h := stackOf s st.val
    let hour := clock s / 3600000000000
    match mapGet? h.corrected ch.val with
    | some (t, n) =>
      if powered s && t = hour && odGet s 0x5208 3 < n && mapGet h.rated ch.val 0 ≠ hour + 1 then
        logEvent (putStack s st.val { h with rated := mapSet h.rated ch.val (hour + 1) }) 0x0100 1 0 st.val (2 * ch.val) 0xFF 0 (leBytes 8 n)
      else s
    | none => s)

/-- What a window has moved beside whole sheaves: the accesses of less than a sheaf by channel, croft and bytes, and the bytes of the module's own scrubs, which lie on all channels alike. -/
structure HotPart where
  short : List (Fin 32 × Fin 32 × Nat)
  own : Nat
  deriving DecidableEq, Repr

/-- The parts a HOT_CHANNEL_WINDOW carries. -/
def hotPart (ch : List (Fin 32)) (bytes : List Nat) (own : Nat) (c : List (Fin 32)) : HotPart := ⟨ch.zip (c.zip bytes), own⟩

/-- Bytes a croft has moved on a channel in the present window: a thirty-second of its whole sheaves (R156 puts four granules of a sheaf on every channel), and its shorter accesses. -/
def channelBytes (h : Stack) (x : HotPart) (ch c : Nat) : Nat :=
  mapGet h.moved c 0 / 32 + ((x.short.filter (fun x => x.1.val = ch && x.2.1.val = c)).map (·.2.2)).sum

/-- Bytes moved by a stack in the present window. -/
def stackMoved (h : Stack) (x : HotPart) : Nat := (h.moved.map (·.2)).sum + (x.short.map (·.2.2)).sum + x.own

/-- Bytes moved on a channel in the present window. -/
def onChannel (h : Stack) (x : HotPart) (ch : Nat) : Nat := ((List.range 32).map (channelBytes h x ch)).sum + x.own / 32

/-- The croft that moved the most on a channel, the lowest on ties (R158). -/
def hotCroft (h : Stack) (x : HotPart) (ch : Nat) : Nat :=
  (List.range 32).foldl (fun b c => if channelBytes h x ch b < channelBytes h x ch c then c else b) 0

/-- Whether a channel is hot: above the factor's share of its stack's bytes, and above the floor's share of what 80 GB/s move in the window (R158). -/
def isHot (h : Stack) (x : HotPart) (ch : Nat) : Bool :=
  h.hotSet.2.1 * stackMoved h x < 256 * onChannel h x ch && h.hotSet.2.2.1 * 80000000 * h.hotSet.1 < 100 * onChannel h x ch

/-- Whether a channel has raised its event within the hold-off time (R158). -/
def hotHeld (s : State) (h : Stack) (ch : Nat) : Bool := (mapGet? h.hotAt ch).any (fun t => clock s < t + h.hotSet.2.2.2 * 1000000)

/-- The hot channels of a window that raise their event. -/
def hotChannels (s : State) (st : Nat) (x : HotPart) : List Nat :=
  (List.range 32).filter (fun ch => isHot (stackOf s st) x ch && !hotHeld s (stackOf s st) ch)

/-- The event of one hot channel, on the ring of the croft that moved the most and in the log (R158, R173). -/
def raiseHot (h : Stack) (x : HotPart) (st : Nat) (s : State) (ch : Nat) : State :=
  let c := hotCroft h x ch
  let s1 := putStack s st { stackOf s st with hotAt := mapSet (stackOf s st).hotAt ch (clock s) }
  errorEvent (odPut (bump s1 0xA2C0 1 1) 0xA2C0 2 (32 * st + ch)) (some c) 3 0 0 st (2 * ch) 0xFF 0
    ([BitVec.ofNat 8 st, BitVec.ofNat 8 ch] ++ leBytes 8 (onChannel h x ch) ++ leBytes 8 (stackMoved h x) ++ leBytes 1 c)

/-- HOT_CHANNEL_WINDOW: a window of `ms` milliseconds of a stack's monitor ends; its hot channels raise their events, and the next window begins with the parameters the entries then hold. The bytes are those the model's whole-sheaf accesses have moved, and those the command names: channel, croft and bytes of the accesses of less than a sheaf, and what the module's own scrubs moved, which depend on timing and grade (R158, R242, R280; log entry 54). No window of another length than the one in effect ends. -/
def execHotChannelWindow (st : Fin 8) (ch : List (Fin 32)) (bytes : List Nat) (own ms : Nat) (c : List (Fin 32)) (s : State) : Out :=
  .next (if powered s && (stackOf s st.val).hotSet.1 = ms then
    let h := stackOf s st.val
    let x := hotPart ch bytes own c
    let s1 := (hotChannels s st.val x).foldl (raiseHot h x st.val) s
    putStack s1 st.val { stackOf s1 st.val with
      moved := [], hotSet := (odGet s 0x4020 1, odGet s 0x4020 2, odGet s 0x4020 3, odGet s 0x4020 4) }
  else s)

/-- HBM_TEMPERATURE_READING: above the limit the channel's rate is halved once more, down to one eighth; 3 degrees below it full rate returns; a millisecond throttled is counted (R159). -/
def execHbmTemperatureReading (st : Fin 8) (ch : Fin 32) (t : W32) (s : State) : Out :=
  .next (
    let h := stackOf s st.val
    let x := mapGet h.throttle ch.val 0
    let limit := x32 (odGet s 0x4020 5)
    let now : Nat :=
      if xLt limit (x32 t.toNat) then min 3 (x + 1)
      else if xLt (xAdd limit (.num (-3) 0)) (x32 t.toNat) then x else 0
    if powered s then
      let s1 := putStack s st.val { h with throttle := if now = 0 then mapDel h.throttle ch.val else mapSet h.throttle ch.val now }
      bump s1 0xA2C0 3 (if x = 0 then 0 else 1)
    else s)

/-- HBM_SELF_REFRESH_ENTRY: a stack without access for the idle time, unless the idle time is 0 or WAKE_N is active (R434). -/
def execHbmSelfRefreshEntry (st : Fin 8) (s : State) : Out :=
  .next (if powered s && s.power.stage = 3 && gatingOn s && !inputOn s 4 && (stackOf s st.val).scrub.state ≠ 1 then
    putStack s st.val { stackOf s st.val with selfRefresh := true } else s)

end Sys2Proof.Machine
end

