-- ==== Sys2Proof/Machine/PowerBase.lean ====
section
/-! DEFINITION. The write mode, the end of a re-learn, and the start of a flush (R425, R440 to R442). -/

namespace Sys2Proof.Machine

/-! ### Write mode (R440) -/

/-- The write mode brought to what its conditions give, with event 0x0613 where it moves. -/
def modeCheck (s : State) : State :=
  let now : Nat := if protectedNow s then 1 else 0
  if now = s.power.mode then s
  else moduleEvent { s with power := { s.power with mode := now } } 0x0613 (leBytes 1 now ++ leBytes 4 (bankEnergy s))

/-- Whether the bank holds less than the flush energy: critical warning bit 4 (R335, R440). -/
def energyLow (s : State) : Bool := bankEnergy s < flushThreshold s

/-- The state after a change of the bank or of its limits: the notice of warning bit 4 where it is newly set, and the write mode. -/
def energyCheck (before s : State) : State :=
  modeCheck (if energyLow s && !energyLow before then smartNotice s 4 0 else s)

/-! ### Re-learn (R425) -/

/-- A running re-learn ended in a state: 2 done, 4 failed, with its event; a done one is counted. -/
def relearnEnd (s : State) (state : Nat) : State :=
  let s1 := { s with plant := { s.plant with relearnState := state, refused := false } }
  moduleEvent (bump s1 0xA480 2 (if state = 2 then 1 else 0)) 0x0608 (leBytes 1 s.plant.relearn ++ leBytes 1 state)

/-- The bank's state after a bank re-learn that did not succeed: fault where it was to clear one, else charging (R423). -/
def bankAfterFail (s : State) : State :=
  if s.plant.relearn = 2 then { s with plant := { s.plant with bank := if s.plant.clearing || s.plant.bank = 4 then 4 else 0, clearing := false } } else s

/-- A running re-learn aborted: failed, the values as they were. -/
def relearnAbort (s : State) : State := if s.plant.relearnState = 1 then bankAfterFail (relearnEnd s 4) else s

/-! ### The flush (R441) -/

/-- The commits of a croft that need nothing but their record recorded, in order, at most `n` (R441 step 3); a hold they serve finds the host gone. -/
def flushCommits (c : Nat) : Nat → State → State
  | 0, s => s
  | n + 1, s =>
    flushCommits c n (sealedCommit (modStore s c (fun st => { st with
      commits := st.commits.map (fun m => { m with hold := none, ticket := none }) })) c)

/-- The running steps aborted in croft order (R274, R441 step 2). -/
def abortAll (s : State) : State := (s.crofts.map (·.1)).foldl (abortStep false) s

/-- The flush started: the host link gone, running steps aborted, erases and a re-learn abandoned, the bank flushing. -/
def flushBegin (s : State) (cause : Nat) : State :=
  let s1 := { relearnAbort s with pf1 := [], linkUp := false }
  let s2 := abortAll { s1 with power := { s1.power with phase := 2, cause := cause, mode := 0 } }
  { s2 with
    packages := mapAll s2.packages (fun x => { x with suspends := [] })
    plant := { s2.plant with bank := if s2.plant.bank = 4 then 4 else 2 } }

/-- A flush trigger: it starts one, unless the module is not up (R442). -/
def flushStart (s : State) (cause : Nat) : State := if powered s then flushBegin s cause else s

end Sys2Proof.Machine
end

