-- ==== Sys2Proof/Machine/Firmware.lean ====
section
/-! DEFINITION. Firmware: images and their checks, the two slots, the boot ROM, commits, anti-rollback counters (R326, R444 to R450, R457). -/

namespace Sys2Proof.Machine

/-! ### Slots and images (R444) -/

/-- A slot that holds nothing. -/
def slotEmpty : Slot := ⟨false, [], [], [], [], none⟩

/-- A slot, 1 or 2. -/
def slotOf (s : State) (n : Nat) : Slot := mapGet s.sec.slots n slotEmpty

/-- The state with a slot replaced. -/
def putSlot (s : State) (n : Nat) (x : Slot) : State := { s with sec := { s.sec with slots := mapSet s.sec.slots n x } }

/-- The first byte of a slot's bank in the code flash. -/
def bankBase (n : Nat) : Nat := if n = 1 then 0 else 0xC0000

/-- The most bytes a Reeve image has (R445). -/
def reeveLimit : Nat := 764 * 1024

/-- The Reeve image in a slot's bank: its header and the body it names. -/
def reeveImage (s : State) (n : Nat) : List Byte :=
  let len := 512 + leNat (memGetL 0xFF s.flash.bytes (bankBase n + 12) 4)
  memGetL 0xFF s.flash.bytes (bankBase n) (min len (reeveLimit + 1))

/-- The copies of an image of a slot, by kind: 1 Reeve, 2 module firmware, 3 microcode. -/
def slotImages (s : State) (n kind : Nat) : List (List Byte) :=
  let x := slotOf s n
  if kind = 1 then [reeveImage s n] else if kind = 2 then [x.fw, x.fw2] else [x.ucode, x.ucode2]

/-- An anti-rollback counter (R449). -/
def counterOf (s : State) (i : Nat) : Nat := mapGet s.fuse.counters i 0

/-- Whether the reserved fields of a header are zero and its other fields in range (R444, R445 check 1). -/
def headerOk (b : List Byte) (kind : Nat) : Bool :=
  leAt b 0 4 = 0x49465744 && leAt b 4 2 = 1 && leAt b 6 1 = kind && leAt b 7 1 < 16 && leAt b 8 2 ≤ 64 &&
  zerosAt b 10 11 && zerosAt b 52 63 && zerosAt b 242 255 && zerosAt b 370 383 && zerosAt b 498 511 &&
  (kind ≠ 4 || zerosAt b 48 51)

/-- The first check of R445 that an image fails, 0 where all pass. -/
def imageFails (s : State) (b : List Byte) (kind : Nat) : Nat :=
  let body := b.drop 512
  if b.length < 512 || !headerOk b kind then 1
  else if shake256 64 (sub b 128 57) ≠ s.fuse.rootDigest then 2
  else if s.fuse.revoked.contains (leAt b 7 1) then 3
  else if !edVerify (sub b 128 57) (shake256 64 (sub b 185 57 ++ sub b 7 1)) (sub b 256 114) then 4
  else if body.length ≠ leAt b 12 4 || shake256 64 body ≠ sub b 64 64 then 5
  else if !edVerify (sub b 185 57) (shake256 64 (sub b 0 256)) (sub b 384 114) then 6
  else if leAt b 8 2 < counterOf s (kind - 1) then 7
  else if kind = 1 && reeveLimit < b.length then 8
  else 0

/-- An image refused: its event and count (0x0700, 0xA4C0.02). -/
def imageRefused (s : State) (kind check : Nat) : State :=
  moduleEvent (bump s 0xA4C0 2 1) 0x0700 [BitVec.ofNat 8 kind, BitVec.ofNat 8 check]

/-- Whether every sector of a slot's bank still holds what was written at manufacture. -/
def bankMade (s : State) (n : Nat) : Bool := (List.range 12).all (fun i => s.flash.made.contains (12 * (n - 1) + i))

/-- The check a slot's image fails, by its copies in turn; an image written at manufacture has SVN 0 and passes every other check (DESIGN CHOICE). -/
def slotFails (s : State) (n kind : Nat) : Nat :=
  if (slotOf s n).factory && (kind ≠ 1 || bankMade s n) then (if 0 < counterOf s (kind - 1) then 7 else 0)
  else
    let l := (slotImages s n kind).map (fun b => imageFails s b kind)
    if l.any (· = 0) then 0 else l.getLastD 1

/-- The copy of a slot's image that is taken: the first that passes (R447). -/
def slotImage (s : State) (n kind : Nat) : List Byte :=
  ((slotImages s n kind).find? (fun b => imageFails s b kind = 0)).getD []

/-- The SVN of a slot's image. -/
def slotSvn (s : State) (n kind : Nat) : Nat := if (slotOf s n).factory then 0 else min 64 (leAt (slotImage s n kind) 8 2)

/-- The image digest of a slot's image (R444). -/
def slotDigest (s : State) (n kind : Nat) : List Byte :=
  if (slotOf s n).factory then leBytes 64 (Config.factoryDigest kind).toNat else shake256 64 (sub (slotImage s n kind) 0 256)

/-- The version string of a slot's image: 32 bytes. -/
def slotVersion (s : State) (n kind : Nat) : List Byte :=
  if (slotOf s n).factory then leBytes 32 (Config.factoryVersion kind).toNat else sub (slotImage s n kind) 16 32

/-- The behaviour levels a slot implements, lowest and highest; the images of manufacture name 1 and 2 (R245, R444). -/
def slotLevels (s : State) (n : Nat) : Nat × Nat :=
  if (slotOf s n).factory then (1, 2) else (leAt (slotImage s n 2) 48 2, leAt (slotImage s n 2) 50 2)

/-- Whether every image of a slot passes R445. -/
def slotSound (s : State) (n : Nat) : Bool := slotFails s n 1 = 0 && slotFails s n 2 = 0 && slotFails s n 3 = 0

/-- The next activation sequence. -/
def nextActivation (s : State) : Nat := (s.sec.slots.map (fun p => p.2.activation.getD 0)).foldl max 0 + 1

/-- Whether an activation waits for the next reset: the other slot's sequence is the higher one (R326, R446). -/
def activationPending (s : State) : Bool :=
  s.sec.slots.any (fun p => p.1 ≠ s.sec.running && (slotOf s s.sec.running).activation.getD 0 < p.2.activation.getD 0)

/-! ### The boot ROM (R446, R448) -/

/-- The slot whose bank holds the higher valid activation sequence; the other one where three watchdog restarts ask for it. -/
def bootChoice (s : State) (other : Bool) : Nat :=
  let a := (slotOf s 1).activation.getD 0
  let b := (slotOf s 2).activation.getD 0
  let first := if a < b then 2 else 1
  if other then 3 - first else first

/-- Whether a bank's Reeve image may run: it holds an activation record and passes R445. -/
def bankRuns (s : State) (n : Nat) : Bool := (slotOf s n).activation.isSome && slotFails s n 1 = 0

/-- A refused bank's event. -/
def bankRefused (s : State) (n : Nat) : State :=
  if (slotOf s n).activation.isSome then imageRefused s 1 (slotFails s n 1) else s

/-- The boot ROM: the chosen bank, else the other with a fallback counted, else recovery (R446, R448). -/
def bootRom (s : State) (other : Bool) : State :=
  let n := bootChoice s other
  if bankRuns s n then { s with sec := { s.sec with running := n, recovery := false } }
  else
    let s1 := bankRefused s n
    if bankRuns s1 (3 - n) then
      bump { s1 with sec := { s1.sec with running := 3 - n, recovery := false } } 0xA4C0 1 1
    else
      let s2 := bankRefused s1 (3 - n)
      moduleEvent { s2 with sec := { s2.sec with recovery := true } } 0x0702 []

/-! ### Commits (R326, R457) -/

/-- One image of a package at an offset, by its own header's length. -/
def packageImage (get : Nat → Nat → List Byte) (off : Nat) : List Byte :=
  let n := 512 + leNat (get (off + 12) 4)
  if 8388608 < off + n then [] else get off n

/-- The three images of a package. -/
def packageImages (get : Nat → Nat → List Byte) : List (List Byte) :=
  let a := packageImage get 0
  let b := packageImage get a.length
  [a, b, packageImage get (a.length + b.length)]

/-- The bytes a path has staged: a controller's buffer (0 to 32) or the dictionary path's (33). -/
def stagedBytes (s : State) (path : Nat) (off n : Nat) : List Byte :=
  if path = 33 then sub s.sec.odStaging off n
  else memGetL 0 (mapGet s.nvme path nvmeReset).staging off n

/-- The first image of a package that fails, with its check; a package whose levels disagree, or lose a level of the running slot, fails as check 1 of its first image. -/
def packageFails (s : State) (imgs : List (List Byte)) : Option (Nat × Nat) :=
  let bad := (imgs.zipIdx.map (fun p => (p.2 + 1, imageFails s p.1 (p.2 + 1)))).find? (fun p => p.2 ≠ 0)
  match bad with
  | some p => some p
  | none =>
    let l := imgs.map (fun b => (leAt b 48 2, leAt b 50 2))
    let run := slotLevels s s.sec.running
    match l.head? with
    | some x => if l.all (· = x) && x.1 ≤ run.1 && run.2 ≤ x.2 then none else some (1, 1)
    | none => some (1, 1)

/-- A bank erased, activation records included (R457 step 2). -/
def eraseBank (s : State) (n : Nat) : State :=
  { s with flash := { s.flash with
    bytes := memClear s.flash.bytes (bankBase n) 0xC0000, made := s.flash.made.filter (fun x => x / 12 ≠ n - 1)
    ones := s.flash.ones.filter (fun a => a / 0xC0000 ≠ n - 1) } }

/-- A Reeve image programmed into an erased bank (R457 step 2). -/
def programBank (s : State) (n : Nat) (img : List Byte) : State :=
  { s with flash := { s.flash with bytes := memPutL 0xFF s.flash.bytes (bankBase n) img } }

/-- A slot given the next activation sequence (R457 step 4). -/
def activateSlot (s : State) (n : Nat) : State := putSlot s n { slotOf s n with activation := some (nextActivation s) }

/-- NVMe status fields of a commit: command-specific codes. -/
def fwInvalidSlot : Nat := 0x106
def fwInvalidImage : Nat := 0x107
def fwNeedsReset : Nat := 0x10B

/-- The result of a dictionary commit, at OD 0x8200.03: the status code. -/
def commitResult (r : Nat × State) : State := odPut r.2 0x8200 3 (r.1 % 256)

/-- A commit ended with a status (code and code type): at OD 0x8200.03 on the dictionary's path, in the completion of the command that waits. -/
def commitDone (s : State) (path : Nat) (reply : Option NTicket) (st : Nat) : State :=
  let s1 := if path = 33 then commitResult (st, s) else s
  match reply with
  | some t => if st = 0 then nvmeDone s1 t 0 else nvmeFail s1 t st
  | none => s1

/-- The next step of the commit under way (R457): the Reeve image, the two copies in the store, the activation record and the end; a module restart that waited starts then (R458). -/
def commitAdvance (s : State) : State :=
  match s.sec.commit with
  | none => s
  | some j =>
    let img (i : Nat) : List Byte := (j.imgs[i]?).getD []
    let at_ (n : Nat) (s : State) : State := { s with sec := { s.sec with commit := some { j with stage := n } } }
    if j.stage = 2 then at_ 3 (programBank s j.slot (img 0))
    else if j.stage = 3 then at_ 4 (putSlot s j.slot ⟨false, img 1, img 1, img 2, img 2, none⟩)
    else
      let s1 := { s with sec := { s.sec with commit := none } }
      let s2 := commitDone (if j.activate then activateSlot s1 j.slot else s1) j.path j.reply (if j.activate then fwNeedsReset else 0)
      if j.restart then flushStart s2 5 else s2

/-- A commit under way brought to its end. -/
def commitFinish (s : State) : State := commitAdvance (commitAdvance (commitAdvance s))

/-- A commit under way cut off by a reset, a restart or a power loss: no completion, and its slot is empty until it is written again (R458). -/
def commitLost (s : State) : State :=
  match s.sec.commit with
  | none => s
  | some j => putSlot { s with sec := { s.sec with commit := none } } j.slot ⟨false, [], [], [], [], none⟩

/-- Step 1 passed: the target bank and its slot erased, the rest to follow (R457). -/
def commitStart (s : State) (path slot : Nat) (activate : Bool) (imgs : List (List Byte)) (reply : Option NTicket) : State :=
  let s1 := putSlot (eraseBank s slot) slot ⟨false, [], [], [], [], none⟩
  { s1 with sec := { s1.sec with commit := some ⟨path, slot, activate, imgs, 2, reply, false⟩ } }

/-- A commit. Actions: 0 replace, 1 replace and activate, 2 activate (R326, R457). One that is still under way ends first (DESIGN CHOICE, log entry 112). -/
def commitOn (s0 : State) (path slot action : Nat) (reply : Option NTicket) : State :=
  let s := commitFinish s0
  if 2 < action then commitDone s path reply 0x02
  else if slot ≠ 1 && slot ≠ 2 then commitDone s path reply fwInvalidSlot
  else if action = 2 then
    if ((slotOf s slot).activation.isNone && (slotOf s slot).fw.isEmpty) || !slotSound s slot then commitDone s path reply fwInvalidImage
    else commitDone (activateSlot s slot) path reply 0
  else if slot = s.sec.running then commitDone s path reply fwInvalidSlot
  else
    let imgs := packageImages (stagedBytes s path)
    match packageFails s imgs with
    | some p => commitDone (imageRefused s p.1 p.2) path reply fwInvalidImage
    | none => commitStart s path slot (action = 1) imgs reply

/-- Recovery's commit: a Reeve image that passes R445 goes to bank 0 as slot 1, activated, and the ROM starts again (R448). -/
def recoveryCommit (s : State) : State :=
  let img := packageImage (stagedBytes s 33) 0
  let k := imageFails s img 1
  if k ≠ 0 then commitResult (fwInvalidImage, imageRefused s 1 k)
  else bootRom (activateSlot (putSlot (programBank (eraseBank s 1) 1 img) 1 { slotOf s 1 with factory := false, activation := none }) 1) false

/-- Whether firmware commits can run: the Reeve up and powered; a path that is a controller answers through it. -/
def commitReady (s : State) : Bool := powered s && 1 ≤ s.power.stage && s.reeveUp

/-- FIRMWARE_REPLACE. -/
def execFirmwareReplace (path : Fin 34) (slot : Nat) (s : State) : Out :=
  .next (if commitReady s && !s.sec.recovery then commitOn s path.val slot 0 none else s)

/-- FIRMWARE_REPLACE_ACTIVATE. -/
def execFirmwareReplaceActivate (path : Fin 34) (slot : Nat) (s : State) : Out :=
  .next (if commitReady s && !s.sec.recovery then commitOn s path.val slot 1 none else s)

/-- FIRMWARE_ACTIVATE. -/
def execFirmwareActivate (path : Fin 34) (slot : Nat) (s : State) : Out :=
  .next (if commitReady s && !s.sec.recovery then commitOn s path.val slot 2 none else s)

/-! ### Anti-rollback (R450) -/

/-- One counter raised to the running image's SVN, with its event. -/
def raiseCounter (s : State) (kind : Nat) : State :=
  let v := slotSvn s s.sec.running kind
  if counterOf s (kind - 1) < v then
    moduleEvent { s with fuse := { s.fuse with counters := mapSet s.fuse.counters (kind - 1) v } } 0x0701 [BitVec.ofNat 8 (kind - 1), BitVec.ofNat 8 v]
  else s

/-- The three counters raised. -/
def raiseCounters (s : State) : State := raiseCounter (raiseCounter (raiseCounter s 1) 2) 3

/-- The advance on command: policy 1 only. -/
def advanceNow (s : State) : State := if odGet s 0x8011 1 = 1 then raiseCounters s else s

/-- ADVANCE_NOW. -/
def execAdvanceNow (s : State) : Out := .next (if powered s && s.reeveUp then advanceNow s else s)

/-! ### Measurements (R453) -/

/-- Measurement 5's content: root digest, counters, revocation fuses, grade, fused-off mask. -/
def fuseBytes (s : State) : List Byte :=
  s.fuse.rootDigest ++ (List.range 64).map (fun i => BitVec.ofNat 8 (counterOf s i)) ++
  leBytes 2 ((s.fuse.revoked.map (fun i => 2 ^ i)).sum) ++ [BitVec.ofNat 8 s.fuse.grade] ++ leBytes 8 s.fuse.fused.toNat

/-- Measurement 6's content: debug flag, recovery flag, running slot, zeros. -/
def flagBytes (s : State) : List Byte :=
  [if s.sec.debugFlag then 1 else 0, if s.sec.recovery then 1 else 0, BitVec.ofNat 8 s.sec.running] ++ List.replicate 13 0

/-- A measurement of an index 1 to 6 as taken now: 64 bytes. -/
def measureNow (s : State) (i : Nat) : List Byte :=
  if i = 1 then shake256 64 ((List.range 65536).map Config.romMeasure)
  else if i = 2 then slotDigest s s.sec.running 1
  else if i = 3 then slotDigest s s.sec.running 2
  else if i = 4 then slotDigest s s.sec.running 3
  else if i = 5 then shake256 64 (fuseBytes s)
  else shake256 64 (flagBytes s)

/-- The measurements fixed on reaching stage 2; the sixth would change when the debug flag is set, which no entry of the service range does (R453, R454). -/
def fixMeasurements (s : State) : State :=
  { s with sec := { s.sec with meas := (List.range 6).map (fun i => measureNow s (i + 1)) } }

/-- A measurement as reported: as fixed at stage 2, as taken now before it. -/
def measurement (s : State) (i : Nat) : List Byte := (s.sec.meas[i - 1]?).getD (measureNow s i)

end Sys2Proof.Machine
end

