-- ==== Sys2Proof/Machine/Media.lean ====
section
/-! DEFINITION. The commands of the flash media: programs, reads, the Gleaner, erases and failures (R341 to R362). -/

namespace Sys2Proof.Machine

/-- NAND_PROGRAM_COMPLETE: the i-th waiting program of a package ends (R225). -/
def execNandProgramComplete (p : Fin 48) (i : Nat) (s : State) : Out := .next (if powered s then programEnd s p.val i else s)

/-- Whether a block is programmed and holds data that is read. -/
def blockRead (b : Block) : Bool := b.st = .opened || b.st = .full || b.st = .victim || b.st = .suspect

/-- A read aimed at an erase-pending block: not served, logged; which path it came by is open here (R355). -/
def inconsistentRead (s : State) (p n page : Nat) : State :=
  let r := fresh s
  flashEvent (bump r.2 0xA400 0x0A 1) none 0x0111 3 p n page [BitVec.ofNat 8 (r.1.toNat % 256)]

/-- PAGE_READ_COMPLETE: a plane page returns, decoded at a level (4: none) (R357). -/
def execPageReadComplete (p : Fin 48) (blk page : Nat) (level : Fin 5) (s : State) : Out :=
  .next (
    let b := blockAt (packageOf s p.val) blk
    if !powered s || !blockExists blk then s
    else if b.st = .erasePending then inconsistentRead s p.val blk page
    else if blockRead b then pageRead s p.val blk page level.val
    else s)

/-- Whether the Gleaner may relocate in a package: a read-only map is not changed (R348). -/
def mayMove (s : State) (p : Nat) : Bool := powered s && !(packageOf s p).conflict

/-- A full block of a package and its valid slots, wear and number, for the choice of a victim. -/
def victimKey (x : Package) (p : Nat × Block) : Nat × Nat × Nat := (validSlots x p.1, blockWear p.2, p.1)

/-- The smaller of two keys, field by field. -/
def lessKey (a b : Nat × Nat × Nat) : Nat × Nat × Nat :=
  if b.1 < a.1 || (b.1 = a.1 && (b.2.1 < a.2.1 || (b.2.1 = a.2.1 && b.2.2 < a.2.2))) then b else a

/-- The least of a list of keys. -/
def leastKey : List (Nat × Nat × Nat) → Option (Nat × Nat × Nat)
  | [] => none
  | a :: rest => some (rest.foldl lessKey a)

/-- The full blocks of a package the Gleaner may choose from: never a metadata block (R360). -/
def fullBlocks (x : Package) : List (Nat × Block) := x.blocks.filter (fun b => b.2.st = .full && b.2.kind ≠ .metadata)

/-- The victim of R360: fewest valid slots, then lower wear, die and index. -/
def gleanerVictim (x : Package) : Option Nat := (leastKey ((fullBlocks x).map (victimKey x))).map (·.2.2)

/-- GLEANER_COLLECT: the victim is chosen and its valid data copied (R360). -/
def execGleanerCollect (p : Fin 48) (s : State) : Out :=
  .next (match gleanerVictim (packageOf s p.val) with
    | some n => if mayMove s p.val then evacuateIn s p.val n 1 .victim 0 else s
    | none => s)

/-- RELOCATION: the verified copies of block `i` are recorded, and the block reclaimed once nothing in it is valid (R349, R350). -/
def execRelocation (p : Fin 48) (i : Nat) (s : State) : Out :=
  .next (
    let st := (blockAt (packageOf s p.val) i).st
    if mayMove s p.val && (st = .victim || st = .suspect) then relocate s p.val i else s)

/-- BLOCK_ERASE: the erase and the blank check of an erase-pending block pass; a deallocation that waited for nothing else ends (R330, R349). -/
def execBlockErase (p : Fin 48) (blk : Nat) (s : State) : Out :=
  .next (
    if powered s && (blockAt (packageOf s p.val) blk).st = .erasePending then deallocCheck (eraseBlock s p.val blk) else s)

/-- The package mean of b is over its rated blocks and the spares brought into service; whether the highest passes it by more than the spread, in parts of 1/30,000 (R361; DEDUCED for the mean, log entry 113). -/
def wearSpread (s : State) (x : Package) : Bool :=
  let n := ratedBlocks + sparesUsed x
  let sum := (x.blocks.map (fun b => blockWear b.2)).sum
  odGet s 0x5100 4 * 30000 * n + sum * 1000000 < packageTop x * 1000000 * n

/-- WEAR_LEVEL: the coldest full block is relocated when the spread is passed (R361). -/
def execWearLevel (p : Fin 48) (s : State) : Out :=
  .next (
    let x := packageOf s p.val
    match leastWorn ((fullBlocks x).map (fun b => (blockWear b.2, b.1))) with
    | some b => if mayMove s p.val && wearSpread s x then evacuateIn s p.val b.2 3 .victim 0 else s
    | none => s)

/-- Whether a block holds data a refresh may relocate. -/
def refreshable (b : Block) : Bool := b.st = .opened || b.st = .full

/-- The disturb limit of a block's mode (R362). -/
def disturbLimit (s : State) (b : Block) : Nat := if kindQlc b.kind then odGet s 0x5100 5 else odGet s 0x5100 6

/-- DISTURB_REFRESH: a block whose reads since its erase have reached the limit is relocated (R362). -/
def execDisturbRefresh (p : Fin 48) (blk : Nat) (s : State) : Out :=
  .next (
    let b := blockAt (packageOf s p.val) blk
    if mayMove s p.val && refreshable b && disturbLimit s b ≤ b.reads then evacuateIn s p.val blk 4 .victim 0 else s)

/-- RETENTION_REFRESH: a block programmed for longer than the limit is relocated (R362). -/
def execRetentionRefresh (p : Fin 48) (blk : Nat) (s : State) : Out :=
  .next (if mayMove s p.val && refreshable (blockAt (packageOf s p.val) blk) then evacuateIn s p.val blk 4 .victim 0 else s)

/-- PATROL_READ: a page of a programmed block patrolled; level 2 or above relocates the block, level 3 twice in a row retires it after (R354, R362). -/
def patrolBlock (s : State) (p n page level : Nat) : State :=
  let s1 := pageRead s p n page level
  let x := packageOf s1 p
  let b := blockAt x n
  let worn := level = 3 && b.lvl3 ≠ 0
  let s2 := putPackage s1 p (putBlock x n { b with lvl3 := if level = 3 then b.lvl3 + 1 else 0 })
  if level < 2 || !mayMove s2 p then s2 else evacuateIn s2 p n 4 .victim (if worn then 4 else 0)

/-- PATROL_READ. -/
def execPatrolRead (p : Fin 48) (blk page : Nat) (level : Fin 5) (s : State) : Out :=
  .next (if powered s && refreshable (blockAt (packageOf s p.val) blk) then patrolBlock s p.val blk page level.val else s)

/-- The heads of a package after a change of its stored map pages: where they lie, and the first journal record that none of them holds (R348). -/
def headRecord (x : Package) : Package :=
  let pages := x.map.filterMap (fun e => match e.1 with
    | .mapPage n => some (n, e.2)
    | _ => none)
  { x with heads := x.heads.map (fun h => headCopy (h.seq + 1) (firstLive x) pages) }

/-- MAP_PAGE_WRITEBACK: a dirty page written to a map block and journalled, the heads updated (R346 to R348). -/
def execMapPageWriteback (p : Fin 48) (page : Nat) (s : State) : Out :=
  .next (
    let x := packageOf s p.val
    if !powered s || !x.dirty.contains page || x.conflict then s
    else match placeRef x .mapPages (.mapPage page) s.bell.count with
      | none => s
      | some q =>
        let s1 := putPackage s p.val (headRecord (storePage q.2 page q.1))
        appendRecords { s1 with health := { s1.health with nandBytes := s1.health.nandBytes + 16384 } } (headsOf p.val))

/-- The full metadata block of a package, if there is one. -/
def fullMetadata (x : Package) : Option (Nat × Block) := x.blocks.find? (fun b => b.2.st = .full && b.2.kind = .metadata)

/-- The structure copies whose newest record a full metadata block holds: those the open one has no record of. -/
def newestRecords (x : Package) (b : Block) : List BackRef :=
  let later := (x.blocks.filter (fun y => y.2.st = .opened && y.2.kind = .metadata)).flatMap (fun y => y.2.slots.map (·.2))
  ((b.slots.map (·.2)).filter (fun r => !later.contains r)).eraseDups

/-- A record rewritten at the write pointer of the open metadata block. -/
def rewriteRecord (bell : Nat) (x : Package) (r : BackRef) : Package :=
  match placeRef x .metadata r bell with
  | some q => q.2
  | none => x

/-- METADATA_ROLLOVER: a new metadata block follows the full one, takes the newest record of every copy it holds, and the full block gets its erase-intent (R341). -/
def execMetadataRollover (p : Fin 48) (s : State) : Out :=
  .next (
    let x := packageOf s p.val
    match fullMetadata x with
    | none => s
    | some b =>
      if !powered s then s
      else match openOf x .metadata s.bell.count with
        | none => s
        | some q =>
          let rs := newestRecords x b.2
          let y := rs.foldl (rewriteRecord s.bell.count) q.2
          let s1 := putPackage s p.val (jotBlock y b.1 { b.2 with st := .erasePending })
          { s1 with health := { s1.health with nandBytes := s1.health.nandBytes + 65536 * rs.length } })

/-- The copies under way into a failed block aimed at a new block of its kind (R353). -/
def redirectMoves (x : Package) (n bell : Nat) : Package :=
  let kind := (blockAt x n).kind
  x.moves.zipIdx.foldl (fun y m =>
    if m.1.dst.1 ≠ n then y
    else match placeRef y kind m.1.ref bell with
      | none => y
      | some q => { q.2 with moves := q.2.moves.set m.2 { m.1 with dst := q.1 } }) x

/-- PROGRAM_FAIL: the block is left, its copies redirected, its valid data relocated, and it is retired after (R353). -/
def programFail (s : State) (p n : Nat) : State :=
  let x := packageOf s p
  let b := blockAt x n
  let s1 := bump (putPackage s p (redirectMoves (putBlock x n { b with st := .victim }) n s.bell.count)) 0xA400 7 1
  evacuateIn s1 p n 0 .victim 1

/-- PROGRAM_FAIL. -/
def execProgramFail (p : Fin 48) (blk : Nat) (s : State) : Out :=
  .next (if powered s && (blockAt (packageOf s p.val) blk).st = .opened then programFail s p.val blk else s)

/-- ERASE_FAIL: an erase, or the blank check after it, fails; the block is retired and a deallocation that waited for it alone ends (R331, R354). -/
def execEraseFail (p : Fin 48) (blk : Nat) (blank : Bool) (s : State) : Out :=
  .next (
    if powered s && (blockAt (packageOf s p.val) blk).st = .erasePending then
      deallocCheck (retireBlock (bump s 0xA400 8 1) p.val blk (if blank then 2 else 1))
    else s)

/-- SUSPECT_BLOCK: the block is marked, its data goes to a new block, its valid data is relocated; the third time it is retired after (R345). -/
def suspectBlock (s : State) (p n : Nat) : State :=
  let x := packageOf s p
  let b := blockAt x n
  let k := b.suspects + 1
  let y := jotBlock x n { b with st := .suspect, suspects := k }
  let s1 := putPackage (bump s 0xA400 9 1) p (redirectMoves y n s.bell.count)
  let s2 := flashEvent s1 none 0x0112 3 p n b.ptr [BitVec.ofNat 8 k]
  evacuateIn s2 p n 0 .suspect (if 3 ≤ k then 5 else 0)

/-- SUSPECT_BLOCK. -/
def execSuspectBlock (p : Fin 48) (blk : Nat) (s : State) : Out :=
  .next (if powered s && (blockAt (packageOf s p.val) blk).st = .opened then suspectBlock s p.val blk else s)

/-- READ_SUSPEND: a read to another block of a die suspends its erase, at most 16 times, or its program, at most 4 times (R356). -/
def readSuspend (s : State) (p die : Nat) : State :=
  let x := packageOf s p
  if x.blocks.any (fun b => dieOf b.1 = die && b.2.st = .erasePending) then
    let n := mapGet x.suspends die 0
    if n < 16 then bump (putPackage s p { x with suspends := mapSet x.suspends die (n + 1) }) 0xA400 6 1 else s
  else if x.blocks.any (fun b => dieOf b.1 = die && b.2.st = .opened) && !x.progs.isEmpty then
    let n := mapGet x.suspends (12 + die) 0
    if n < 4 then putPackage s p { x with suspends := mapSet x.suspends (12 + die) (n + 1) } else s
  else s

/-- READ_SUSPEND. -/
def execReadSuspend (p : Fin 48) (die : Fin 12) (s : State) : Out := .next (if powered s then readSuspend s p.val die.val else s)

/-! ### Sanitize ends (R327, R331, R462) -/

/-- A block of namespace data erased whole in a sanitize. -/
def sanitizeBlock (s : State) (e : Nat × Nat) : State :=
  let x := packageOf s e.1
  let b := blockAt x e.2
  let y := ((x.map.filter (fun m => m.2.1 = e.2)).map (·.1)).foldl mapDrop x
  eraseBlock (putPackage s e.1 { jotBlock y e.2 { b with st := .erasePending } with
    moves := x.moves.filter (fun m => m.src.1 ≠ e.2 && m.dst.1 ≠ e.2) }) e.1 e.2

/-- The blocks that hold namespace data. -/
def nsBlocks (s : State) : List (Nat × Nat) :=
  s.packages.flatMap (fun p => (p.2.blocks.filter (fun b => b.2.kind = .nsData && b.2.st ≠ .retired && b.2.st ≠ .fallow && b.2.st ≠ .spare)).map (fun b => (p.1, b.1)))

/-- Every namespace unmapped. -/
def unmapAll (s : State) : State :=
  let isSector (r : BackRef) : Bool := match r with
    | .sector _ _ => true
    | _ => false
  { s with
    namespaces := mapAll s.namespaces (fun n => { n with data := [], mapped := [], poisoned := [] })
    packages := mapAll s.packages (fun x => { ((x.map.map (·.1)).filter isSector).foldl mapDrop x with
      progs := x.progs.filter (fun g => g.refs.isEmpty || !g.refs.all isSector) }) }

/-- A namespace's key replaced by a fresh one, the old destroyed (R461, R462). -/
def newNsKey (s : State) (nsid : Nat) : State :=
  match nsOf s nsid with
  | none => s
  | some n =>
    let id := s.sec.nextKey
    { s with
      namespaces := mapSet s.namespaces nsid { n with key := id }
      sec := { s.sec with keys := setIns (s.sec.keys.filter (· ≠ n.key)) id, nextKey := id + 1 } }

/-- The deallocations a sanitize absorbed recorded as superseded (R331). -/
def supersede (s : State) : State := (s.deallocs.filter (fun d => !d.segment)).foldl (fun s d => deallocEnd s d 2) s

/-- A sanitize ended: the data gone by its action, access restored where it succeeded, its notice raised (R327). -/
def sanitizeEnd (s : State) (failed : Bool) : State :=
  let s1 := if failed then s
    else if s.sanitize.action = 4 then (s.namespaces.map (·.1)).foldl newNsKey (unmapAll s)
    else unmapAll ((nsBlocks s).foldl sanitizeBlock s)
  let s2 := supersede { s1 with sanitize := { s1.sanitize with running := false, failed := failed, done := s1.sanitize.done + 1 } }
  let s3 := if s1.sanitize.action = 4 && !failed then odSave (odSave s2) else s2
  (List.range 33).foldl (fun s k => if k = 0 then nvmeEvent s k aenSanitize (aenDw0 6 1 0x81) else s) s3

/-- SANITIZE_COMPLETE. -/
def execSanitizeComplete (failed : Bool) (s : State) : Out := .next (if powered s && s.sanitize.running then sanitizeEnd s failed else s)

end Sys2Proof.Machine
end

