-- ==== Sys2Proof/Machine/PowerStart.lean ====
section
/-! DEFINITION. What a stop loses and keeps, the flush's end, structures held in several copies, and the staged start (R239, R265, R351, R381, R388, R435 to R443, R446, R447). -/

namespace Sys2Proof.Machine

/-! ### Protected buffers written (R441 step 4) -/

/-- The first package with a protected program, and the program's place. -/
def nextProtected (s : State) : Option (Nat × Nat) :=
  s.packages.findSome? (fun p => (p.2.progs.findIdx? (·.protectedBuf)).map (fun i => (p.1, i)))

/-- Blocks of a package that hold flushed data. -/
def flushBlocks (x : Package) : Nat := (x.blocks.filter (fun b => b.2.kind = .flush && (b.2.st = .opened || b.2.st = .full))).length

/-- A protected program written to its package's flush reserve. -/
def flushProg (s : State) (p i : Nat) : State :=
  let x := packageOf s p
  let s1 := putPackage s p { x with
    progs := x.progs.mapIdx (fun j g => if j = i then { g with kind := .flush } else g)
    reserve := 0 }
  let s2 := programEnd s1 p i
  let y := packageOf s2 p
  putPackage s2 p { y with reserve := x.reserve - (flushBlocks y - flushBlocks x) }

/-- At most `n` protected programs written, package by package, the oldest first. -/
def flushProgs : Nat → State → State
  | 0, s => s
  | n + 1, s => match nextProtected s with
    | none => s
    | some (p, i) => flushProgs n (flushProg s p i)

/-- Protected programs that wait. -/
def protectedCount (s : State) : Nat := (s.packages.map (fun p => (p.2.progs.filter (·.protectedBuf)).length)).sum

/-- A segment whose protected program was lost: every word poisoned (DESIGN CHOICE: the spec does not say what it then reads). -/
def loseRef (s : State) (r : BackRef) : State :=
  match r with
  | .segment n => { s with segs := mapMod s.segs n (fun g => (List.range 64).foldl (fun g i => poisonSegment i g) g) }
  | _ => s

/-- The protected programs left lost. -/
def loseProgs (s : State) : State :=
  (s.packages.flatMap (fun p => (p.2.progs.filter (·.protectedBuf)).flatMap (·.refs))).foldl loseRef s

/-! ### What a stop loses (R435) -/

/-- A store as its tables hold it: no open state, no commit. -/
def storeKept (st : Store) : Store :=
  { st with openState := mapGet st.epochs st.epoch [], commits := [], persists := [], compacted := [], layouts := [], replaced := [], released := [], sdWaits := [] }

/-- A croft as it is saved: its definition, key and store (R265). -/
def croftKept (k : Croft) : Croft := { croftNew k.saved k.map k.share k.key with store := storeKept k.store }

/-- A package as its flash holds it: open flush blocks closed, nothing in flight. -/
def packageKept (x : Package) : Package :=
  { x with
    progs := [], moves := [], suspends := []
    blocks := mapAll x.blocks (fun b =>
      if b.kind = .flush && b.st = .opened then { b with st := .full }
      else if b.st = .victim && b.doom = 0 then { b with st := .full }
      else b) }

/-- A stack after a stop: only its scrub summary is kept (R377). -/
def stackKept (h : Stack) : Stack := { stackNew with scrub := { h.scrub with patrol := [] } }

/-- Whether a dictionary value survives a stop: the flushes completed; with the Reeve running on, also the saved entries, its own and the plant's. -/
def valueKept (reeve : Bool) (key : Nat) : Bool :=
  let i := key / 256
  key = odKey 0xA4A0 1 ||
  (reeve && ((odFind i (key % 256)).any odSavedEntry || (0xA440 ≤ i && i < 0xA4A0) || i = 0xA500 || i = 0x6010 || i = 0x2000))

/-- The Reeve's own state lost: sessions, requests, the staging buffer, endpoint IDs, its registers; rw entries at their defaults (R387, R406). -/
def reeveLost (s0 : State) : State :=
  let s := commitLost s0
  { s with
    sessions := [], parked := [], odWaiting := [], staging := none, eids := [], units := []
    watchdog := { watchdogReset with served := clock s, recent := s.watchdog.recent }
    flash := flashRestart s.flash
    od := s.od.filter (fun p => !(odFind (p.1 / 256) (p.1 % 256)).any (fun e => e.acc = 2))
    sec := { s.sec with odStaging := [], spdm := [] } }

/-- All volatile state lost; with `reeve` the Reeve and the plant have run on (R435). -/
def volatileLost (s : State) (reeve : Bool) : State :=
  let s0 := (List.range 8).foldl (fun s st => scrubHalt s st 4) (commitLost s)
  let s1 := { s0 with
    od := s0.od.filter (fun p => valueKept reeve p.1)
    convs := [], log := [], pf1 := [], nvme := mapAll s0.nvme nvmeKept, linkUp := false
    deallocs := s0.deallocs.map (fun d => { d with resumed := true, ticket := none, nticket := none, recordAt := none })
    crofts := mapAll s0.crofts croftKept, exports := [], ops := [], frames := []
    hbm := mapAll s0.hbm stackKept, ramps := [], rampPtr := [], flashPtr := 0, droverPtr := []
    packages := mapAll s0.packages packageKept
    health := { s0.health with ranNs := s0.health.ranNs + clock s0 }
    ports := [], orDone := [], stranded := [], bell := bellStart
    plant := if reeve then s0.plant else { plantReset with volts := s0.plant.volts, energy := s0.plant.energy }
    inputs := if reeve then s0.inputs else mapAll s0.inputs (fun x => ⟨x.active, false, false⟩)
    power := { powerReset with
      phase := s0.power.phase, input := s0.power.input, enable := s0.power.enable, cause := s0.power.cause
      flushed := s0.power.flushed, stage2ms := s0.power.stage2ms, stage3ms := s0.power.stage3ms }
    sec := { s0.sec with meas := [], spdm := [] } }
  if reeve then s1 else { reeveLost { s1 with watchdog := watchdogReset, flash := { s1.flash with fstat := 0, clk := 2, lowRail := false } } with doms := [], savePending := false, dictConflict := false, reeveUp := true }

/-! ### Starting again (R417, R442, R443) -/

/-- Whether nothing holds the module stopped: input present and its switch free, PWRFAIL_N released or ignored, no leak stop. -/
def mayRestart (s : State) : Bool := s.power.input && s.power.enable && !inputOn s 0 && !s.plant.leakStop

/-- A stack's monitor with the parameters the entries hold taken for its next window (R158). -/
def hotLatched (s : State) (h : Stack) : Stack :=
  { h with moved := [], hotSet := (odGet s 0x4020 1, odGet s 0x4020 2, odGet s 0x4020 3, odGet s 0x4020 4) }

/-- The Bell counter from 0, the seed in effect, the monitor's parameters, the link where PERST_N is released, and the functions' crofts, at a module start (R157, R248, R306, R437 step 5). -/
def beginStart (s : State) : State :=
  let bound := (List.range 33).filter (fun f => boundCroft s f ≠ 0xFF)
  { s with
    bell := bellStart, seedInEffect := odGet s 0x4010 1, linkUp := !s.perst
    hbm := (List.range 8).map (fun st => (st, hotLatched s (stackOf s st)))
    pf1 := bound.map (fun f => (f, { pf1Reset with scope := boundCroft s f }))
    nvme := ((List.range 33).filter (fun k => (mapGet? s.nvme k).isSome || nvmeBound s k ≠ 0xFF)).map (fun k => (k, { nvmeOf s k with scope := nvmeBound s k })) }

/-- A stopped module starts again from stage 2, the Reeve and the plant having run on (R417, R443). -/
def restartStage2 (s : State) : State :=
  beginStart { s with
    power := { s.power with phase := 1, stage := 1 }
    plant := { s.plant with bank := if s.plant.bank = 4 then 4 else 0 } }

/-- What follows the stop: a restart from stage 2 once nothing holds it. -/
def restartCheck (s : State) : State := if s.power.phase = 3 && mayRestart s then restartStage2 s else s

/-- The end of a stop: a module restart goes on at the boot ROM, a module without input is off, any other waits (R435, R443). -/
def stopped (s : State) : State :=
  if s.power.cause = 5 && s.power.input && s.power.enable then
    let s1 := volatileLost s false
    bootRom { s1 with power := { s1.power with phase := 1 } } false
  else if s.power.input && s.power.enable then
    let s1 := volatileLost s true
    restartCheck { s1 with power := { s1.power with phase := 3, stage := 1 } }
  else
    let s1 := volatileLost s false
    { s1 with power := { s1.power with phase := 0 } }

/-- The flush's last steps: commits recorded, protected buffers written, the event and the count (R441). -/
def flushFinish (s : State) : State :=
  let bytes := protectedHeld s
  let s1 := s.crofts.foldl (fun s p => flushCommits p.1 p.2.store.commits.length s) s
  let s2 := flushProgs (protectedCount s1) s1
  let r := fresh { s2 with power := { s2.power with flushed := bytes } }
  stopped (bump (moduleEvent r.2 0x0614 (leBytes 8 bytes ++ leBytes 4 r.1.toNat)) 0xA4A0 1 1)

/-- The flush cut short: which commits were recorded and how many buffers were written is open; the rest is lost, the stop unsafe (R239, R441). -/
def flushCut (s : State) : State :=
  let s1 := s.crofts.foldl (fun s p =>
    let r := fresh s
    if r.1.toNat % 2 = 1 then flushCommits p.1 p.2.store.commits.length r.2 else r.2) s
  let r := fresh s1
  let s2 := loseProgs (flushProgs (r.1.toNat % (protectedCount s1 + 1)) r.2)
  let s3 := volatileLost { s2 with health := { s2.health with unsafeStops := s2.health.unsafeStops + 1 } } false
  { s3 with power := { s3.power with phase := 0, input := false } }

/-! ### Structures in several copies (R381) -/

/-- The copy taken of a structure: the highest sequence number among the valid ones; none where the copies conflict. -/
def pickCopy {α : Type} [DecidableEq α] (valid : α → Bool) (seq : α → Nat) (l : List α) : Option α :=
  let sound := l.filter valid
  let top := (sound.map seq).foldl max 0
  match sound.filter (fun x => seq x = top) with
  | [] => none
  | x :: rest => if rest.all (fun y => decide (y = x)) then some x else none

/-- The highest sequence number of valid copies. -/
def topSeq {α : Type} (valid : α → Bool) (seq : α → Nat) (l : List α) : Nat := ((l.filter valid).map seq).foldl max 0

/-- Event 0x0106 for each place of a structure whose copy is rewritten from the one taken, and the record appended there. -/
def rewriteEvents (s : State) (croft : Option Nat) (kind place id seq : Nat) (places : List Nat) : State :=
  places.foldl (fun s n => appendRecord id (errorEvent s croft 0x0106 1 6 place 0 0xFF 0 (leBytes 1 kind ++ leBytes 8 seq ++ leBytes 1 n)) n) s

/-- The places of the copies that differ from the one taken. -/
def otherCopies {α : Type} [DecidableEq α] (l : List α) (x : α) : List Nat := (l.zipIdx.filter (fun c => decide (c.1 ≠ x))).map (·.2)

/-- Event 0x0105 of copies in conflict. -/
def conflictEvent (s : State) (croft : Option Nat) (kind place seq : Nat) : State :=
  errorEvent s croft 0x0105 4 6 place 0 0xFF 0 (leBytes 1 kind ++ leBytes 8 seq)

/-- The journal heads of a package chosen and its map rebuilt from them and the journal, or its map read-only (R348, R351 steps 1 and 2, R381). -/
def headsChosen (s : State) (p : Nat) : State :=
  let x := packageOf s p
  match pickCopy HeadCopy.valid HeadCopy.seq x.heads with
  | some m => rewriteEvents (putPackage s p { x with heads := x.heads.map (fun _ => m), map := replayed x m }) none 0 p (headsOf p) m.seq (otherCopies x.heads m)
  | none =>
    if x.conflict then s
    else mediaToReadOnly (conflictEvent (putPackage s p { x with conflict := true }) none 0 p (topSeq HeadCopy.valid HeadCopy.seq x.heads)) 1

/-- A store recovered from the copy taken of its epoch table: the committed epoch, the retained epochs and the holds are the copy's (R239 step 3). -/
def storeRecovered (st : Store) (m : TableCopy) : Store :=
  storeKept { st with tables := st.tables.map (fun _ => m), epoch := m.epoch, epochs := m.maps, snaps := m.snaps, holds := m.holds }

/-- The epoch table of a croft chosen, or its store read-only (R239 steps 2 and 3, R381). -/
def tableChosen (s : State) (c : Nat) : State :=
  match croft? s c with
  | none => s
  | some k =>
    match pickCopy TableCopy.valid TableCopy.seq k.store.tables with
    | some m => rewriteEvents (putCroft s c { k with store := storeRecovered k.store m }) (some c) 1 0 (tableOf c) m.seq (otherCopies k.store.tables m)
    | none =>
      if k.store.readOnly then s
      else croftEvent (conflictEvent (putCroft s c { k with store := { k.store with readOnly := true } }) (some c) 1 0
        (topSeq TableCopy.valid TableCopy.seq k.store.tables)) c 7 []

/-- The saved dictionary chosen and its values in effect; the other copy rewritten, or the copies in conflict (R381, R388). -/
def dictChosen (s : State) : State :=
  let a := s.dictA
  let b := s.dictB
  let load (s : State) (x : DictCopy) : State := { s with od := x.vals.foldl (fun m p => mapSet m p.1 p.2) s.od, doms := x.doms }
  if !a.valid && !b.valid || (a.valid && b.valid && a.seq = b.seq && a ≠ b) then
    conflictEvent { load s (if b.seq < a.seq then b else a) with dictConflict := true } none 2 0 a.seq
  else
    let takeA := a.valid && (!b.valid || b.seq ≤ a.seq)
    let x := if takeA then a else b
    let s1 := { load s x with dictA := x, dictB := x }
    if a = b then s1 else errorEvent s1 none 0x0106 1 6 0 0 0xFF 0 (leBytes 1 2 ++ leBytes 8 x.seq ++ [if takeA then 1 else 0])

/-! ### Stages (R437 to R439) -/

/-- A stage reached: its event. -/
def stageReached (s : State) (n : Nat) : State :=
  moduleEvent { s with power := { s.power with stage := n } } 0x0610 (leBytes 1 n)

/-- The MAC address and the 10BASE-T1S enable in effect at a Reeve start (R399). -/
def macStart (s : State) : State :=
  { s with
    t1s := odGet s 0x1100 1 = 1
    macAddr :=
      if odGet s 0x1100 4 = 0 then BitVec.ofNat 64 (0x02AC1C640800 + s.slotId % 64) else BitVec.ofNat 64 (odGet s 0x1100 4) }

/-- The module's Kamlin address at its start: the entry's, or SLOT_ID[5:0]; a later change waits for a training (R288). -/
def kamlinStart (s : State) : State := { s with kamlinAddr := ownAddress s }

/-- Stage 1: the dictionary answers and the Bell counter starts from 0. -/
def reachStage1 (s : State) : State := stageReached (beginStart (kamlinStart (macStart (dictChosen s)))) 1

/-- The first part of stage 2 that is missing: module firmware or microcode of the running slot (R447). -/
def firmwareMissing (s : State) : Bool := slotFails s s.sec.running 2 ≠ 0 || slotFails s s.sec.running 3 ≠ 0

/-- Event 0x0611: stage, part, index (R439). -/
def stallEvent (s : State) (part index : Nat) : State :=
  moduleEvent s 0x0611 (leBytes 1 s.power.stage ++ leBytes 1 part ++ leBytes 1 index)

/-- Stage 2: firmware verified, heads and tables chosen, the plant armed, controllers ready, measurements fixed, cluster 0 ungated for scans. -/
def reachStage2 (s : State) : State :=
  if firmwareMissing s then stallEvent s 3 s.sec.running
  else
    let s1 := (s.packages.map (·.1)).foldl headsChosen s
    let s2 := (s1.crofts.map (·.1)).foldl tableChosen s1
    let s3 := { s2 with
      nvme := mapAll s2.nvme (fun x => if x.en then { x with rdy := true } else x)
      plant := if odGet s2 0x6001 1 = 1 && !s2.plant.leakStop then { s2.plant with armed := true } else s2.plant }
    stageReached (wakeCluster (fixMeasurements s3) 0) 2

/-- The open blocks of a package that hold nothing valid, which become victims, and the erase-pending ones, which are erased; suspect blocks and those to be retired are relocated again (R345, R351 step 4); in a package whose map is read-only nothing is. -/
def recoverBlocks (s : State) (p : Nat) : State :=
  let x := packageOf s p
  if x.conflict then s
  else
  let s1 := putPackage s p { x with blocks := x.blocks.map (fun b =>
    if b.2.st = .opened && (validPlaces x b.1).isEmpty then (b.1, { b.2 with st := .victim }) else b) }
  let pend := ((packageOf s1 p).blocks.filter (fun b => b.2.st = .erasePending)).map (·.1)
  let s2 := pend.foldl (fun s n => eraseBlock s p n) s1
  let leaving := (packageOf s2 p).blocks.filter (fun b => b.2.st = .suspect || (b.2.st = .victim && b.2.doom ≠ 0))
  leaving.foldl (fun s b => evacuateIn s p b.1 (if b.2.doom = 4 then 4 else 0) b.2.st b.2.doom) s2

/-- The flush reserve of a package rebuilt from its fallow pool, at most `n` blocks (R343). -/
def refillReserve (p : Nat) : Nat → State → State
  | 0, s => s
  | n + 1, s => if fallowPool (packageOf s p) = 0 then s else refillReserve p n (rebuildReserve s p)

/-- A croft restored; one whose saved mask names an engine fused off, or one that another croft restored before it holds, has no engines until an apply, its definition kept (R265). -/
def croftRestored (s : State) (c : Nat) : State :=
  match croft? s c with
  | none => s
  | some k =>
    if k.saved &&& s.fuse.fused = 0 && s.crofts.all (fun p => c ≤ p.1 || k.saved &&& p.2.mask = 0) then s
    else croftEvent (putCroft s c { k with mask := 0, park := parkArea 0 k.map, state := 2 }) c 6 (leBytes 8 k.saved.toNat)

/-- The places of spilled sheaves no binding holds, passed to the Gleaner as orphans (R239 step 4). -/
def orphanSpills (s : State) : State :=
  dropRefs s (s.packages.flatMap (fun p => (p.2.map.map (·.1)).filter (fun r => match r with
    | .spill n => !spillLive s n
    | _ => false)))

/-- Stage 3: blocks recovered, reserves rebuilt, crofts restored, orphans passed on, counters raised, the write mode as its conditions give. -/
def reachStage3 (s : State) : State :=
  let s1 := (s.packages.map (·.1)).foldl (fun s p => refillReserve p 8 (recoverBlocks s p)) s
  let s2 := (s1.crofts.map (·.1)).foldl (fun s c => freeSegments (croftRestored s c) c) (orphanSpills s1)
  let s3 := stageReached s2 3
  modeCheck (deallocCheck (if odGet s3 0x8011 1 = 0 then raiseCounters s3 else s3))

/-! ### The rows -/

/-- POWER_ON: the input enters range from absent; the boot ROM runs (R435, R437, R446). In a flush or a stop the input has only returned (R442, R443). -/
def execPowerOn (slotId : Fin 64) (s : State) : Out :=
  .next (
    if !s.power.enable then s
    else if s.power.phase = 0 || (s.power.phase = 1 && s.power.stage = 0) then
      let s1 := volatileLost s false
      bootRom { s1 with
        slotId := slotId.val
        power := { s1.power with phase := 1, stage := 0, input := true }
        sec := { s1.sec with debugFlag := false } } false
    else restartCheck { s with power := { s.power with input := true } })

/-- STAGE_1_REACHED. -/
def execStage1Reached (_ms : W32) (s : State) : Out :=
  .next (if powered s && s.power.stage = 0 && !s.sec.recovery then reachStage1 s else s)

/-- STAGE_2_REACHED: not while the saved dictionary's copies conflict (R381). -/
def execStage2Reached (ms : W32) (s : State) : Out :=
  .next (if powered s && s.power.stage = 1 && !s.dictConflict && !s.sec.recovery then
    reachStage2 { s with power := { s.power with stage2ms := ms } } else s)

/-- STAGE_3_REACHED. -/
def execStage3Reached (ms : W32) (s : State) : Out :=
  .next (if powered s && s.power.stage = 2 then reachStage3 { s with power := { s.power with stage3ms := ms } } else s)

/-- START_STALLED: a stage not reached in its time; the module stays where it is (R439). -/
def execStartStalled (part : Fin 4) (index : Byte) (s : State) : Out :=
  .next (if powered s && 1 ≤ s.power.stage && s.power.stage < 3 then stallEvent s part.val index.toNat else s)

/-- FLUSH_COMPLETE (R441). -/
def execFlushComplete (s : State) : Out := .next (if s.power.phase = 2 then flushFinish s else s)

/-- FLUSH_POWER_LOSS (R441). -/
def execFlushPowerLoss (s : State) : Out := .next (if s.power.phase = 2 then flushCut s else s)

end Sys2Proof.Machine
end

