-- ==== Sys2Proof/Machine/PowerRows.lean ====
section
/-! DEFINITION. Discrete inputs, the input supply, module restart, operating points, throttling and droop (R416 to R418, R426, R428 to R431, R435, R436, R464). -/

namespace Sys2Proof.Machine

/-! ### Inputs (R416) -/

/-- The state with an input replaced. -/
def putInput (s : State) (i : Nat) (x : Input) : State := { s with inputs := mapSet s.inputs i x }

/-- An input asserted: active, and counted unless it is faulted. -/
def inputAssert (s : State) (i : Nat) : State :=
  let x := inputOf s i
  bump (putInput s i { x with active := true }) (0xA440 + i) 1 (if inputBad s i then 0 else 1)

/-- An input released. -/
def inputRelease (s : State) (i : Nat) : State := putInput s i { inputOf s i with active := false }

/-- Whether the module has any power. -/
def alive (s : State) : Bool := s.power.phase ≠ 0

/-- PWRFAIL_N_ASSERT: the flush starts, unless the input is faulted and ignored (R416, R417). -/
def execPwrfailNAssert (s : State) : Out :=
  .next (
    let s1 := inputAssert s 0
    if !alive s then s else if inputBad s 0 then s1 else flushStart s1 1)

/-- PWRFAIL_N_RELEASE: released for 100 ms; a stopped module starts again (R417). -/
def execPwrfailNRelease (s : State) : Out := .next (if alive s then restartCheck (inputRelease s 0) else s)

/-- A leak stop: event 0x0604, the valve closed, the flush (R418, R442). -/
def leakStop (s : State) : State :=
  let s1 := moduleEvent s 0x0604 []
  flushStart { s1 with plant := { s1.plant with leakStop := true, target := 0, settled := false } } 4

/-- LEAK_N_ASSERT. -/
def execLeakNAssert (s : State) : Out := .next (if alive s then leakStop (inputAssert s 1) else s)

/-- LEAK_N_RELEASE: the stop can be cleared from now on (R418). -/
def execLeakNRelease (s : State) : Out := .next (if alive s then inputRelease s 1 else s)

/-- Whether LEAK_N reads as active: a faulted one is treated as active (R416). -/
def leaking (s : State) : Bool := (inputOf s 1).active || inputBad s 1

/-! ### PERST_N (R305, R416, R436) -/

/-- A module restart by its trigger: refused while a sanitize runs or a secure deallocation waits at its fence (R330, R435); those entered in the list are past step 2. -/
def restartRefused (s : State) : Bool := s.sanitize.running || s.crofts.any (fun p => !p.2.store.sdWaits.isEmpty)

/-- PERST_N asserted: both ports reset; with an activation pending, a module restart. -/
def perstAssert (s : State) : State :=
  let s1 := resetAllPf1 (flrNvme s 0)
  let s2 := { s1 with perst := true, linkUp := false }
  if activationPending s && powered s then flushStart s2 5 else s2

/-- PERST_N_ASSERT. -/
def execPerstNAssert (s : State) : Out := .next (if alive s then perstAssert (inputAssert s 3) else s)

/-- PERST_N released: the port layout set takes effect, the link trains to a rate and width that the spec leaves to the link, and the functions see their crofts (R305, R306, R436). -/
def perstRelease (s : State) : State :=
  let r := fresh s
  let s1 := beginLinks { r.2 with perst := false, linkUp := powered s, layout := odGet s 0x2410 1 }
  odPut s1 0x2410 2 (r.1.toNat % 65536)
where
  /-- The crofts of the functions that have no ring yet. -/
  beginLinks (s : State) : State :=
    (List.range 33).foldl (fun s f => if (mapGet? s.pf1 f).isNone && boundCroft s f ≠ 0xFF then
      putPf1 s f { pf1Reset with scope := boundCroft s f } else s) s

/-- PERST_N_RELEASE: a faulted input is held as asserted (R416). -/
def execPerstNRelease (s : State) : Out :=
  .next (
    let s1 := inputRelease s 3
    if !alive s then s else if inputBad s 3 then s1 else perstRelease s1)

/-! ### WAKE_N (R416, R433) -/

/-- WAKE_N_ASSERT. -/
def execWakeNAssert (s : State) : Out :=
  .next (
    let s1 := inputAssert s 4
    if !alive s then s else if powered s then wakeKept s1 else s1)

/-- WAKE_N_RELEASE. -/
def execWakeNRelease (s : State) : Out := .next (if alive s then inputRelease s 4 else s)

/-! ### Faulted inputs (R416) -/

/-- The safe action of an input that has just been latched as faulted. -/
def safeAction (s : State) (i : Nat) (chatter : Bool) : State :=
  if i = 0 then restartCheck (modeCheck s)
  else if i = 1 then (if s.plant.leakStop then s else leakStop s)
  else if i = 3 then (if s.perst then s else perstAssert s)
  else if i = 5 && !chatter then { s with slotId := 0x3F }
  else s

/-- An input latched as faulted. -/
def inputLatch (s : State) (i : Nat) (chatter : Bool) : State :=
  let x := inputOf s i
  let s1 := putInput s i (if chatter then { x with chatter := true } else { x with stuck := true })
  safeAction (moduleEvent (bump s1 (0xA440 + i) 2 1) 0x0603 (leBytes 1 i ++ leBytes 1 (if chatter then 1 else 0))) i chatter

/-- INPUT_FAULT: LEAK_N stuck raises 0x0604 again and PERST_N stuck its event, neither latching; any other breach latches. -/
def execInputFault (i : Fin 6) (chatter : Bool) (s : State) : Out :=
  .next (
    if !alive s then s
    else if i.val = 1 && !chatter then moduleEvent s 0x0604 []
    else if i.val = 3 && !chatter then moduleEvent s 0x0603 [3, 0]
    else inputLatch s i.val chatter)

/-- A fault cleared: what the input then asks for takes place (R416). -/
def faultCleared (s : State) (i : Nat) : State :=
  let was := inputBad s i
  let s1 := putInput s i ⟨(inputOf s i).active, false, false⟩
  if !was then s1
  else if i = 0 then (if (inputOf s i).active then flushStart s1 1 else modeCheck s1)
  else if i = 3 then (if (inputOf s i).active then s1 else perstRelease s1)
  else if i = 4 && powered s then wakeKept s1
  else s1

/-- CLEAR_FAULT. -/
def execClearFault (i : Fin 6) (s : State) : Out := .next (if alive s && s.reeveUp then faultCleared s i.val else s)

/-! ### The input supply (R426, R464) -/

/-- ENABLE_MATE: the input switch may close. -/
def execEnableMate (s : State) : Out := .next { s with power := { s.power with enable := true } }

/-- ENABLE_BREAK: as PWRFAIL_N (R464). A stopped module is then off. -/
def execEnableBreak (s : State) : Out :=
  .next (
    let s1 := { s with power := { s.power with enable := false } }
    if s.power.phase = 3 then stopped s1 else flushStart s1 1)

/-- INPUT_UNDERVOLTAGE: as PWRFAIL_N; a stopped module is then off (R426, R443). -/
def execInputUndervoltage (s : State) : Out :=
  .next (
    let s1 := { s with power := { s.power with input := false } }
    if s.power.phase = 3 then stopped s1 else flushStart s1 2)

/-- INPUT_OVERVOLTAGE: the input switch opens, event 0x0615, the flush. -/
def execInputOvervoltage (volts : W32) (s : State) : Out :=
  .next (
    if !alive s then s
    else
      let s1 := moduleEvent { s with power := { s.power with input := false } } 0x0615 (leBytes 4 volts.toNat)
      if s.power.phase = 3 then stopped s1 else flushStart s1 3)

/-! ### Module restart (R435) -/

/-- A module restart: the flush starts, at the end of a firmware commit that is under way (R435, R458). -/
def restartNow (s : State) : State :=
  match s.sec.commit with
  | some j => { s with sec := { s.sec with commit := some { j with restart := true } } }
  | none => flushStart s 5

/-- MODULE_RESTART. -/
def execModuleRestart (s : State) : Out :=
  .next (if powered s && s.reeveUp && !restartRefused s then restartNow s else s)

/-! ### Operating points (R428 to R430) -/

/-- The point a cluster runs at. -/
def pointOf (s : State) (n : Nat) : Nat := s.power.points.getD n 0

/-- The ungated clusters. -/
def ungated (s : State) : List Nat := (List.range 8).filter (fun n => !isGated s n)

/-- Clocks lowered to the points wanted; raising waits for the rail (R429). -/
def lowerClocks (s : State) : State :=
  { s with power := { s.power with points := (List.range 8).map (fun n => max (pointOf s n) (wantedPoint s n)) } }

/-- Clocks raised to the points wanted. -/
def raiseClocks (s : State) : State :=
  { s with power := { s.power with points := (List.range 8).map (wantedPoint s) } }

/-- The highest point among the ungated clusters as they run, which the core rail follows (R429). -/
def railPoint (s : State) : Nat := ((ungated s).map (pointOf s)).foldl min 3

/-- Whether the input power has passed the limit, or stayed below 90 % of it. -/
def overLimit (s : State) (w : Nat) : Bool := xLt (.num (odGet s 0x6300 3) 0) (x32 w)
def underLimit (s : State) (w : Nat) : Bool := xLt (xMul (.num 10 0) (x32 w)) (.num (9 * odGet s 0x6300 3) 0)

/-- Every ungated cluster one point down, no lower than P3, with event 0x0612 on entering, at most once a minute (R430). -/
def powerDown (s : State) (watts : W32) : State :=
  let p := max s.power.point (odGet s 0x6310 1)
  let entering : Bool := s.power.point ≤ odGet s 0x6310 1
  let due : Bool := match s.power.limitedAt with
    | some t => t + 60000000000 ≤ clock s
    | none => true
  let s1 := { s with power := { s.power with point := min 3 (p + 1), windowsOver := 0, msUnder := 0 } }
  if entering && due then
    moduleEvent { s1 with power := { s1.power with limitedAt := some (clock s) } } 0x0612 (leBytes 4 watts.toNat)
  else s1

/-- The clusters one point up, no higher than the highest point set. -/
def powerUp (s : State) : State :=
  { s with power := { s.power with point := max (odGet s 0x6310 1) (s.power.point - 1), msUnder := 0 } }

/-- A window's power judged (R430). -/
def powerJudge (s : State) (watts : W32) : State :=
  if overLimit s watts.toNat then
    if 1 ≤ s.power.windowsOver then powerDown s watts
    else { s with power := { s.power with windowsOver := s.power.windowsOver + 1, msUnder := 0 } }
  else if underLimit s watts.toNat then
    let s1 := { s with power := { s.power with windowsOver := 0, msUnder := s.power.msUnder + 1 } }
    if 100 ≤ s1.power.msUnder then powerUp s1 else s1
  else { s with power := { s.power with windowsOver := 0, msUnder := 0 } }

/-- POWER_LIMIT_WINDOW: a 1 ms window; its power judged, settings of the points taken, time below P0 and in write-through counted (R430, R440). -/
def execPowerLimitWindow (watts : W32) (s : State) : Out :=
  .next (
    if powered s then
      let s1 := lowerClocks (powerJudge { s with power := { s.power with watts := watts } } watts)
      let s2 := bump s1 0xA4A0 3 ((ungated s1).filter (fun n => pointOf s1 n ≠ 0)).length
      bump s2 0xA4A0 5 (if s2.power.stage = 3 && s2.power.mode = 0 then 1 else 0)
    else s)

/-- CORE_RAIL_SETTLED: the clocks rise to the points the rail allows (R429). -/
def execCoreRailSettled (s : State) : Out := .next (if powered s then raiseClocks s else s)

/-- DIE_THROTTLE: the cluster goes to P3 (R430). -/
def execDieThrottle (n : Fin 8) (s : State) : Out :=
  .next (if powered s then lowerClocks { s with power := { s.power with throttled := setIns s.power.throttled n.val } } else s)

/-- DIE_THROTTLE_END: the cluster leaves P3; its clock rises at once where the rail need not rise for it (R429, R430). -/
def execDieThrottleEnd (n : Fin 8) (s : State) : Out :=
  .next (
    if powered s && s.power.throttled.contains n.val then
      let s1 := { s with power := { s.power with throttled := s.power.throttled.filter (· ≠ n.val) } }
      if railPoint s ≤ wantedPoint s1 n.val then
        { s1 with power := { s1.power with points := s1.power.points.set n.val (wantedPoint s1 n.val) } }
      else s1
    else s)

/-- CORE_RAIL_DROOP: an episode begins, counted (R431). -/
def execCoreRailDroop (s : State) : Out :=
  .next (if powered s && !s.power.droop then bump { s with power := { s.power with droop := true } } 0xA4A0 2 1 else s)

/-- DROOP_END. -/
def execDroopEnd (s : State) : Out := .next (if powered s then { s with power := { s.power with droop := false } } else s)

end Sys2Proof.Machine
end

