-- ==== Sys2Proof/Machine/Plant.lean ====
section
/-! DEFINITION. The plant and the energy bank: sensors, the valve loop, faults, charging, calibration re-learns (R407, R418 to R425). -/

namespace Sys2Proof.Machine

/-! ### Quantities -/

/-- A finite FP32 value as a rational; 0 for the others. -/
def f32Rat (w : Nat) : Rat :=
  match x32 w with
  | .num m e => if 0 ≤ e then ((m * 2 ^ e.toNat : Int) : Rat) else mkRat m (2 ^ (-e).toNat)
  | _ => 0

/-- A rational as FP32, to nearest even (DEDUCED: the entry is an IEEE 754 binary32). -/
def ratF32 (q : Rat) : W32 := BitVec.ofNat 32 (rneQ fp32 (q < 0) q.num.natAbs q.den).bits

/-- An FP32 entry as a rational. -/
def odRat (s : State) (i sub : Nat) : Rat := f32Rat (odGet s i sub)

/-- A plant quantity in its register's unit; how it is rounded is open (R420, R422). -/
def plantUnits (q : Rat) : Nat := Config.plantRound q.num q.den

/-- Distance of two positions. -/
def posGap (a b : Nat) : Nat := (a - b) + (b - a)

/-! ### The bank (R422, R423) -/

/-- The bank put into fault, with its event (R423). -/
def bankFault (s : State) (cause : Nat) : State :=
  if s.plant.bank = 4 then s
  else energyCheck s (moduleEvent { s with plant := { s.plant with bank := 4 } } 0x0609 (leBytes 1 cause))

/-- Whether a sensor is faulted. -/
def sensorBad (s : State) (j : Nat) : Bool := s.plant.faulted.contains j

/-- The last reading of a sensor. -/
def tempOf (s : State) (j : Nat) : Rat := f32Rat (mapGet s.plant.temps j 0).toNat

/-- Whether a cause of the bank's fault that can still be seen holds: voltage, temperature or its sensor (R423). -/
def bankCauseHolds (s : State) : Bool := (33 : Rat) / 2 < f32Rat s.plant.volts.toNat || 85 < tempOf s 21 || sensorBad s 21

/-- The usable energy in J at a bank voltage (R422). -/
def usableEnergy (s : State) (v : Rat) : Rat :=
  let vmin := 8 + 56 * odRat s 0x7300 2 / 1000
  max 0 (odRat s 0x7300 1 * (v * v - vmin * vmin) / 2)

/-- BANK_ENERGY_UPDATE: the usable energy; overvoltage is a fault (R422, R423, R440). -/
def execBankEnergyUpdate (volts : W32) (s : State) : Out :=
  .next (
    if alive s && xvFinite (x32 volts.toNat) then
      let v := f32Rat volts.toNat
      let s1 := energyCheck s { s with plant := { s.plant with volts := volts, energy := plantUnits (usableEnergy s v * 1000) } }
      if (33 : Rat) / 2 < v then bankFault s1 0 else s1
    else s)

/-- BANK_FAULT: overvoltage, no progress while it charges, temperature, or a re-learn's result (R423). -/
def execBankFault (cause : Fin 4) (s : State) : Out :=
  .next (if alive s && (cause.val ≠ 1 || s.plant.bank = 0) then bankFault s cause.val else s)

/-- BANK_CHARGE_TARGET_REACHED: a charging bank is at its target (R422). -/
def execBankChargeTargetReached (s : State) : Out :=
  .next (if alive s && s.plant.bank = 0 then { s with plant := { s.plant with bank := 1 } } else s)

/-! ### Sensors (R419) -/

/-- A sensor marked faulted; the bank's own sensor faults the bank (R423). -/
def sensorFault (s : State) (j : Nat) : State :=
  if sensorBad s j then s
  else
    let s1 := moduleEvent { s with plant := { s.plant with faulted := setIns s.plant.faulted j } } 0x0602 (leBytes 1 j)
    if j = 21 then bankFault s1 2 else s1

/-- SENSOR_FAULT. -/
def execSensorFault (j : Fin 24) (s : State) : Out := .next (if alive s then sensorFault s j.val else s)

/-- A sensor's reading from its raw value: gain times raw plus offset. -/
def readingOf (s : State) (j raw : Nat) : Rat := odRat s (0x7000 + j) 2 * f32Rat raw + odRat s (0x7000 + j) 1

/-- A reading taken: kept, out of range a fault, the inlet's warning and the bank's temperature judged. -/
def takeReading (s : State) (p : W32 × Nat) : State :=
  let t := readingOf s p.2 p.1.toNat
  let s1 := { s with plant := { s.plant with temps := mapSet s.plant.temps p.2 (ratF32 t) } }
  let s2 := if !xvFinite (x32 p.1.toNat) || t < -40 || 150 < t then sensorFault s1 p.2 else s1
  let due : Bool := match s.plant.inletAt with
    | some x => x + 60000000000 ≤ clock s
    | none => true
  let s3 := if p.2 = 22 && 45 < t && due then
      moduleEvent { s2 with plant := { s2.plant with inletAt := some (clock s2) } } 0x0601 (leBytes 4 (ratF32 t).toNat)
    else s2
  if p.2 = 21 && 85 < t then bankFault s3 2 else s3

/-- Every reading of a loop period; the notice of critical warning bit 1 where it is newly set (R335). -/
def takeReadings (s : State) (raw : List W32) : State :=
  let s1 := ((raw.take 24).zipIdx).foldl takeReading s
  if overTemp s1 && !overTemp s then smartNotice s1 1 1 else s1

/-! ### The valve (R420, R421) -/

/-- The setpoint group of a sensor, as the subindex of 0x6020; the inlet has none. -/
def sensorGroup (j : Nat) : Option Nat :=
  if j < 8 then some 1 else if j < 10 then some 2 else if j < 18 then some 3 else if j = 18 then some 4
  else if j < 21 then some 5 else if j = 21 then some 6 else if j = 22 then none else some 7

/-- The largest excess of a sound sensor's reading over its group's setpoint. -/
def plantError (s : State) : Rat :=
  let es := (List.range 24).filterMap (fun j => if sensorBad s j then none else (sensorGroup j).map (fun g => tempOf s j - odRat s 0x6020 g))
  match es with
  | [] => 0
  | e :: rest => rest.foldl max e

/-- Whether a die, HBM or regulator sensor is faulted. -/
def coolFull (s : State) : Bool := s.plant.faulted.any (fun j => j ≤ 18)

/-- The eleven points of the valve curve, in 0.01 % of stroke; the factory's own where none is written (DESIGN CHOICE: the straight line). -/
def valveCurve (s : State) : List Nat :=
  match mapGet? s.doms (odKey 0x7200 1) with
  | some b => (List.range 11).map (fun i => leAt b (2 * i) 2)
  | none => (List.range 11).map (fun i => 1000 * i)

/-- The position for a demand in percent: linear between the points of the curve. -/
def curveAt (s : State) (u : Rat) : Nat :=
  let i := min 9 (u / 10).floor.toNat
  let a := ((valveCurve s).getD i 0 : Rat)
  let b := ((valveCurve s).getD (i + 1) 0 : Rat)
  plantUnits (a + (b - a) * (u - 10 * i) / 10)

/-- The integral accumulator. -/
def integral (s : State) : Rat := mkRat s.plant.iNum s.plant.iDen

/-- The loop of R420: demand in percent and the accumulator after it. -/
def plantDemand (s : State) : Rat × Rat :=
  let e := plantError s
  let up := odRat s 0x6010 7 * e
  let low : Rat := (odGet s 0x6010 9 : Rat) / 100
  let sum := up + integral s
  let acc := if low ≤ sum && sum ≤ 100 then max 0 (integral s + odRat s 0x6010 8 * e / 10) else integral s
  (if coolFull s then 100 else min 100 (max low (up + acc)), acc)

/-- The valve given a demand. -/
def valveDemand (s : State) (u acc : Rat) : State :=
  { s with plant := { s.plant with
    demand := plantUnits (100 * u), target := curveAt s u, iNum := acc.num, iDen := acc.den } }

/-- The valve sent to a position, demand aside. -/
def valveTo (s : State) (target : Nat) : State := { s with plant := { s.plant with target := target } }

/-- Whether the measured position lies within 1 % of the target. -/
def valveNear (s : State) (pos : Nat) : Bool := posGap pos s.plant.target ≤ 100

/-- The valve's command of a loop period: closed by a leak, open by a fault or while not armed, by the manual demand, or by the loop (R418, R420, R421). -/
def valveLoop (s : State) : State :=
  if s.plant.leakStop then valveTo s 0
  else if s.plant.valveFault then valveTo s 10000
  else if s.plant.relearn = 1 && s.plant.relearnState = 1 then s
  else if !s.plant.armed then valveTo { s with plant := { s.plant with demand := 10000 } } 10000
  else if odGet s 0x6010 1 = 1 then valveDemand s ((odGet s 0x6010 2 : Rat) / 100) (integral s)
  else
    let r := plantDemand s
    valveDemand s r.1 r.2

/-- The charge target of the entry taken at a loop period; one above the bank's voltage makes a bank at its target charge again (R422). -/
def retarget (s : State) : State :=
  if odGet s 0x6200 4 = s.plant.aim then s
  else { s with plant := { s.plant with
    aim := odGet s 0x6200 4
    bank := if s.plant.bank = 1 && f32Rat s.plant.volts.toNat < odRat s 0x6200 4 then 0 else s.plant.bank } }

/-- PLANT_LOOP: readings, then the valve and the charge target (R419, R420, R422). -/
def execPlantLoop (raw : List W32) (pos : W16) (s : State) : Out :=
  .next (
    if alive s && s.reeveUp && 1 ≤ s.power.stage then
      let s1 := retarget (valveLoop (takeReadings s raw))
      { s1 with plant := { s1.plant with position := pos.toNat, settled := valveNear s1 pos.toNat } }
    else s)

/-- VALVE_SETTLED. -/
def execValveSettled (pos : W16) (s : State) : Out :=
  .next (if alive s && valveNear s pos.toNat then { s with plant := { s.plant with position := pos.toNat, settled := true } } else s)

/-- The valve faulted: event 0x0600, counted, driven open unless a leak holds it closed (R421). -/
def valveFaulted (s : State) (pos : Nat) : State :=
  let s1 := moduleEvent (bump s 0xA480 1 1) 0x0600 (leBytes 2 s.plant.target ++ leBytes 2 pos)
  { s1 with plant := { s1.plant with
    valveFault := true, position := pos, settled := false, target := if s1.plant.leakStop then 0 else 10000 } }

/-- VALVE_FAULT: more than 5 % from the target for 4 s. -/
def execValveFault (pos : W16) (s : State) : Out :=
  .next (if alive s && !s.plant.valveFault && 500 < posGap pos.toNat s.plant.target then valveFaulted s pos.toNat else s)

/-- PLANT_TAKEOVER_TIMEOUT: the Reeve has not retaken the plant; the valve is driven open (R407). -/
def execPlantTakeoverTimeout (s : State) : Out :=
  .next (if alive s && !s.reeveUp && !s.plant.leakStop then
    { s with plant := { s.plant with target := 10000, settled := false } } else s)

/-! ### Arming and clearing (R418, R420, R421) -/

/-- Whether the dictionary is served: power, the Reeve up, stage 1 reached or a stop waited out (R15, R437, R441). -/
def odUp (s : State) : Bool := alive s && s.reeveUp && 1 ≤ s.power.stage

/-- ARM: accepted from stage 1 onward. -/
def execArm (s : State) : Out := .next (if odUp s && !s.sec.recovery then { s with plant := { s.plant with armed := true } } else s)

/-- A leak stop or valve fault cleared: a leak stop only once LEAK_N is released, after which the module starts again. -/
def clearStop (s : State) : State :=
  if s.plant.leakStop && leaking s then s
  else restartCheck { s with plant := { s.plant with leakStop := false, valveFault := false } }

/-- CLEAR_PLANT_STOP. -/
def execClearPlantStop (s : State) : Out := .next (if odUp s then clearStop s else s)

/-! ### Re-learn (R423, R425) -/

/-- A re-learn refused; the state reads so also while another procedure runs on (R425). -/
def relearnRefused (s : State) (proc : Nat) : State :=
  if s.plant.relearnState = 1 then { s with plant := { s.plant with refused := true } } else { s with plant := { s.plant with relearn := proc, relearnState := 3 } }

/-- Whether a valve re-learn may run: no croft runs a step, the inlet lies from 15 °C to 45 °C. -/
def valveRelearnOk (s : State) : Bool :=
  powered s && s.crofts.all (fun p => p.2.run.isNone) && !sensorBad s 22 && 15 ≤ tempOf s 22 && tempOf s 22 ≤ 45

/-- A valve re-learn started or refused. -/
def relearnValve (s : State) : State :=
  if s.plant.relearnState = 1 then relearnRefused s 1
  else if valveRelearnOk s then { s with plant := { s.plant with relearn := 1, relearnState := 1 } }
  else relearnRefused s 1

/-- A bank re-learn running: the bank re-learning, writes through. -/
def relearnBankRun (s : State) (clearing : Bool) : State :=
  modeCheck { s with plant := { s.plant with relearn := 2, relearnState := 1, clearing := clearing, bank := 3 } }

/-- Whether a bank re-learn may run: none runs, and the bank charges. -/
def bankRelearnOk (s : State) : Bool := powered s && s.plant.relearnState ≠ 1 && s.plant.bank < 2

/-- A bank re-learn started or refused. -/
def relearnBank (s : State) : State := if bankRelearnOk s then relearnBankRun s false else relearnRefused s 2

/-- RELEARN_VALVE_CURVE. -/
def execRelearnValveCurve (s : State) : Out := .next (if odUp s then relearnValve s else s)

/-- RELEARN_BANK. -/
def execRelearnBank (s : State) : Out := .next (if odUp s then relearnBank s else s)

/-- BANK_RELEARN_INTERVAL: a periodic bank re-learn, where one is set and can run. -/
def execBankRelearnInterval (s : State) : Out :=
  .next (if odUp s && odGet s 0x7500 3 ≠ 0 && bankRelearnOk s then relearnBankRun s false else s)

/-- A bank fault cleared by a re-learn, where its cause no longer holds (R423). -/
def clearBankFault (s : State) : State :=
  if powered s && s.plant.bank = 4 && !bankCauseHolds s && s.plant.relearnState ≠ 1 then relearnBankRun s true else s

/-- CLEAR_BANK_FAULT. -/
def execClearBankFault (s : State) : Out := .next (if odUp s then clearBankFault s else s)

/-- A bank re-learn's values taken: origin re-learnt, to be saved; the bank charges again, unless it has gone into fault meanwhile (R423 to R425). -/
def bankLearnt (s : State) (farads milliohms : W32) : State :=
  let s1 := odPut (odPut (odPut s 0x7300 1 farads.toNat) 0x7300 2 milliohms.toNat) 0x7300 3 2
  relearnEnd { s1 with plant := { s1.plant with bank := if s1.plant.bank = 4 then 4 else 0, clearing := false }, savePending := true } 2

/-- A bank re-learn's result judged: in range taken; a low capacitance or a high ESR is a bank fault (R423, R425). -/
def bankResult (s : State) (farads milliohms : W32) : State :=
  let c := f32Rat farads.toNat
  let r := f32Rat milliohms.toNat
  if xvFinite (x32 farads.toNat) && xvFinite (x32 milliohms.toNat) && (1 : Rat) / 2 ≤ c && c ≤ 5 && 1 ≤ r && r ≤ 200 then
    bankLearnt s farads milliohms
  else
    let s1 := bankAfterFail (relearnEnd s 4)
    if c < (1 : Rat) / 2 || 200 < r then bankFault s1 3 else s1

/-- Whether eleven positions make a valve curve: 0 first, strictly ascending, within the stroke. -/
def curveOk (l : List Nat) : Bool :=
  l.length = 11 && l.headD 1 = 0 && (l.zip (l.drop 1)).all (fun p => p.1 < p.2) && l.getLastD 10001 ≤ 10000

/-- A valve re-learn's result judged. -/
def valveResult (s : State) (l : List Nat) : State :=
  if curveOk l then
    let s1 := odPut { s with doms := mapSet s.doms (odKey 0x7200 1) (l.flatMap (leBytes 2)), savePending := true } 0x7200 2 2
    relearnEnd s1 2
  else relearnEnd s 4

/-- RELEARN_COMPLETE: the running procedure's result. -/
def execRelearnComplete (r : Relearn) (s : State) : Out :=
  .next (
    if !alive s || s.plant.relearnState ≠ 1 then s
    else match r with
      | .bank f m => if s.plant.relearn = 2 then energyCheck s (bankResult s f m) else s
      | .valve l => if s.plant.relearn = 1 then valveResult s (l.map (·.toNat)) else s
      | .failed => energyCheck s (relearnAbort s))

end Sys2Proof.Machine
end

