-- ==== Sys2Proof/Machine/Reeve.lean ====
section
/-! DEFINITION. The Reeve: restarts, the watchdog, the code flash's registers, the check-value units, and register writes of every bus (R307, R406 to R415). -/

namespace Sys2Proof.Machine

/-! ### Restart (R406, R415, R446) -/

/-- Whether three watchdog restarts have come within 10 min, this one counted. -/
def watchdogThrice (l : List Nat) : Bool :=
  match l with
  | a :: _ :: b :: _ => a < b + 600000000000
  | _ => false

/-- The Reeve restarted by a cause (0 watchdog, 1 SRAM, 2 fetch): counted, its state lost, SLOT_ID sampled, the boot ROM run, on the other bank where three watchdog restarts came before, the saved dictionary read again (R387, R406, R416, R446). -/
def reeveRestart (s : State) (cause slot : Nat) : State :=
  let recent := if cause = 0 then (clock s :: s.watchdog.recent).take 3 else s.watchdog.recent
  let s1 := moduleEvent (bump s 0xA460 (cause + 1) 1) 0x0607 (leBytes 1 cause)
  let s2 := reeveLost s1
  let s3 := { s2 with
    slotId := slot, reeveUp := false, savePending := false
    watchdog := { s2.watchdog with lastwd := cause = 0, recent := if watchdogThrice recent then [] else recent, swap := watchdogThrice recent }
    od := s2.od.filter (fun p => !(odFind (p.1 / 256) (p.1 % 256)).any odSavedEntry)
    plant := { s2.plant with iNum := 0, iDen := 1 } }
  let s4 := bootRom s3 s.watchdog.swap
  let s5 := if s4.sec.recovery then { s4 with plant := { s4.plant with armed := false } } else s4
  macStart (if s.power.stage = 0 then s5 else dictChosen s5)

/-- REEVE_RESTART. -/
def execReeveRestart (cause : Fin 3) (slotId : Fin 64) (s : State) : Out :=
  .next (if alive s then reeveRestart s cause.val slotId.val else s)

/-! ### The watchdog (R415) -/

/-- Units of 7.8125 ms since the last service. -/
def unitsSince (s : State) : Nat := (clock s - s.watchdog.served) / 7812500

/-- WDCTL's window. -/
def watchdogWindow (s : State) : Nat := s.watchdog.ctl / 1024 % 1024

/-- A write to WDKEY: the pair in order and outside the window reloads the watchdog, anything else restarts the Reeve. -/
def watchdogKey (s : State) (v : Nat) : State :=
  let k := v % 65536
  if !s.watchdog.half then
    (if k = 0x5A5A then { s with watchdog := { s.watchdog with half := true } } else reeveRestart s 0 s.slotId)
  else if k = 0xA5A5 && watchdogWindow s ≤ unitsSince s then
    { s with watchdog := { s.watchdog with half := false, served := clock s } }
  else reeveRestart s 0 s.slotId

/-- WATCHDOG_SERVICE. -/
def execWatchdogService (v : W32) (s : State) : Out := .next (if alive s && s.reeveUp then watchdogKey s v.toNat else s)

/-- WATCHDOG_TIMEOUT. -/
def execWatchdogTimeout (s : State) : Out := .next (if alive s then reeveRestart s 0 s.slotId else s)

/-- A write to WDCTL: kept while unlocked and in range. -/
def watchdogCtl (s : State) (v : Nat) : State :=
  let t := v % 1024
  let w := v / 1024 % 1024
  if s.watchdog.ctl / 2 ^ 20 % 2 = 1 || t < 7 || t ≤ w then s
  else { s with watchdog := { s.watchdog with ctl := v % 2 ^ 21 } }

/-! ### The code flash (R408 to R412) -/

/-- Bits of FSTAT. -/
def fsBusy : Nat := 1
def fsDone : Nat := 2
def fsKeyErr : Nat := 4
def fsSeqErr : Nat := 8
def fsPou : Nat := 16
def fsProt : Nat := 32
def fsBlankFail : Nat := 64
def fsWsLow : Nat := 512

/-- Whether a bit of FSTAT is set. -/
def fsHas (s : State) (b : Nat) : Bool := s.flash.fstat / b % 2 = 1

/-- Bits of FSTAT set. -/
def fsSet (s : State) (b : Nat) : State := { s with flash := { s.flash with fstat := s.flash.fstat ||| b } }

/-- The flash locked. -/
def flashLock (s : State) : State := { s with flash := { s.flash with lock := 0 } }

/-- An error of the unlock sequence or of a command: its bit set, the flash locked. -/
def flashRefuse (s : State) (b : Nat) : State := flashLock (fsSet s b)

/-- A sector of an address. -/
def sectorOf (a : Nat) : Nat := a / 65536 % 32

/-- Whether a sector is protected. -/
def sectorProt (s : State) (n : Nat) : Bool := 28 ≤ n || s.flash.fprot / 2 ^ n % 2 = 1

/-- Whether a sector holds what the model does not keep as bytes: what was written at manufacture, a valid dictionary copy, the persistent log. -/
def sectorOpaque (s : State) (n : Nat) : Bool :=
  s.flash.made.contains n || (n = 24 && s.dictA.valid) || (n = 25 && s.dictB.valid) || s.logSaved.holds n

/-- Whether a double word is erased: all 72 bits one; whether those of one programmed with all ones are is open (R409). -/
def wordErased (s : State) (a : Nat) : Bool :=
  !sectorOpaque s (sectorOf a) && (memGetL 0xFF s.flash.bytes a 8).all (· = 0xFF) && (!s.flash.ones.contains a || Config.onesErased)

/-- Whether a sector is erased. -/
def sectorErased (s : State) (n : Nat) : Bool :=
  !sectorOpaque s n && !s.flash.bytes.any (fun c => c.1 / 65536 = n) && (!s.flash.ones.any (fun a => sectorOf a = n) || Config.onesErased)

/-- An operation started. -/
def flashStart (s : State) : State :=
  { s with flash := { s.flash with lock := 6, fstat := s.flash.fstat ||| fsBusy } }

/-- A command whose sector may be protected started. -/
def flashCommand (s : State) (a : Nat) : State :=
  let s1 := { s with flash := { s.flash with faddr := a } }
  if sectorProt s (sectorOf a) then flashRefuse s1 fsProt else flashStart s1

/-- A write to FKEY (R408). -/
def flashKey (s : State) (v : Nat) : State :=
  if fsHas s fsBusy then fsSet s fsSeqErr
  else if fsHas s fsKeyErr then flashLock s
  else if s.flash.lock = 0 then
    (if v = 0x0F1E2D3C then { s with flash := { s.flash with lock := 1 } } else fsSet s fsSeqErr)
  else if s.flash.lock = 1 then
    (if v = 0xC3D2E1F0 then { s with flash := { s.flash with lock := 2 } } else flashRefuse s fsKeyErr)
  else flashRefuse s fsSeqErr

/-- A write to another flash register between the keys breaks the unlock (R408). -/
def keyBroken (s : State) : State := if s.flash.lock = 1 then flashRefuse s fsKeyErr else s

/-- A write to FCMD (R408). -/
def flashCmd (s : State) (v : Nat) : State :=
  if fsHas s fsBusy then fsSet s fsSeqErr
  else if s.flash.lock < 2 then flashRefuse s fsKeyErr
  else if s.flash.lock = 2 && 1 ≤ v % 16 && v % 16 ≤ 3 then { s with flash := { s.flash with lock := 3, fcmd := v % 16 } }
  else flashRefuse s fsSeqErr

/-- A write to FADDR: the address of a program, or the start of an erase or a blank check (R408). -/
def flashAddr (s : State) (v : Nat) : State :=
  let a := v % 2 ^ 21
  if fsHas s fsBusy then fsSet s fsSeqErr
  else if s.flash.lock = 1 then keyBroken s
  else if s.flash.lock ≠ 3 then flashRefuse s fsSeqErr
  else if s.flash.fcmd = 1 then
    (if a % 8 = 0 then { s with flash := { s.flash with lock := 4, faddr := a } } else flashRefuse s fsSeqErr)
  else flashCommand s a

/-- A write to FDATA0 (R408). -/
def flashLow (s : State) (v : Nat) : State :=
  if fsHas s fsBusy then fsSet s fsSeqErr
  else if s.flash.lock = 1 then keyBroken s
  else if s.flash.lock = 4 then { s with flash := { s.flash with lock := 5, dlo := v } }
  else flashRefuse s fsSeqErr

/-- A write to FDATA1: the program starts, unless its sector is protected or the word is not erased (R408, R409). -/
def flashHigh (s : State) (v : Nat) : State :=
  if fsHas s fsBusy then fsSet s fsSeqErr
  else if s.flash.lock = 1 then keyBroken s
  else if s.flash.lock ≠ 5 then flashRefuse s fsSeqErr
  else
    let s1 := { s with flash := { s.flash with dhi := v } }
    if sectorProt s (sectorOf s.flash.faddr) then flashRefuse s1 fsProt
    else if !wordErased s s.flash.faddr then flashRefuse s1 fsPou
    else flashStart s1

/-- A slot whose bank's activation-record area, its last 4 KiB, has gone (R446). -/
def activationLost (s : State) (n : Nat) : State :=
  if n = 11 || n = 23 then
    let i := n / 12 + 1
    if (s.sec.slots.any (fun p => p.1 = i)) then putSlot s i { slotOf s i with activation := none } else s
  else s

/-- A sector erased (R409): a dictionary copy, the log or an activation record in it is gone. -/
def sectorErase (s : State) (n : Nat) : State :=
  let s1 := { s with flash := { s.flash with
    bytes := memClear s.flash.bytes (65536 * n) 65536, made := s.flash.made.filter (· ≠ n)
    ones := s.flash.ones.filter (fun a => sectorOf a ≠ n) } }
  let s2 := if n = 24 then { s1 with dictA := { s1.dictA with digest := [] } }
    else if n = 25 then { s1 with dictB := { s1.dictB with digest := [] } }
    else if n = 26 || n = 27 then { s1 with logSaved := s1.logSaved.erase n }
    else s1
  activationLost s2 n

/-- The effect of the operation that runs. -/
def flashEffect (s : State) : State :=
  let f := s.flash
  if f.fcmd = 1 then { s with flash := { f with
    bytes := memPutL 0xFF f.bytes f.faddr (leBytes 4 f.dlo ++ leBytes 4 f.dhi)
    ones := if f.dlo = 0xFFFFFFFF && f.dhi = 0xFFFFFFFF then setIns f.ones f.faddr else f.ones } }
  else if f.fcmd = 2 then sectorErase s (sectorOf f.faddr)
  else if sectorErased s (sectorOf f.faddr) then s
  else fsSet s fsBlankFail

/-- The operation ended: its effect, DONE, the flash locked (R408, R410). -/
def flashFinish (s : State) : State :=
  if fsHas s fsBusy then
    let s1 := flashEffect s
    flashLock { s1 with flash := { s1.flash with fstat := (s1.flash.fstat ||| fsDone) - fsBusy } }
  else s

/-- FKEY. -/
def execFkey (v : W32) (s : State) : Out := .next (if alive s then flashKey s v.toNat else s)

/-- FCMD_WRITE. -/
def execFcmdWrite (v : W32) (s : State) : Out := .next (if alive s then flashCmd s v.toNat else s)

/-- FLASH_PROGRAM: the write of FDATA1. -/
def execFlashProgram (v : W32) (s : State) : Out := .next (if alive s then flashHigh s v.toNat else s)

/-- FLASH_ERASE: the write of FADDR under the erase command. -/
def execFlashErase (v : W32) (s : State) : Out := .next (if alive s && s.flash.fcmd = 2 then flashAddr s v.toNat else s)

/-- FLASH_BLANK_CHECK: the write of FADDR under the blank-check command. -/
def execFlashBlankCheck (v : W32) (s : State) : Out := .next (if alive s && s.flash.fcmd = 3 then flashAddr s v.toNat else s)

/-- FLASH_OPERATION_DONE. -/
def execFlashOperationDone (s : State) : Out := .next (if alive s then flashFinish s else s)

/-! ### Check-value units (R413, R414) -/

/-- The initial value of a unit's running check. -/
def cvInit (n : Nat) : Nat := if n = 0 then 0xFFFFFFFF else if n = 1 then 0xFFFF else 0

/-- A unit at reset: CVRES reads 0. -/
def unitReset (n : Nat) : CheckUnit := ⟨0, if n = 0 then 0xFFFFFFFF else 0, 0, 0, []⟩

/-- A unit. -/
def unitOf (s : State) (n : Nat) : CheckUnit := mapGet s.units n (unitReset n)

/-- The state with a unit replaced. -/
def putUnit (s : State) (n : Nat) (u : CheckUnit) : State := { s with units := mapSet s.units n u }

/-- The running check after one byte. -/
def cvByte (n c b : Nat) : Nat :=
  if n = 0 then crcRefl 0x82F63B78 (c ^^^ b) 8
  else if n = 1 then crcFwd 16 0x1021 (c ^^^ (b * 256)) 8
  else crcFwd 8 0x07 (c ^^^ b) 8

/-- CVRES: the running value with the final xor applied. -/
def cvResult (n : Nat) (u : CheckUnit) : Nat := if n = 0 then u.value ^^^ 0xFFFFFFFF else u.value

/-- FIN: with CMPEN the result is compared (R414). -/
def cvFinish (s : State) (n : Nat) : State :=
  let u := unitOf s n
  if u.ctl / 4 % 2 = 1 && cvResult n u ≠ u.expected then bump (putUnit s n { u with stat := u.stat ||| 2 }) 0xA460 5 1 else s

/-- A write to CVCTL: CMPEN and IE kept, then INIT, then FIN. -/
def cvControl (s : State) (n v : Nat) : State :=
  let u := { unitOf s n with ctl := v % 16 / 4 * 4 }
  let s1 := putUnit s n (if v % 2 = 1 then { u with value := cvInit n, stat := 0 } else u)
  if v / 2 % 2 = 1 then cvFinish s1 n else s1

/-- A write of `k` bytes to CVDATA, the least significant first (R413). -/
def cvFeed (s : State) (n k v : Nat) : State :=
  let u := unitOf s n
  putUnit s n { u with value := (leBytes k v).foldl (fun c b => cvByte n c b.toNat) u.value }

/-- A write to CVALIVE (R414). -/
def cvAlive (s : State) (n v : Nat) : State :=
  let u := unitOf s n
  let cnt := v % 65536
  let slot := v / 65536 % 16
  let last := mapGet u.slots slot 0
  if v / 2 ^ 20 % 2 = 1 || cnt = (last + 1) % 65536 then putUnit s n { u with slots := mapSet u.slots slot cnt }
  else if cnt = last then putUnit s n { u with stat := u.stat ||| 8 }
  else bump (putUnit s n { u with stat := u.stat ||| 4 }) 0xA460 6 1

/-- CVCTL_INIT. -/
def execCvctlInit (n : Fin 3) (v : W32) (s : State) : Out :=
  .next (if alive s && v.toNat % 2 = 1 then cvControl s n.val v.toNat else s)

/-- CVCTL_FIN. -/
def execCvctlFin (n : Fin 3) (v : W32) (s : State) : Out :=
  .next (if alive s && v.toNat / 2 % 2 = 1 then cvControl s n.val v.toNat else s)

/-- CVDATA: 1, 2 or 4 bytes. -/
def execCvdata (n : Fin 3) (width : Fin 3) (v : W32) (s : State) : Out :=
  .next (if alive s then cvFeed s n.val (2 ^ width.val) v.toNat else s)

/-- CVALIVE. -/
def execCvalive (n : Fin 3) (v : W32) (s : State) : Out := .next (if alive s then cvAlive s n.val v.toNat else s)

/-! ### Register writes (R307) -/

/-- Bits of FSTAT cleared by writing them 1. -/
def flashStatWrite (s : State) (v : Nat) : State :=
  let s1 := keyBroken s
  { s1 with flash := { s1.flash with fstat := s1.flash.fstat - (s1.flash.fstat &&& (v &&& 0x3FE)) } }

/-- The wait-state floor at a Reeve clock and rail (R412). -/
def waitFloor (clk : Nat) (lowRail : Bool) : Nat :=
  if clk = 0 then 0 else if clk = 1 then (if lowRail then 3 else 2) else if lowRail then 7 else 5

/-- A write to FCTL (R412). -/
def flashCtlWrite (s : State) (v : Nat) : State :=
  let s1 := keyBroken s
  let s2 := { s1 with flash := { s1.flash with fctl := v % 64 / 16 * 16 + v % 8 } }
  if v % 8 < waitFloor s.flash.clk s.flash.lowRail then fsSet s2 fsWsLow else s2

/-- A write to FPROT. -/
def flashProtWrite (s : State) (v : Nat) : State :=
  let s1 := keyBroken s
  { s1 with flash := { s1.flash with fprot := v % 2 ^ 28 } }

/-- A word written to the flash registers. -/
def flashRegister (s : State) (offset v : Nat) : State :=
  if offset = 0x00 then flashKey s v
  else if offset = 0x04 then flashCmd s v
  else if offset = 0x08 then flashAddr s v
  else if offset = 0x0C then flashLow s v
  else if offset = 0x10 then flashHigh s v
  else if offset = 0x14 then flashStatWrite s v
  else if offset = 0x18 then flashCtlWrite s v
  else if offset = 0x1C then flashProtWrite s v
  else if offset = 0x20 then keyBroken s
  else s

/-- A write to the registers of a check-value unit. -/
def unitRegister (s : State) (n offset width v : Nat) : State :=
  if offset = 0x04 then cvFeed s n width v
  else if offset = 0x00 then cvControl s n v
  else if offset = 0x0C then putUnit s n { unitOf s n with expected := v % 2 ^ 32 }
  else if offset = 0x10 then cvAlive s n v
  else if offset = 0x14 then putUnit s n { unitOf s n with stat := (unitOf s n).stat - ((unitOf s n).stat &&& (v &&& 0xE)) }
  else s

/-- A word written to the watchdog's registers. -/
def watchdogRegister (s : State) (offset v : Nat) : State :=
  if offset = 0x00 then watchdogCtl s v
  else if offset = 0x04 then watchdogKey s v
  else if offset = 0x08 then { s with watchdog := { s.watchdog with lastwd := s.watchdog.lastwd && v / 1024 % 2 = 0 } }
  else s

/-- A write in the Reeve's register space: the flash at 0x000, check-value unit n at 0x100 + 0x40 n, the watchdog at 0x200 (DESIGN CHOICE: the spec gives offsets within each block only). -/
def reeveWrite (s : State) (offset width v : Nat) : State :=
  let w : Bool := width = 4 && offset % 4 = 0
  if offset < 0x100 then (if w then flashRegister s offset (v % 2 ^ 32) else s)
  else if offset < 0x1C0 then
    let o := (offset - 0x100) % 0x40
    (if w || (o = 4 && (width = 1 || width = 2)) then unitRegister s ((offset - 0x100) / 0x40) o width (v % 2 ^ 32) else s)
  else if 0x200 ≤ offset then (if w then watchdogRegister s (offset - 0x200) (v % 2 ^ 32) else s)
  else s

/-- REGISTER_WRITE: a write on one of the register buses. -/
def execRegisterWrite (b : RegBus) (offset width : Nat) (v : W64) (s : State) : Out :=
  .next (match b with
    | .bar f => if pcieUp s then barWrite s f.val offset width v.toNat else s
    | .msix f => if pcieUp s then msixWrite s f.val offset width v.toNat else s
    | .nvme k => if pcieUp s then nvmeRegWrite s k.val offset width v.toNat else s
    | .reeve => if alive s then reeveWrite s offset width v.toNat else s)

end Sys2Proof.Machine
end

