-- ==== Sys2Proof/Machine/OdLive.lean ====
section
/-! DEFINITION. What a dictionary entry reads as: stored values, the live state of units, identity and security values, and the attestation report (R387, R396, R404, R456). -/

namespace Sys2Proof.Machine

/-! ### Live scalars -/

/-- Identity entries of 0x1000. -/
def liveIdentity (s : State) (sub : Nat) : Nat :=
  match sub with
  | 4 => s.serial.toNat
  | 5 => s.fuse.grade
  | 6 => s.fuse.fused.toNat
  | 7 => Config.boardRevision.toNat
  | 0x0C => s.power.stage
  | _ => odGet s 0x1000 sub

/-- The newest valid copy's sequence number. -/
def savedSeq (s : State) : Nat := max (if s.dictA.valid then s.dictA.seq else 0) (if s.dictB.valid then s.dictB.seq else 0)

/-- A croft's state: 0 while it is absent (R263). -/
def liveCroft (s : State) (c : Nat) : Nat :=
  match croft? s c with
  | some k => k.state
  | none => 0

/-- Use of the tiers by a croft, what it pins, and its Almanac's pinned peak (R160, R171). -/
def liveUse (s : State) (c sub : Nat) : Nat :=
  match croft? s c with
  | none => 0
  | some k =>
    match sub with
    | 1 => ((List.range 8).map (t0Use k)).foldl max 0
    | 2 => t1Use s c k
    | 3 => flashUse s c k 2
    | 4 => flashUse s c k 3
    | 5 => tpUse k
    | 6 => pinnedUse k
    | _ => match k.alm with
      | some a => a.peak
      | none => 0

/-- A croft's segment store: committed epoch, retained epochs, holds, read-only (R230, R239). -/
def liveStore (s : State) (c sub : Nat) : Nat :=
  match croft? s c with
  | none => 0
  | some k =>
    match sub with
    | 1 => k.store.epoch
    | 2 => countedEpochs k.store
    | 3 => k.store.holds.length
    | _ => if k.store.readOnly then 1 else 0

/-- Health entries of 0x5000 (R333 to R336). -/
def liveHealth (s : State) (sub : Nat) : Nat :=
  match sub with
  | 1 => wearFigure s
  | 2 => wearHighest s
  | 3 => availableSpare s
  | 5 => if s.mediaReadOnly then 1 else 0
  | _ => odGet s 0x5000 sub

/-- A sensor's temperature, NaN while it is faulted (R419). -/
def liveTemp (s : State) (j : Nat) : Nat := if sensorBad s j then 0x7FC00000 else (mapGet s.plant.temps j 0).toNat

/-- The plant state: a leak stop before a re-learn before armed. -/
def livePlant (s : State) : Nat :=
  if s.plant.leakStop then 2 else if s.plant.relearnState = 1 then 3 else if s.plant.armed then 1 else 0

/-- The valve's entries of 0x6010. -/
def liveValve (s : State) (sub : Nat) : Nat :=
  match sub with
  | 3 => s.plant.demand
  | 4 => s.plant.target
  | 5 => s.plant.position
  | 6 => if s.plant.leakStop then 3 else if s.plant.valveFault then 2 else if s.plant.settled then 0 else 1
  | _ => odGet s 0x6010 sub

/-- An input's state bits (R416). -/
def liveInput (s : State) (i : Nat) : Nat :=
  let x := inputOf s i
  (if x.active then 1 else 0) + (if inputBad s i then 2 else 0) + (if x.stuck then 4 else 0) + (if x.chatter then 8 else 0)

/-- The energy bank's entries (R422, R423). -/
def liveBank (s : State) (sub : Nat) : Nat :=
  match sub with
  | 1 => s.plant.volts.toNat
  | 2 => bankEnergy s
  | 5 => s.plant.bank
  | _ => odGet s 0x6200 sub

/-- A bit per cluster that is gated. -/
def gatedBits (s : State) : Nat := ((List.range 8).map (fun n => if isGated s n then 2 ^ n else 0)).sum

/-- Operating points of the clusters: 0xFF while gated. -/
def livePoint (s : State) (sub : Nat) : Nat :=
  if 2 ≤ sub && sub ≤ 9 then (if isGated s (sub - 2) then 0xFF else pointOf s (sub - 2)) else odGet s 0x6310 sub

/-- Flush and write-mode entries of 0x6330 (R440). -/
def liveFlush (s : State) (sub : Nat) : Nat :=
  match sub with
  | 3 => flushThresholdRead s
  | 4 => protectedAllowed s
  | 5 => s.power.mode
  | _ => odGet s 0x6330 sub

/-- Stop and start entries of 0x6400. -/
def liveStop (s : State) (sub : Nat) : Nat :=
  match sub with
  | 2 => s.power.cause
  | 3 => s.power.stage2ms.toNat
  | 4 => s.power.stage3ms.toNat
  | _ => odGet s 0x6400 sub

/-- Fuse entries of 0x8000. -/
def liveFuses (s : State) (sub : Nat) : Nat :=
  match sub with
  | 2 => (s.fuse.revoked.map (fun i => 2 ^ i)).sum
  | _ => if s.sec.debugFlag then 1 else 0

/-- A port's link state, width and neighbour (R282). -/
def livePort (s : State) (p sub : Nat) : Nat :=
  match sub with
  | 4 => (portOf s p).state
  | 5 => (portOf s p).width
  | 6 => (portOf s p).neighbour
  | _ => odGet s (0x9020 + p) sub

/-- The Bell entries (R248 to R251). -/
def liveBell (s : State) (sub : Nat) : Nat :=
  match sub with
  | 3 => s.bell.count
  | 4 => bellState s
  | 6 => s.bell.pps.getD 0
  | 7 => unsigned 32 s.bell.estimate
  | _ => odGet s 0x9100 sub

/-- Scope granted to a session (R459). -/
def scopeOf (s : State) (sid : Nat) : Nat :=
  match mapGet? s.sessions sid with
  | some n => n.scope
  | none => 0

/-- Whether an index lies in a block of `n`. -/
def within (i b n : Nat) : Bool := b ≤ i && i < b + n

/-- Identity, communication and croft entries. -/
def odLow (s : State) (i sub : Nat) : Nat :=
  if i = 0x1000 then liveIdentity s sub
  else if i = 0x1010 then s.slotId % 64
  else if i = 0x1040 then (if sub = 1 then (slotLevels s s.sec.running).1 else (slotLevels s s.sec.running).2)
  else if i = 0x1100 && sub = 5 then s.macAddr.toNat
  else if i = 0x1110 then mapGet s.eids (sub - 1) 0
  else if i = 0x1120 && sub = 2 then s.sessions.length
  else if i = 0x2000 && sub = 3 then savedSeq s
  else if within i 0x3000 32 && sub = 1 then liveCroft s (i - 0x3000)
  else if within i 0x3600 32 then liveStore s (i - 0x3600) sub
  else odGet s i sub

/-- Tier, media, plant and power entries. -/
def odMid (s : State) (i sub : Nat) : Nat :=
  if i = 0x4000 && sub = 2 then t1Reserve
  else if i = 0x4000 && sub = 3 then t1Available
  else if i = 0x4010 && sub = 2 then s.seedInEffect
  else if within i 0x4180 32 then liveUse s (i - 0x4180) sub
  else if i = 0x5000 then liveHealth s sub
  else if i = 0x5010 then lifeUsed s
  else if i = 0x5100 && sub = 9 then unsigned 64 (freeOp s (odGet s 0x4000 1))
  else if i = 0x5100 && sub = 10 then unsigned 64 (opFloor s)
  else if within i 0x5200 8 && sub = 4 then (stackOf s (i - 0x5200)).scrub.state
  else if i = 0x5400 then conflicts s
  else if i = 0x6000 then liveTemp s (sub - 1)
  else if i = 0x6001 && sub = 4 then livePlant s
  else if i = 0x6010 then liveValve s sub
  else if within i 0x6100 6 then liveInput s (i - 0x6100)
  else if i = 0x6200 then liveBank s sub
  else if i = 0x6300 && sub = 2 then s.power.watts.toNat
  else if i = 0x6310 then livePoint s sub
  else if i = 0x6320 && sub = 2 then gatedBits s
  else if i = 0x6330 then liveFlush s sub
  else if i = 0x6400 then liveStop s sub
  else odGet s i sub

/-- Re-learn, security, Kamlin and Bell entries, and the counters. -/
def odHigh (s : State) (sid i sub : Nat) : Nat :=
  if i = 0x7500 && sub = 2 then (if s.plant.refused then 3 else s.plant.relearnState)
  else if i = 0x8000 then liveFuses s sub
  else if i = 0x8010 then counterOf s (sub - 1)
  else if i = 0x8200 && sub = 4 then s.sec.running
  else if i = 0x8300 then scopeOf s sid
  else if i = 0x9000 then ownAddress s
  else if within i 0x9020 8 then livePort s (i - 0x9020) sub
  else if i = 0x9100 then liveBell s sub
  else odGet s i sub

/-- What a scalar entry reads as for a session (R396). -/
def odScalar (s : State) (sid i sub : Nat) : Nat :=
  if i < 0x4000 then odLow s i sub else if i < 0x7000 then odMid s i sub else odHigh s sid i sub

/-- Whether the entry is one of the readings the model takes no values for: input volts, core rail volts and amperes (R430 table). -/
def odFree (i sub : Nat) : Bool := i = 0x6300 && (sub = 1 || sub = 4 || sub = 5)

/-- Whether an entry reports the live state of a unit not yet started (R396, R437): flash and ports from stage 2, tier use and stacks from stage 3. -/
def odNotReady (s : State) (i sub : Nat) : Bool :=
  let st := if powered s then s.power.stage else 0
  (st < 2 && ((i = 0x5000 && sub ≠ 4) || i = 0x5010 || (i = 0x5100 && 9 ≤ sub) || within i 0x3600 32 ||
    (within i 0x9020 8 && 4 ≤ sub))) ||
  (st < 3 && (within i 0x4180 32 || (within i 0x5200 8 && 4 ≤ sub)))

/-! ### Byte values -/

/-- Trailing zeros removed. -/
def trimZeros (b : List Byte) : List Byte := (b.reverse.dropWhile (· == 0)).reverse

/-- The part number: "DW-6408-F" or "DW-6408-S" (R4). -/
def partNumber (s : State) : List Byte :=
  [0x44, 0x57, 0x2D, 0x36, 0x34, 0x30, 0x38, 0x2D, if s.fuse.grade = 0 then 0x46 else 0x53]

/-- A saved copy's content as numbers, from which its bytes are formed; the wrapped keys are read by no entry (R461). -/
def copyNumbers (x : DictCopy) : List Nat :=
  x.seq :: (x.vals.flatMap (fun p => [p.1, p.2]) ++ x.doms.flatMap (fun p => p.1 :: p.2.map (·.toNat)))

/-- A saved copy as bytes: of a layout the spec leaves open. -/
def copyBytes (x : DictCopy) : List Byte :=
  (List.range (Config.copyLength (copyNumbers x)).toNat).map (Config.copyByte (copyNumbers x))

/-- The certificate chain (R452). -/
def certChain : List Byte := (List.range Config.chainLength.toNat).map Config.chainByte

/-- The attestation report of a nonce, signed (R456). -/
def attReport (s : State) (nonce : List Byte) : List Byte × State :=
  let lv := slotLevels s s.sec.running
  let body := leBytes 4 0x52415744 ++ leBytes 2 1 ++ leBytes 1 s.fuse.grade ++
    leBytes 1 ((if s.sec.debugFlag then 1 else 0) + (if s.sec.recovery then 2 else 0)) ++ leBytes 8 s.serial.toNat ++ sub nonce 0 32 ++
    leBytes 8 s.bell.count ++ leBytes 2 lv.1 ++ leBytes 2 lv.2 ++ leBytes 2 (odGet s 0x2300 1) ++ leBytes 1 s.sec.running ++ [0] ++
    [1, 2, 3].flatMap (fun k => leBytes 2 (slotSvn s s.sec.running k)) ++ List.replicate 10 0 ++
    [1, 2, 3, 4, 5, 6].flatMap (measurement s)
  let d := shake256 64 body
  let r := identitySign s d
  (body ++ d ++ r.1 ++ List.replicate 6 0, r.2)

/-- A session's attestation report: refused (0x06) without a nonce of its own, else a fresh report (R456). -/
def reportFor (s : State) (sid : Nat) : Nat × List Byte × State :=
  match mapGet? s.sessions sid with
  | none => (6, [], s)
  | some n => if n.attNonce.isEmpty then (6, [], s) else (0, (attReport s n.attNonce).1, (attReport s n.attNonce).2)

/-- A new authorisation nonce of a session, which replaces its last one (R459). -/
def nonceFor (s : State) (sid : Nat) : Nat × List Byte × State :=
  let r := freshBytes 32 s
  (0, r.1, { r.2 with sessions := mapMod r.2.sessions sid (fun n => { n with authNonce := r.1 }) })

/-- The valve curve and the route table as bytes; a route table never written is all 0xFF (R289). -/
def tableBytes (s : State) (i : Nat) : List Byte :=
  if i = 0x7200 then (valveCurve s).flatMap (leBytes 2)
  else mapGet s.doms (odKey 0x9200 1) (List.replicate 512 0xFF)

/-- The value of a STR or DOMAIN entry that reads without side effects. -/
def odPlain (s : State) (i sub : Nat) : List Byte :=
  if i = 0x1000 then
    (match sub with
    | 3 => partNumber s
    | 8 => leBytes 10 Config.madeOn.toNat
    | n => trimZeros (slotVersion s s.sec.running (n - 8)))
  else if i = 0x5000 then nativeRecord s
  else if within i 0x5200 8 then (if sub = 5 then (stackOf s (i - 0x5200)).scrub.summary else (stackOf s (i - 0x5200)).scrub.patrol)
  else if i = 0x5400 then copyBytes (if sub = 2 then s.dictA else s.dictB)
  else if i = 0x8000 then s.fuse.rootDigest
  else if i = 0x8020 then (if sub = 1 then identityPublic s else certChain)
  else tableBytes s i

/-- The value of a STR or DOMAIN entry: status, bytes, and the state after the read. -/
def odBytes (s : State) (sid i sub : Nat) : Nat × List Byte × State :=
  if i = 0x8300 then nonceFor s sid
  else if i = 0x8400 then reportFor s sid
  else (0, odPlain s i sub, s)

/-- The data of a refused request: with not-ready the present stage as one byte, which R25 has the status name (DEDUCED, log entry 111). -/
def stageData (s : State) (status : Nat) : List Byte := if status = 0x0C then leBytes 1 s.power.stage else []

/-- The value of a readable entry: status, bytes, and the state after the read. -/
def odFetch (s : State) (sid : Nat) (e : OdEntry) (i sub : Nat) : Nat × List Byte × State :=
  if odNotReady s i sub then (0x0C, stageData s 0x0C, s)
  else if odIsBytes e.ty then odBytes s sid i sub
  else if odFree i sub then (0, leBytes 4 ((fresh s).1.toNat % 2 ^ 32), (fresh s).2)
  else (0, leBytes (odTyLen e.ty) (odScalar s sid i sub), s)

end Sys2Proof.Machine
end

