-- ==== Sys2Proof/Machine/DictRules.lean ====
section
/-! DEFINITION. Which dictionary writes are accepted: ranges and the entries' own rules (R160, R163, R246, R247, R306, R342, R363, R387, R402, R424, R425). -/

namespace Sys2Proof.Machine

/-- A raw value read by its type. -/
def odSigned (ty raw : Nat) : Int :=
  if ty = 6 then signed 8 raw else if ty = 7 then signed 16 raw else if ty = 8 then signed 32 raw else if ty = 9 then signed 64 raw
  else (raw : Int)

/-- Whether a raw value lies in its entry's range; a NaN or an infinity lies in none (R386). -/
def odInRange (e : OdEntry) (raw : Nat) : Bool :=
  if e.ty = 0x0A then
    xvFinite (x32 raw) && decide ((e.lo : Rat) / e.den ≤ f32Rat raw) && decide (f32Rat raw ≤ (e.hi : Rat) / e.den)
  else e.lo ≤ odSigned e.ty raw && odSigned e.ty raw ≤ e.hi

/-- Entries whose values are multiples of a unit. -/
def odUnit (i sub : Nat) : Nat :=
  if within i 0x4100 32 && (sub = 1 || sub = 2 || sub = 5) then 32768
  else if within i 0x4100 32 && (sub = 3 || sub = 4) then 1048576
  else if i = 0x2210 && sub ≤ 2 then 8
  else if (within i 0x3000 32 && sub = 6) || within i 0x5200 8 then 32
  else 1

/-- Ranges that the table's bounds do not say: multiples, unicast addresses, lane counts, bounds held in other entries. -/
def odRangeOk (s : State) (i sub v : Nat) : Bool :=
  v % odUnit i sub = 0 &&
  (if i = 0x1100 && sub = 4 then v / 2 ^ 40 % 2 = 0
  else if i = 0x2300 then v ≤ (slotLevels s s.sec.running).2
  else if i = 0x2400 || i = 0x2401 then v < 32 || v = 0xFF
  else if within i 0x3500 32 && sub = 2 then
    signed 16 (odGet s i 3) ≤ signed 16 v && signed 16 v ≤ signed 16 (odGet s i 4)
  else if within i 0x3500 32 && sub = 3 then signed 16 v ≤ signed 16 (odGet s i 4)
  else if within i 0x3500 32 && sub = 4 then signed 16 (odGet s i 3) ≤ signed 16 v
  else if within i 0x3620 32 then v ≤ (slotLevels s s.sec.running).2 && (ceilingOf s (i - 0x3620) = 0 || v ≤ ceilingOf s (i - 0x3620))
  else if within i 0x4100 32 && sub = 2 then v ≤ t1Available
  else if i = 0x5100 && sub = 2 then odGet s 0x5100 1 + 8 ≤ v
  else if within i 0x9020 8 && sub = 2 then v ≠ 3
  else if i = 0x8200 then v < 32
  else true)

/-! ### Quotas (R160, R163) -/

/-- The sum of the T0 quotas of the crofts hosted in one physical cluster, with one of them set to a value. -/
def t0Sum (s : State) (p c v : Nat) : Nat :=
  (s.crofts.map (fun x => if hostEngines x.2.mask p = 0 then 0 else if x.1 = c then v else quotaPeak s x.1 1)).sum

/-- The sum of a quota over all crofts, with one of them set to a value. -/
def quotaSum (s : State) (sub c v : Nat) : Nat := ((List.range 32).map (fun x => if x = c then v else quotaPeak s x sub)).sum

/-- Bytes of T0 copies in a physical cluster that no pin holds. -/
def looseT0 (k : Croft) (p : Nat) : Nat :=
  (k.copies.filter (fun y => y.t0.any (fun v => hostCluster k v = p) && y.pins.isEmpty && y.jobPin.isEmpty)).length * sheafBytes

/-- Bytes of T1 copies that no pin holds. -/
def looseT1 (k : Croft) : Nat :=
  (k.copies.filter (fun y => y.frame.isSome && y.pins.isEmpty && y.jobPin.isEmpty)).length * sheafBytes

/-- Whether a T0 quota suffices, or the spill it asks for is enabled: T0 to T1, and T1 to flash where T1 does not take what leaves T0. -/
def t0LowerOk (s : State) (c : Nat) (k : Croft) (v : Nat) : Bool :=
  let leaves := ((List.range 8).map (fun p => t0Use k p - (v + looseT0 k p))).sum
  leaves = 0 || (spillOn s c 0 && (spillOn s c 1 || t1Use s c k + leaves ≤ quota s c 2 + looseT1 k))

/-- Whether a T1 quota covers the pinned peak, the images and the park area, and suffices or the spill it asks for is enabled. -/
def t1LowerOk (s : State) (c : Nat) (k : Croft) (v : Nat) : Bool :=
  (match k.alm with
  | some a => a.peak
  | none => 0) + imageUse k + k.park ≤ v && (spillOn s c 1 || t1Use s c k ≤ v + looseT1 k)

/-- Whether a lowering keeps R163's limits. -/
def lowerOk (s : State) (c sub v : Nat) : Bool :=
  match croft? s c with
  | none => true
  | some k =>
    if quota s c sub ≤ v then true
    else if sub = 1 then t0LowerOk s c k v
    else if sub = 2 then t1LowerOk s c k v
    else true

/-- Whether a quota keeps R160's sums and R163's limits. -/
def quotaOk (s : State) (c sub v : Nat) : Bool :=
  lowerOk s c sub v &&
  (if sub = 1 then (List.range 8).all (fun p => t0Sum s p c v ≤ 16777216)
  else if sub = 2 then quotaSum s 2 c v ≤ t1Available
  else if sub = 3 || sub = 4 then poolUsed s + v ≤ userPool + quotaPeak s c sub
  else true)

/-! ### Levels (R246, R247) -/

/-- Whether a loaded image or an open job of one names a level above a ceiling; built-in work takes the ceiling itself (R246). -/
def levelAbove (s : State) (v : Nat) : Bool :=
  s.crofts.any (fun p => p.2.images.any (fun im => v < imgLevel im.2.bytes) || (openJobs p.2).any (fun j => j.kind < 2 && v < j.level))

/-! ### The entries' own rules -/

/-- Whether another virtual function of the same physical function is bound to the croft (R306). -/
def bindClash (s : State) (i sub v : Nat) : Bool :=
  v ≠ 0xFF && (List.range 32).any (fun n => n + 1 ≠ sub && odGet s i (n + 1) = v)

/-- Whether a running re-learn measures an entry (R425). -/
def relearnHolds (s : State) (i : Nat) : Bool := (bankRelearning s && i = 0x7300) || (valveRelearning s && i = 0x7200)

/-- Whether an entry's own rules take a value. -/
def ownRule (s : State) (i sub v : Nat) : Bool :=
  !relearnHolds s i &&
  (if i = 0x1120 && sub = 1 then v ≠ 0
  else if i = 0x2300 then v = 0 || !levelAbove s v
  else if i = 0x2400 || i = 0x2401 then !bindClash s i sub v
  else if i = 0x4000 then opFloor s ≤ freeOp s v && t2ClassUse s ≤ v * 1000000000
  else if within i 0x4100 32 then quotaOk s (i - 0x4100) sub v
  else if i = 0x5100 && sub = 1 then v + 8 ≤ odGet s 0x5100 2
  else true)

/-! ### Acceptance of a write -/

/-- Whether a transport may write (R402). -/
def mayWrite (s : State) (t : Nat) : Bool := odGet s 0x1120 1 / 2 ^ t % 2 = 1

/-- What bars a write before its data is looked at: transport, lock, entry, access (R387, R392, R402). -/
def writeBar (s : State) (sid t i sub : Nat) : Nat :=
  if !mayWrite s t then 0x0D
  else if 0xF000 ≤ i && scopeOf s sid % 2 = 0 then 0x07
  else if !odTable.any (odHasIndex i) then 0x01
  else match odFind i sub with
    | none => 0x02
    | some e => if e.acc = 0 || e.acc = 4 then 0x03 else if e.acc = 3 && s.dictConflict then 0x0F else 0

/-- What bars a scalar value: type and length, range, own rules. -/
def valueBar (s : State) (e : OdEntry) (i sub ty : Nat) (data : List Byte) : Nat :=
  if ty ≠ e.ty || odIsBytes e.ty || data.length ≠ odTyLen e.ty then 0x04
  else if !odInRange e (leNat data) || !odRangeOk s i sub (leNat data) then 0x05
  else if !ownRule s i sub (leNat data) then 0x06
  else 0

/-- What bars a whole DOMAIN value: its length, its form, own rules; a package or a record of recovery has any length. -/
def bytesBar (s : State) (e : OdEntry) (i : Nat) (data : List Byte) : Nat :=
  if e.hi < (data.length : Int) || (i ≠ 0x8200 && (data.length : Int) ≠ e.hi) then 0x05
  else if i = 0x7200 && !curveOk ((List.range 11).map (fun n => leAt data (2 * n) 2)) then 0x05
  else if relearnHolds s i then 0x06
  else 0

end Sys2Proof.Machine
end

