-- ==== Sys2Proof/Machine/DictWrite.lean ====
section
/-! DEFINITION. What an accepted dictionary write does: values, deferred values, commands, whole DOMAIN values, authorisation, saves and restored defaults (R395 to R397, R405, R424, R435, R456 to R459). -/

namespace Sys2Proof.Machine

/-! ### Saves and defaults (R388, R405) -/

/-- The result of a dictionary command. -/
def dictResult (s : State) (v : Nat) : State := odPut s 0x2000 2 v

/-- Whether restore defaults leaves a value: calibration, security, the MAC address override, and what is not rws (R405). -/
def keepsValue (key : Nat) : Bool :=
  let i := key / 256
  (0x7000 ≤ i && i < 0x9000) || key = odKey 0x1100 4 || !(odFind i (key % 256)).any (fun e => e.acc = 3)

/-- Whether a restore of defaults is refused: a croft is not absent, or the saved dictionary conflicts. -/
def restoreBar (s : State) : Nat := if s.dictConflict then 0x0F else if !s.crofts.isEmpty then 0x06 else 0

/-! ### Effects of a value -/

/-- The subindex of the origin that goes with a calibration entry (R424). -/
def originSub (i : Nat) : Nat := if i < 0x7200 || i = 0x7300 then 3 else 2

/-- Whether the ports are past their start: written settings retrain them (R282, R437). -/
def portsUp (s : State) : Bool := powered s && 2 ≤ s.power.stage

/-- Whether a port's settings differ between two states. -/
def portDiffers (s t : State) (p : Nat) : Bool := [1, 2, 3].any (fun k => odGet s (0x9020 + p) k ≠ odGet t (0x9020 + p) k)

/-- The spare threshold's warning, where a new threshold sets it (R335). -/
def spareCheck (before s : State) : State :=
  if odGet before 0x5000 4 ≤ availableSpare before && availableSpare s < odGet s 0x5000 4 then smartNotice s 0 2 else s

/-- Every rws entry at its default, with what follows from the values restored: ports whose settings change retrain, those in conflict too, the bank's energy and the spare threshold are judged again, and the Bell master is elected. -/
def defaultsRestored (s : State) : State :=
  let s1 := { s with od := s.od.filter (fun p => keepsValue p.1), doms := s.doms.filter (fun p => p.1 ≠ odKey 0x9200 1) }
  elect (spareCheck s (energyCheck s ((List.range 8).foldl (fun t p =>
    if (portsUp s && portDiffers s s1 p) || (portOf t p).state = 5 then retrain t p else t) s1)))

/-- What follows at once from an entry's new value: a Bell role or priority is elected with (R249), ports retrained (those in conflict by a new address), origins set, warnings. -/
def entryEffect (before s : State) (i sub : Nat) : State :=
  if within i 0x9020 8 && sub ≤ 3 then (if portsUp s then retrain s (i - 0x9020) else s)
  else if 0x7000 ≤ i && i < 0x7500 then odPut s i (originSub i) 1
  else if i = 0x5000 then spareCheck before s
  else if i = 0x9100 && sub ≤ 2 then elect s
  else if i = 0x9000 then (List.range 8).foldl (fun t p => if (portOf t p).state = 5 then retrain t p else t) s
  else s

/-- An entry's new value in effect: the bank's energy is judged again against new limits (R440). -/
def entrySet (s : State) (i sub v : Nat) : State :=
  let s1 := entryEffect s (odPut s i sub v) i sub
  if i = 0x6330 then energyCheck s s1 else s1

/-! ### Values -/

/-- Crofts that run a step. -/
def runningCrofts (s : State) : List Nat := (s.crofts.filter (fun p => p.2.run.isSome)).map (·.1)

/-- The crofts at whose step boundary a write to an entry waits (R14, R48, R247). -/
def waitCrofts (s : State) (i sub : Nat) : List Nat :=
  if deferredAll i then runningCrofts s
  else match deferredCroft i sub with
    | some c => (runningCrofts s).filter (· = c)
    | none => []

/-- A write parked until the crofts it waits for pass their step boundaries (R395). -/
def writeDeferred (s : State) (sid : Nat) (hdr : List Byte) (i sub v : Nat) (found : List Byte) (l : List Nat) : State :=
  let s1 := l.foldl (fun s c => modCroft s c (fun k => { k with deferred := k.deferred ++ [.entry (odKey i sub) v] })) s
  odPark s1 sid (odKey i sub) l.head? true hdr found

/-- An accepted value: deferred, or in effect at once; a saved entry's response waits for the save (R395, R396). -/
def valueWrite (s : State) (sid : Nat) (hdr : List Byte) (e : OdEntry) (i sub v : Nat) (found : List Byte) : State :=
  let l := waitCrofts s i sub
  if !l.isEmpty then writeDeferred s sid hdr i sub v found l
  else
    let s1 := if within i 0x4100 32 && sub ≤ 2 then entryApply s (odKey i sub) v else entrySet s i sub v
    if e.acc = 3 then odPark s1 sid (odKey i sub) none true hdr found
    else odAnswer s1 sid hdr 0 0 e.ty found

/-! ### Commands -/

/-- Whether a croft command waits for the croft's step boundary. -/
def croftWaits (s : State) (c v : Nat) : Bool :=
  odGet s (0x3000 + c) 9 = 0 && (croft? s c).any (fun k => k.run.isSome && (v = 2 || v = 4) && k.state = (if v = 2 then 2 else 3))

/-- A croft command (R263, R264). -/
def croftCommand (s : State) (c v : Nat) : State :=
  if v = 1 then croftCreate s c else if v = 2 then croftApply s c else if v = 3 then croftRemove s c else croftPurge s c

/-- The result of a command: its status and the state after it; a command whose conditions fail is refused with 0x06. -/
def gated (ok : Bool) (s t : State) : Nat × State := if ok then (0, t) else (6, s)

/-- A firmware commit by its byte: action [2:0], slot [4:3]; in recovery the ROM's own, after which it starts again (R448, R457). -/
def commitByte (s : State) (v : Nat) : Nat × State :=
  if s.sec.recovery then
    let t := recoveryCommit s
    (0, if t.sec.recovery then t else reeveLost t)
  else gated (commitReady s) s (commitOn s 33 (v / 8) (v % 8) none)

/-- A clear of the bank fault, refused where the cause holds or no fault stands (R423). -/
def bankClear (s : State) : Nat × State :=
  gated (powered s && s.plant.bank = 4 && !bankCauseHolds s && s.plant.relearnState ≠ 1) s (clearBankFault s)

/-- Commands of plant, inputs, scrubs and counters: write-only entries with an effect at once. -/
def plainCommand (s : State) (i sub v : Nat) : Nat × State :=
  if within i 0x5200 8 then
    if s.power.stage < 3 then (0x0C, s)
    else gated (powered s && (v = 2 || scrubMayStart s (i - 0x5200))) s
      (if v = 1 then scrubStart s (i - 0x5200) else scrubHalt s (i - 0x5200) 2)
  else if i = 0x6001 && sub = 2 then (0, { s with plant := { s.plant with armed := true } })
  else if i = 0x6001 then gated (!(s.plant.leakStop && leaking s)) s (clearStop s)
  else if within i 0x6100 6 then (0, faultCleared s (i - 0x6100))
  else if i = 0x6200 then bankClear s
  else if i = 0x7500 then (0, if v = 1 then relearnValve s else relearnBank s)
  else if i = 0x8011 then gated (odGet s 0x8011 1 = 1) s (advanceNow s)
  else (6, s)

/-- A croft command written: answered, or parked until the croft's step boundary. -/
def croftCommandWrite (s : State) (sid : Nat) (hdr : List Byte) (c v : Nat) : State :=
  if !powered s then odAnswer s sid hdr 0x0C 0 2 (stageData s 0x0C)
  else
    let t := croftCommand s c v
    if croftWaits t c v then odPark t sid (odKey (0x3000 + c) 8) (some c) false hdr [] else odAnswer t sid hdr 0 0 2 []

/-- A dictionary command written: its response follows the save (R405). -/
def dictCommandWrite (s : State) (sid : Nat) (hdr : List Byte) (v : Nat) : State :=
  let bar := if v = 2 then restoreBar s else if s.dictConflict then 0x0F else 0
  if bar ≠ 0 then odAnswer (dictResult s bar) sid hdr bar 0 2 []
  else odPark (dictResult (if v = 2 then defaultsRestored s else s) 0) sid (odKey 0x2000 1) none true hdr []

/-- A module restart written: answered, then the flush starts (R435). -/
def restartWrite (s : State) (sid : Nat) (hdr : List Byte) : State :=
  if powered s && !restartRefused s then restartNow (odAnswer s sid hdr 0 0 2 []) else odAnswer s sid hdr 6 0 2 []

/-- A firmware commit written: answered, then carried out; its result is at 0x8200.03 (R457). -/
def commitWrite (s : State) (sid : Nat) (hdr : List Byte) (v : Nat) : State :=
  let r := commitByte (odAnswer s sid hdr 0 0 2 []) v
  if r.1 = 0 then r.2 else odAnswer s sid hdr r.1 0 2 []

/-- A write-only scalar entry written. -/
def commandWrite (s : State) (sid : Nat) (hdr : List Byte) (e : OdEntry) (i sub v : Nat) : State :=
  if within i 0x3000 32 then croftCommandWrite s sid hdr (i - 0x3000) v
  else if i = 0x2000 then dictCommandWrite s sid hdr v
  else if i = 0x6400 then restartWrite s sid hdr
  else if i = 0x8200 then commitWrite s sid hdr v
  else
    let r := plainCommand s i sub v
    odAnswer r.2 sid hdr r.1 0 e.ty (stageData s r.1)

/-- A scalar write that nothing bars. -/
def scalarWrite (s : State) (sid : Nat) (hdr : List Byte) (e : OdEntry) (i sub v : Nat) (found : List Byte) : State :=
  if e.acc = 1 then commandWrite s sid hdr e i sub v else valueWrite s sid hdr e i sub v found

/-! ### Authorisation and attestation (R456, R459) -/

/-- Whether an authorisation record grants: a kind 4 image that passes R445, with this module's serial, the session's nonce, a scope and a duration in range. -/
def recordOk (s : State) (n : Session) (b : List Byte) : Bool :=
  b.length = 576 && imageFails s b 4 = 0 && leAt b 512 8 = s.serial.toNat && !n.authNonce.isEmpty && sub b 520 32 = n.authNonce &&
  leAt b 552 4 < 8 && 1 ≤ leAt b 556 4 && leAt b 556 4 ≤ 3600 && zerosAt b 560 575

/-- A record written by a session: its scope granted and its nonce used up; else refused. -/
def recordWrite (s : State) (sid : Nat) (b : List Byte) : Nat × State :=
  match mapGet? s.sessions sid with
  | none => (6, s)
  | some n =>
    if recordOk s n b then (0, { s with sessions := mapSet s.sessions sid { n with scope := leAt b 552 4, authNonce := [] } })
    else (6, s)

/-- An attestation nonce written by a session. -/
def nonceWrite (s : State) (sid : Nat) (b : List Byte) : State :=
  { s with sessions := mapMod s.sessions sid (fun n => { n with attNonce := sub b 0 32 }) }

/-! ### Whole DOMAIN values (R397) -/

/-- A saved DOMAIN value in effect. -/
def tableWrite (s : State) (i : Nat) (b : List Byte) : State :=
  let s1 := { s with doms := mapSet s.doms (odKey i 1) b }
  if i = 0x7200 then odPut s1 0x7200 2 1 else s1

/-- A whole DOMAIN value written: answered, or its response parked until the save. -/
def bytesWrite (s : State) (sid : Nat) (hdr : List Byte) (e : OdEntry) (i : Nat) (b : List Byte) : State :=
  if e.acc = 3 then odPark (tableWrite s i b) sid (odKey i 1) none true hdr []
  else if i = 0x8200 then odAnswer { s with sec := { s.sec with odStaging := b } } sid hdr 0 0 e.ty []
  else if i = 0x8300 then odAnswer (recordWrite s sid b).2 sid hdr (recordWrite s sid b).1 0 e.ty []
  else odAnswer (nonceWrite s sid b) sid hdr 0 0 e.ty []

end Sys2Proof.Machine
end

