-- ==== Sys2Proof/Machine/Dict.lean ====
section
/-! DEFINITION. The dictionary protocol: frames, sessions, alive counters and the services (R389 to R399). -/

namespace Sys2Proof.Machine

/-! ### Fields of a request (R389) -/

def rqSvc (b : List Byte) : Nat := leAt b 1 1
def rqFlags (b : List Byte) : Nat := leAt b 3 1
def rqSession (b : List Byte) : Nat := leAt b 4 2
def rqAlive (b : List Byte) : Nat := leAt b 6 2
def rqIndex (b : List Byte) : Nat := leAt b 8 2
def rqSub (b : List Byte) : Nat := leAt b 10 1
def rqType (b : List Byte) : Nat := leAt b 11 1
def rqOffset (b : List Byte) : Nat := leAt b 12 4
def rqLength (b : List Byte) : Nat := leAt b 16 2

/-- Data bytes a request carries: a READ-SEGMENT's Length is a range, and it carries none (R391). -/
def rqBytes (b : List Byte) : Nat := if rqSvc b = 5 then 0 else rqLength b
def rqData (b : List Byte) : List Byte := sub b 20 (rqBytes b)
def rqCheck (b : List Byte) : Nat := leAt b (20 + rqBytes b) 4
def rqHeader (b : List Byte) : List Byte := sub b 0 20
def rqKey (b : List Byte) : Nat := odKey (rqIndex b) (rqSub b)

/-- Whether a PDU's version and lengths fit its message (R390). -/
def pduShape (b : List Byte) : Bool := 24 ≤ b.length && leAt b 0 1 = 1 && 24 + rqBytes b ≤ b.length

/-- Whether its check passes. -/
def pduSound (b : List Byte) : Bool := crc32c (b.take (20 + rqBytes b)) = rqCheck b

/-- Whether its reserved fields are zero and its fields fit its service: the status, the reserved flags, a Length of at most 1,024, an offset and a type only where they mean something. -/
def pduFields (b : List Byte) : Bool :=
  leAt b 2 1 = 0 && rqFlags b < 8 && zerosAt b 18 19 && rqLength b ≤ 1024 && (rqSvc b = 5 || rqSvc b = 6 || rqOffset b = 0) &&
  (rqSvc b ≠ 1 || rqSession b = 0) && ((2 ≤ rqSvc b && rqSvc b ≤ 6) || rqType b = 0)

/-- The length of data a service takes where it is fixed. -/
def serviceLength (b : List Byte) : Bool :=
  match rqSvc b with
  | 1 => rqLength b = 4
  | 2 => rqLength b = 0
  | 7 => rqLength b = 8
  | 9 => rqLength b = 0
  | 10 => rqLength b = 0
  | _ => true

/-- Whether a code is a service a station asks for (R391). -/
def serviceKnown (n : Nat) : Bool := 1 ≤ n && n ≤ 10 && n ≠ 8

/-! ### Transports (R399, R448) -/

/-- Whether a transport is served: the dictionary up, 10BASE-T1S enabled, the PCIe link up; in recovery the two sidebands. -/
def transportUp (s : State) (t : Nat) : Bool :=
  (odUp s && !s.sec.recovery && (t ≠ 0 || s.t1s) && (t ≠ 1 || s.linkUp)) || (alive s && s.reeveUp && s.sec.recovery && t ≠ 1)

/-- Whether recovery answers a service (R448). -/
def recoveryServes (b : List Byte) : Bool :=
  rqSvc b = 1 || rqSvc b = 10 || ((rqSvc b = 2 || rqSvc b = 5) && rqIndex b = 0x1000) ||
  (rqSvc b = 6 && rqKey b = odKey 0x8200 1) || (rqSvc b = 3 && (rqKey b = odKey 0x8200 1 || rqKey b = odKey 0x8200 2))

/-- A request refused outside a session: its response is not kept. -/
def odRefuse (s : State) (t : Nat) (b : List Byte) (status : Nat) : State :=
  transmit s t (replyBytes (rqHeader b) status 0 (rqSession b) (rqType b) [])

/-- A PDU discarded without a response (R390). -/
def odDiscard (s : State) : State := bump s 0xA500 2 1

/-! ### OPEN (R393, R394) -/

/-- A session as OPEN makes it. -/
def sessionNew (s : State) (t src : Nat) (b : List Byte) : Session :=
  let period := leNat (rqData b)
  { transport := t, source := src, period := if rqFlags b / 4 % 2 = 1 then period else 0, counter := rqAlive b, check := rqCheck b
    response := [], inProgress := true, idleSince := clock s, groups := 0, crofts := 0, nseq := 0, unacked := [], ndropped := 0
    frozen := none, authNonce := [], attNonce := [], scope := 0 }

/-- A session gone: its waiting requests, its staging buffer and whatever its parked requests would have answered. -/
def sessionGone (s : State) (sid : Nat) : State :=
  { s with
    sessions := mapDel s.sessions sid
    odWaiting := s.odWaiting.filter (fun w => w.1 ≠ sid)
    parked := s.parked.map (fun p => if p.session = sid then { p with session := 0 } else p)
    staging := if s.staging.any (fun g => g.session = sid) then none else s.staging }

/-- The session idle longest. -/
def idlest (s : State) : Option (Nat × Nat) :=
  (s.sessions.map (fun p => (p.1, p.2.idleSince))).foldl (fun b p => match b with
    | none => some p
    | some q => if p.2 < q.2 then some p else some q) none

/-- The number a new session takes: a free one, else that of the session idle longest, once idle beyond the limit (R393). -/
def sessionNumber (s : State) : Option Nat :=
  match ((List.range 16).map (· + 1)).find? (fun n => (mapGet? s.sessions n).isNone) with
  | some n => some n
  | none => match idlest s with
    | some p => if p.2 + odGet s 0x1120 3 * 1000000000 < clock s then some p.1 else none
    | none => none

/-- Whether OPEN's period is in range: 0, or 100 to 60,000 ms. -/
def periodOk (n : Nat) : Bool := n = 0 || (100 ≤ n && n ≤ 60000)

/-- OPEN. -/
def odOpenRun (s : State) (t src : Nat) (b : List Byte) : State :=
  if !periodOk (leNat (rqData b)) then odRefuse s t b 5
  else match sessionNumber s with
    | none => odRefuse s t b 8
    | some sid =>
      let s1 := sessionGone s sid
      let s2 := { s1 with sessions := mapSet s1.sessions sid (sessionNew s t src b) }
      odAnswer (cvAlive s2 0 (rqAlive b + (sid - 1) * 65536 + 2 ^ 20)) sid (rqHeader b) 0 0 0 (leBytes 2 sid)

/-! ### READ and READ-SEGMENT (R396, R397) -/

/-- What bars a read: the entry's existence, then its access (R387, R402, R404). -/
def readBar (i sub : Nat) : Nat :=
  if !odTable.any (odHasIndex i) then 0x01
  else match odFind i sub with
    | none => 0x02
    | some e => if e.acc = 1 then 0x03 else 0

/-- A range of a value answered, the value kept for the segments that follow; an offset at or beyond its end is a segment error. -/
def segmentAnswer (s : State) (sid : Nat) (b : List Byte) (ty off n : Nat) (v : List Byte) : State :=
  if v.length ≤ off then odAnswer s sid (rqHeader b) 0x0E 0 ty []
  else
    let s1 := { s with sessions := mapMod s.sessions sid (fun x => { x with frozen := some (rqKey b, off, v) }) }
    odAnswer s1 sid (rqHeader b) 0 (if v.length ≤ off + n then 1 else 0) ty ((v.drop off).take n)

/-- The value a session's segments come from: as it stood when offset 0 was read, while its offsets ascend (R397). -/
def frozenValue (s : State) (sid key off : Nat) : Option (List Byte) :=
  match (mapGet? s.sessions sid).bind (·.frozen) with
  | some f => if off ≠ 0 && f.1 = key && f.2.1 < off then some f.2.2 else none
  | none => none

/-- A range of a STR or DOMAIN entry read. -/
def odSegment (s : State) (sid : Nat) (b : List Byte) (e : OdEntry) (off n : Nat) : State :=
  match frozenValue s sid (rqKey b) off with
  | some v => segmentAnswer s sid b e.ty off n v
  | none =>
    let r := odFetch s sid e (rqIndex b) (rqSub b)
    if r.1 ≠ 0 then odAnswer r.2.2 sid (rqHeader b) r.1 0 e.ty (stageData s r.1) else segmentAnswer r.2.2 sid b e.ty off n r.2.1

/-- READ: a scalar whole, a STR or DOMAIN as a segment from offset 0. -/
def odReadRun (s : State) (sid : Nat) (b : List Byte) : State :=
  match readBar (rqIndex b) (rqSub b), odFind (rqIndex b) (rqSub b) with
  | 0, some e =>
    if odIsBytes e.ty then odSegment s sid b e 0 1024
    else
      let r := odFetch s sid e (rqIndex b) (rqSub b)
      odAnswer r.2.2 sid (rqHeader b) r.1 0 e.ty r.2.1
  | n, _ => odAnswer s sid (rqHeader b) n 0 (rqType b) []

/-- READ-SEGMENT: STR and DOMAIN entries only. -/
def odReadSegmentRun (s : State) (sid : Nat) (b : List Byte) : State :=
  match readBar (rqIndex b) (rqSub b), odFind (rqIndex b) (rqSub b) with
  | 0, some e => if odIsBytes e.ty then odSegment s sid b e (rqOffset b) (rqLength b) else odAnswer s sid (rqHeader b) 4 0 e.ty []
  | n, _ => odAnswer s sid (rqHeader b) n 0 (rqType b) []

/-! ### WRITE and COMPARE-WRITE (R392, R395) -/

/-- WRITE. -/
def odWriteRun (s : State) (sid t : Nat) (b : List Byte) : State :=
  match writeBar s sid t (rqIndex b) (rqSub b), odFind (rqIndex b) (rqSub b) with
  | 0, some e =>
    let bar := valueBar s e (rqIndex b) (rqSub b) (rqType b) (rqData b)
    if bar ≠ 0 then odAnswer s sid (rqHeader b) bar 0 e.ty []
    else scalarWrite s sid (rqHeader b) e (rqIndex b) (rqSub b) (leNat (rqData b)) []
  | n, _ => odAnswer s sid (rqHeader b) n 0 (rqType b) []

/-- COMPARE-WRITE on an entry that takes writes: a mismatch answers the value found and changes nothing. -/
def compareRun (s : State) (sid : Nat) (b : List Byte) (e : OdEntry) : State :=
  let n := odTyLen e.ty
  let found := leBytes n (odScalar s sid (rqIndex b) (rqSub b))
  if e.acc = 1 then odAnswer s sid (rqHeader b) 3 0 e.ty []
  else if odIsBytes e.ty || rqType b ≠ e.ty || (rqData b).length ≠ 2 * n then odAnswer s sid (rqHeader b) 4 0 e.ty []
  else if (rqData b).take n ≠ found then odAnswer s sid (rqHeader b) 0x0A 0 e.ty found
  else
    let bar := valueBar s e (rqIndex b) (rqSub b) (rqType b) ((rqData b).drop n)
    if bar ≠ 0 then odAnswer s sid (rqHeader b) bar 0 e.ty []
    else scalarWrite s sid (rqHeader b) e (rqIndex b) (rqSub b) (leNat ((rqData b).drop n)) found

/-- COMPARE-WRITE. -/
def odCompareRun (s : State) (sid t : Nat) (b : List Byte) : State :=
  match writeBar s sid t (rqIndex b) (rqSub b), odFind (rqIndex b) (rqSub b) with
  | 0, some e => compareRun s sid b e
  | n, _ => odAnswer s sid (rqHeader b) n 0 (rqType b) []

/-- Whether a deferred write to the same entry is ahead of a request, which then waits (R395). -/
def writeWaits (s : State) (b : List Byte) : Bool :=
  (rqSvc b = 3 || rqSvc b = 4) && s.parked.any (fun p => p.deferred && p.key = rqKey b)

/-! ### WRITE-SEGMENT (R397) -/

/-- The most bytes the staging buffer holds. -/
def stagingBytes : Nat := 8388608

/-- How far the ranges cover from 0 without a gap. -/
def covered (l : List (Nat × Nat)) : Nat :=
  (l.mergeSort (fun a b => a.1 ≤ b.1)).foldl (fun n p => if p.1 ≤ n then max n p.2 else n) 0

/-- The end of the furthest range. -/
def spanEnd (l : List (Nat × Nat)) : Nat := (l.map (·.2)).foldl max 0

/-- The staging buffer as a session's segment of an entry finds it: its own, or empty where no one holds it. -/
def stagingOf (s : State) (sid key : Nat) : Staging :=
  match s.staging with
  | some g => g
  | none => ⟨sid, key, [], []⟩

/-- What bars a segment: busy for another session; a segment error for another entry of the same session or beyond the end. -/
def segmentBar (s : State) (sid : Nat) (b : List Byte) (e : OdEntry) : Nat :=
  if !odIsBytes e.ty || rqType b ≠ e.ty then 4
  else if (stagingOf s sid (rqKey b)).session ≠ sid then 8
  else if (stagingOf s sid (rqKey b)).key ≠ rqKey b then 0x0E
  else if min (e.hi.toNat) stagingBytes < rqOffset b + (rqData b).length then 0x0E
  else 0

/-- A final segment: the buffer released and the whole value written under the entry's rules; a value with a gap is a segment error. -/
def finalSegment (s : State) (sid : Nat) (b : List Byte) (e : OdEntry) (g : Staging) : State :=
  let n := spanEnd g.spans
  let v := memGetL 0 g.bytes 0 n
  let s1 := { s with staging := none }
  let bar := bytesBar s1 e (rqIndex b) v
  if covered g.spans < n then odAnswer s sid (rqHeader b) 0x0E 0 e.ty []
  else if bar ≠ 0 then odAnswer s1 sid (rqHeader b) bar 0 e.ty []
  else bytesWrite s1 sid (rqHeader b) e (rqIndex b) v

/-- A segment placed. -/
def placeSegment (s : State) (sid : Nat) (b : List Byte) (e : OdEntry) : State :=
  let g0 := stagingOf s sid (rqKey b)
  let g : Staging := { g0 with
    bytes := memPutL 0 g0.bytes (rqOffset b) (rqData b)
    spans := g0.spans ++ [(rqOffset b, rqOffset b + (rqData b).length)] }
  if rqFlags b % 2 = 1 then finalSegment s sid b e g
  else odAnswer { s with staging := some g } sid (rqHeader b) 0 0 e.ty []

/-- WRITE-SEGMENT. -/
def odWriteSegmentRun (s : State) (sid t : Nat) (b : List Byte) : State :=
  match writeBar s sid t (rqIndex b) (rqSub b), odFind (rqIndex b) (rqSub b) with
  | 0, some e =>
    let bar := segmentBar s sid b e
    if bar ≠ 0 then odAnswer s sid (rqHeader b) bar 0 e.ty [] else placeSegment s sid b e
  | n, _ => odAnswer s sid (rqHeader b) n 0 (rqType b) []

/-! ### SUBSCRIBE, NOTIFY-ACK, CLOSE (R391, R398) -/

/-- SUBSCRIBE: the masks replaced, the notification sequence from 0. -/
def odSubscribeRun (s : State) (sid : Nat) (b : List Byte) : State :=
  odAnswer { s with sessions := mapMod s.sessions sid (fun n => { n with
    groups := leAt (rqData b) 0 4, crofts := leAt (rqData b) 4 4, nseq := 0, unacked := [], ndropped := 0 }) } sid (rqHeader b) 0 0 0 []

/-- The overflow entry of a session whose list has room again, carrying the count dropped (R398). -/
def notifyOverflow (s : State) (sid : Nat) : State :=
  match mapGet? s.sessions sid with
  | none => s
  | some n =>
    if n.ndropped = 0 || 32 ≤ n.unacked.length then s
    else notifyOne s sid { n with ndropped := 0 } (eventEntry 8 0xFF s.logSeq s.bell.count (leBytes 4 n.ndropped))

/-- A notification no longer waited for. -/
def notifyDrop (s : State) (sid seq : Nat) : State :=
  notifyOverflow { s with sessions := mapMod s.sessions sid (fun n => { n with unacked := n.unacked.filter (fun x => x.seq ≠ seq) }) } sid

/-- CLOSE: answered, then the session is gone. -/
def odCloseRun (s : State) (sid : Nat) (b : List Byte) : State := sessionGone (odAnswer s sid (rqHeader b) 0 0 0 []) sid

/-! ### A request taken (R394, R395) -/

/-- A request executed by its service. -/
def odService (s : State) (sid t : Nat) (b : List Byte) : State :=
  match rqSvc b with
  | 2 => odReadRun s sid b
  | 3 => odWriteRun s sid t b
  | 4 => odCompareRun s sid t b
  | 5 => odReadSegmentRun s sid b
  | 6 => odWriteSegmentRun s sid t b
  | 7 => odSubscribeRun s sid b
  | 10 => odCloseRun s sid b
  | _ => s

/-- A request executed, or waiting behind a deferred write to its entry. -/
def odTake (s : State) (sid t : Nat) (b : List Byte) : State :=
  if writeWaits s b then { s with odWaiting := s.odWaiting ++ [(sid, b)] } else odService s sid t b

/-- Waiting requests that nothing bars any more, taken in order, at most `n`. -/
def odDrain : Nat → State → State
  | 0, s => s
  | n + 1, s =>
    match s.odWaiting.find? (fun w => !writeWaits s w.2) with
    | none => s
    | some w =>
      let s1 := { s with odWaiting := s.odWaiting.erase w }
      odDrain n (match mapGet? s1.sessions w.1 with
        | some x => odService s1 w.1 x.transport w.2
        | none => s1)

/-- Every waiting request that can be taken, taken. -/
def odDrainAll (s : State) : State := odDrain s.odWaiting.length s

/-- The counter of a request accepted: the session's last, and the check unit's slot (R394, R414). -/
def odAccept (s : State) (sid : Nat) (n : Session) (b : List Byte) : State :=
  let n' := { n with counter := rqAlive b, check := rqCheck b, inProgress := true, idleSince := clock s }
  bump (cvAlive { s with sessions := mapSet s.sessions sid n' } 0 (rqAlive b + (sid - 1) * 65536)) 0xA500 1 1

/-- A request of a session by its alive counter: executed, a repeat, or an alive error (R394). -/
def odSequence (s : State) (sid : Nat) (n : Session) (b : List Byte) : State :=
  if rqAlive b = (n.counter + 1) % 65536 then odTake (odAccept s sid n b) sid n.transport b
  else
    let s1 := cvAlive s 0 (rqAlive b + (sid - 1) * 65536)
    if rqAlive b = n.counter && rqCheck b = n.check then
      let s2 := bump s1 0xA500 4 1
      if n.inProgress then s2 else transmit s2 n.transport n.response
    else odRefuse (bump s1 0xA500 3 1) n.transport b 9

/-- NOTIFY-ACK: outside the sequence and without a response (R394, R398). -/
def odAckRun (s : State) (sid : Nat) (b : List Byte) : State := notifyDrop s sid (rqAlive b)

/-- A sound request with a known service: its session, then its sequence. -/
def odRequest (s : State) (t src : Nat) (b : List Byte) : State :=
  if rqSvc b = 1 then odOpenRun (bump s 0xA500 1 1) t src b
  else match mapGet? s.sessions (rqSession b) with
    | none => if rqSvc b = 9 then s else odRefuse s t b 0x0B
    | some n =>
      if n.transport ≠ t || n.source ≠ src then (if rqSvc b = 9 then s else odRefuse s t b 0x0B)
      else if rqSvc b = 9 then odAckRun s (rqSession b) b
      else odSequence s (rqSession b) n b

/-- A message of a transport: discarded, refused, or taken (R390, R391). -/
def odMessage (s : State) (t src : Nat) (b : List Byte) : State :=
  if !pduShape b then odDiscard s
  else if !pduSound b then bump (odDiscard s) 0xA460 5 1
  else if s.sec.recovery && !recoveryServes b then s
  else if !pduFields b || !serviceLength b then (if rqSvc b = 9 then s else odRefuse s t b 0x10)
  else odRequest s t src b

/-- The rows of the services: a message with the row's service code; one that is no request at all may come as any row. -/
def odRow (svc : Nat) (r : OdReq) (s : State) : Out :=
  .next (
    if !transportUp s r.transport.val then s
    else if pduShape r.pdu && pduSound r.pdu && !serviceKnown (rqSvc r.pdu) then
      (if s.sec.recovery then s else odRefuse s r.transport.val r.pdu 0x11)
    else if pduShape r.pdu && pduSound r.pdu && rqSvc r.pdu ≠ svc then s
    else odMessage (odDrainAll s) r.transport.val r.source.toNat r.pdu)

/-- OD_OPEN. -/
def execOdOpen (r : OdReq) (s : State) : Out := odRow 1 r s

/-- OD_READ. -/
def execOdRead (r : OdReq) (s : State) : Out := odRow 2 r s

/-- OD_WRITE. -/
def execOdWrite (r : OdReq) (s : State) : Out := odRow 3 r s

/-- COMPARE_WRITE. -/
def execCompareWrite (r : OdReq) (s : State) : Out := odRow 4 r s

/-- READ_SEGMENT. -/
def execReadSegment (r : OdReq) (s : State) : Out := odRow 5 r s

/-- WRITE_SEGMENT. -/
def execWriteSegment (r : OdReq) (s : State) : Out := odRow 6 r s

/-- SUBSCRIBE. -/
def execSubscribe (r : OdReq) (s : State) : Out := odRow 7 r s

/-- NOTIFY_ACK. -/
def execNotifyAck (r : OdReq) (s : State) : Out := odRow 9 r s

/-- OD_CLOSE. -/
def execOdClose (r : OdReq) (s : State) : Out := odRow 10 r s

/-! ### Time-outs (R393, R397, R398) -/

/-- A notification not acknowledged in 100 ms: resent, or dropped and counted after five resends. -/
def notifyAgain (s : State) (sid : Nat) (n : Session) (x : Notify) : State :=
  if 5 ≤ x.resends then notifyDrop (bump s 0xA500 5 1) sid x.seq
  else
    let n' := { n with unacked := n.unacked.map (fun y => if y.seq = x.seq then { y with resends := y.resends + 1 } else y) }
    transmit { s with sessions := mapSet s.sessions sid n' } n.transport (pdu 8 0 0 sid x.seq 0 0 0 0 x.entry)

/-- NOTIFY_RESEND. -/
def execNotifyResend (se : Fin 16) (seq : W16) (s : State) : Out :=
  .next (match mapGet? s.sessions (se.val + 1) with
    | some n => (match n.unacked.find? (fun x => x.seq = seq.toNat) with
      | some x => if alive s && s.reeveUp then notifyAgain s (se.val + 1) n x else s
      | none => s)
    | none => s)

/-- SESSION_SUPERVISION_EXPIRY: a supervised session closed, with event 0x0500. -/
def execSessionSupervisionExpiry (se : Fin 16) (s : State) : Out :=
  .next (match mapGet? s.sessions (se.val + 1) with
    | some n =>
      if alive s && s.reeveUp && n.period ≠ 0 then
        moduleEvent (sessionGone s (se.val + 1)) 0x0500 (leBytes 2 (se.val + 1) ++ leBytes 1 n.transport)
      else s
    | none => s)

/-- STAGING_BUFFER_TIMEOUT: the buffer released and its bytes discarded. -/
def execStagingBufferTimeout (s : State) : Out := .next (if alive s && s.reeveUp then { s with staging := none } else s)

/-- DICTIONARY_SAVE. -/
def execDictionarySave (s : State) : Out := .next (if odUp s then odDrainAll (odSave s) else s)

/-- SAVE_NOW: the dictionary command without a session. -/
def execSaveNow (s : State) : Out :=
  .next (if !odUp s then s
    else if s.dictConflict then dictResult s 0x0F
    else odDrainAll (odSave (dictResult s 0)))

/-- RESTORE_DEFAULTS: the dictionary command without a session. -/
def execRestoreDefaults (s : State) : Out :=
  .next (if !odUp s then s
    else if restoreBar s ≠ 0 then dictResult s (restoreBar s)
    else odDrainAll (odSave (dictResult (defaultsRestored s) 0)))

end Sys2Proof.Machine
end

