-- ==== Sys2Proof/Machine/Auth.lean ====
section
/-! DEFINITION. Authorisation and attestation of a session by their own rows, and the Kamlin port settings (R282, R456, R459). -/

namespace Sys2Proof.Machine

/-- A session of the dictionary while it is served, changed. -/
def onSession (se : Fin 16) (s : State) (f : Nat → State) : Out :=
  .next (if odUp s && (mapGet? s.sessions (se.val + 1)).isSome then f (se.val + 1) else s)

/-- The value of a DOMAIN entry read whole by a session: kept for its segments, since the row carries no request to answer. -/
def readWhole (sid key : Nat) (r : Nat × List Byte × State) : State :=
  if r.1 = 0 then { r.2.2 with sessions := mapMod r.2.2.sessions sid (fun n => { n with frozen := some (key, 0, r.2.1) }) } else r.2.2

/-- AUTHORISATION_NONCE_READ. -/
def execAuthorisationNonceRead (se : Fin 16) (s : State) : Out :=
  onSession se s (fun sid => readWhole sid (odKey 0x8300 1) (nonceFor s sid))

/-- AUTHORISATION_RECORD. -/
def execAuthorisationRecord (se : Fin 16) (b : List Byte) (s : State) : Out :=
  onSession se s (fun sid => (recordWrite s sid b).2)

/-- AUTHORISATION_EXPIRY. -/
def execAuthorisationExpiry (se : Fin 16) (s : State) : Out :=
  onSession se s (fun sid => { s with sessions := mapMod s.sessions sid (fun n => { n with scope := 0 }) })

/-- ATTESTATION_NONCE: 32 bytes, else refused. -/
def execAttestationNonce (se : Fin 16) (b : List Byte) (s : State) : Out :=
  onSession se s (fun sid => if b.length = 32 then nonceWrite s sid b else s)

/-- ATTESTATION_REPORT. -/
def execAttestationReport (se : Fin 16) (s : State) : Out :=
  onSession se s (fun sid => readWhole sid (odKey 0x8400 2) (reportFor s sid))

/-- Whether a port setting is in range: enable and medium 0 or 1, minimum width 1, 2 or 4. -/
def portItemOk (item v : Nat) : Bool := if item = 1 then v = 1 || v = 2 || v = 4 else v ≤ 1

/-- KAMLIN_PORT_CONFIG: enable, minimum width or medium of a port written, to be saved; the port trains again. -/
def execKamlinPortConfig (p : Fin 8) (item : Fin 3) (v : Byte) (s : State) : Out :=
  .next (if odUp s && !s.dictConflict && portItemOk item.val v.toNat then
    { entrySet s (0x9020 + p.val) (item.val + 1) v.toNat with savePending := true } else s)

end Sys2Proof.Machine
end

