-- ==== Sys2Proof/Machine/BellOps.lean ====
section
/-! DEFINITION. The Bell domain: election, exchanges, corrections, holdover, the pulse input (R248 to R252, R302, R303, R416). -/

namespace Sys2Proof.Machine

/-! ### Steps and slews (R249, R252) -/

/-- A job after the counter has moved by `d`: its offset takes the move back, so its reading stays (R252). -/
def shiftJob (d : Int) (j : Job) : Job := { j with bellOff := unsigned 64 ((j.bellOff : Int) - d) }

/-- One acquiring step of the counter by whole nanoseconds, never below 0. -/
def stepBell (s : State) (d : Int) : State :=
  let n := ((s.bell.count : Int) + d).toNat
  let moved : Int := (n : Int) - s.bell.count
  { s with
    bell := { s.bell with count := n, slew := 0, frac := 0, moved := s.bell.moved + moved }
    crofts := mapAll s.crofts (fun k => { k with jobs := mapAll k.jobs (shiftJob moved) }) }

/-- A slew within 100 parts per million, in parts per 10^9: the error in ps taken up over the millisecond to the next exchange. -/
def slewFor (est : Int) : Int := max (-100000) (min 100000 est)

/-! ### Exchanges (R249, R302) -/

/-- The follower's error estimate against the master in ps: half the difference of the two directions less the port's asymmetry, plus the neighbour's own estimate. -/
def exchangeError (s : State) (p : Nat) (x : BellX) : Int :=
  let out := signed 64 (x.t2 - x.t1).toNat
  let back := signed 64 (x.t4 - x.t3).toNat
  ((out - back) * 1000 - signed 16 (odGet s 0x9110 (p + 1))) / 2 + signed 32 x.estimate.toNat

/-- An exchange taken while acquiring: a step where the error exceeds 1 us, else a slew; locked after 16 in a row within 2 ns. -/
def acquire (s : State) (e : Int) : State :=
  let b := { s.bell with state := 1, stale := false, bad := 0 }
  if 1000000 < e.natAbs then stepBell { s with bell := { b with good := 0 } } (e / 1000)
  else
    let good := if e.natAbs ≤ 2000 then b.good + 1 else 0
    { s with bell := { b with state := if 16 ≤ good then 2 else 1, good := if 16 ≤ good then 0 else good, slew := slewFor e } }

/-- The state machine of a follower's counter on a valid exchange (R249): a locked one leaves after 4 in a row beyond 3 ns, one in holdover acquires again. -/
def takeExchange (s : State) (e : Int) : State :=
  let b := { s.bell with estimate := e }
  if b.state = 2 then
    let bad := if 3000 < e.natAbs then b.bad + 1 else 0
    if 4 ≤ bad then acquire { s with bell := { b with good := 0 } } e
    else { s with bell := { b with bad := bad, slew := slewFor e } }
  else acquire { s with bell := if b.state = 1 then b else { b with good := 0 } } e

/-- The first 16 bytes of a Bell frame's parameter block (R303): kind, the hops, priority, address and serial of the master this module follows or is, its state, the exchange. -/
def bellBlock (s : State) (kind exchange : Nat) : List Byte :=
  let m := ownMaster s
  leBytes 1 kind ++ leBytes 1 m.hops ++ leBytes 1 m.prio ++ leBytes 1 (bellState s) ++ leBytes 2 exchange ++ leBytes 1 m.addr ++ [0] ++
  leBytes 8 m.serial

/-- The request frame of an exchange (R303). -/
def bellRequest (s : State) (p : Nat) (x : BellX) : State :=
  let y := portOf s p
  let n := (y.exchange + 1) % 65536
  sendOnPort (putPort s p { y with exchange := n }) p 0xFF
    (mkFrame 0x12 8 (y.neighbour % 256) y.addr 0xFF 0 0 0 true (bellBlock s 0 n ++ leBytes 8 x.t1.toNat) [] [])

/-- BELL_EXCHANGE: the request goes out; the exchange counts unless a direction retried, this module is no follower, or the neighbour is not nearer the master. -/
def bellExchange (s : State) (p : Nat) (x : BellX) : State :=
  let s1 := hearMaster (bellRequest s p x) p ⟨x.priority.toNat, x.serial.toNat, x.hops.toNat, x.address.toNat⟩
  if x.retried || odGet s1 0x9100 1 = 0 || bellMaster s1 || x.hops = 0xFF || s1.bell.mHops ≤ x.hops.toNat || x.serial.toNat ≠ s1.bell.mSerial then s1
  else takeExchange s1 (exchangeError s1 p x)

/-- BELL_EXCHANGE. -/
def execBellExchange (p : Fin 8) (x : BellX) (s : State) : Out :=
  .next (if powered s && 1 ≤ s.power.stage && portUp s p.val then bellExchange s p.val x else s)

/-- The response to a request: the exchange and t1 echoed, t2 as an offset from t1's upper 32 bits, t3 - t2 (R303): 0, since no time passes within a command. -/
def bellResponse (s : State) (p : Nat) (b : List Byte) : State :=
  let t1 := leAt b 48 8
  let t2 := unsigned 32 ((s.bell.count : Int) - t1 / 2 ^ 32 * 2 ^ 32)
  sendOnPort s p 0xFF (mkFrame 0x12 8 (frSrc b) (portOf s p).addr 0xFF 0 0 0 true
    (bellBlock s 1 (leAt b 36 2) ++ leBytes 8 t1 ++ leBytes 4 t2 ++ leBytes 4 0) [] [])

/-- A Bell frame: its master is heard; a request is answered. -/
def bellFrame (s : State) (p : Nat) (b : List Byte) : State :=
  let s1 := hearMaster (oweCredits s p b) p ⟨leAt b 34 1, leAt b 40 8, leAt b 33 1, leAt b 38 1⟩
  if leAt b 32 1 = 0 then bellResponse s1 p b else s1

/-- BELL. -/
def execBell (p : Fin 8) (frame : List Byte) (s : State) : Out :=
  .next (withFrame s p.val frame 0x12 (fun s => bellFrame s p.val frame))

/-! ### Holdover (R249, R250) -/

/-- HOLDOVER_ENTRY: a locked follower without a valid exchange for 100 ms; counted, with an event. -/
def execHoldoverEntry (s : State) : Out :=
  .next (if powered s && !bellMaster s && bellState s = 2 then
    moduleEvent (bump { s with bell := { s.bell with state := 3, slew := 0, stale := false, bad := 0 } } 0xA360 3 1) 0x0141 []
    else s)

/-- HOLDOVER_LIMIT: 400 ms of holdover; with no master heard on any port the counter is free from here on (log entry 107). -/
def execHoldoverLimit (s : State) : Out :=
  .next (if powered s && s.bell.state = 3 then (if (offers s).isEmpty then followNone s else { s with bell := { s.bell with stale := true } }) else s)

/-! ### BELL_PPS (R251, R416) -/

/-- An accepted edge: latched; outside 1 s by more than 100 us it is counted and disciplines nothing; within it, a master with the discipline bit trims its oscillator. -/
def ppsEdge (s : State) : State :=
  let n := s.bell.count
  let s1 := { s with bell := { s.bell with pps := some n } }
  match s.bell.pps with
  | none => s1
  | some t =>
    let d : Int := (n : Int) - t
    if (d - 1000000000).natAbs ≤ 100000 then
      if bellMaster s && odGet s 0x9100 5 = 1 then { s1 with bell := { s1.bell with trim := s1.bell.trim + (1000000000 - d) } } else s1
    else bump s1 0xA360 4 1

/-- BELL_PPS_EDGE: an edge within 100 ms of the last accepted one, or on a faulted input, is ignored. -/
def execBellPpsEdge (s : State) : Out :=
  .next (if !powered s || s.power.stage = 0 || inputBad s 2 || s.bell.pps.any (fun t => s.bell.count < t + 100000000) then s else ppsEdge (bump s 0xA442 1 1))

end Sys2Proof.Machine
end

