-- ==== Sys2Proof/Machine/Spdm.lean ====
section
/-! DEFINITION. The SPDM 1.2 responder of the DOE mailboxes of PF0 and PF1 (R455); message layouts and codes are those of DSP0274. -/

namespace Sys2Proof.Machine

/-- SHA3-512: one block of 72 bytes absorbed. -/
def sha3Block (a : List Nat) (blk : List Byte) : List Nat :=
  keccakF ((List.range 25).map (fun i => if i < 9 then a.getD i 0 ^^^ leAt blk (8 * i) 8 else a.getD i 0))

/-- A message of whole blocks absorbed. -/
def sha3All (a : List Nat) (bs : List Byte) : Nat → List Nat
  | 0 => a
  | n + 1 => sha3All (sha3Block a (bs.take 72)) (bs.drop 72) n

/-- SHA3-512 of a message, per FIPS 202. -/
def sha3 (msg : List Byte) : List Byte :=
  let r := 72 - msg.length % 72
  let pad : List Byte := if r = 1 then [0x86] else 0x06 :: (List.replicate (r - 2) 0 ++ [0x80])
  let m := msg ++ pad
  ((sha3All (List.replicate 25 0) m (m.length / 72)).take 8).flatMap (leBytes 8)

/-! ### Messages -/

/-- Request codes of the seven requests. -/
def spdmCodes : List Nat := [0x84, 0xE1, 0xE3, 0x81, 0x82, 0x83, 0xE0]

/-- The head of a version 1.2 message: code and two parameters. -/
def spdmHead (code p1 p2 : Nat) : List Byte := [0x12, BitVec.ofNat 8 code, BitVec.ofNat 8 p1, BitVec.ofNat 8 p2]

/-- A mailbox's responder. -/
def spdmOf (s : State) (f : Nat) : Spdm := mapGet s.sec.spdm f spdmReset

/-- A response sent by a mailbox: transcripts as they then stand. -/
def spdmSend (s : State) (f : Nat) (x : Spdm) (b : List Byte) : State :=
  transmit { s with sec := { s.sec with spdm := mapSet s.sec.spdm f x } } 3 (BitVec.ofNat 8 f :: b)

/-- ERROR: a code and its data; the transcripts stay. -/
def spdmError (s : State) (f code data : Nat) : State := spdmSend s f (spdmOf s f) (spdmHead 0x7F code data)

/-- ERROR codes: invalid request, unexpected request, unsupported request, version mismatch. -/
def spdmInvalid : Nat := 0x01
def spdmUnexpected : Nat := 0x04
def spdmUnsupported : Nat := 0x07
def spdmVersion : Nat := 0x41

/-- The certificate chain as slot 0 carries it: length, the root certificate's hash, and the chain. -/
def spdmChain : List Byte := leBytes 2 (68 + certChain.length) ++ [0, 0] ++ leBytes 64 Config.spdmRootHash.toNat ++ certChain

/-- Bytes signed: the prefix of version 1.2 with a context, then the transcript's hash. -/
def spdmSigned (ctx transcript : List Byte) : List Byte :=
  let one : List Byte := [0x64, 0x6D, 0x74, 0x66, 0x2D, 0x73, 0x70, 0x64, 0x6D, 0x2D, 0x76, 0x31, 0x2E, 0x32, 0x2E, 0x2A]
  one ++ one ++ one ++ one ++ List.replicate (36 - ctx.length) 0 ++ ctx ++ sha3 transcript

/-- "responder-challenge_auth signing" and "responder-measurements signing". -/
def challengeContext : List Byte :=
  [0x72, 0x65, 0x73, 0x70, 0x6F, 0x6E, 0x64, 0x65, 0x72, 0x2D, 0x63, 0x68, 0x61, 0x6C, 0x6C, 0x65, 0x6E, 0x67, 0x65, 0x5F,
   0x61, 0x75, 0x74, 0x68, 0x20, 0x73, 0x69, 0x67, 0x6E, 0x69, 0x6E, 0x67]
def measurementContext : List Byte :=
  [0x72, 0x65, 0x73, 0x70, 0x6F, 0x6E, 0x64, 0x65, 0x72, 0x2D, 0x6D, 0x65, 0x61, 0x73, 0x75, 0x72, 0x65, 0x6D, 0x65, 0x6E,
   0x74, 0x73, 0x20, 0x73, 0x69, 0x67, 0x6E, 0x69, 0x6E, 0x67]

/-! ### Negotiation -/

/-- VERSION: 1.2 only; the responder starts afresh. -/
def spdmGetVersion (s : State) (f : Nat) (m : List Byte) : State :=
  let b : List Byte := [0x10, 0x04, 0, 0, 0, 1, 0x00, 0x12]
  spdmSend s f ⟨1, m ++ b, [], []⟩ b

/-- CAPABILITIES: CERT_CAP, CHAL_CAP, and MEAS_CAP with signatures. -/
def spdmGetCapabilities (s : State) (f : Nat) (m : List Byte) : State :=
  let x := spdmOf s f
  if x.phase ≠ 1 then spdmError s f spdmUnexpected 0
  else
    let b := spdmHead 0x61 0 0 ++ [0, Config.spdmExponent, 0, 0] ++ leBytes 4 0x16 ++ leBytes 8 Config.spdmSizes.toNat
    spdmSend s f { x with phase := 2, vca := x.vca ++ m ++ b } b

/-- ALGORITHMS: EdDSA Ed448, SHA3-512, DMTF measurements as raw bit streams, each where the requester offers it. -/
def spdmAlgorithms (s : State) (f : Nat) (m : List Byte) : State :=
  let x := spdmOf s f
  if x.phase ≠ 2 then spdmError s f spdmUnexpected 0
  else if leAt m 8 4 / 2 ^ 11 % 2 = 0 || leAt m 12 4 / 2 ^ 5 % 2 = 0 then spdmError s f spdmInvalid 0
  else
    let b := spdmHead 0x63 0 0 ++ leBytes 2 36 ++ [if leAt m 6 1 % 2 = 1 then 1 else 0, 0] ++ leBytes 4 1 ++
      leBytes 4 0x800 ++ leBytes 4 0x20 ++ List.replicate 12 0 ++ [0, 0, 0, 0]
    spdmSend s f { x with phase := 3, vca := x.vca ++ m ++ b } b

/-! ### Certificates, challenge, measurements -/

/-- DIGESTS: slot 0 only. -/
def spdmDigests (s : State) (f : Nat) (m : List Byte) : State :=
  let x := spdmOf s f
  let b := spdmHead 0x01 0 1 ++ sha3 spdmChain
  spdmSend s f { x with chal := x.chal ++ m ++ b, meas := [] } b

/-- CERTIFICATE: a portion of slot 0's chain. -/
def spdmCertificate (s : State) (f : Nat) (m : List Byte) : State :=
  let x := spdmOf s f
  let c := spdmChain
  let off := leAt m 4 2
  if leAt m 2 1 % 16 ≠ 0 || c.length ≤ off then spdmError s f spdmInvalid 0
  else
    let p := (c.drop off).take (leAt m 6 2)
    let b := spdmHead 0x02 0 0 ++ leBytes 2 p.length ++ leBytes 2 (c.length - off - p.length) ++ p
    spdmSend s f { x with chal := x.chal ++ m ++ b, meas := [] } b

/-- Measurement blocks: index, DMTF, a raw value of 64 bytes of R453. -/
def spdmBlock (s : State) (i : Nat) : List Byte :=
  leBytes 1 i ++ [1] ++ leBytes 2 67 ++ leBytes 1 (128 + (Config.spdmValueType i).toNat) ++ leBytes 2 64 ++ measurement s i

/-- The measurement summary hash of a challenge: of all blocks, absent for type 0. -/
def spdmSummary (s : State) (ty : Nat) : List Byte :=
  if ty = 0 then [] else sha3 ([1, 2, 3, 4, 5, 6].flatMap (spdmBlock s))

/-- CHALLENGE_AUTH: signed over the negotiation, the certificate requests and this exchange. -/
def spdmChallenge (s : State) (f : Nat) (m : List Byte) : State :=
  if leAt m 2 1 ≠ 0 || m.length < 36 || (1 < leAt m 3 1 && leAt m 3 1 ≠ 0xFF) then spdmError s f spdmInvalid 0
  else
    let x := spdmOf s f
    let n := freshBytes 32 s
    let b := spdmHead 0x03 0 1 ++ sha3 spdmChain ++ n.1 ++ spdmSummary s (leAt m 3 1) ++ leBytes 2 0
    let r := identitySign n.2 (spdmSigned challengeContext (x.vca ++ x.chal ++ m ++ b))
    spdmSend r.2 f { x with chal := [], meas := [] } (b ++ r.1)

/-- The blocks a measurement request names: none for a count, all, or one. -/
def spdmBlocks (s : State) (op : Nat) : List (List Byte) :=
  if op = 0 then [] else if op = 0xFF then [1, 2, 3, 4, 5, 6].map (spdmBlock s) else [spdmBlock s op]

/-- MEASUREMENTS: the blocks, a nonce, and a signature over the transcript where one is asked for. -/
def spdmMeasurements (s : State) (f : Nat) (m : List Byte) : State :=
  let x := spdmOf s f
  let op := leAt m 3 1
  let signs := leAt m 2 1 % 2 = 1
  if (6 < op && op ≠ 0xFF) || (signs && (m.length < 37 || leAt m 36 1 % 16 ≠ 0)) then spdmError s f spdmInvalid 0
  else
    let l := spdmBlocks s op
    let n := freshBytes 32 s
    let b := spdmHead 0x60 (if op = 0 then 6 else 0) 0 ++ leBytes 1 l.length ++ leBytes 3 l.flatten.length ++ l.flatten ++ n.1 ++ leBytes 2 0
    if signs then
      let r := identitySign n.2 (spdmSigned measurementContext (x.vca ++ x.meas ++ m ++ b))
      spdmSend r.2 f { x with meas := [] } (b ++ r.1)
    else spdmSend n.2 f { x with meas := x.meas ++ m ++ b } b

/-! ### The rows -/

/-- Whether a message after the negotiation may come: version 1.2 and algorithms agreed. -/
def spdmAfter (s : State) (f : Nat) (m : List Byte) (go : State) : State :=
  if leAt m 0 1 ≠ 0x12 then spdmError s f spdmVersion 0
  else if (spdmOf s f).phase ≠ 3 then spdmError s f spdmUnexpected 0
  else go

/-- A request on a mailbox while the function is up: an unsupported code answers ERROR; a code of another row changes nothing here. -/
def spdmRow (code : Nat) (f : Fin 2) (m : List Byte) (s : State) (go : State) : Out :=
  .next (
    if !(odUp s && pcieUp s) || m.length < 4 then s
    else if !spdmCodes.contains (leAt m 1 1) then spdmError s f.val spdmUnsupported (leAt m 1 1)
    else if leAt m 1 1 ≠ code then s
    else go)

/-- GET_VERSION. -/
def execGetVersion (f : Fin 2) (m : List Byte) (s : State) : Out := spdmRow 0x84 f m s (spdmGetVersion s f.val m)

/-- GET_CAPABILITIES. -/
def execGetCapabilities (f : Fin 2) (m : List Byte) (s : State) : Out :=
  spdmRow 0xE1 f m s (if leAt m 0 1 = 0x12 then spdmGetCapabilities s f.val m else spdmError s f.val spdmVersion 0)

/-- NEGOTIATE_ALGORITHMS. -/
def execNegotiateAlgorithms (f : Fin 2) (m : List Byte) (s : State) : Out :=
  spdmRow 0xE3 f m s (if leAt m 0 1 = 0x12 then spdmAlgorithms s f.val m else spdmError s f.val spdmVersion 0)

/-- GET_DIGESTS. -/
def execGetDigests (f : Fin 2) (m : List Byte) (s : State) : Out := spdmRow 0x81 f m s (spdmAfter s f.val m (spdmDigests s f.val m))

/-- GET_CERTIFICATE. -/
def execGetCertificate (f : Fin 2) (m : List Byte) (s : State) : Out :=
  spdmRow 0x82 f m s (spdmAfter s f.val m (spdmCertificate s f.val m))

/-- CHALLENGE. -/
def execChallenge (f : Fin 2) (m : List Byte) (s : State) : Out := spdmRow 0x83 f m s (spdmAfter s f.val m (spdmChallenge s f.val m))

/-- GET_MEASUREMENTS. -/
def execGetMeasurements (f : Fin 2) (m : List Byte) (s : State) : Out :=
  spdmRow 0xE0 f m s (spdmAfter s f.val m (spdmMeasurements s f.val m))

end Sys2Proof.Machine
end

