-- ==== Sys2Proof/Machine/Mctp.lean ====
section
/-! DEFINITION. MCTP control commands on both bindings, and the I3C dynamic address (R400, R401); message layouts and codes are those of DSP0236. -/

namespace Sys2Proof.Machine

/-- Command codes of the five supported commands: Set and Get Endpoint ID, version, message type and vendor defined message support. -/
def mctpCodes : List Nat := [1, 2, 4, 5, 6]

/-- A control response: message type, instance, command, completion code and data. -/
def mctpAnswer (s : State) (b : Nat) (m : List Byte) (cc : Nat) (data : List Byte) : State :=
  transmit s (4 + b) ([0, BitVec.ofNat 8 (leAt m 1 1 % 32), sub m 2 1 |>.headD 0, BitVec.ofNat 8 cc] ++ data)

/-- Set Endpoint ID: set and force assign an ID from 8 to 254; the other operations and IDs are invalid data (0x02). -/
def mctpSetEid (s : State) (b : Nat) (m : List Byte) : State :=
  let op := leAt m 3 1 % 4
  let eid := leAt m 4 1
  if m.length < 5 then mctpAnswer s b m 3 []
  else if 1 < op || eid < 8 || eid = 0xFF then mctpAnswer s b m 2 []
  else mctpAnswer { s with eids := mapSet s.eids b eid } b m 0 [0, BitVec.ofNat 8 eid, 0]

/-- Get Endpoint ID: a simple endpoint with a dynamic ID. -/
def mctpGetEid (s : State) (b : Nat) (m : List Byte) : State := mctpAnswer s b m 0 [BitVec.ofNat 8 (mapGet s.eids b 0), 0, 0]

/-- Get MCTP Version Support: one entry for the base, control and vendor types; another type is not supported (0x80). -/
def mctpVersions (s : State) (b : Nat) (m : List Byte) : State :=
  let ty := leAt m 3 1
  if ty = 0xFF || ty = 0 || ty = 0x7E then mctpAnswer s b m 0 (leBytes 1 1 ++ leBytes 4 (Config.mctpVersion ty).toNat)
  else mctpAnswer s b m 0x80 []

/-- Get Message Type Support: 0x00 and 0x7E. -/
def mctpTypes (s : State) (b : Nat) (m : List Byte) : State := mctpAnswer s b m 0 [2, 0x00, 0x7E]

/-- Get Vendor Defined Message Support: PCI vendor 0xAC1C, version 0x0001; it is the only set. -/
def mctpVendor (s : State) (b : Nat) (m : List Byte) : State :=
  if leAt m 3 1 = 0 then mctpAnswer s b m 0 [0xFF, 0, 0xAC, 0x1C, 0x00, 0x01] else mctpAnswer s b m 2 []

/-- Whether a binding carries messages: over PCIe while the link is up. -/
def bindingUp (s : State) (b : Nat) : Bool := odUp s && (b ≠ 0 || s.linkUp)

/-- A control request: one with the IC bit is discarded, another command is unsupported (0x05), a code of another row changes nothing here. -/
def mctpRow (code : Nat) (b : Fin 2) (m : List Byte) (s : State) (go : State) : Out :=
  .next (
    if !bindingUp s b.val || m.length < 3 || leAt m 0 1 ≠ 0 || leAt m 1 1 < 128 then s
    else if !mctpCodes.contains (leAt m 2 1) then mctpAnswer s b.val m 5 []
    else if leAt m 2 1 ≠ code then s
    else go)

/-- SET_ENDPOINT_ID. -/
def execSetEndpointId (b : Fin 2) (m : List Byte) (s : State) : Out := mctpRow 1 b m s (mctpSetEid s b.val m)

/-- GET_ENDPOINT_ID. -/
def execGetEndpointId (b : Fin 2) (m : List Byte) (s : State) : Out := mctpRow 2 b m s (mctpGetEid s b.val m)

/-- GET_MCTP_VERSION_SUPPORT. -/
def execGetMctpVersionSupport (b : Fin 2) (m : List Byte) (s : State) : Out := mctpRow 4 b m s (mctpVersions s b.val m)

/-- GET_MESSAGE_TYPE_SUPPORT. -/
def execGetMessageTypeSupport (b : Fin 2) (m : List Byte) (s : State) : Out := mctpRow 5 b m s (mctpTypes s b.val m)

/-- GET_VENDOR_DEFINED_MESSAGE_SUPPORT. -/
def execGetVendorDefinedMessageSupport (b : Fin 2) (m : List Byte) (s : State) : Out := mctpRow 6 b m s (mctpVendor s b.val m)

/-- ENTDAA: a target without a dynamic address takes the one assigned (R401). -/
def execEntdaa (a : Fin 128) (s : State) : Out :=
  .next (if alive s && s.reeveUp && a.val ≠ 0 && mapGet s.eids 2 0 = 0 then { s with eids := mapSet s.eids 2 a.val } else s)

end Sys2Proof.Machine
end

