-- ==== Sys2Proof/Machine/NvmeIo.lean ====
section
/-! DEFINITION. The NVMe I/O commands and secure deallocation of both forms (R322, R323, R329 to R332, R376). -/

namespace Sys2Proof.Machine

/-! ### Ranges -/

/-- First block of a Read, Write, Compare, Verify or Write Zeroes. -/
def ioLba (e : Desc) : Nat := cdw e 10 + 2 ^ 32 * cdw e 11

/-- Blocks of the command. -/
def ioBlocks (e : Desc) : Nat := cdw e 12 % 65536 + 1

/-- The largest transfer: 64 blocks of 4 KiB (R321). -/
def maxBlocks : Nat := 64

/-- The croft a controller's traffic is accounted to: that bound to its virtual function since its last FLR (R306, R324). -/
def nvmeCroft (s : State) (k : Nat) : Option Nat :=
  let c := (nvmeOf s k).scope
  if c < 32 then some c else none

/-- Bytes of a croft's T3 traffic counted: 0x0C read, 0x0D written. -/
def nvmeCount (s : State) (k item n : Nat) : State :=
  match nvmeCroft s k with
  | some c => bump s (0xA380 + c) item n
  | none => s

/-- Data units of 512 bytes and commands counted for the SMART log. -/
def countRead512 (s : State) (k n : Nat) : State :=
  let x := nvmeOf s k
  putNvme s k { x with unitsRead := x.unitsRead + 8 * n, reads := x.reads + 1 }
def countWrite512 (s : State) (k n : Nat) : State :=
  let x := nvmeOf s k
  putNvme s k { x with unitsWritten := x.unitsWritten + 8 * n, writes := x.writes + 1 }

/-- A command over sectors of a namespace: named, in range and within the largest transfer. -/
def ioRange (s : State) (k : Nat) (e : Desc) (limit : Nat) : Except Nat Namespace :=
  match nsNamed s k (sqNsid e) with
  | .error x => .error x
  | .ok n =>
    if limit < ioBlocks e then .error ncInvalidField
    else if n.size < ioLba e + ioBlocks e then .error ncLbaRange
    else .ok n

/-- The sectors of a command. -/
def ioSectors (e : Desc) : List Nat := (List.range (ioBlocks e)).map (fun i => ioLba e + i)

/-! ### Reads -/

/-- NVME_READ (R324, R376). -/
def readSectors (s : State) (k : Nat) (t : NTicket) (e : Desc) : State :=
  match ioRange s k e maxBlocks with
  | .error x => nvmeFail s t x
  | .ok _ =>
    let l := ioSectors e
    match l.find? (sectorBad s (sqNsid e)) with
    | some lba => nvmeMediaFail s t ncUnrecovered lba (sqNsid e)
    | none =>
      let s1 := if dataFits s e (4096 * l.length) then countRead512 (nvmeCount s k 0x0C (4096 * l.length)) k l.length else s
      dataOut s1 t e (l.flatMap (sectorBytes s (sqNsid e))) 0

/-- NVME_READ. -/
def execNvmeRead (k : Fin 33) (q : Nat) (e : Desc) (s : State) : Out := .next (withIo s k q e 0x02 (fun s t => readSectors s k.val t e))

/-- Sectors compared counted: bytes moved through the function (R324), and units read with one read command (PRESUMED, log entry 111). -/
def countCompare (s : State) (k n : Nat) : State := countRead512 (nvmeCount s k 0x0C (4096 * n)) k n

/-- COMPARE (R320, R376). -/
def compareSectors (s : State) (k : Nat) (t : NTicket) (e : Desc) : State :=
  match ioRange s k e maxBlocks with
  | .error x => nvmeFail s t x
  | .ok _ =>
    let l := ioSectors e
    match dataIn s e (4096 * l.length) with
    | .error x => nvmeFail s t x
    | .ok b =>
      match l.find? (sectorBad s (sqNsid e)) with
      | some lba => nvmeMediaFail s t ncUnrecovered lba (sqNsid e)
      | none => if b = l.flatMap (sectorBytes s (sqNsid e)) then nvmeDone (countCompare s k l.length) t 0 else nvmeFail (countCompare s k l.length) t ncCompareFailure

/-- COMPARE. -/
def execCompare (k : Fin 33) (q : Nat) (e : Desc) (s : State) : Out := .next (withIo s k q e 0x05 (fun s t => compareSectors s k.val t e))

/-- VERIFY: read and checked, nothing transferred (R320); its sectors count as units read (PRESUMED, log entry 111). -/
def verifySectors (s : State) (k : Nat) (t : NTicket) (e : Desc) : State :=
  match ioRange s k e 65536 with
  | .error x => nvmeFail s t x
  | .ok _ =>
    match (ioSectors e).find? (sectorBad s (sqNsid e)) with
    | some lba => nvmeMediaFail s t ncUnrecovered lba (sqNsid e)
    | none =>
      let x := nvmeOf s k
      nvmeDone (putNvme s k { x with unitsRead := x.unitsRead + 8 * ioBlocks e }) t 0

/-- VERIFY. -/
def execVerify (k : Fin 33) (q : Nat) (e : Desc) (s : State) : Out := .next (withIo s k q e 0x0C (fun s t => verifySectors s k.val t e))

/-- FLUSH: every write that completed is durable, so it completes at once and does no work (R322). -/
def flushNs (s : State) (k : Nat) (t : NTicket) (e : Desc) : State :=
  if sqNsid e = 0xFFFFFFFF then nvmeDone s t 0
  else match nsNamed s k (sqNsid e) with
    | .error x => nvmeFail s t x
    | .ok _ => nvmeDone s t 0

/-- FLUSH. -/
def execFlush (k : Fin 33) (q : Nat) (e : Desc) (s : State) : Out := .next (withIo s k q e 0x00 (fun s t => flushNs s k.val t e))

/-! ### Writes -/

/-- The programs of a change of sectors: one for each package the sectors lie in (R346); `data` gives each sector's bytes. -/
def sectorPrograms (s : State) (nsid op : Nat) (zero : Bool) (data : List (Nat × List Byte)) : State :=
  (List.range 48).foldl (fun s p =>
    let mine := data.filter (fun d => sectorPackage d.1 = p)
    if mine.isEmpty then s
    else addProg s p (mine.map (fun d => .sector nsid d.1)) .nsData op (if zero then 0 else 4096 * mine.length) zero (mine.map (fun d => (nsid, d.1, d.2)))) s

/-- Sectors changed for a command: it completes once every program is durable (R225, R322). -/
def changeSectors (s : State) (t : NTicket) (nsid : Nat) (zero : Bool) (data : List (Nat × List Byte)) : State :=
  let o := newOp s 0xFF none (some t) 0 0
  opFinish (sectorPrograms o.2 nsid o.1 zero data) o.1

/-- Bytes written by the host counted (R335). -/
def countHostBytes (s : State) (n : Nat) : State := { s with health := { s.health with hostBytes := s.health.hostBytes + n } }

/-- NVME_WRITE (R322, R323, R376). -/
def writeSectors (s : State) (k : Nat) (t : NTicket) (e : Desc) : State :=
  match ioRange s k e maxBlocks with
  | .error x => nvmeFail s t x
  | .ok _ =>
    if s.mediaReadOnly then nvmeFail s t ncWriteProtected
    else match dataIn s e (4096 * ioBlocks e) with
      | .error x => nvmeFail s t x
      | .ok b =>
        let n := ioBlocks e
        let s1 := countHostBytes (countWrite512 (nvmeCount s k 0x0D (4096 * n)) k n) (4096 * n)
        changeSectors s1 t (sqNsid e) false ((ioSectors e).zipIdx.map (fun p => (p.1, sub b (4096 * p.2) 4096)))

/-- NVME_WRITE. -/
def execNvmeWrite (k : Fin 33) (q : Nat) (e : Desc) (s : State) : Out := .next (withIo s k q e 0x01 (fun s t => writeSectors s k.val t e))

/-- Sectors deallocated for a command: those mapped are unmapped. -/
def deallocateSectors (s : State) (t : NTicket) (nsid : Nat) (l : List Nat) : State :=
  changeSectors s t nsid true ((l.filter (sectorMapped s nsid)).map (fun n => (n, [])))

/-- WRITE_ZEROES: deallocated where bit 25 asks for it, else written as zeros (R320). -/
def zeroSectors (s : State) (k : Nat) (t : NTicket) (e : Desc) : State :=
  match ioRange s k e 65536 with
  | .error x => nvmeFail s t x
  | .ok _ =>
    if s.mediaReadOnly then nvmeFail s t ncWriteProtected
    else if cdw e 12 / 2 ^ 25 % 2 = 1 then deallocateSectors s t (sqNsid e) (ioSectors e)
    else changeSectors (countHostBytes s (4096 * ioBlocks e)) t (sqNsid e) false ((ioSectors e).map (fun n => (n, List.replicate 4096 0)))

/-- WRITE_ZEROES. -/
def execWriteZeroes (k : Fin 33) (q : Nat) (e : Desc) (s : State) : Out := .next (withIo s k q e 0x08 (fun s t => zeroSectors s k.val t e))

/-- The ranges of a Dataset Management list: first block and length (R320). -/
def dsmRanges (b : List Byte) (n : Nat) : List (Nat × Nat) := (List.range n).map (fun i => (leAt b (16 * i + 8) 8, leAt b (16 * i + 4) 4))

/-- Whether every range lies in the namespace. -/
def rangesOk (n : Namespace) (l : List (Nat × Nat)) : Bool := l.all (fun r => r.1 + r.2 ≤ n.size)

/-- Mapped sectors of a namespace in a list of ranges, each once. -/
def mappedIn (s : State) (nsid : Nat) (n : Namespace) (l : List (Nat × Nat)) : List Nat :=
  let buffered := s.packages.flatMap (fun p => (p.2.progs.filter (fun g => g.protectedBuf && !g.zero)).flatMap (fun g => (g.data.filter (fun d => d.1 = nsid)).map (·.2.1)))
  let all := buffered.foldl setIns n.mapped
  all.filter (fun m => sectorMapped s nsid m && l.any (fun r => r.1 ≤ m && m < r.1 + r.2))

/-- DATASET_MANAGEMENT: the deallocate attribute only (R320). -/
def datasetManagement (s : State) (k : Nat) (t : NTicket) (e : Desc) : State :=
  match nsNamed s k (sqNsid e) with
  | .error x => nvmeFail s t x
  | .ok n =>
    let m := cdw e 10 % 256 + 1
    match dataIn s e (16 * m) with
    | .error x => nvmeFail s t x
    | .ok b =>
      let l := dsmRanges b m
      if !rangesOk n l then nvmeFail s t ncLbaRange
      else if cdw e 11 / 4 % 2 = 0 then nvmeDone s t 0
      else if s.mediaReadOnly then nvmeFail s t ncWriteProtected
      else deallocateSectors s t (sqNsid e) (mappedIn s (sqNsid e) n l)

/-- DATASET_MANAGEMENT. -/
def execDatasetManagement (k : Fin 33) (q : Nat) (e : Desc) (s : State) : Out :=
  .next (withIo s k q e 0x09 (fun s t => datasetManagement s k.val t e))

/-! ### Secure deallocation (R329 to R331) -/

/-- The namespace form carried to the end of step 2: fence, unmapping, and the blocks left to erase. -/
def deallocSectors (s : State) (k nsid : Nat) (l : List Nat) (early format : Bool) (t : NTicket) : State :=
  let d : Dealloc := ⟨s.sdSeq, false, early, false, (nvmeCroft s k).getD 0xFF, nsid, 0, l.length, [], 0, 0, 0, 0, l, none, some t, none, format, k⟩
  let s1 := fence s d
  let s2 := unmapRefs s1 d
  deallocStart { s2 with namespaces := mapMod s2.namespaces nsid (fun n => { n with
    data := l.foldl (fun m lba => memClear m (4096 * lba) 4096) n.data
    mapped := n.mapped.filter (fun m => !l.contains m), poisoned := n.poisoned.filter (fun m => !l.contains m) }) } d

/-- SECURE_DEALLOCATION, the namespace form (R329). -/
def secureDealloc (s : State) (k : Nat) (t : NTicket) (e : Desc) : State :=
  match nsNamed s k (sqNsid e) with
  | .error x => nvmeFail s t x
  | .ok n =>
    let m := cdw e 10 % 256 + 1
    if 512 ≤ cdw e 10 || (List.range 5).any (fun i => cdw e (11 + i) ≠ 0) then nvmeFail s t ncInvalidField
    else if s.mediaReadOnly then nvmeFail s t ncWriteProtected
    else match dataIn s e (16 * m) with
      | .error x => nvmeFail s t x
      | .ok b =>
        let l := dsmRanges b m
        if !rangesOk n l then nvmeFail s t ncLbaRange
        else deallocSectors s k (sqNsid e) (mappedIn s (sqNsid e) n l) (cdw e 10 / 256 % 2 = 1) false t

/-- SECURE_DEALLOCATION. -/
def execSecureDeallocation (k : Fin 33) (q : Nat) (e : Desc) (s : State) : Out :=
  .next (withIo s k q e 0x81 (fun s t => secureDealloc s k.val t e))

/-- SECDEALLOC, the segment form (R329): it waits for a PERSIST accepted earlier that names the range (R330 step 1). -/
def secdealloc (s : State) (c : Nat) (t : Ticket) (k : Croft) (d : Desc) : State :=
  let objs := objsOfKey k (stKey d)
  let gone := (objs.flatMap (objSerials (stIndex d) (stCount d))).foldl setIns []
  if objs.isEmpty then done s t 0x10
  else if !hostWritable s (stAddr d) 64 then done s t 6
  else if k.store.persists.any (fun w => w.serials.any gone.contains) then
    modStore s c (fun st => { st with sdWaits := st.sdWaits ++ [⟨t, d, gone⟩] })
  else deallocSegments s c t d gone

/-- SECDEALLOC. -/
def execSecdealloc (f : Fin 33) (ring : Nat) (d : Desc) (s : State) : Out :=
  .next (withDescriptor s f ring d 0x81 3 0x15 (fun s c t =>
    match croft? s c with
    | none => done s t 3
    | some k =>
      if !stFieldsOk d (1 + 2 + 8 + 16) 1 then done s t 1
      else if storeReadOnly s k then done s t 0x14
      else secdealloc s c t k d))

/-- The blocks a deallocation still waits for erased one after another. -/
def eraseRest (s : State) (x : Dealloc) : State := x.blocks.foldl (fun s b => deallocErase s x.seq b.1 b.2) s

/-- SECDEALLOC_ERASE_DONE: the last blocks of the deallocation with this sequence number are erased; its record follows once no pinned copy is left (R330, R332). -/
def execSecdeallocEraseDone (seq : Nat) (s : State) : Out :=
  .next (match s.deallocs.find? (fun x => x.seq = seq) with
    | some x => if powered s then deallocCheck (eraseRest s x) else s
    | none => s)

end Sys2Proof.Machine
end

