-- ==== Sys2Proof/Machine/NvmePages.lean ====
section
/-! DEFINITION. What NVMe controllers report: Identify data, log pages, features (R4, R321, R324, R326, R327, R330 to R335). -/

namespace Sys2Proof.Machine

/-! ### Identify (R320, R321, R324) -/

/-- The I/O queue pairs of a controller (R321). -/
def ioPairs (k : Nat) : Nat := if k = 0 then 128 else 16

/-- The MSI-X vectors of a controller (R321). -/
def nvmeVectors (k : Nat) : Nat := if k = 0 then 129 else 17

/-- Bytes of a page whose values the spec does not state. -/
def openBytes (page n : Nat) : List Byte := (List.range n).map (Config.identifyByte page)

/-- A page with (offset, bytes) fields written over it. -/
def withFields (b : List Byte) (l : List (Nat × List Byte)) : List Byte := l.foldl (fun b f => patch b f.1 f.2) b

/-- ASCII text as bytes. -/
def asciiBytes (t : String) : List Byte := t.toList.map (fun ch => BitVec.ofNat 8 ch.toNat)

/-- The model number, padded with spaces: the grade is its last letter (R4). -/
def modelNumber (s : State) : List Byte :=
  sub (asciiBytes "Acwick Dwehotar DW-6408-" ++ asciiBytes (if s.fuse.grade = 0 then "F" else "S") ++ List.replicate 40 0x20) 0 40

/-- Identify Controller. -/
def identifyController (s : State) (k : Nat) : List Byte :=
  withFields (openBytes 1 4096)
    [(0, leBytes 2 0xAC1C), (2, leBytes 2 0xAC1C), (24, modelNumber s), (76, [0]), (77, [6]), (78, leBytes 2 k), (80, leBytes 4 0x00020000),
     (256, leBytes 2 0x000E), (258, [3]), (259, [7]), (260, [4]), (261, [2]), (262, [63]), (263, [0]),
     (280, leBytes 16 userPool), (296, leBytes 16 (userPool - poolUsed s)), (319, [1]), (320, leBytes 2 0), (328, leBytes 4 3),
     (516, leBytes 4 256), (520, leBytes 2 0x009D), (522, leBytes 2 0), (524, [4]), (525, [0]), (526, leBytes 2 0), (528, leBytes 2 0)]

/-- Identify Namespace of a namespace. -/
def identifyNamespace (n : Namespace) : List Byte :=
  withFields (openBytes 0 4096)
    [(0, leBytes 8 n.size), (8, leBytes 8 n.size), (24, [2]), (25, [0]), (26, [0]), (27, [0]), (29, [0]), (30, [0]), (33, [9]),
     (34, leBytes 2 0), (36, leBytes 2 0), (128, leBytes 4 0x000C0000)]

/-- A list of namespace identifiers above one: 1,024 of them at most. -/
def nsList (l : List Nat) (above : Nat) : List Byte := sub (((l.filter (above < ·)).take 1024).flatMap (leBytes 4)) 0 4096

/-- A list of controller identifiers from one on. -/
def ctrlList (l : List Nat) (start : Nat) : List Byte :=
  let m := (l.filter (start ≤ ·)).take 2047
  sub (leBytes 2 m.length ++ m.flatMap (leBytes 2)) 0 4096

/-- The data of an Identify command: a status, or 4,096 bytes (CNS 0x00 to 0x03 and 0x10 to 0x13). -/
def identifyData (s : State) (k : Nat) (e : Desc) : Except Nat (List Byte) :=
  let cns := cdw e 10 % 256
  let nsid := sqNsid e
  let start := cdw e 10 / 65536
  let all := s.namespaces.map (·.1)
  let mine := (s.namespaces.filter (fun p => p.2.ctrl = some k)).map (·.1)
  if cns = 1 then .ok (identifyController s k)
  else if cns = 2 then (if 0xFFFFFFFE ≤ nsid then .error ncInvalidNs else .ok (nsList mine nsid))
  else if cns = 0x10 then (if 0xFFFFFFFE ≤ nsid then .error ncInvalidNs else .ok (nsList all nsid))
  else if cns = 0x13 then .ok (ctrlList (List.range 33) start)
  else if cns = 0 || cns = 3 || cns = 0x11 || cns = 0x12 then
    if nsid = 0xFFFFFFFF && cns = 0 then .ok (identifyNamespace ⟨0, none, 0, 0, [], [], []⟩)
    else if nsid = 0 || 256 < nsid then .error ncInvalidNs
    else match nsOf s nsid with
      | none => .ok (List.replicate 4096 0)
      | some n =>
        if cns = 0x11 then .ok (identifyNamespace n)
        else if cns = 0x12 then .ok (ctrlList n.ctrl.toList start)
        else if n.ctrl ≠ some k then .ok (List.replicate 4096 0)
        else if cns = 0 then .ok (identifyNamespace n)
        else .ok ((List.range 4096).map (fun i => Config.identifyByte (65536 + nsid) i))
  else .error ncInvalidField

/-- IDENTIFY (R320). -/
def execIdentify (k : Fin 33) (e : Desc) (s : State) : Out :=
  .next (withNvme s k 0 e 0x06 (fun s t =>
    match identifyData s k.val e with
    | .error x => nvmeFail s t x
    | .ok b => dataOut s t e b 0))

/-! ### Log pages (R320, R327, R335) -/

/-- Bytes of a log page whose values the spec does not state. -/
def openLog (page n : Nat) : List Byte := (List.range n).map (Config.logByte page)

/-- NVMe Percentage Used (R334). -/
def percentUsed (s : State) : Nat := min 255 (lifeUsed s)

/-- The SMART / health log of a controller (R335). -/
def smartLog (s : State) (k : Nat) : List Byte :=
  let x := nvmeOf s k
  withFields (openLog 2 512)
    [(0, leBytes 1 (criticalWarning s)), (1, leBytes 2 (compositeTemp s)), (3, leBytes 1 (availableSpare s)), (4, leBytes 1 (odGet s 0x5000 4)),
     (5, leBytes 1 (percentUsed s)), (32, leBytes 16 ((x.unitsRead + 999) / 1000)), (48, leBytes 16 ((x.unitsWritten + 999) / 1000)),
     (64, leBytes 16 x.reads), (80, leBytes 16 x.writes), (128, leBytes 16 (powerOnHours s)), (144, leBytes 16 s.health.unsafeStops),
     (160, leBytes 16 s.health.uncorrectable), (176, leBytes 16 x.errCount)]

/-- The firmware slot log: the running slot, a pending activation, and each slot's revision, zeros for a slot that does not verify (R326, R450, R458). -/
def slotLog (s : State) : List Byte :=
  let rev (n : Nat) : List Byte := if slotSound s n then sub (slotVersion s n 2) 0 8 else List.replicate 8 0
  let next := if activationPending s then 3 - s.sec.running else 0
  withFields (List.replicate 512 0) [(0, leBytes 1 (s.sec.running + 16 * next)), (8, rev 1), (16, rev 2)]

/-- One entry of the commands supported and effects log: supported, the other bits as the spec leaves them. -/
def effectEntry (page op : Nat) (ok : Bool) : List Byte :=
  if ok then leBytes 4 ((leNat (sub (openLog page 2048) (4 * op) 4)) / 2 * 2 + 1) else leBytes 4 0

/-- The commands supported and effects log of a controller. -/
def effectsLog (k : Nat) : List Byte :=
  let adm := (List.range 256).flatMap (fun op => effectEntry 5 op (nvmeAdminOps.contains op && (k = 0 || !pf0Only.contains op)))
  let io := (List.range 256).flatMap (fun op => effectEntry 6 op (nvmeIoOps.contains op))
  sub (adm ++ io) 0 4096

/-- The sanitize status log, with estimates of 90 s for block erase and 1 s for crypto erase (R327). -/
def sanitizeLog (s : State) : List Byte :=
  let x := s.sanitize
  let st := if x.running then 2 else if x.failed then 3 else if x.done ≠ 0 then 1 else 0
  let clean := if x.done ≠ 0 && s.namespaces.all (fun n => n.2.mapped.isEmpty) then 256 else 0
  withFields (List.replicate 512 0)
    [(0, if x.running then openLog 0x81 2 else leBytes 2 0xFFFF), (2, leBytes 2 (st + clean)), (4, leBytes 4 x.action),
     (8, leBytes 4 0xFFFFFFFF), (12, leBytes 4 90), (16, leBytes 4 1), (20, leBytes 4 0xFFFFFFFF), (24, leBytes 4 0xFFFFFFFF), (28, leBytes 4 0xFFFFFFFF)]

/-- A log page, none for an identifier the controllers do not have. -/
def logPage (s : State) (k id : Nat) : Option (List Byte) :=
  if id = 1 then some (sub (nvmeOf s k).errors.flatten 0 4096)
  else if id = 2 then some (smartLog s k)
  else if id = 3 then some (slotLog s)
  else if id = 5 then some (effectsLog k)
  else if id = 0x81 then some (sanitizeLog s)
  else if id = 0xC0 then some (nativeRecord s)
  else if id = 0xC1 then some (sub s.sdRecords.flatten 0 4096)
  else none

/-- Invalid Log Page. -/
def ncInvalidLog : Nat := 0x109

/-- The kept event of a page may be reported again once its log has been read. -/
def logRead (s : State) (k id : Nat) : State :=
  let x := nvmeOf s k
  putNvme s k { x with maskedAens := x.maskedAens.filter (· ≠ id) }

/-- GET_LOG_PAGE (R320). -/
def execGetLogPage (k : Fin 33) (e : Desc) (s : State) : Out :=
  .next (withNvme s k 0 e 0x02 (fun s t =>
    let id := cdw e 10 % 256
    let n := 4 * (cdw e 10 / 65536 % 4096 + 1)
    match logPage s k.val id with
    | none => nvmeFail s t ncInvalidLog
    | some b =>
      let s1 := if cdw e 10 / 2 ^ 15 % 2 = 0 then logRead s k.val id else s
      dataOut s1 t e (sub b 0 n) 0))

/-! ### Features (R320) -/

/-- The features of the controllers. -/
def features : List Nat := [0x01, 0x02, 0x04, 0x07, 0x08, 0x09, 0x0A, 0x0B]

/-- Feature Not Changeable. -/
def ncNotChangeable : Nat := 0x10E

/-- The queues a controller allocates: all it has, zero-based in both halves (R321). -/
def queueCounts (k : Nat) : Nat := (ioPairs k - 1) * 65537

/-- A feature's present value. -/
def featureValue (s : State) (k i : Nat) : Nat := if i = 7 then queueCounts k else nvmeFeat (nvmeOf s k) i

/-- The status of a new value of a feature. -/
def featureBad (i v : Nat) : Nat :=
  if !features.contains i then ncInvalidField
  else if i = 0x0A then ncNotChangeable
  else if i = 2 && v % 32 ≠ 0 then ncInvalidField
  else if i = 7 && (v % 65536 = 65535 || v / 65536 = 65535) then ncInvalidField
  else 0

/-- SET_FEATURES: taken, and saved where bit 31 asks for it (R320). -/
def execSetFeatures (k : Fin 33) (e : Desc) (s : State) : Out :=
  .next (withNvme s k 0 e 0x09 (fun s t =>
    let i := cdw e 10 % 256
    let v := cdw e 11
    let bad := featureBad i v
    if bad ≠ 0 then nvmeFail s t bad
    else
      let x := nvmeOf s k.val
      let x1 := { x with feats := mapSet x.feats i v }
      let x2 := if cdw e 10 / 2 ^ 31 = 1 then { x1 with savedFeats := mapSet x.savedFeats i v } else x1
      nvmeDone (putNvme s k.val x2) t (if i = 7 then queueCounts k.val else 0)))

/-- GET_FEATURES: current, default, saved, or what the feature allows (R320). -/
def execGetFeatures (k : Fin 33) (e : Desc) (s : State) : Out :=
  .next (withNvme s k 0 e 0x0A (fun s t =>
    let i := cdw e 10 % 256
    let sel := cdw e 10 / 256 % 8
    if !features.contains i || 3 < sel then nvmeFail s t ncInvalidField
    else if sel = 0 then nvmeDone s t (featureValue s k.val i)
    else if sel = 1 then nvmeDone s t (if i = 7 then queueCounts k.val else 0)
    else if sel = 2 then nvmeDone s t (mapGet (nvmeOf s k.val).savedFeats i 0)
    else nvmeDone s t (if i = 0x0A then 0 else 5)))

end Sys2Proof.Machine
end

