-- ==== Sys2Proof/Machine/NvmeAdmin.lean ====
section
/-! DEFINITION. The NVMe controllers' enables and admin commands: queues, events, namespaces, firmware, format, sanitize (R320 to R328). -/

namespace Sys2Proof.Machine

/-! ### Enable and reset (R322, R328) -/

/-- The admin queues of a controller by AQA, ASQ and ACQ. -/
def adminQueues (x : Nvme) : Nvme :=
  { x with
    sq := [(0, ⟨fld x.aqa 11 0 + 1, x.asq.toNat, 0, 0⟩)]
    cq := [(0, ⟨fld x.aqa 27 16 + 1, x.acq.toNat, 0, 0, true⟩)] }

/-- CC.EN set: ready at once in stage 2 or later, else once stage 2 is reached (R322). -/
def enableNvme (s : State) (k : Nat) : State :=
  let x := nvmeOf s k
  if x.en then s else putNvme s k { adminQueues x with en := true, rdy := 2 ≤ s.power.stage }

/-- CC_EN_SET. -/
def execCcEnSet (k : Fin 33) (s : State) : Out := .next (if pcieUp s then enableNvme s k.val else s)

/-- A controller reset by CC.EN keeps its admin queue registers (R328). -/
def clearNvme (s : State) (k : Nat) : State :=
  let x := nvmeOf s k
  let s1 := resetNvme s k
  putNvme s1 k { nvmeOf s1 k with aqa := x.aqa, asq := x.asq, acq := x.acq }

/-- CC_EN_CLEAR. -/
def execCcEnClear (k : Fin 33) (s : State) : Out := .next (if pcieUp s && (nvmeOf s k.val).en then clearNvme s k.val else s)

/-! ### Queues -/

/-- Command-specific statuses of queues. -/
def ncCqInvalid : Nat := 0x100
def ncQueueId : Nat := 0x101
def ncQueueSize : Nat := 0x102
def ncVector : Nat := 0x108
def ncQueueDeletion : Nat := 0x10C

/-- The queue identifier a command names. -/
def qId (e : Desc) : Nat := cdw e 10 % 65536

/-- The checks both creations share: identifier, size, contiguity, base. -/
def queueBad (used : Bool) (k : Nat) (e : Desc) : Nat :=
  if qId e = 0 || ioPairs k < qId e || used then ncQueueId
  else if cdw e 10 / 65536 = 0 then ncQueueSize
  else if cdw e 11 % 2 = 0 then ncInvalidField
  else if sqPrp1 e % 4096 ≠ 0 then ncPrpOffset
  else 0

/-- CREATE_IO_COMPLETION_QUEUE. -/
def execCreateIoCompletionQueue (k : Fin 33) (e : Desc) (s : State) : Out :=
  .next (withNvme s k 0 e 0x05 (fun s t =>
    let x := nvmeOf s k.val
    let bad := queueBad (mapGet? x.cq (qId e)).isSome k.val e
    let iv := cdw e 11 / 65536
    if bad ≠ 0 then nvmeFail s t bad
    else if nvmeVectors k.val ≤ iv then nvmeFail s t ncVector
    else nvmeDone (putNvme s k.val { x with
      cq := mapSet x.cq (qId e) ⟨cdw e 10 / 65536 + 1, sqPrp1 e, 0, iv, cdw e 11 / 2 % 2 = 1⟩ }) t 0))

/-- CREATE_IO_SUBMISSION_QUEUE. -/
def execCreateIoSubmissionQueue (k : Fin 33) (e : Desc) (s : State) : Out :=
  .next (withNvme s k 0 e 0x01 (fun s t =>
    let x := nvmeOf s k.val
    let bad := queueBad (mapGet? x.sq (qId e)).isSome k.val e
    let cq := cdw e 11 / 65536
    if bad ≠ 0 then nvmeFail s t bad
    else if cq = 0 || (mapGet? x.cq cq).isNone then nvmeFail s t ncCqInvalid
    else nvmeDone (putNvme s k.val { x with sq := mapSet x.sq (qId e) ⟨cdw e 10 / 65536 + 1, sqPrp1 e, cq, 0⟩ }) t 0))

/-- The commands of a queue that still wait go without completion. -/
def dropQueueWork (s : State) (k q : Nat) : State :=
  let mine (t : Option NTicket) : Option NTicket := t.filter (fun t => !(t.ctrl = k && t.sq = q))
  { s with
    ops := s.ops.map (fun o => { o with nticket := mine o.nticket })
    deallocs := s.deallocs.map (fun d => { d with nticket := mine d.nticket }) }

/-- DELETE_IO_SUBMISSION_QUEUE. -/
def execDeleteIoSubmissionQueue (k : Fin 33) (e : Desc) (s : State) : Out :=
  .next (withNvme s k 0 e 0x00 (fun s t =>
    let x := nvmeOf s k.val
    if qId e = 0 || (mapGet? x.sq (qId e)).isNone then nvmeFail s t ncQueueId
    else nvmeDone (dropQueueWork (putNvme s k.val { x with sq := mapDel x.sq (qId e) }) k.val (qId e)) t 0))

/-- DELETE_IO_COMPLETION_QUEUE. -/
def execDeleteIoCompletionQueue (k : Fin 33) (e : Desc) (s : State) : Out :=
  .next (withNvme s k 0 e 0x04 (fun s t =>
    let x := nvmeOf s k.val
    if qId e = 0 || (mapGet? x.cq (qId e)).isNone then nvmeFail s t ncQueueId
    else if x.sq.any (fun p => p.2.cq = qId e) then nvmeFail s t ncQueueDeletion
    else nvmeDone (putNvme s k.val { x with cq := mapDel x.cq (qId e) }) t 0))

/-! ### Abort and asynchronous events -/

/-- ABORT: an outstanding event request of the named identifier ends aborted; every other command has run or cannot be stopped (R320, best effort). -/
def execAbortCmd (k : Fin 33) (e : Desc) (s : State) : Out :=
  .next (withNvme s k 0 e 0x08 (fun s t =>
    let x := nvmeOf s k.val
    let cid := cdw e 10 / 65536
    if qId e = 0 && x.aers.contains cid then
      let s1 := putNvme s k.val { x with aers := x.aers.erase cid }
      nvmeDone (nvmeFail s1 ⟨k.val, 0, cid, t.head⟩ ncAborted) t 0
    else nvmeDone s t 1))

/-- Asynchronous Event Request Limit Exceeded. -/
def ncAerLimit : Nat := 0x105

/-- ASYNCHRONOUS_EVENT_REQUEST: held, at most 8, or completed at once with an event kept for it (R320). -/
def execAsynchronousEventRequest (k : Fin 33) (e : Desc) (s : State) : Out :=
  .next (withNvme s k 0 e 0x0C (fun s t =>
    let x := nvmeOf s k.val
    match x.aens with
    | dw0 :: rest => nvmeDone (putNvme s k.val { x with aens := rest }) t dw0
    | [] => if 8 ≤ x.aers.length then nvmeFail s t ncAerLimit
        else putNvme s k.val { x with aers := x.aers ++ [t.cid] }))

/-! ### Namespaces (R324, R460, R461) -/

/-- Command-specific statuses of namespaces. -/
def ncInvalidFormat : Nat := 0x10A
def ncCapacity : Nat := 0x115
def ncNsidUnavailable : Nat := 0x116
def ncAlreadyAttached : Nat := 0x118
def ncNotAttached : Nat := 0x11A
def ncThin : Nat := 0x11B
def ncCtrlList : Nat := 0x11C

/-- The lowest identifier no namespace has. -/
def freeNsid (s : State) : Option Nat := ((List.range 256).map (· + 1)).find? (fun n => (nsOf s n).isNone)

/-- A namespace made with a fresh key; wrapped keys lie in the saved dictionary, so it is saved (R461). -/
def nsCreate (s : State) (t : NTicket) (size : Nat) : State :=
  match freeNsid s with
  | none => nvmeFail s t ncNsidUnavailable
  | some n =>
    let id := s.sec.nextKey
    let s1 := { s with
      namespaces := mapSet s.namespaces n ⟨size, none, id, 0xFF, [], [], []⟩
      sec := { s.sec with keys := setIns s.sec.keys id, nextKey := id + 1 } }
    nvmeDone (odSave s1) t n

/-- A namespace gone: its map entries, its waiting programs' sectors, its key, with two saves (R461). -/
def nsGone (s : State) (nsid : Nat) : State :=
  match nsOf s nsid with
  | none => s
  | some n =>
    let isIts (r : BackRef) : Bool := match r with
      | .sector i _ => i = nsid
      | _ => false
    let s1 := { s with
      namespaces := mapDel s.namespaces nsid
      packages := mapAll s.packages (fun x => (x.map.filter (fun m => isIts m.1)).foldl (fun y m => mapDrop y m.1) x)
      sec := { s.sec with keys := s.sec.keys.filter (· ≠ n.key) } }
    odSave (odSave s1)

/-- NAMESPACE_MANAGEMENT (R324). -/
def nsManage (s : State) (t : NTicket) (e : Desc) : State :=
  let sel := cdw e 10 % 16
  if sel = 0 then
    if cdw e 11 / 2 ^ 24 ≠ 0 then nvmeFail s t ncInvalidField
    else match dataIn s e 4096 with
      | .error x => nvmeFail s t x
      | .ok b =>
        let size := leAt b 0 8
        if size = 0 || leAt b 29 1 ≠ 0 || leAt b 30 1 % 2 = 1 then nvmeFail s t ncInvalidField
        else if leAt b 8 8 ≠ size then nvmeFail s t ncThin
        else if leAt b 26 1 ≠ 0 then nvmeFail s t ncInvalidFormat
        else if userPool < poolUsed s + 4096 * size then nvmeFail s t ncCapacity
        else nsCreate s t size
  else if sel = 1 then
    if sqNsid e = 0xFFFFFFFF then nvmeDone ((s.namespaces.map (·.1)).foldl nsGone s) t 0
    else if sqNsid e = 0 || 256 < sqNsid e then nvmeFail s t ncInvalidNs
    else if (nsOf s (sqNsid e)).isNone then nvmeFail s t ncInvalidField
    else nvmeDone (nsGone s (sqNsid e)) t 0
  else nvmeFail s t ncInvalidField

/-- NAMESPACE_MANAGEMENT. -/
def execNamespaceManagement (k : Fin 33) (e : Desc) (s : State) : Out := .next (withNvme s k 0 e 0x0D (fun s t => nsManage s t e))

/-- The controller list of an attachment: a status, or the controllers it names. -/
def ctrlsNamed (b : List Byte) : Except Nat (List Nat) :=
  let n := leAt b 0 2
  let l := (List.range n).map (fun i => leAt b (2 + 2 * i) 2)
  if n = 0 || 2047 < n || l.any (33 ≤ ·) then .error ncCtrlList else .ok l

/-- A namespace attached: the croft bound to the virtual function is recorded as its key owner (R460). -/
def nsAttach (s : State) (nsid : Nat) (n : Namespace) (k : Nat) : State :=
  { s with namespaces := mapSet s.namespaces nsid { n with ctrl := some k, owner := (nvmeCroft s k).getD 0xFF } }

/-- NAMESPACE_ATTACHMENT: to at most one controller (R324). -/
def nsAttachment (s : State) (t : NTicket) (e : Desc) : State :=
  let sel := cdw e 10 % 16
  if sqNsid e = 0 || 256 < sqNsid e then nvmeFail s t ncInvalidNs
  else match nsOf s (sqNsid e) with
    | none => nvmeFail s t ncInvalidField
    | some n =>
      match dataIn s e 4096 with
      | .error x => nvmeFail s t x
      | .ok b =>
        match ctrlsNamed b with
        | .error x => nvmeFail s t x
        | .ok l =>
          if sel = 0 then
            match n.ctrl, l with
            | none, [k] => nvmeDone (nsAttach s (sqNsid e) n k) t 0
            | _, _ => nvmeFail s t ncAlreadyAttached
          else if sel = 1 then
            if l.all (fun k => n.ctrl = some k) then
              nvmeDone { s with namespaces := mapSet s.namespaces (sqNsid e) { n with ctrl := none, owner := 0xFF } } t 0
            else nvmeFail s t ncNotAttached
          else nvmeFail s t ncInvalidField

/-- NAMESPACE_ATTACHMENT. -/
def execNamespaceAttachment (k : Fin 33) (e : Desc) (s : State) : Out := .next (withNvme s k 0 e 0x15 (fun s t => nsAttachment s t e))

/-! ### Firmware (R326) -/

/-- FIRMWARE_IMAGE_DOWNLOAD: a piece of whole 4 KiB placed in the controller's staging buffer, replacing what it overlaps. -/
def fwDownload (s : State) (k : Nat) (t : NTicket) (e : Desc) : State :=
  let n := 4 * (cdw e 10 + 1)
  let off := 4 * cdw e 11
  if n % 4096 ≠ 0 || off % 4096 ≠ 0 || 8388608 < off + n || 262144 < n then nvmeFail s t ncInvalidField
  else match dataIn s e n with
    | .error x => nvmeFail s t x
    | .ok b =>
      let x := nvmeOf s k
      nvmeDone (putNvme s k { x with staging := memPutL 0 (memClear x.staging off n) off b }) t 0

/-- FIRMWARE_IMAGE_DOWNLOAD. -/
def execFirmwareImageDownload (k : Fin 33) (e : Desc) (s : State) : Out :=
  .next (withNvme s k 0 e 0x11 (fun s t => fwDownload s k.val t e))

/-- FIRMWARE_COMMIT: the slot in bits [2:0], the action in bits [5:3] (R326, R457). -/
def execFirmwareCommit (k : Fin 33) (e : Desc) (s : State) : Out :=
  .next (withNvme s k 0 e 0x10 (fun s t =>
    commitOn s k.val (cdw e 10 % 8) (cdw e 10 / 8 % 8) (some t)))

/-! ### Format and sanitize (R325, R327, R462) -/

/-- Every mapped sector of a namespace. -/
def allMapped (s : State) (nsid : Nat) (n : Namespace) : List Nat := mappedIn s nsid n [(0, n.size)]

/-- A namespace deallocated whole as one journalled act. -/
def wipeNs (s : State) (nsid : Nat) (n : Namespace) : State :=
  let l := allMapped s nsid n
  let d : Dealloc := ⟨0, false, false, false, 0xFF, nsid, 0, 0, [], 0, 0, 0, 0, l, none, none, none, true, 0⟩
  let s1 := unmapRefs (fence s d) d
  { s1 with namespaces := mapMod s1.namespaces nsid (fun n => { n with data := [], mapped := [], poisoned := [] }) }

/-- FORMAT_NVM (R325). -/
def formatNs (s : State) (k : Nat) (t : NTicket) (e : Desc) : State :=
  let ses := cdw e 10 / 512 % 8
  if sqNsid e = 0xFFFFFFFF then nvmeFail s t ncInvalidField
  else if sqNsid e = 0 || 256 < sqNsid e then nvmeFail s t ncInvalidNs
  else match nsOf s (sqNsid e) with
    | none => nvmeFail s t ncInvalidField
    | some n =>
      if cdw e 10 % 16 ≠ 0 then nvmeFail s t ncInvalidFormat
      else if cdw e 10 / 16 % 32 ≠ 0 || 2 < ses then nvmeFail s t ncInvalidField
      else if s.mediaReadOnly then nvmeFail s t ncWriteProtected
      else if ses = 1 then deallocSectors s k (sqNsid e) (allMapped s (sqNsid e) n) false true t
      else if ses = 2 then nvmeDone (wipeNs (odSave (odSave (newNsKey s (sqNsid e)))) (sqNsid e) n) t 0
      else nvmeDone (wipeNs s (sqNsid e) n) t 0

/-- FORMAT_NVM. -/
def execFormatNvm (k : Fin 33) (e : Desc) (s : State) : Out := .next (withNvme s k 0 e 0x80 (fun s t => formatNs s k.val t e))

/-- Every block of namespace data given its erase-intent, nothing mapped in it any more. -/
def intendErase (s : State) (b : Nat × Nat) : State :=
  let x := packageOf s b.1
  putPackage s b.1 { jotBlock x b.2 { blockAt x b.2 with st := .erasePending } with
    moves := x.moves.filter (fun m => m.src.1 ≠ b.2 && m.dst.1 ≠ b.2) }

/-- A sanitize accepted: namespaces unmapped durably; for block erase every block of namespace data awaits its erase (R327, R462). -/
def sanitizeStart (s : State) (action : Nat) : State :=
  let s1 := unmapAll s
  let s2 := if action = 2 then (nsBlocks s1).foldl intendErase s1 else s1
  bump { s2 with sanitize := { s2.sanitize with running := true, action := action, failed := false } } 0xA3C0 3 1

/-- SANITIZE: block erase, crypto erase, or exit failure mode (R327). -/
def sanitizeCmd (s : State) (t : NTicket) (e : Desc) : State :=
  let a := cdw e 10 % 8
  if s.sanitize.running then nvmeFail s t ncSanitizeRunning
  else if cdw e 10 / 512 % 2 = 1 then nvmeFail s t ncInvalidField
  else if a = 1 then nvmeDone { s with sanitize := { s.sanitize with failed := false } } t 0
  else if a = 2 then (if s.mediaReadOnly then nvmeFail s t ncWriteProtected else nvmeDone (sanitizeStart s 2) t 0)
  else if a = 4 then nvmeDone (sanitizeStart s 4) t 0
  else nvmeFail s t ncInvalidField

/-- SANITIZE. -/
def execSanitize (k : Fin 33) (e : Desc) (s : State) : Out := .next (withNvme s k 0 e 0x84 (fun s t => sanitizeCmd s t e))

end Sys2Proof.Machine
end

