-- ==== Sys2Proof/Machine/Dispatch.lean ====
section
/-! DEFINITION. One arm per command: the meaning each one has. -/

namespace Sys2Proof.Machine

/-- The effect of a command on everything but the queue. -/
def exec (i : Instr) (s : State) : Host.Outcome State Fault Refusal :=
  match i with
  | .nop c v q w => Sys2Proof.Machine.execNop c v q w s
  | .signal c v q w => Sys2Proof.Machine.execSignal c v q w s
  | .gate c v q w => Sys2Proof.Machine.execGate c v q w s
  | .step c v q w => Sys2Proof.Machine.execStep c v q w s
  | .fetch c v w => Sys2Proof.Machine.execFetch c v w s
  | .ldsh c v w => Sys2Proof.Machine.execLdsh c v w s
  | .swap c v w => Sys2Proof.Machine.execSwap c v w s
  | .mac c v w => Sys2Proof.Machine.execMac c v w s
  | .tload c v w => Sys2Proof.Machine.execTload c v w s
  | .preload c v w => Sys2Proof.Machine.execPreload c v w s
  | .tag c v w => Sys2Proof.Machine.execTag c v w s
  | .vop c v w => Sys2Proof.Machine.execVop c v w s
  | .vfn c v w => Sys2Proof.Machine.execVfn c v w s
  | .vred c v w => Sys2Proof.Machine.execVred c v w s
  | .vcvt c v w => Sys2Proof.Machine.execVcvt c v w s
  | .vupd c v w => Sys2Proof.Machine.execVupd c v w s
  | .select c v w => Sys2Proof.Machine.execSelect c v w s
  | .vpos c v w => Sys2Proof.Machine.execVpos c v w s
  | .psum c v w => Sys2Proof.Machine.execPsum c v w s
  | .drain c v w => Sys2Proof.Machine.execDrain c v w s
  | .wcvt c v w => Sys2Proof.Machine.execWcvt c v w s
  | .store c v w => Sys2Proof.Machine.execStore c v w s
  | .send c v w => Sys2Proof.Machine.execSend c v w s
  | .reduce c v w => Sys2Proof.Machine.execReduce c v w s
  | .tally c v w => Sys2Proof.Machine.execTally c v w s
  | .wpos c v w => Sys2Proof.Machine.execWpos c v w s
  | .instructionComplete c v q ix => Sys2Proof.Machine.execInstructionComplete c v q ix s
  | .promotionComplete c ix => Sys2Proof.Machine.execPromotionComplete c ix s
  | .stepStart c => Sys2Proof.Machine.execStepStart c s
  | .batchStepEnd c => Sys2Proof.Machine.execBatchStepEnd c s
  | .stepTimeLimit c => Sys2Proof.Machine.execStepTimeLimit c s
  | .preemptionDeadline c => Sys2Proof.Machine.execPreemptionDeadline c s
  | .launchCountReached c job => Sys2Proof.Machine.execLaunchCountReached c job s
  | .batchWaitExpiry c job => Sys2Proof.Machine.execBatchWaitExpiry c job s
  | .arrayIdleTimeout e a => Sys2Proof.Machine.execArrayIdleTimeout e a s
  | .rampPhaseEnd e a => Sys2Proof.Machine.execRampPhaseEnd e a s
  | .ballastPhaseEnd e a => Sys2Proof.Machine.execBallastPhaseEnd e a s
  | .rampUpStart n => Sys2Proof.Machine.execRampUpStart n s
  | .openJob f ring d => Sys2Proof.Machine.execOpenJob f ring d s
  | .stepDescriptor f ring d => Sys2Proof.Machine.execStepDescriptor f ring d s
  | .request f ring d => Sys2Proof.Machine.execRequest f ring d s
  | .closeJob f ring d => Sys2Proof.Machine.execCloseJob f ring d s
  | .search f ring d => Sys2Proof.Machine.execSearch f ring d s
  | .setcreate f ring d => Sys2Proof.Machine.execSetcreate f ring d s
  | .compact f ring d => Sys2Proof.Machine.execCompact f ring d s
  | .compactionTrigger c set => Sys2Proof.Machine.execCompactionTrigger c set s
  | .droverReadsReturned c m => Sys2Proof.Machine.execDroverReadsReturned c m s
  | .write f ring d => Sys2Proof.Machine.execWrite f ring d s
  | .persist f ring d => Sys2Proof.Machine.execPersist f ring d s
  | .read f ring d => Sys2Proof.Machine.execRead f ring d s
  | .truncate f ring d => Sys2Proof.Machine.execTruncate f ring d s
  | .update f ring d => Sys2Proof.Machine.execUpdate f ring d s
  | .copy f ring d => Sys2Proof.Machine.execCopy f ring d s
  | .commit f ring d => Sys2Proof.Machine.execCommit f ring d s
  | .commitSealed c => Sys2Proof.Machine.execCommitSealed c s
  | .discard f ring d => Sys2Proof.Machine.execDiscard f ring d s
  | .snapshot f ring d => Sys2Proof.Machine.execSnapshot f ring d s
  | .release f ring d => Sys2Proof.Machine.execRelease f ring d s
  | .rollback f ring d => Sys2Proof.Machine.execRollback f ring d s
  | .manifest f ring d => Sys2Proof.Machine.execManifest f ring d s
  | .hold f ring d => Sys2Proof.Machine.execHold f ring d s
  | .resume f ring d => Sys2Proof.Machine.execResume f ring d s
  | .unhold f ring d => Sys2Proof.Machine.execUnhold f ring d s
  | .secdealloc f ring d => Sys2Proof.Machine.execSecdealloc f ring d s
  | .mkwr f d => Sys2Proof.Machine.execMkwr f d s
  | .rmwr f d => Sys2Proof.Machine.execRmwr f d s
  | .mkcr f d => Sys2Proof.Machine.execMkcr f d s
  | .rmcr f d => Sys2Proof.Machine.execRmcr f d s
  | .setev f d => Sys2Proof.Machine.execSetev f d s
  | .ldimg f d => Sys2Proof.Machine.execLdimg f d s
  | .rmimg f d => Sys2Proof.Machine.execRmimg f d s
  | .ldalm f d => Sys2Proof.Machine.execLdalm f d s
  | .mkbnd f d => Sys2Proof.Machine.execMkbnd f d s
  | .rmbnd f d => Sys2Proof.Machine.execRmbnd f d s
  | .exportSet f d => Sys2Proof.Machine.execExportSet f d s
  | .unexportSet f d => Sys2Proof.Machine.execUnexportSet f d s
  | .workRingTailDoorbell f n v => Sys2Proof.Machine.execWorkRingTailDoorbell f n v s
  | .completionRingHeadDoorbell f n v => Sys2Proof.Machine.execCompletionRingHeadDoorbell f n v s
  | .eventRingHeadDoorbell f c v => Sys2Proof.Machine.execEventRingHeadDoorbell f c v s
  | .ctrlEnSet f => Sys2Proof.Machine.execCtrlEnSet f s
  | .ctrlEnClear f => Sys2Proof.Machine.execCtrlEnClear f s
  | .registerWrite b offset width v => Sys2Proof.Machine.execRegisterWrite b offset width v s
  | .interruptTimeThreshold f r => Sys2Proof.Machine.execInterruptTimeThreshold f r s
  | .msixUnmask f vector => Sys2Proof.Machine.execMsixUnmask f vector s
  | .pf1Flr f => Sys2Proof.Machine.execPf1Flr f s
  | .pf0Flr k => Sys2Proof.Machine.execPf0Flr k s
  | .hotReset port => Sys2Proof.Machine.execHotReset port s
  | .ccEnSet k => Sys2Proof.Machine.execCcEnSet k s
  | .ccEnClear k => Sys2Proof.Machine.execCcEnClear k s
  | .createIoSubmissionQueue k e => Sys2Proof.Machine.execCreateIoSubmissionQueue k e s
  | .deleteIoSubmissionQueue k e => Sys2Proof.Machine.execDeleteIoSubmissionQueue k e s
  | .createIoCompletionQueue k e => Sys2Proof.Machine.execCreateIoCompletionQueue k e s
  | .deleteIoCompletionQueue k e => Sys2Proof.Machine.execDeleteIoCompletionQueue k e s
  | .getLogPage k e => Sys2Proof.Machine.execGetLogPage k e s
  | .identify k e => Sys2Proof.Machine.execIdentify k e s
  | .abortCmd k e => Sys2Proof.Machine.execAbortCmd k e s
  | .setFeatures k e => Sys2Proof.Machine.execSetFeatures k e s
  | .getFeatures k e => Sys2Proof.Machine.execGetFeatures k e s
  | .asynchronousEventRequest k e => Sys2Proof.Machine.execAsynchronousEventRequest k e s
  | .namespaceManagement k e => Sys2Proof.Machine.execNamespaceManagement k e s
  | .namespaceAttachment k e => Sys2Proof.Machine.execNamespaceAttachment k e s
  | .firmwareImageDownload k e => Sys2Proof.Machine.execFirmwareImageDownload k e s
  | .firmwareCommit k e => Sys2Proof.Machine.execFirmwareCommit k e s
  | .formatNvm k e => Sys2Proof.Machine.execFormatNvm k e s
  | .sanitize k e => Sys2Proof.Machine.execSanitize k e s
  | .flush k q e => Sys2Proof.Machine.execFlush k q e s
  | .nvmeWrite k q e => Sys2Proof.Machine.execNvmeWrite k q e s
  | .nvmeRead k q e => Sys2Proof.Machine.execNvmeRead k q e s
  | .compare k q e => Sys2Proof.Machine.execCompare k q e s
  | .writeZeroes k q e => Sys2Proof.Machine.execWriteZeroes k q e s
  | .datasetManagement k q e => Sys2Proof.Machine.execDatasetManagement k q e s
  | .verify k q e => Sys2Proof.Machine.execVerify k q e s
  | .secureDeallocation k q e => Sys2Proof.Machine.execSecureDeallocation k q e s
  | .secdeallocEraseDone seq => Sys2Proof.Machine.execSecdeallocEraseDone seq s
  | .odOpen r => Sys2Proof.Machine.execOdOpen r s
  | .odRead r => Sys2Proof.Machine.execOdRead r s
  | .odWrite r => Sys2Proof.Machine.execOdWrite r s
  | .compareWrite r => Sys2Proof.Machine.execCompareWrite r s
  | .readSegment r => Sys2Proof.Machine.execReadSegment r s
  | .writeSegment r => Sys2Proof.Machine.execWriteSegment r s
  | .subscribe r => Sys2Proof.Machine.execSubscribe r s
  | .notifyAck r => Sys2Proof.Machine.execNotifyAck r s
  | .odClose r => Sys2Proof.Machine.execOdClose r s
  | .notifyResend se seq => Sys2Proof.Machine.execNotifyResend se seq s
  | .sessionSupervisionExpiry se => Sys2Proof.Machine.execSessionSupervisionExpiry se s
  | .stagingBufferTimeout => Sys2Proof.Machine.execStagingBufferTimeout s
  | .dictionarySave => Sys2Proof.Machine.execDictionarySave s
  | .saveNow => Sys2Proof.Machine.execSaveNow s
  | .restoreDefaults => Sys2Proof.Machine.execRestoreDefaults s
  | .croftCreate c => Sys2Proof.Machine.execCroftCreate c s
  | .croftApply c => Sys2Proof.Machine.execCroftApply c s
  | .croftRemove c => Sys2Proof.Machine.execCroftRemove c s
  | .croftRemoveAndPurge c => Sys2Proof.Machine.execCroftRemoveAndPurge c s
  | .scrubStart st => Sys2Proof.Machine.execScrubStart st s
  | .scrubStop st => Sys2Proof.Machine.execScrubStop st s
  | .scrubEnd st => Sys2Proof.Machine.execScrubEnd st s
  | .patrolScrub st => Sys2Proof.Machine.execPatrolScrub st s
  | .correctedRateThreshold st ch => Sys2Proof.Machine.execCorrectedRateThreshold st ch s
  | .hotChannelWindow st ch bytes own ms c => Sys2Proof.Machine.execHotChannelWindow st ch bytes own ms c s
  | .hbmTemperatureReading st ch t => Sys2Proof.Machine.execHbmTemperatureReading st ch t s
  | .hbmSelfRefreshEntry st => Sys2Proof.Machine.execHbmSelfRefreshEntry st s
  | .clusterGate n => Sys2Proof.Machine.execClusterGate n s
  | .clusterWake n => Sys2Proof.Machine.execClusterWake n s
  | .arm => Sys2Proof.Machine.execArm s
  | .clearPlantStop => Sys2Proof.Machine.execClearPlantStop s
  | .clearBankFault => Sys2Proof.Machine.execClearBankFault s
  | .clearFault ix => Sys2Proof.Machine.execClearFault ix s
  | .relearnValveCurve => Sys2Proof.Machine.execRelearnValveCurve s
  | .relearnBank => Sys2Proof.Machine.execRelearnBank s
  | .bankRelearnInterval => Sys2Proof.Machine.execBankRelearnInterval s
  | .relearnComplete r => Sys2Proof.Machine.execRelearnComplete r s
  | .moduleRestart => Sys2Proof.Machine.execModuleRestart s
  | .advanceNow => Sys2Proof.Machine.execAdvanceNow s
  | .firmwareReplace path slot => Sys2Proof.Machine.execFirmwareReplace path slot s
  | .firmwareReplaceActivate path slot => Sys2Proof.Machine.execFirmwareReplaceActivate path slot s
  | .firmwareActivate path slot => Sys2Proof.Machine.execFirmwareActivate path slot s
  | .authorisationNonceRead se => Sys2Proof.Machine.execAuthorisationNonceRead se s
  | .authorisationRecord se b => Sys2Proof.Machine.execAuthorisationRecord se b s
  | .authorisationExpiry se => Sys2Proof.Machine.execAuthorisationExpiry se s
  | .attestationNonce se b => Sys2Proof.Machine.execAttestationNonce se b s
  | .attestationReport se => Sys2Proof.Machine.execAttestationReport se s
  | .kamlinPortConfig p item v => Sys2Proof.Machine.execKamlinPortConfig p item v s
  | .getVersion f m => Sys2Proof.Machine.execGetVersion f m s
  | .getCapabilities f m => Sys2Proof.Machine.execGetCapabilities f m s
  | .negotiateAlgorithms f m => Sys2Proof.Machine.execNegotiateAlgorithms f m s
  | .getDigests f m => Sys2Proof.Machine.execGetDigests f m s
  | .getCertificate f m => Sys2Proof.Machine.execGetCertificate f m s
  | .challenge f m => Sys2Proof.Machine.execChallenge f m s
  | .getMeasurements f m => Sys2Proof.Machine.execGetMeasurements f m s
  | .setEndpointId b m => Sys2Proof.Machine.execSetEndpointId b m s
  | .getEndpointId b m => Sys2Proof.Machine.execGetEndpointId b m s
  | .getMctpVersionSupport b m => Sys2Proof.Machine.execGetMctpVersionSupport b m s
  | .getMessageTypeSupport b m => Sys2Proof.Machine.execGetMessageTypeSupport b m s
  | .getVendorDefinedMessageSupport b m => Sys2Proof.Machine.execGetVendorDefinedMessageSupport b m s
  | .entdaa a => Sys2Proof.Machine.execEntdaa a s
  | .flitReceive p flit decoded symbols => Sys2Proof.Machine.execFlitReceive p flit decoded symbols s
  | .retryRequest p seq => Sys2Proof.Machine.execRetryRequest p seq s
  | .ackTimeout p => Sys2Proof.Machine.execAckTimeout p s
  | .creditReturnTimeout p => Sys2Proof.Machine.execCreditReturnTimeout p s
  | .recoveryComplete p good neighbour => Sys2Proof.Machine.execRecoveryComplete p good neighbour s
  | .trainingComplete p good neighbour => Sys2Proof.Machine.execTrainingComplete p good neighbour s
  | .trainingFailTimeout p => Sys2Proof.Machine.execTrainingFailTimeout p s
  | .downRetryTimeout p => Sys2Proof.Machine.execDownRetryTimeout p s
  | .creditReturnSend p => Sys2Proof.Machine.execCreditReturnSend p s
  | .sendFrame p frame => Sys2Proof.Machine.execSendFrame p frame s
  | .reductionPartial p frame => Sys2Proof.Machine.execReductionPartial p frame s
  | .reductionResult p frame => Sys2Proof.Machine.execReductionResult p frame s
  | .stepEndFrame p frame => Sys2Proof.Machine.execStepEndFrame p frame s
  | .listImageFrame p frame => Sys2Proof.Machine.execListImageFrame p frame s
  | .tpRead p frame => Sys2Proof.Machine.execTpRead p frame s
  | .tpData p frame => Sys2Proof.Machine.execTpData p frame s
  | .tpWrite p frame => Sys2Proof.Machine.execTpWrite p frame s
  | .tpWriteDone p frame => Sys2Proof.Machine.execTpWriteDone p frame s
  | .groupCheck p frame => Sys2Proof.Machine.execGroupCheck p frame s
  | .groupCheckTimeout c job => Sys2Proof.Machine.execGroupCheckTimeout c job s
  | .cancel p frame => Sys2Proof.Machine.execCancel p frame s
  | .creditReturn p frame => Sys2Proof.Machine.execCreditReturn p frame s
  | .bell p frame => Sys2Proof.Machine.execBell p frame s
  | .linkManagement p frame => Sys2Proof.Machine.execLinkManagement p frame s
  | .bellExchange p x => Sys2Proof.Machine.execBellExchange p x s
  | .holdoverEntry => Sys2Proof.Machine.execHoldoverEntry s
  | .holdoverLimit => Sys2Proof.Machine.execHoldoverLimit s
  | .bellPpsEdge => Sys2Proof.Machine.execBellPpsEdge s
  | .pwrfailNAssert => Sys2Proof.Machine.execPwrfailNAssert s
  | .flushComplete => Sys2Proof.Machine.execFlushComplete s
  | .pwrfailNRelease => Sys2Proof.Machine.execPwrfailNRelease s
  | .leakNAssert => Sys2Proof.Machine.execLeakNAssert s
  | .leakNRelease => Sys2Proof.Machine.execLeakNRelease s
  | .perstNAssert => Sys2Proof.Machine.execPerstNAssert s
  | .perstNRelease => Sys2Proof.Machine.execPerstNRelease s
  | .wakeNAssert => Sys2Proof.Machine.execWakeNAssert s
  | .wakeNRelease => Sys2Proof.Machine.execWakeNRelease s
  | .inputFault ix chatter => Sys2Proof.Machine.execInputFault ix chatter s
  | .enableMate => Sys2Proof.Machine.execEnableMate s
  | .enableBreak => Sys2Proof.Machine.execEnableBreak s
  | .powerOn slotId => Sys2Proof.Machine.execPowerOn slotId s
  | .inputUndervoltage => Sys2Proof.Machine.execInputUndervoltage s
  | .inputOvervoltage volts => Sys2Proof.Machine.execInputOvervoltage volts s
  | .stage1Reached ms => Sys2Proof.Machine.execStage1Reached ms s
  | .stage2Reached ms => Sys2Proof.Machine.execStage2Reached ms s
  | .stage3Reached ms => Sys2Proof.Machine.execStage3Reached ms s
  | .startStalled part index => Sys2Proof.Machine.execStartStalled part index s
  | .powerLimitWindow watts => Sys2Proof.Machine.execPowerLimitWindow watts s
  | .dieThrottle n => Sys2Proof.Machine.execDieThrottle n s
  | .coreRailDroop => Sys2Proof.Machine.execCoreRailDroop s
  | .plantLoop raw pos => Sys2Proof.Machine.execPlantLoop raw pos s
  | .sensorFault j => Sys2Proof.Machine.execSensorFault j s
  | .valveFault pos => Sys2Proof.Machine.execValveFault pos s
  | .bankEnergyUpdate volts => Sys2Proof.Machine.execBankEnergyUpdate volts s
  | .bankFault cause => Sys2Proof.Machine.execBankFault cause s
  | .plantTakeoverTimeout => Sys2Proof.Machine.execPlantTakeoverTimeout s
  | .reeveRestart cause slotId => Sys2Proof.Machine.execReeveRestart cause slotId s
  | .watchdogService v => Sys2Proof.Machine.execWatchdogService v s
  | .watchdogTimeout => Sys2Proof.Machine.execWatchdogTimeout s
  | .fkey v => Sys2Proof.Machine.execFkey v s
  | .flashProgram v => Sys2Proof.Machine.execFlashProgram v s
  | .flashErase v => Sys2Proof.Machine.execFlashErase v s
  | .flashBlankCheck v => Sys2Proof.Machine.execFlashBlankCheck v s
  | .flashOperationDone => Sys2Proof.Machine.execFlashOperationDone s
  | .cvctlInit n v => Sys2Proof.Machine.execCvctlInit n v s
  | .cvctlFin n v => Sys2Proof.Machine.execCvctlFin n v s
  | .cvdata n width v => Sys2Proof.Machine.execCvdata n width v s
  | .cvalive n v => Sys2Proof.Machine.execCvalive n v s
  | .gleanerCollect p => Sys2Proof.Machine.execGleanerCollect p s
  | .relocation p ix => Sys2Proof.Machine.execRelocation p ix s
  | .blockErase p blk => Sys2Proof.Machine.execBlockErase p blk s
  | .wearLevel p => Sys2Proof.Machine.execWearLevel p s
  | .disturbRefresh p blk => Sys2Proof.Machine.execDisturbRefresh p blk s
  | .patrolRead p blk page level => Sys2Proof.Machine.execPatrolRead p blk page level s
  | .retentionRefresh p blk => Sys2Proof.Machine.execRetentionRefresh p blk s
  | .mapPageWriteback p page => Sys2Proof.Machine.execMapPageWriteback p page s
  | .metadataRollover p => Sys2Proof.Machine.execMetadataRollover p s
  | .programFail p blk => Sys2Proof.Machine.execProgramFail p blk s
  | .eraseFail p blk blank => Sys2Proof.Machine.execEraseFail p blk blank s
  | .suspectBlock p blk => Sys2Proof.Machine.execSuspectBlock p blk s
  | .readSuspend p die => Sys2Proof.Machine.execReadSuspend p die s
  | .nandProgramComplete p ix => Sys2Proof.Machine.execNandProgramComplete p ix s
  | .pageReadComplete p blk page level => Sys2Proof.Machine.execPageReadComplete p blk page level s
  | .sanitizeComplete failed => Sys2Proof.Machine.execSanitizeComplete failed s
  | .valveSettled pos => Sys2Proof.Machine.execValveSettled pos s
  | .bankChargeTargetReached => Sys2Proof.Machine.execBankChargeTargetReached s
  | .dieThrottleEnd n => Sys2Proof.Machine.execDieThrottleEnd n s
  | .droopEnd => Sys2Proof.Machine.execDroopEnd s
  | .coreRailSettled => Sys2Proof.Machine.execCoreRailSettled s
  | .flushPowerLoss => Sys2Proof.Machine.execFlushPowerLoss s
  | .frameForward p frame => Sys2Proof.Machine.execFrameForward p frame s
  | .fcmdWrite v => Sys2Proof.Machine.execFcmdWrite v s

end Sys2Proof.Machine
end

