-- ==== Sys2Proof/Machine/Tick.lean ====
section
/-! DEFINITION. What one nanosecond does while no command waits. -/

namespace Sys2Proof.Machine

/-- The Bell counter after one nanosecond of the oscillator: one count, more or less by the slew and trim gathered (R248, R249, R251). -/
def bellTick (b : Bell) : Bell :=
  let t := b.frac + b.slew + b.trim
  if 1000000000 ≤ t then { b with count := b.count + 2, frac := t - 1000000000 }
  else if t ≤ -1000000000 then { b with frac := t + 1000000000 }
  else { b with count := b.count + 1, frac := t }

/-- Whether writes to a package are held: its fallow pool below the low water while programs wait (R359; DEDUCED, log entry 113). -/
def throttled (s : State) (x : Package) : Bool := fallowPool x < odGet s 0x5100 1 && !x.progs.isEmpty

/-- One nanosecond of held writes counted, a whole millisecond of one package at a time (R359). -/
def holdWrites (s : State) : State :=
  let s1 := { s with packages := mapAll s.packages (fun x => if throttled s x then { x with held := x.held + 1 } else x) }
  let n := (s1.packages.filter (fun p => throttled s p.2 && p.2.held % 1000000 = 0)).length
  if n = 0 then s1 else bump s1 0xA400 0x0B n

/-- One nanosecond: the Bell counter advances once the module has started (R248), a Reeve that restarted is back (R15), a firmware commit takes its next step (R457), held writes are counted (R359), and dictionary requests nothing bars any more are taken (R395). -/
def tick (s : State) : State :=
  let s1 := { s with
    bell := if powered s && 1 ≤ s.power.stage then bellTick s.bell else s.bell
    reeveUp := true }
  let s2 := if powered s then holdWrites s1 else s1
  odDrainAll (if powered s && s.reeveUp then commitAdvance s2 else s2)

end Sys2Proof.Machine
end

