-- ==== Sys2Proof/Safety.lean ====
section
/-! DEFINITION. What counts as a safe run: the canonical form of the state's maps and memories. -/

namespace Sys2Proof

/-- Whether the keys of a map rise strictly. -/
def mapWf {α : Type} (m : Machine.FMap α) : Bool := (m.map (·.1)).Pairwise (· < ·)

end Sys2Proof
end

