-- ==== Sys2Proof/Certificates/Slice0/Obligations.lean ====
section
/-! DEFINITION. The statements for the provers. -/

set_option linter.all false

open Sys2Proof Sys2Proof.Machine

namespace Sys2Proof.Claims

/-! ### Words the statements use -/

/-- A word that a queue of a virtual engine takes now: the engine runs, the queue is open to the word and comes to it next in its stream, its opcode belongs there, its reserved fields are 0, its semaphores are of the queue's own, and a wait it carries is met (R112, R119, R122, R123, R130). -/
abbrev Taken (s : State) (c v q op : Nat) (w : IWord) (e : EngEnv) : Prop :=
  engEnv s c v = some e ∧ queueOpen e.ve q w = true ∧ nextWord e v q w = true ∧ wop w = op ∧ (opQueues op).contains q = true ∧ rsvOk w = true ∧
  headerFault e.im v q w = none ∧ ¬(bitOf w 8 = true ∧ veSem e.ve (fld w 13 9) = 0)

/-- The environment of an instruction: its memory as its reads find it, its header's wait taken (R122, R373). -/
def waited (e : EngEnv) (w : IWord) : EngEnv := { e with ve := takeWait (sramMet e.im e.ve w) w }

/-- The state once an instruction has taken effect: what its reads met recorded, its flags counted. -/
def effected (s : State) (c : Nat) (w : IWord) (fl : EngFlags) (e : EngEnv) : State := applyFlags (sramLog s c e.im e.ve w) c fl

/-- The state once an instruction has taken effect and its word is in flight on its queue. -/
def inFlight (s : State) (c v q : Nat) (w : IWord) (fl : EngFlags) (e : EngEnv) : State :=
  modVe (effected s c w fl e) c v (fun ve => veSetQueue ve q (queueIssued w (veQueue ve q)))

/-- An instruction that works on its own virtual engine alone: where its queue takes it and its operation neither waits nor faults, the virtual engine becomes what the operation gives, and the word is in flight. -/
def Issues (s : State) (c v q op : Nat) (w : IWord) (f : EngEnv → EngRes) (i : Instr) : Prop :=
  ∀ (e : EngEnv) (ve : VEngine) (fl : EngFlags), Taken s c v q op w e → f (waited e w) = .done ve fl →
    exec i s = .next (inFlight (setVe s c v ve) c v q w fl e)

/-- An instruction that reaches beyond its virtual engine: where its queue takes it and its operation neither waits nor faults, the state is what the operation gives, with the word in flight and then the dispatcher's work. -/
def IssuesWide (s : State) (c v q op : Nat) (w : IWord) (f : EngEnv → EngOut) (post : State → State) (i : Instr) : Prop :=
  ∀ (e : EngEnv) (t : State) (fl : EngFlags), Taken s c v q op w e → f (waited e w) = .done t fl →
    exec i s = .next (post (inFlight t c v q w fl e))

end Sys2Proof.Claims

open Sys2Proof.Claims

/-! ### The step and the machine -/

/-- A step takes the command at the front of the queue and runs it on the state with the queue's rest; on an empty queue one nanosecond passes (the model's choice, log entry 1). -/
def Obligations.StepRunsTheFrontCommand : Prop :=
  ∀ s : State,
    (∀ (c : Instr) (rest : List Instr), s.pending = c :: rest → step s = exec c { s with pending := rest }) ∧
    (s.pending = [] → step s = .next (tick s))

/-- Every command answers a next state: no command stops the model. -/
def Obligations.EveryCommandAnswersANextState : Prop :=
  ∀ (c : Instr) (s : State), ∃ t : State, exec c s = .next t

/-! ### Engine instructions -/

/-- The array and vector instructions and the position instructions act on their virtual engine alone; MAC streams its rows through its array, which asks for its ramp where it is cold; VCVT converts under the output spec it names. -/
def Obligations.ArrayAndVectorInstructionsIssue : Prop :=
  ∀ (c : Fin 32) (v : Fin 64) (q : Fin 4) (w : IWord) (s : State),
    Issues s c v q 0 w (fun e => .done e.ve noFlags) (.nop c v q w) ∧
    Issues s c v 1 0x20 w (fun e => doLdsh e.ve w) (.ldsh c v w) ∧
    Issues s c v 1 0x21 w (fun e => doSwap e.ve w) (.swap c v w) ∧
    Issues s c v 1 0x23 w (fun e => doTload e.ve w) (.tload c v w) ∧
    Issues s c v 1 0x24 w (fun e => doPreload e.ve w) (.preload c v w) ∧
    Issues s c v 1 0x25 w (fun e => doTag e.ve w) (.tag c v w) ∧
    Issues s c v 2 0x30 w (fun e => doVop e.ve w) (.vop c v w) ∧
    Issues s c v 2 0x31 w (fun e => doVfn e.ve w) (.vfn c v w) ∧
    Issues s c v 2 0x32 w (fun e => doVred e.r.ctx e.ve w) (.vred c v w) ∧
    Issues s c v 2 0x34 w (fun e => doVupd e.r.ctx e.ve w) (.vupd c v w) ∧
    Issues s c v 2 0x36 w (fun e => doVpos e.ve w) (.vpos c v w) ∧
    Issues s c v 3 0x46 w (fun e => doWpos e.ve w) (.wpos c v w) ∧
    (∀ (e : EngEnv) (ve : VEngine) (fl : EngFlags),
      (Taken s c v 1 0x22 w e → doMac e.r.ctx (waited e w).ve w = .done ve fl →
        exec (.mac c v w) s = .next (macRows s (inFlight (setVe s c v ve) c v 1 w fl e) c v w)) ∧
      (Taken s c v 2 0x33 w e → fld w 88 81 < imgOspecs e.im →
        doVcvt e.r.ctx (waited e w).ve w (ospecAt e.im (fld w 88 81)) = .done ve fl →
        exec (.vcvt c v w) s = .next (inFlight (setVe s c v ve) c v 2 w fl e)))

/-- SWAP (R28): every cell's shadow register goes to its active register and the shadow side state to the active side state, the shadow contents stay, the other arrays stay, and a second swap with no shadow load in between leaves the active contents as they are. -/
def Obligations.SwapCopiesShadowToActive : Prop :=
  ∀ (c : Fin 32) (v : Fin 64) (w : IWord) (s : State) (e : EngEnv), Taken s c v 1 0x21 w e →
    anyInA (waited e w).ve (fun u => fld u 7 0 = 0x20 && fld u 52 50 = fld w 34 32) = false →
    ∃ ve : VEngine, exec (.swap c v w) s = .next (inFlight (setVe s c v ve) c v 1 w noFlags e) ∧
      (let a := veArray (waited e w).ve (fld w 34 32)
       let b := veArray ve (fld w 34 32)
       b.active = a.shadow ∧ b.actSide = a.shSide ∧ b.shadow = a.shadow ∧ b.shSide = a.shSide ∧
       (∀ n : Nat, n ≠ fld w 34 32 → veArray ve n = veArray (waited e w).ve n) ∧
       (∀ (x : IWord) (ve2 : VEngine) (fl : EngFlags), fld x 34 32 = fld w 34 32 → doSwap ve x = .done ve2 fl →
         (veArray ve2 (fld w 34 32)).active = b.active ∧ (veArray ve2 (fld w 34 32)).actSide = b.actSide))

/-- The instructions that reach memory, other virtual engines or the step's records. -/
def Obligations.SharedInstructionsIssue : Prop :=
  ∀ (c : Fin 32) (v : Fin 64) (q : Fin 4) (w : IWord) (s : State),
    IssuesWide s c v q 1 w (doSignal s c v w) (fun t => settle t c) (.signal c v q w) ∧
    IssuesWide s c v 0 0x10 w (doFetch s c v w) id (.fetch c v w) ∧
    IssuesWide s c v 2 0x35 w (doSelect s c v w) id (.select c v w) ∧
    IssuesWide s c v 2 0x37 w (doPsumStep s c v w) id (.psum c v w) ∧
    IssuesWide s c v 3 0x40 w (fun e => withSpec s c v e (fld w 79 72) (fun b ch => doDrain e.r.ctx e.ve w b ch)) id (.drain c v w) ∧
    IssuesWide s c v 3 0x41 w (fun e => withSpec s c v e (fld w 107 100) (fun b ch => doWcvt e.r.ctx e.ve w b ch)) id (.wcvt c v w) ∧
    IssuesWide s c v 3 0x42 w (doStore s c v w) id (.store c v w) ∧
    IssuesWide s c v 3 0x43 w (doSend s c v w) (fun t => settle t c) (.send c v w) ∧
    IssuesWide s c v 3 0x44 w (doReduce s c v w) (fun t => settle t c) (.reduce c v w) ∧
    IssuesWide s c v 3 0x45 w (doTally s c v w) id (.tally c v w)

/-- GATE and STEP end a queue's stream up to the barrier: the queue notes the word, STEP's END bit marks the job's end, and the dispatcher runs. -/
def Obligations.BarrierInstructionsIssue : Prop :=
  ∀ (c : Fin 32) (v : Fin 64) (q : Fin 4) (w : IWord) (s : State) (e : EngEnv),
    (Taken s c v q 2 w e → gLive w ≤ 96 → (gWaits w = true → gArrive w ≠ 0 ∧ declGate (semAt e.im v (gSem w)) = true) →
      exec (.gate c v q w) s = .next (settle (effected (setVe s c v (veSetQueue (waited e w).ve q
        { veQueue (waited e w).ve q with gate := some w, stalledOn := none })) c w noFlags e) c)) ∧
    (Taken s c v q 3 w e →
      exec (.step c v q w) s = .next (settle (headerSignal (effected (modRun (setVe s c v (veSetQueue (waited e w).ve q
        { veQueue (waited e w).ve q with done := some w, stalledOn := none, off := (veQueue (waited e w).ve q).off + 1 })) c
          (fun r => { r with endJob := r.endJob || bitOf w 32 })) c w noFlags e) c v q w (veQueue e.ve q).off) c))

/-- A word that its queue comes to next and whose wait is not met stalls that queue, on every queue and for every opcode of the queue: nothing else changes (R112, R122). A word that is not the next of its queue's stream changes nothing. -/
def Obligations.UnmetWaitStallsTheQueue : Prop :=
  ∀ (c : Fin 32) (v : Fin 64) (q : Fin 4) (w : IWord) (s : State) (e : EngEnv), engEnv s c v = some e →
    (queueOpen e.ve q w = true → nextWord e v q w = true → rsvOk w = true → headerFault e.im v q w = none → bitOf w 8 = true →
      veSem e.ve (fld w 13 9) = 0 →
      (wop w = 0 → exec (.nop c v q w) s = .next (setVe s c v (stallOn e.ve q w))) ∧
      (wop w = 2 → exec (.gate c v q w) s = .next (setVe s c v (stallOn e.ve q w))) ∧
      (wop w = 3 → exec (.step c v q w) s = .next (setVe s c v (stallOn e.ve q w))) ∧
      (wop w = 0x22 → q.val = 1 → exec (.mac c v w) s = .next (setVe s c v (stallOn e.ve q w))) ∧
      (wop w = 0x30 → q.val = 2 → exec (.vop c v w) s = .next (setVe s c v (stallOn e.ve q w))) ∧
      (wop w = 0x10 → q.val = 0 → exec (.fetch c v w) s = .next (setVe s c v (stallOn e.ve q w))) ∧
      (wop w = 0x40 → q.val = 3 → exec (.drain c v w) s = .next (setVe s c v (stallOn e.ve q w)))) ∧
    (nextWord e v q w = false →
      exec (.nop c v q w) s = .next s ∧ exec (.gate c v q w) s = .next s ∧ exec (.step c v q w) s = .next s ∧
      (q.val = 1 → exec (.mac c v w) s = .next s) ∧ (q.val = 2 → exec (.vop c v w) s = .next s) ∧
      (q.val = 0 → exec (.fetch c v w) s = .next s) ∧ (q.val = 3 → exec (.drain c v w) s = .next s))

/-! ### The life of a step -/

/-- At stage 3 STEP_START gives the engines to the first ready step of the croft: a program step starts its program, a step of another kind its built-in work; a step that has missed its launch count under policy 1 is dropped and not run (R254, R266, R271). -/
def Obligations.StepStartRunsTheBestReadyStep : Prop :=
  ∀ (c : Fin 32) (s : State) (k k' : Croft) (b : Job × QStep) (j : Job) (q : QStep),
    croft? s c.val = some k → bestReady k = some b → croft? (takeCancels s c.val b.1.id) c.val = some k' → bestReady k' = some (j, q) →
    mayStart (takeCancels s c.val b.1.id) k' = true → s.power.stage = 3 →
    let s0 := takeCancels s c.val b.1.id
    let late := lateness s0 j q
    let s1 := wakeCroft (if !q.began && late.isSome then bump s0 0xA360 1 1 else s0) c.val
    (missed q late = true → exec (.stepStart c) s = .next (dropMissed s0 c.val j q)) ∧
    (missed q late = false →
      (q.kind = .program → exec (.stepStart c) s = .next (startProgram s1 c.val k' j { q with late := late, began := true })) ∧
      (q.kind ≠ .program → exec (.stepStart c) s = .next (startBuiltin s1 c.val k' j { q with late := late, began := true })))

/-- BATCH_STEP_END takes a finished step to its end point: a program step whose streams have ended merges its lists, and decides its end in a job without a group or takes its part in the group's exchange in one with; a search batch or a compaction whose reads are all back ends. -/
def Obligations.BatchStepEndClosesAFinishedStep : Prop :=
  ∀ (c : Fin 32) (s : State), powered s = true →
    (∀ (k : Croft) (r : RunStep) (e : EngEnv) (ls : List (SelGroup × Nat × WList)), runOf s c.val = some (k, r) → r.step.kind = .program →
      stepEnv s c.val = some e → e.r.ended = true → e.r.orResult = none → e.r.orHeld = none → mergeAll s c.val e = .ok ls →
      (e.j.group = none → exec (.batchStepEnd c) s = .next (decideStep s c.val e e.r.overflow ls)) ∧
      (∀ g, e.j.group = some g → exec (.batchStepEnd c) s = .next (closeProgress (imagesOut s c.val e) c.val e ls))) ∧
    (∀ (k : Croft) (r : RunStep) (q : SearchReq) (t : Ticket), runOf s c.val = some (k, r) → r.contexts.all (fun x => x.waits = 0) = true →
      r.step.kind = .search q → r.step.ticket = some t → exec (.batchStepEnd c) s = .next (endBatch s c.val k r q t)) ∧
    (∀ (k : Croft) (r : RunStep) (key : Nat) (o : Obj), runOf s c.val = some (k, r) → r.contexts.all (fun x => x.waits = 0) = true →
      r.step.kind = .compact key o → exec (.batchStepEnd c) s = .next (endCompaction s c.val k r key o))

/-- The two limits of a running step: at its time limit it faults with code 0x59; at the pre-emption deadline it is aborted. Inside a step an instruction that ends leaves its queue and its header signals, a promoted sheaf whose turn has come is placed, and the dispatcher runs (R122, R128, R167, R272). -/
def Obligations.LimitsAndCompletionsOfARunningStep : Prop :=
  ∀ (c : Fin 32) (s : State),
    (∀ (k : Croft) (r : RunStep), powered s = true → runOf s c.val = some (k, r) → stoppable r = true →
      exec (.stepTimeLimit c) s = .next (faultStep s c.val 0x59 0xFF 0 0 0) ∧
      (r.preempt.isSome = true → exec (.preemptionDeadline c) s = .next (abortOwn true s c.val))) ∧
    (∀ (v : Fin 64) (q : Fin 4) (ix : Nat) (e : EngEnv) (f : Inflight), engEnv s c v = some e →
      (veQueue e.ve q).inflight[ix]? = some f → wop f.word ≠ 0x22 →
      exec (.instructionComplete c v q ix) s = .next (settle (headerSignal (setVe s c v (veSetQueue e.ve q
        { veQueue e.ve q with inflight := (veQueue e.ve q).inflight.eraseIdx ix })) c v q f.word f.off) c)) ∧
    (∀ (ix : Nat) (k : Croft) (p : Promo) (sh : Sheaf), powered s = true → croft? s c.val = some k → k.promos[ix]? = some p →
      promoServed s c.val k ix p = true → promoSheaf s k p = some sh →
      exec (.promotionComplete c ix) s = .next (settle (promoArrive s c.val ix) c.val)) ∧
    (∀ (ix : Nat) (k : Croft) (p : Promo), powered s = true → croft? s c.val = some k → k.promos[ix]? = some p →
      promoServed s c.val k ix p = false → exec (.promotionComplete c ix) s = .next (settle s c.val))

/-- A step that waits for its launch count may start once the count is reached, and under late policy 1 is refused with 0x30 where it could not start at once (R253, R254); a serving job forms a batch of the requests that fit when the oldest has waited its limit, or of the one request that alone exceeds the block rows (R269). -/
def Obligations.LaunchCountsAndBatches : Prop :=
  ∀ (c : Fin 32) (job : Nat) (s : State) (j : Job), powered s = true → jobOf s c.val job = some j →
    (∀ (ix : Nat) (q : QStep) (n : Nat) (byJob strict : Bool) (t : Ticket), waitingLaunch s j = some (ix, q) → q.launch = some (n, byJob, strict) →
      q.ticket = some t →
      let unsync : Bool := !byJob && !bellSound s
      let s1 := markReady (modJob s c.val job (fun j => { j with steps := j.steps.set ix { q with reached := some (clock s), unsync := unsync } })) c.val
      (strict = false ∨ (unsync = false ∧ ix = 0 ∧ startsNow s1 c.val job = true) → exec (.launchCountReached c job) s = .next s1) ∧
      (strict = true → unsync = true ∨ ix ≠ 0 ∨ startsNow s1 c.val job = false → exec (.launchCountReached c job) s =
        .next (launchRefused (markReady (modJob s c.val job (fun j => { j with steps := j.steps.eraseIdx ix })) c.val) t 0x30))) ∧
    (waitingLaunch s j = none → exec (.launchCountReached c job) s = .next s) ∧
    (∀ (q : ServReq) (l : List ServReq), takeRows (blockRows s c.val) j.reqs = [] → j.reqs = q :: l → exec (.batchWaitExpiry c job) s =
      .next (queueStep (modJob s c.val job (fun j => { j with reqs := j.reqs.drop 1 })) c.val job (servingStep [q]))) ∧
    (∀ (q : ServReq) (l : List ServReq), takeRows (blockRows s c.val) j.reqs = q :: l →
      exec (.batchWaitExpiry c job) s = .next (queueStep (modJob s c.val job (fun j => { j with reqs := j.reqs.drop (l.length + 1) })) c.val job
        (servingStep (q :: l))))

/-! ### Activity ramps -/

/-- What drives the activity ramp of an array; RAMP_UP_START grants one array of the cluster that asks, the first in round-robin order, and the pointer moves past it. -/
def Obligations.RampsOfArrays : Prop :=
  ∀ (e : Fin 64) (a : Fin 8) (s : State), powered s = true →
    (rampOf s e.val a.val ≠ .wantsUp → exec (.arrayIdleTimeout e a) s = .next (putRamp s e.val a.val .cold)) ∧
    (∀ p : Nat, rampOf s e.val a.val = .up p →
      exec (.rampPhaseEnd e a) s = .next (bump (putRamp s e.val a.val (if 7 ≤ p then .warm else .up (p + 1))) 0xA210 1
        (withheld (odGet s 0x2210 1) p - (if p = 0 then 0 else withheld (odGet s 0x2210 1) (p - 1))))) ∧
    (∀ p : Nat, rampOf s e.val a.val = .ballast p →
      exec (.ballastPhaseEnd e a) s = .next (putRamp s e.val a.val (if 7 ≤ p then .cold else .ballast (p + 1)))) ∧
    (∀ (n : Fin 8) (j : Nat),
      ((List.range 64).map (fun x => (mapGet s.rampPtr n.val 0 + x) % 64)).find?
        (fun x => rampOf s (8 * n.val + x / 8) (x % 8) = .wantsUp) = some j →
      ∃ t, exec (.rampUpStart n) s = .next t ∧ rampOf t (8 * n.val + j / 8) (j % 8) = .up 0 ∧
        mapGet t.rampPtr n.val 0 = (j + 1) % 64 ∧
        t = { s with ramps := mapSet s.ramps (8 * (8 * n.val + j / 8) + j % 8) (.up 0), rampPtr := mapSet s.rampPtr n.val ((j + 1) % 64) })

/-! ### Work descriptors -/

namespace Sys2Proof.Claims

/-- The state with the descriptor at a ring's head fetched: the head advanced, its completion reserved. -/
def fetched (s : State) (f : Fin 33) (ring : Nat) (d : Desc) : State := (takeTicket s f.val ring d).2

/-- The ticket of that descriptor. -/
def ticketOf (s : State) (f : Fin 33) (ring : Nat) (d : Desc) : Ticket := (takeTicket s f.val ring d).1

/-- A work descriptor that is fetched and passes its envelope: the ring takes it, it has the opcode, its ring's croft is open and in the function's scope, its reserved fields are 0, the start stage suffices, and no valve re-learn bars its kind (R15, R25, R306, R309 to R312, R425, R438). -/
abbrev Accepted (s : State) (f : Fin 33) (ring : Nat) (d : Desc) (op minStage c : Nat) : Prop :=
  fetchable s f.val ring d = true ∧ opc d = op ∧ ringCroft s f.val ring = c ∧ croftOpen s c = true ∧
  (f.val = 0 ∨ (pf1Of s f.val).scope = c) ∧ envelopeOk ring d = true ∧ minStage ≤ s.power.stage ∧
  ¬(valveRelearning s = true ∧ stepOpcodes.contains op = true)

/-- A segment-store descriptor accepted for a croft: its envelope passes and it uses no field and no flag its operation does not have (R220, R221). -/
abbrev StoreAccepted (s : State) (f : Fin 33) (ring : Nat) (d : Desc) (op minStage uses flags c : Nat) (k : Croft) : Prop :=
  Accepted s f ring d op minStage c ∧ croft? (fetched s f ring d) c = some k ∧ stFieldsOk d uses flags = true

/-- The same for an operation that changes the store, which is not read-only (R239, R336). -/
abbrev ChangeAccepted (s : State) (f : Fin 33) (ring : Nat) (d : Desc) (op uses flags c : Nat) (k : Croft) : Prop :=
  StoreAccepted s f ring d op 3 uses flags c k ∧ storeReadOnly (fetched s f ring d) k = false

end Sys2Proof.Claims

/-- OPEN and CLOSE: a job opens with its record where nothing refuses it; a job that is open closes, at once or at the end of its running step. -/
def Obligations.JobsOpenAndClose : Prop :=
  ∀ (f : Fin 33) (ring : Nat) (d : Desc) (s : State) (c : Nat) (k : Croft), croft? (fetched s f ring d) c = some k →
    let S := fetched s f ring d
    let T := ticketOf s f ring d
    (∀ (g : Option (List Byte)) (im : Image) (b : BSet), Accepted s f ring d 1 3 c → byteOf d 24 ≤ 7 → byteOf d 25 ≤ 31 →
      byteOf d 25 / 2 % 2 = 0 → descZero d 28 31 = true → descZero d 40 47 = true →
      (byteOf d 25 / 4 % 2 = 0 → descZero d 48 55 = true) → (byteOf d 25 / 16 % 2 = 0 → descZero d 56 63 = true) →
      flagRead S (byteOf d 25 / 16 % 2 = 1) (bytesAt d 56 8) 544 = some g →
      let r : OpenReq := ⟨bytesAt d 16 4, bytesAt d 20 4, byteOf d 24, byteOf d 25, bytesAt d 26 2, bytesAt d 32 8, none, bytesAt d 48 8, g, none⟩
      openRefusal S k r = none → mapGet? k.images r.image = some im → mapGet? k.bsets r.bset = some b →
      (openTrain S c im.bytes r).all trainOk = true →
      exec (.openJob f ring d) s = .next (wakeKept (openWith S c k T im.bytes b r (openTrain S c im.bytes r)))) ∧
    (∀ j : Job, Accepted s f ring d 4 3 c → descZero d 16 63 = true → lookJob S c d (fun x => x < 2) = .inl j → j.closing = none →
      exec (.closeJob f ring d) s = .next (closeOne S c j T))

/-- STEP and REQUEST: a step without a launch count is queued on its job; a serving request's input is read and queued, and batches form. -/
def Obligations.StepsAndRequestsAreQueued : Prop :=
  ∀ (f : Fin 33) (ring : Nat) (d : Desc) (s : State) (c : Nat) (k : Croft), croft? (fetched s f ring d) c = some k →
    let S := fetched s f ring d
    let T := ticketOf s f ring d
    (∀ (j : Job) (im : Image), Accepted s f ring d 2 3 c → byteOf d 18 ≤ 7 → descZero d 19 19 = true → descZero d 48 63 = true →
      lookJob S c d (fun x => x = 0) = .inl j → mapGet? k.images j.image = some im → bytesAt d 16 2 < imgSteps im.bytes →
      (stepOf d T).launch = none → exec (.stepDescriptor f ring d) s = .next (queueStep S c j.id (stepOf d T))) ∧
    (∀ (j : Job) (b : List Byte), Accepted s f ring d 3 3 c → descZero d 18 19 = true → descZero d 28 31 = true → descZero d 48 63 = true →
      lookJob S c d (fun x => x = 1) = .inl j → bytesAt d 16 2 ≠ 0 → bytesAt d 16 2 ≤ blockRows S c →
      hostRead S (bytesAt d 32 8) (bytesAt d 16 2 * bytesAt d 20 4) = some b →
      exec (.request f ring d) s = .next (batchNow c j.id (j.reqs.length + 1) (modJob S c j.id (fun j => { j with
        reqs := j.reqs ++ [⟨bytesAt d 16 2, bytesAt d 20 4, bytesAt d 24 4, b, bytesAt d 40 8, clock S, T⟩] }))))

/-- SEARCH, SETCREATE and COMPACT: a batch is queued with its epoch fixed; a set is made of its header and codebook; a compaction of a set is queued. -/
def Obligations.VectorSetCommands : Prop :=
  ∀ (f : Fin 33) (ring : Nat) (d : Desc) (s : State) (c : Nat) (k : Croft), croft? (fetched s f ring d) c = some k →
    let S := fetched s f ring d
    let T := ticketOf s f ring d
    (∀ (b0 : List Byte) (e : Nat) (m : FMap Obj) (h : SetHdr) (o : FMap Sheaf) (hw : Nat), Accepted s f ring d 5 2 c →
      descZero d 40 63 = true → hostRead S (bytesAt d 16 8) (bytesAt d 24 4) = some b0 → s.power.stage = 3 → qbTableOk b0 = true →
      epochMap k.store (qbEpoch b0) = some (e, m) →
      let b := fillRecord S c e b0
      let r : SearchReq := ⟨b, e, m, bytesAt d 32 8, bytesAt d 28 4, false⟩
      batchSet S r = some (h, o, hw) → qbLimitsOk b h hw false = true → ownRoom k 2 = true → (predTerms (h.attr / 4) (sub b 128 272)).isSome = true →
      batchOut b ≤ bytesAt d 28 4 → exec (.search f ring d) s = .next (queueBatch S c T r)) ∧
    (∀ (b cb : List Byte) (r : Obj × State), Accepted s f ring d 6 3 c → descZero d 32 63 = true → storeReadOnly S k = false →
      hostRead S (bytesAt d 24 8) 256 = some b → objOf k.store.openState (bytesAt d 16 8) = none → objRoom k.store (bytesAt d 16 8) = true → setHdrOk b = true →
      (setsOf S k.store.openState).any (fun p => p.2 = (setHdrOf b).number) = false →
      hostRead S (bytesAt d 24 8 + 256) (32 * (setHdrOf b).dims) = some cb →
      let m0 : FMap Sheaf := [(0, ⟨0, cellsOf 0 0 b, []⟩)]
      let m := (List.range ((cb.length + 32767) / 32768)).foldl (fun m n =>
        mapSet m ((setHdrOf b).cbSh + n) ⟨0, cellsOf 0 0 (sub cb (32768 * n) 32768), []⟩) m0
      let o := newOp S c (some T) none 0 0
      rebuildSet o.2 c (bytesAt d 16 8) o.1 ⟨[], true, 0, 0⟩ m 0 = some r →
      exec (.setcreate f ring d) s = .next (opFinish (setObj r.2 c (bytesAt d 16 8) r.1) o.1)) ∧
    (∀ (e : Nat) (m : FMap Obj) (key : Nat) (o : Obj), Accepted s f ring d 7 3 c → descZero d 18 63 = true → storeReadOnly S k = false →
      epochMap k.store epochLatest = some (e, m) → findSet S m (bytesAt d 16 2) = some (key, o) → ownRoom k 3 = true →
      (imgHdr (objImg S o)).nodes = false → exec (.compact f ring d) s = .next (queueCompaction S c key o (some T)))

/-- What moves searches and compactions without a descriptor: a set with too many tombstones is compacted; the reads of the query that holds a context of its Drover come back, the Drover's pointer moves past the context, and contexts left free go to the queries that wait (R183, R195). -/
def Obligations.DroverEvents : Prop :=
  ∀ (c : Fin 32) (s : State), powered s = true →
    (∀ (set : Nat) (k : Croft) (e : Nat) (m : FMap Obj) (key : Nat) (o : Obj), s.power.stage = 3 → croft? s c.val = some k →
      epochMap k.store epochLatest = some (e, m) → findSet s m set = some (key, o) → odGet s (0x3580 + c.val) 1 ≠ 0 →
      odGet s (0x3580 + c.val) 1 * o.hw < (o.hw - o.live) * 100 → (imgHdr (objImg s o)).nodes = false → compacting k key = false →
      ownRoom k 3 = true → storeReadOnly s k = false → exec (.compactionTrigger c set) s = .next (queueCompaction s c.val key o none)) ∧
    (∀ (n m ix : Nat) (k : Croft) (r : RunStep), runOf s c.val = some (k, r) → r.contexts[n]? = some ⟨m + 1, some ix⟩ →
      let s1 := modRun s c.val (fun r => { r with contexts := r.contexts.set n ⟨m, some ix⟩ })
      exec (.droverReadsReturned c n) s =
        .next (giveContexts { s1 with droverPtr := mapSet s1.droverPtr (walkCluster k n) ((ix + 1) % 4096) })) ∧
    (∀ (n : Nat) (k : Croft) (r : RunStep), runOf s c.val = some (k, r) → (∀ m ix, r.contexts[n]? ≠ some ⟨m + 1, some ix⟩) →
      exec (.droverReadsReturned c n) s = .next s)

/-! ### The segment store -/

/-- The commands that place contents in a croft's open state: WRITE of plain segments, PERSIST of a buffer, UPDATE of a vector set, COPY and TRUNCATE. -/
def Obligations.OpenStateCommands : Prop :=
  ∀ (f : Fin 33) (ring : Nat) (d : Desc) (s : State) (c : Nat) (k : Croft),
    let S := fetched s f ring d
    let T := ticketOf s f ring d
    let o := newOp S c (some T) none 0 0
    (∀ (b : List Byte) (r : List Nat × State), ChangeAccepted s f ring d 0x10 (1 + 2 + 8 + 16 + 64) 8 c k → stRaw d = false →
      stCount d ≠ 0 → stCount d ≤ 64 → hostRead S (stAddr d) (stCount d * 1049600) = some b →
      let old := (objOf k.store.openState (stKey d)).getD ⟨[], false, 0, 0⟩
      old.isSet = false → stIndex d ≤ old.segs.length → stIndex d + stCount d ≤ 2 ^ 32 → objRoom k.store (stKey d) = true →
      addSegments c (stClass d) o.1 (((List.range (stCount d)).map (writePart false b)).zipIdx.map (fun p =>
        some (plainSegment c (stKey d) (stIndex d + p.2) (openEpoch k.store) p.1))) o.2 = some r →
      exec (.write f ring d) s = .next (opFinish (setObj r.2 c (stKey d) (placeSerials old (stIndex d) r.1)) o.1)) ∧
    (∀ (b : Binding) (r : List Nat × State), ChangeAccepted s f ring d 0x11 (1 + 2 + 16 + 32 + 64) 0 c k → persistBinding k d = some b →
      let old := (objOf k.store.openState (stKey d)).getD ⟨[], false, 0, 0⟩
      let n := persistPlaces (stCount d)
      stCount d ≠ 0 → b.kind = 0 → stIndex d % 32 = 0 → old.isSet = false → stIndex d + stCount d ≤ b.count →
      stIndex d / 32 ≤ old.segs.length → stIndex d / 32 + n ≤ 2 ^ 32 → objRoom k.store (stKey d) = true → k.run.isSome = true →
      placeNews c (stClass d) ((List.range n).map (fun x =>
        persistBlank c (stKey d) (stIndex d / 32 + x) (openEpoch k.store))) o.2 = some r →
      exec (.persist f ring d) s = .next (modStore (modOp (setObj r.2 c (stKey d) (placeSerials old (stIndex d / 32) r.1)) o.1
        (fun x => { x with left := x.left + 1 })) c (fun st => { st with
          persists := st.persists ++ [⟨o.1, r.1, stBinding d / 256, stBinding d % 256, stIndex d, stCount d⟩] }))) ∧
    (∀ (b : List Byte) (x : Obj) (es : List UEntry) (y : Obj × State), ChangeAccepted s f ring d 0x14 (1 + 8 + 16) 0 c k →
      hostRead S (stAddr d) (stCount d) = some b → objOf k.store.openState (stKey d) = some x → x.isSet = true →
      let img := objImg S x
      parseEntries (imgHdr img) (b.length + 1) x.hw b = some es →
      let r := es.foldl (applyEntry (imgHdr img)) ⟨img, x.hw, none, 0, 0, false⟩
      let p := newOp S c (some T) none r.inserts (r.first.getD 0)
      r.full = false → rebuildSet p.2 c (stKey d) p.1 x r.img r.hw = some y →
      exec (.update f ring d) s = .next (opFinish (modOp (modStore (setObj y.2 c (stKey d) y.1) c (fun st => { st with notFound := st.notFound + r.notFound })) p.1
        (fun z => { z with status := 0 })) p.1)) ∧
    (∀ (e : Nat) (m : FMap Obj), ChangeAccepted s f ring d 0x15 (1 + 4) 0 c k → epochMap k.store (stEpoch d) = some (e, m) →
      (objOf m (stKey d) = none ∨ objRoom k.store (stKey d) = true) →
      exec (.copy f ring d) s = .next (done (setOpen S c (stKey d) (objOf m (stKey d))) T 0)) ∧
    (∀ x : Obj, ChangeAccepted s f ring d 0x13 (1 + 2) 0 c k → objOf k.store.openState (stKey d) = some x →
      (stIndex d = 0 → exec (.truncate f ring d) s = .next (truncateObj S c T (stKey d) none)) ∧
      (0 < stIndex d → stIndex d ≤ x.segs.length → x.isSet = false → exec (.truncate f ring d) s =
        .next (truncateObj S c T (stKey d) (some { x with segs := x.segs.take (stIndex d) }))))

/-- READ and MANIFEST deliver what an epoch holds: the bodies of sheaves, whole segments with their headers, or the keys with their segment counts. -/
def Obligations.ReadsOfAnEpoch : Prop :=
  ∀ (f : Fin 33) (ring : Nat) (d : Desc) (s : State) (c : Nat) (k : Croft) (e : Nat) (m : FMap Obj),
    epochMap k.store (stEpoch d) = some (e, m) →
    let S := fetched s f ring d
    let T := ticketOf s f ring d
    (∀ (o : Obj) (segs : List (Nat × Segment)), StoreAccepted s f ring d 0x12 2 (1 + 2 + 4 + 8 + 16) 8 c k → stCount d ≠ 0 →
      objOf m (stKey d) = some o →
      (stRaw d = false → stIndex d + stCount d ≤ 32 * o.segs.length →
        segsAt S c (stKey d) o (stIndex d / 32) ((stIndex d + stCount d + 31) / 32 - stIndex d / 32) = some segs →
        segs.any (fun g => segConflict S g.1) = false → (readSheaves segs (stIndex d) (stCount d)).any (·.isNone) = false →
        hostWritable S (stAddr d) (stCount d * 32768) = true →
        exec (.read f ring d) s = .next (complete (readCounted (writeBodies (stAddr d) (readSheaves segs (stIndex d) (stCount d)) S) c 32768
          (sheafSegs segs (stIndex d) (stCount d))) T 0 0 0 e 0 none)) ∧
      (stRaw d = true → stIndex d + stCount d ≤ o.segs.length → segsAt S c (stKey d) o (stIndex d) (stCount d) = some segs →
        hostWritable S (stAddr d) (stCount d * 1049728) = true →
        exec (.read f ring d) s = .next (complete (readCounted (hostWrite S (stAddr d)
          (segs.flatMap (fun g => segHeader g.2 g.1 (g.1 = 0) ++ segBody g.2))) c 1048576 segs) T 0 (if segs.any (fun g => g.2.poison) then 2 else 0) 0 e 0 none))) ∧
    (StoreAccepted s f ring d 0x1D 2 (2 + 4 + 8 + 16) 0 c k →
      let l := (m.filter (fun p => stIndex d < p.1)).take (stCount d)
      hostWritable S (stAddr d) (16 * l.length) = true →
      exec (.manifest f ring d) s = .next (complete (hostWrite S (stAddr d)
        (l.flatMap (fun p => leBytes 8 p.1 ++ leBytes 8 p.2.segs.length))) T 0 0 l.length e 0 none))

/-- Commits: COMMIT and ROLLBACK freeze a state as a commit in progress, COMMIT_SEALED makes the first one durable as the next epoch, DISCARD returns the open state to where it started. -/
def Obligations.CommitsAndTheOpenState : Prop :=
  ∀ (s : State) (k : Croft),
    (∀ (f : Fin 33) (ring : Nat) (d : Desc) (c : Nat),
      let S := fetched s f ring d
      let T := ticketOf s f ring d
      (StoreAccepted s f ring d 0x18 3 0 1 c k → exec (.commit f ring d) s = .next (acceptCommit S c (stFlags d = 1) (some T) none)) ∧
      (∀ (e : Nat) (m : FMap Obj), ChangeAccepted s f ring d 0x1C 4 2 c k → epochMap k.store (stEpoch d) = some (e, m) →
        (openEmpty k.store = true ∨ stFlags d = 2) → exec (.rollback f ring d) s =
          .next (acceptCommit (modStore S c (fun st => { st with openState := m, compacted := [], replaced := [] })) c false (some T) none)) ∧
      (ChangeAccepted s f ring d 0x19 0 0 c k → exec (.discard f ring d) s =
        .next (done (freeSegments (modStore S c (fun st => { st with openState := baseMap st, replaced := [] })) c) T 0))) ∧
    (∀ (c : Fin 32) (x : Commit) (l : List Commit), croft? s c.val = some k → k.store.commits = x :: l →
      x.covered.any (fun n => s.ops.any (fun o => o.id = n)) = false → storeReadOnly s k = false → s.power.stage = 3 →
      poisonedNew s x.frozen k.store.epochs = none →
      exec (.commitSealed c) s = .next (durableCommit s c.val k x))

/-- Retained epochs: SNAPSHOT marks one, RELEASE lets it go, HOLD asks for one that ends its job, RESUME opens a job from one, UNHOLD lets a held one go. -/
def Obligations.RetainedEpochs : Prop :=
  ∀ (f : Fin 33) (ring : Nat) (d : Desc) (s : State) (c : Nat) (k : Croft),
    let S := fetched s f ring d
    let T := ticketOf s f ring d
    (∀ (e : Nat) (m : FMap Obj), epochMap k.store (stEpoch d) = some (e, m) →
      (ChangeAccepted s f ring d 0x1A 4 0 c k →
        (k.store.snaps.contains e = true ∨ (mapGet? k.store.holds e).isSome = true ∨ epochRoom k = true) → exec (.snapshot f ring d) s =
          .next (done (recordTable (modStore S c (fun st => { st with snaps := setIns st.snaps e })) c) T 0)) ∧
      (ChangeAccepted s f ring d 0x1B 4 0 c k → e ≠ k.store.epoch → mapGet? k.store.holds e = none → exec (.release f ring d) s =
        .next (done (freeSegments (recordTable (modStore S c (fun st =>
          { st with snaps := st.snaps.filter (· ≠ e), released := setIns st.released e })) c) c) T 0)) ∧
      (∀ b : List Byte, ChangeAccepted s f ring d 0x22 4 0 c k → mapGet? k.store.holds e = some b → exec (.unhold f ring d) s =
        .next (done (freeSegments (recordTable (modStore S c (fun st => { st with holds := mapDel st.holds e })) c) c) T 0))) ∧
    (∀ (b : List Byte) (j : Job), StoreAccepted s f ring d 0x20 3 (1 + 2 + 4 + 8 + 16) 4 c k → stCount d ≠ 0 → stCount d ≤ 16 →
      hostRead S (stAddr d) (8 * stCount d) = some b → mapGet? k.jobs (stIndex d) = some j → j.faulted = false → j.kind ≤ 1 →
      (objOf k.store.openState (stKey d)).any (·.isSet) = false →
      let keys := (List.range (stCount d)).map (fun x => leAt b (8 * x) 8)
      ascending keys = true → keys.all (fun x => (objOf k.store.openState x).isSome) = true → objRoom k.store (stKey d) = true →
      k.store.holds.length + pendingHolds k - (if j.holdReq.isSome then 1 else 0) < 64 → (j.holdReq.isSome = true ∨ epochRoom k = true) →
      j.group = none → stEpoch d = epochLatest → k.run = none →
      let h : HoldReq := ⟨j.id, stAddr d, keys, stFlags d = 4, stKey d, stEpoch d, T⟩
      exec (.hold f ring d) s = .next (holdProceed (modJob (dropHold S j) c j.id (fun j => { j with holdReq := some h })) c j.id h)) ∧
    (∀ (x : List Byte) (im : Image) (bs : BSet) (e : Nat) (m : FMap Obj) (o : Obj), StoreAccepted s f ring d 0x21 3 (4 + 8) 0 c k →
      hostRead S (stAddr d) 656 = some x →
      let h := sub x 0 128
      let b := sub x 128 528
      let st := stateBytes S o
      leAt h 9 1 / 16 % 2 = 0 → leAt h 24 8 = 0 → holdRecOk b = true → holdSigned S b = true → resumeHdrOk h = true →
      levelAllowed S c (leAt b 6 2) = true → mapGet? k.images (leAt h 0 4) = some im → mapGet? k.bsets (leAt h 4 4) = some bs →
      epochMap k.store (stEpoch d) = some (e, m) → imageDigest im = sub b 32 64 →
      weightDigest S m ((List.range (leAt b 10 2)).map (fun n => leAt b (200 + 8 * n) 8)) = some (sub b 96 64) →
      objOf m (leAt b 24 8) = some o → groupAgrees b none = true →
      let r : OpenReq := ⟨leAt h 0 4, leAt h 4 4, leAt h 8 1, leAt h 9 1, leAt h 10 2, leAt b 160 8,
        if leAt b 9 1 / 2 % 2 = 1 then some (sub st 0 64) else none, leAt h 16 8, none,
        some ⟨leAt b 6 2, leAt st 64 8,
          (List.range 2048).filterMap (fun n => if leAt st (128 + n) 1 = 0 then none else some (n, leAt st (128 + n) 1)),
          leAt b 176 8, e, m⟩⟩
      openRefusal S k r = none → (openTrain S c im.bytes r).all trainOk = true →
      exec (.resume f ring d) s = .next (openWith S c k T im.bytes bs r (openTrain S c im.bytes r)))

/-- Secure deallocation of segments: the named segments of every object of the key go, and the deallocation waits for its blocks; it waits whole while a PERSIST accepted earlier still names one of them (R330); once the last blocks are erased it is checked for its end. -/
def Obligations.SecureDeallocationOfSegments : Prop :=
  ∀ s : State,
    (∀ (f : Fin 33) (ring : Nat) (d : Desc) (c : Nat) (k : Croft),
      let S := fetched s f ring d
      Accepted s f ring d 0x81 3 c → croft? S c = some k → stFieldsOk d (1 + 2 + 8 + 16) 1 = true → storeReadOnly S k = false →
      objsOfKey k (stKey d) ≠ [] → hostWritable S (stAddr d) 64 = true →
      let gone := ((objsOfKey k (stKey d)).flatMap (objSerials (stIndex d) (stCount d))).foldl setIns []
      (k.store.persists.any (fun w => w.serials.any gone.contains) = false →
        exec (.secdealloc f ring d) s = .next (deallocSegments S c (ticketOf s f ring d) d gone)) ∧
      (k.store.persists.any (fun w => w.serials.any gone.contains) = true →
        exec (.secdealloc f ring d) s = .next (modStore S c (fun st => { st with sdWaits := st.sdWaits ++ [⟨ticketOf s f ring d, d, gone⟩] })))) ∧
    (∀ (seq : Nat) (x : Dealloc), powered s = true → s.deallocs.find? (fun y => y.seq = seq) = some x →
      exec (.secdeallocEraseDone seq) s = .next (deallocCheck (eraseRest s x)))

/-! ### Admin commands -/

namespace Sys2Proof.Claims

/-- The number of the admin work ring. -/
abbrev adminRing : Nat := 0xFFFF

/-- An admin command that is fetched and passes its envelope: no other is outstanding, the croft is the function's, its unused bytes are 0, the Reeve answers and the start stage suffices (R15, R25, R306, R317, R438). -/
abbrev AdminAccepted (s : State) (f : Fin 33) (d : Desc) (op used minStage : Nat) : Prop :=
  fetchable s f.val adminRing d = true ∧ (mapGet? (pf1Of s f.val).wr adminRing).any (fun w => w.outstanding.isEmpty) = true ∧
  opc d = op ∧ (f.val = 0 ∨ ((pf1Of s f.val).scope ≠ 0xFF ∧ adCroft d = (pf1Of s f.val).scope)) ∧ adCroft d ≤ 31 ∧
  envelopeOk adminRing d = true ∧ descZero d (16 + used) 63 = true ∧ s.reeveUp = true ∧ minStage ≤ s.power.stage

end Sys2Proof.Claims

/-- The ring commands: a work or completion ring is made with the fields of its command, an idle one goes, and a croft's event ring is set or removed. -/
def Obligations.AdminRingCommands : Prop :=
  ∀ (f : Fin 33) (d : Desc) (s : State),
    let S := fetched s f adminRing d
    let T := ticketOf s f adminRing d
    let p := pf1Of S f.val
    let n := bytesAt d 16 2
    let ringOk := ringSizeOk (bytesAt d 20 4) = true ∧ bytesAt d 24 8 % 4096 = 0 ∧ descZero d 18 19 = true ∧ n < ringCount f.val
    (AdminAccepted s f d 0x81 18 2 → ringOk → mapGet? p.wr n = none → bytesAt d 32 2 < ringCount f.val →
      (mapGet? p.cr (bytesAt d 32 2)).isSome = true →
      exec (.mkwr f d) s = .next (done (putPf1 S f.val { p with
        wr := mapSet p.wr n ⟨bytesAt d 20 4, bytesAt d 24 8, adCroft d, bytesAt d 32 2, 0, 0, false, [], none⟩ }) T 0)) ∧
    (∀ w : WRing, AdminAccepted s f d 0x82 2 2 → n ≠ adminRing → mapGet? p.wr n = some w → w.removing = none →
      exec (.rmwr f d) s = .next (ringDrained (putPf1 S f.val { p with wr := mapSet p.wr n { w with removing := some T } }) f.val n)) ∧
    (AdminAccepted s f d 0x83 20 2 → ringOk → mapGet? p.cr n = none → bytesAt d 32 2 < vectorCount f.val →
      exec (.mkcr f d) s = .next (done (putPf1 S f.val { p with
        cr := mapSet p.cr n ⟨bytesAt d 20 4, bytesAt d 24 8, bytesAt d 32 2, byteOf d 34, byteOf d 35, 0, 0, 0, 0, false⟩ }) T 0)) ∧
    (AdminAccepted s f d 0x84 2 2 → n ≠ adminRing → (mapGet? p.cr n).isSome = true → p.wr.any (fun w => w.2.comp = n) = false →
      exec (.rmcr f d) s = .next (done (putPf1 S f.val { p with cr := mapDel p.cr n }) T 0)) ∧
    (∀ k : Croft, AdminAccepted s f d 0x85 18 2 → croft? S (adCroft d) = some k →
      (bytesAt d 16 4 = 0 → descZero d 20 23 = true → exec (.setev f d) s = .next (done (putCroft S (adCroft d) { k with ering := none }) T 0)) ∧
      (ringSizeOk (bytesAt d 16 4) = true → bytesAt d 24 8 % 4096 = 0 → descZero d 20 23 = true → bytesAt d 32 2 < vectorCount f.val →
        exec (.setev f d) s = .next (done (overflowEvent (putCroft S (adCroft d) { k with
          ering := some ⟨f.val, bytesAt d 16 4, bytesAt d 24 8, bytesAt d 32 2, 0, 0, false⟩ }) (adCroft d)) T 0)))

/-- Images, Almanacs, binding sets and exports are made, take effect, and go when nothing uses them. -/
def Obligations.AdminObjectCommands : Prop :=
  ∀ (f : Fin 33) (d : Desc) (s : State) (k : Croft), croft? (fetched s f adminRing d) (adCroft d) = some k →
    let S := fetched s f adminRing d
    let T := ticketOf s f adminRing d
    let c := adCroft d
    (∀ b : List Byte, AdminAccepted s f d 0x88 16 3 → hostRead S (bytesAt d 16 8) (bytesAt d 24 8) = some b →
      loadReason S c (cellsOf 0 0 b) (bytesAt d 24 8) = none → t1Room S c k ((bytesAt d 24 8 + 32767) / 32768 * 32768) = true →
      exec (.ldimg f d) s = .next (doneResult (putCroft { S with nextHandle := s.nextHandle + 1 } c { k with
        images := mapSet k.images s.nextHandle ⟨T.fn, cellsOf 0 0 b, bytesAt d 24 8⟩ }) T s.nextHandle)) ∧
    (AdminAccepted s f d 0x89 4 2 → (mapGet? k.images (bytesAt d 16 4)).isSome = true → imageInUse k (bytesAt d 16 4) = false →
      k.alm.any (fun a => a.image = bytesAt d 16 4) = false →
      exec (.rmimg f d) s = .next (done (putCroft S c { k with images := mapDel k.images (bytesAt d 16 4) }) T 0)) ∧
    (AdminAccepted s f d 0x8A 20 3 →
      (k.run.isSome = true → exec (.ldalm f d) s = .next (putCroft S c { k with deferred := k.deferred ++ [.admin d T] })) ∧
      (∀ (im : Image) (b : List Byte), k.run = none → mapGet? k.images (bytesAt d 32 4) = some im →
        hostRead S (bytesAt d 16 8) (bytesAt d 24 8) = some b → almReason S c k im b = none →
        exec (.ldalm f d) s = .next (done (putCroft S c { k with alm := some (almOf T.fn (bytesAt d 32 4) b) }) T 0))) ∧
    (∀ (b : List Byte) (t : State), AdminAccepted s f d 0x8B 12 2 → bytesAt d 24 4 ≠ 0 → bytesAt d 24 4 ≤ 256 →
      hostRead S (bytesAt d 16 8) (64 * bytesAt d 24 4) = some b →
      bindAll c s.nextHandle ((List.range (bytesAt d 24 4)).map (fun n => sub b (64 * n) 64))
        (putCroft { S with nextHandle := s.nextHandle + 1 } c { k with bsets := mapSet k.bsets s.nextHandle ⟨T.fn, s.nextHandle, []⟩ }) = .inr t →
      exec (.mkbnd f d) s = .next (doneResult t T s.nextHandle)) ∧
    (AdminAccepted s f d 0x8C 4 2 → (mapGet? k.bsets (bytesAt d 16 4)).isSome = true → bsetInUse k (bytesAt d 16 4) = false →
      s.exports.any (fun p => p.2.croft = c && p.2.bset = bytesAt d 16 4) = false →
      exec (.rmbnd f d) s = .next (done (removeBSet S c (bytesAt d 16 4)) T 0)) ∧
    (∀ b : BSet, AdminAccepted s f d 0x8D 42 2 → mapGet? k.bsets (bytesAt d 16 4) = some b →
      (b.binds[bytesAt d 20 4]?).any (fun x => x.kind = 0) = true → byteOf d 25 ≤ 1 → (byteOf d 25 = 1 → (exportPeers d).length = 1) →
      mapGet? s.exports (byteOf d 24) = none →
      let x : PeerExport := ⟨T.fn, c, bytesAt d 16 4, bytesAt d 20 4, byteOf d 25 = 1, exportPeers d, []⟩
      exec (.exportSet f d) s = .next (done { S with exports := mapSet s.exports (byteOf d 24) x } T 0)) ∧
    (∀ x : PeerExport, AdminAccepted s f d 0x8E 1 2 → mapGet? s.exports (byteOf d 16) = some x → x.croft = c → x.bound = [] →
      exec (.unexportSet f d) s = .next (done { S with exports := mapDel s.exports (byteOf d 16) } T 0))

/-! ### Doorbells, registers, resets -/

/-- Doorbells move a ring's tail or head where the value lies in the ring, and put the ring into ring-error where it does not. -/
def Obligations.DoorbellsMoveRings : Prop :=
  ∀ (f : Fin 33) (n : Nat) (c : Fin 32) (v : W32) (s : State), pcieUp s = true → (pf1Of s f.val).en = true →
    let p := pf1Of s f.val
    let x := fld v 15 0
    (∀ w : WRing, mapGet? p.wr n = some w →
      (x < w.size → exec (.workRingTailDoorbell f n v) s = .next (putPf1 s f.val { p with wr := mapSet p.wr n { w with tail := x } })) ∧
      (w.size ≤ x → exec (.workRingTailDoorbell f n v) s =
        .next (ringError (putPf1 s f.val { p with wr := mapSet p.wr n { w with error := true } }) f.val w.croft n 0))) ∧
    (∀ r : CRing, mapGet? p.cr n = some r →
      (x < r.size → exec (.completionRingHeadDoorbell f n v) s = .next (putPf1 s f.val { p with cr := mapSet p.cr n { r with head := x } })) ∧
      (r.size ≤ x → exec (.completionRingHeadDoorbell f n v) s =
        .next (ringError (putPf1 s f.val { p with cr := mapSet p.cr n { r with error := true } }) f.val (compCroft p n) n 1))) ∧
    (∀ (k : Croft) (e : ERing), croft? s c.val = some k → k.ering = some e → e.fn = f.val →
      (x < e.size → exec (.eventRingHeadDoorbell f c v) s =
        .next (overflowEvent (putCroft s c.val { k with ering := some { e with head := x } }) c.val)) ∧
      (e.size ≤ x → exec (.eventRingHeadDoorbell f c v) s =
        .next (ringError (putCroft s c.val { k with ering := some { e with error := true } }) f.val c.val c.val 2)))

/-- CTRL.EN set gives a function its admin rings, cleared it drops what the function owns; PF1's reset gives its registers their reset values and a new binding its effect; PF0's reset resets its controller, a hot reset its port. -/
def Obligations.FunctionsStartAndReset : Prop :=
  ∀ (f : Fin 33) (s : State), pcieUp s = true →
    (∀ r : WRing × CRing, (pf1Of s f.val).en = false → (pf1Of s f.val).fatal = false → adminRings (pf1Of s f.val) = some r →
      exec (.ctrlEnSet f) s = .next (putPf1 s f.val { pf1Of s f.val with
        en := true, wr := [(adminRing, r.1)], cr := [(adminRing, r.2)] })) ∧
    ((pf1Of s f.val).en = true → exec (.ctrlEnClear f) s = .next (dropFunction s f.val)) ∧
    (∃ t, exec (.pf1Flr f) s = .next t ∧
      pf1Of t f.val = { pf1Reset with scope := boundCroft s f.val, nextOrd := (pf1Of (dropFunction s f.val) f.val).nextOrd }) ∧
    (exec (.pf0Flr f) s = .next (flrNvme s f.val)) ∧
    (∀ port : Fin 2, exec (.hotReset port) s = .next (resetPort s port.val))

/-- Register writes: the admin queue registers of PF1 and of an NVMe controller, the sticky error bit, an MSI-X mask and its unmasking, and a register of the code flash. -/
def Obligations.RegisterWritesTakeEffect : Prop :=
  ∀ (f : Fin 33) (v : W64) (s : State),
    let p := pf1Of s f.val
    (pcieUp s = true →
      exec (.registerWrite (.bar f) 0x0C 4 v) s = .next (putPf1 s f.val { p with rerr := p.rerr && v.toNat % 2 ^ 32 / 16 % 2 = 0 }) ∧
      exec (.registerWrite (.bar f) 0x10 4 v) s = .next (putPf1 s f.val { p with aqa := BitVec.ofNat 32 (v.toNat % 2 ^ 32) &&& 0x0FFF0FFF }) ∧
      (∃ t, exec (.registerWrite (.bar f) 0x18 8 v) s = .next t ∧ (pf1Of t f.val).awq = v) ∧
      (∃ t, exec (.registerWrite (.bar f) 0x20 8 v) s = .next t ∧ (pf1Of t f.val).acq = v) ∧
      exec (.registerWrite (.nvme f) 0x24 4 v) s =
        .next (putNvme s f.val { nvmeOf s f.val with aqa := BitVec.ofNat 32 v.toNat &&& 0x0FFF0FFF }) ∧
      exec (.registerWrite (.nvme f) 0x28 8 v) s = .next (putNvme s f.val { nvmeOf s f.val with asq := v }) ∧
      exec (.registerWrite (.nvme f) 0x30 8 v) s = .next (putNvme s f.val { nvmeOf s f.val with acq := v }) ∧
      (∀ n : Nat, n < vectorCount f.val → v.toNat % 2 = 1 → exec (.registerWrite (.msix f) (16 * n + 12) 4 v) s =
        .next (putPf1 s f.val { p with masked := setIns p.masked n })) ∧
      (∀ n : Nat, p.masked.contains n = true → exec (.msixUnmask f n) s = .next (unmaskVector s f.val n))) ∧
    (alive s = true → ∀ o : Nat, o < 0x100 → o % 4 = 0 →
      exec (.registerWrite .reeve o 4 v) s = .next (flashRegister s o (v.toNat % 2 ^ 32)))

/-- An interrupt held back by a completion ring's thresholds is sent once the oldest unsignalled entry is older than the ring's time threshold. -/
def Obligations.TimeThresholdSignalsTheRing : Prop :=
  ∀ (f : Fin 33) (n : Nat) (x : CRing) (s : State), pcieUp s = true → mapGet? (pf1Of s f.val).cr n = some x → x.timeTh ≠ 0 → x.unsignalled ≠ 0 →
    ∃ t, exec (.interruptTimeThreshold f (.completion n)) s = .next t ∧
      mapGet? (pf1Of t f.val).cr n = some { x with unsignalled := 0 } ∧
      ((pf1Of s f.val).masked.contains x.vector = false →
        mapGet (pf1Of t f.val).interrupts x.vector 0 = mapGet (pf1Of s f.val).interrupts x.vector 0 + 1) ∧
      ((pf1Of s f.val).masked.contains x.vector = true → x.vector ∈ (pf1Of t f.val).pba) ∧
      t = { s with pf1 := t.pf1 }

/-! ### NVMe commands -/

namespace Sys2Proof.Claims

/-- An NVMe command that its controller takes and that passes the checks before its own meaning (R320, R322, R327). -/
abbrev NvmeAccepted (s : State) (k : Fin 33) (q : Nat) (e : Desc) (op : Nat) : Prop :=
  nvmeTakes s k.val q = true ∧ sqOpcode e = op ∧ nvmeGate s k.val (q = 0) e = 0

/-- The state with an NVMe command taken from its queue. -/
def taken (s : State) (k : Fin 33) (q : Nat) (e : Desc) : State := (nvmeTicket s k.val q e).2

/-- The ticket of that command. -/
def nticketOf (s : State) (k : Fin 33) (q : Nat) (e : Desc) : NTicket := (nvmeTicket s k.val q e).1

/-- Data delivered to host ranges that can all be written: the transfer's pieces. -/
abbrev Delivers (s : State) (e : Desc) (n : Nat) (l : List (Nat × Nat)) : Prop :=
  prpPieces s e n = .ok l ∧ l.all (fun p => hostWritable s p.1 p.2) = true

end Sys2Proof.Claims

/-- CC.EN starts and resets a controller: its admin queues stand as AQA, ASQ and ACQ say, ready from stage 2 on; cleared, the controller is reset and keeps these registers. -/
def Obligations.NvmeControllersStartAndReset : Prop :=
  ∀ (k : Fin 33) (s : State), pcieUp s = true →
    ((nvmeOf s k.val).en = false → ∃ t, exec (.ccEnSet k) s = .next t ∧ t = { s with nvme := t.nvme } ∧
      (nvmeOf t k.val).en = true ∧ ((nvmeOf t k.val).rdy = true ↔ 2 ≤ s.power.stage) ∧
      (nvmeOf t k.val).sq = [(0, ⟨fld (nvmeOf s k.val).aqa 11 0 + 1, (nvmeOf s k.val).asq.toNat, 0, 0⟩)] ∧
      (nvmeOf t k.val).cq = [(0, ⟨fld (nvmeOf s k.val).aqa 27 16 + 1, (nvmeOf s k.val).acq.toNat, 0, 0, true⟩)]) ∧
    ((nvmeOf s k.val).en = true → ∃ t, exec (.ccEnClear k) s = .next t ∧ (nvmeOf t k.val).en = false ∧ (nvmeOf t k.val).rdy = false ∧
      (nvmeOf t k.val).sq = [] ∧ (nvmeOf t k.val).cq = [] ∧ (nvmeOf t k.val).aqa = (nvmeOf s k.val).aqa ∧
      (nvmeOf t k.val).asq = (nvmeOf s k.val).asq ∧ (nvmeOf t k.val).acq = (nvmeOf s k.val).acq)

/-- The queues of a controller are created with the fields of the command and deleted when nothing posts to them. -/
def Obligations.NvmeQueueCommands : Prop :=
  ∀ (k : Fin 33) (e : Desc) (s : State),
    let S := taken s k 0 e
    let T := nticketOf s k 0 e
    let x := nvmeOf S k.val
    (NvmeAccepted s k 0 e 0x05 → queueBad (mapGet? x.cq (qId e)).isSome k.val e = 0 → cdw e 11 / 65536 < nvmeVectors k.val →
      exec (.createIoCompletionQueue k e) s = .next (nvmeDone (putNvme S k.val { x with
        cq := mapSet x.cq (qId e) ⟨cdw e 10 / 65536 + 1, sqPrp1 e, 0, cdw e 11 / 65536, cdw e 11 / 2 % 2 = 1⟩ }) T 0)) ∧
    (NvmeAccepted s k 0 e 0x01 → queueBad (mapGet? x.sq (qId e)).isSome k.val e = 0 → cdw e 11 / 65536 ≠ 0 →
      (mapGet? x.cq (cdw e 11 / 65536)).isSome = true →
      exec (.createIoSubmissionQueue k e) s = .next (nvmeDone (putNvme S k.val { x with
        sq := mapSet x.sq (qId e) ⟨cdw e 10 / 65536 + 1, sqPrp1 e, cdw e 11 / 65536, 0⟩ }) T 0)) ∧
    (NvmeAccepted s k 0 e 0x00 → qId e ≠ 0 → (mapGet? x.sq (qId e)).isSome = true →
      exec (.deleteIoSubmissionQueue k e) s =
        .next (nvmeDone (dropQueueWork (putNvme S k.val { x with sq := mapDel x.sq (qId e) }) k.val (qId e)) T 0)) ∧
    (NvmeAccepted s k 0 e 0x04 → qId e ≠ 0 → (mapGet? x.cq (qId e)).isSome = true → x.sq.any (fun p => p.2.cq = qId e) = false →
      exec (.deleteIoCompletionQueue k e) s = .next (nvmeDone (putNvme S k.val { x with cq := mapDel x.cq (qId e) }) T 0))

/-- Log pages, Identify data, features, aborts and event requests of a controller. -/
def Obligations.NvmeInformationCommands : Prop :=
  ∀ (k : Fin 33) (e : Desc) (s : State),
    let S := taken s k 0 e
    let T := nticketOf s k 0 e
    let x := nvmeOf S k.val
    (∀ (b : List Byte) (l : List (Nat × Nat)), NvmeAccepted s k 0 e 0x02 → logPage S k.val (cdw e 10 % 256) = some b →
      let n := 4 * (cdw e 10 / 65536 % 4096 + 1)
      let s1 := if cdw e 10 / 2 ^ 15 % 2 = 0 then logRead S k.val (cdw e 10 % 256) else S
      Delivers s1 e (sub b 0 n).length l → exec (.getLogPage k e) s = .next (nvmeDone (writePieces s1 l (sub b 0 n)) T 0)) ∧
    (∀ (b : List Byte) (l : List (Nat × Nat)), NvmeAccepted s k 0 e 0x06 → identifyData S k.val e = .ok b → Delivers S e b.length l →
      exec (.identify k e) s = .next (nvmeDone (writePieces S l b) T 0)) ∧
    (NvmeAccepted s k 0 e 0x08 → x.aers.contains (cdw e 10 / 65536) = true → qId e = 0 →
      exec (.abortCmd k e) s = .next (nvmeDone (nvmeFail (putNvme S k.val { x with aers := x.aers.erase (cdw e 10 / 65536) })
        ⟨k.val, 0, cdw e 10 / 65536, T.head⟩ ncAborted) T 0)) ∧
    (NvmeAccepted s k 0 e 0x09 → featureBad (cdw e 10 % 256) (cdw e 11) = 0 → cdw e 10 / 2 ^ 31 = 0 → cdw e 10 % 256 ≠ 7 →
      exec (.setFeatures k e) s = .next (nvmeDone (putNvme S k.val { x with feats := mapSet x.feats (cdw e 10 % 256) (cdw e 11) }) T 0)) ∧
    (NvmeAccepted s k 0 e 0x0A → features.contains (cdw e 10 % 256) = true → cdw e 10 / 256 % 8 = 0 →
      exec (.getFeatures k e) s = .next (nvmeDone S T (featureValue S k.val (cdw e 10 % 256)))) ∧
    (NvmeAccepted s k 0 e 0x0C →
      (∀ (dw0 : Nat) (l : List Nat), x.aens = dw0 :: l →
        exec (.asynchronousEventRequest k e) s = .next (nvmeDone (putNvme S k.val { x with aens := l }) T dw0)) ∧
      (x.aens = [] → x.aers.length < 8 →
        exec (.asynchronousEventRequest k e) s = .next (putNvme S k.val { x with aers := x.aers ++ [T.cid] })))

/-- Namespaces are made, deleted, attached and detached; firmware pieces are staged and committed. -/
def Obligations.NvmeManagementCommands : Prop :=
  ∀ (k : Fin 33) (e : Desc) (s : State),
    let S := taken s k 0 e
    let T := nticketOf s k 0 e
    (∀ (b : List Byte) (n : Nat), NvmeAccepted s k 0 e 0x0D → cdw e 10 % 16 = 0 → cdw e 11 / 2 ^ 24 = 0 → dataIn S e 4096 = .ok b →
      leAt b 0 8 ≠ 0 → leAt b 29 1 = 0 → leAt b 30 1 % 2 = 0 → leAt b 8 8 = leAt b 0 8 → leAt b 26 1 = 0 →
      poolUsed S + 4096 * leAt b 0 8 ≤ userPool → freeNsid S = some n →
      exec (.namespaceManagement k e) s = .next (nvmeDone (odSave { S with
        namespaces := mapSet S.namespaces n ⟨leAt b 0 8, none, S.sec.nextKey, 0xFF, [], [], []⟩
        sec := { S.sec with keys := setIns S.sec.keys S.sec.nextKey, nextKey := S.sec.nextKey + 1 } }) T n)) ∧
    (NvmeAccepted s k 0 e 0x0D → cdw e 10 % 16 = 1 → 1 ≤ sqNsid e → sqNsid e ≤ 256 → (nsOf S (sqNsid e)).isSome = true →
      exec (.namespaceManagement k e) s = .next (nvmeDone (nsGone S (sqNsid e)) T 0)) ∧
    (∀ (n : Namespace) (b : List Byte), NvmeAccepted s k 0 e 0x15 → 1 ≤ sqNsid e → sqNsid e ≤ 256 → nsOf S (sqNsid e) = some n →
      dataIn S e 4096 = .ok b →
      (∀ m : Nat, cdw e 10 % 16 = 0 → n.ctrl = none → ctrlsNamed b = .ok [m] →
        exec (.namespaceAttachment k e) s = .next (nvmeDone (nsAttach S (sqNsid e) n m) T 0)) ∧
      (∀ l : List Nat, cdw e 10 % 16 = 1 → ctrlsNamed b = .ok l → l.all (fun m => n.ctrl = some m) = true →
        exec (.namespaceAttachment k e) s = .next (nvmeDone
          { S with namespaces := mapSet S.namespaces (sqNsid e) { n with ctrl := none, owner := 0xFF } } T 0))) ∧
    (∀ b : List Byte, NvmeAccepted s k 0 e 0x11 →
      let n := 4 * (cdw e 10 + 1)
      let o := 4 * cdw e 11
      n % 4096 = 0 → o % 4096 = 0 → o + n ≤ 8388608 → n ≤ 262144 → dataIn S e n = .ok b →
      exec (.firmwareImageDownload k e) s = .next (nvmeDone (putNvme S k.val { nvmeOf S k.val with
        staging := memPutL 0 (memClear (nvmeOf S k.val).staging o n) o b }) T 0)) ∧
    (NvmeAccepted s k 0 e 0x10 →
      exec (.firmwareCommit k e) s = .next (commitOn S k.val (cdw e 10 % 8) (cdw e 10 / 8 % 8) (some T))) ∧
    (∀ slot : Nat, NvmeAccepted s k 0 e 0x10 → S.sec.commit = none → slot = 1 ∨ slot = 2 → cdw e 10 % 8 = slot → cdw e 10 / 8 % 8 = 2 →
      slotSound S slot = true → ((slotOf S slot).activation ≠ none ∨ (slotOf S slot).fw ≠ []) →
      exec (.firmwareCommit k e) s = .next (nvmeDone (activateSlot S slot) T 0))

/-- Format and sanitize: a namespace is deallocated whole, at once or with its erase or a new key; every namespace is sanitised by block erase or by destroying its key. -/
def Obligations.FormatAndSanitize : Prop :=
  ∀ (k : Fin 33) (e : Desc) (s : State),
    let S := taken s k 0 e
    let T := nticketOf s k 0 e
    (∀ n : Namespace, NvmeAccepted s k 0 e 0x80 → 1 ≤ sqNsid e → sqNsid e ≤ 256 → nsOf S (sqNsid e) = some n → cdw e 10 % 16 = 0 →
      cdw e 10 / 16 % 32 = 0 → S.mediaReadOnly = false →
      (cdw e 10 / 512 % 8 = 0 → exec (.formatNvm k e) s = .next (nvmeDone (wipeNs S (sqNsid e) n) T 0)) ∧
      (cdw e 10 / 512 % 8 = 1 → exec (.formatNvm k e) s = .next (deallocSectors S k.val (sqNsid e) (allMapped S (sqNsid e) n) false true T)) ∧
      (cdw e 10 / 512 % 8 = 2 → exec (.formatNvm k e) s =
        .next (nvmeDone (wipeNs (odSave (odSave (newNsKey S (sqNsid e)))) (sqNsid e) n) T 0))) ∧
    (NvmeAccepted s k 0 e 0x84 → S.sanitize.running = false → cdw e 10 / 512 % 2 = 0 →
      (cdw e 10 % 8 = 1 → exec (.sanitize k e) s = .next (nvmeDone { S with sanitize := { S.sanitize with failed := false } } T 0)) ∧
      (cdw e 10 % 8 = 2 → S.mediaReadOnly = false → exec (.sanitize k e) s = .next (nvmeDone (sanitizeStart S 2) T 0)) ∧
      (cdw e 10 % 8 = 4 → exec (.sanitize k e) s = .next (nvmeDone (sanitizeStart S 4) T 0)))

/-- Reads and checks of sectors: Read delivers the sectors' bytes, Compare and Verify complete where the sectors hold what is asked, Compare fails where they do not, Flush completes at once. That Compare and Verify count in the SMART data is PRESUMED (log entry 111). -/
def Obligations.NvmeReadsOfSectors : Prop :=
  ∀ (k : Fin 33) (q : Nat) (e : Desc) (s : State), q ≠ 0 →
    let S := taken s k q e
    let T := nticketOf s k q e
    let l := ioSectors e
    let b := l.flatMap (sectorBytes S (sqNsid e))
    (NvmeAccepted s k q e 0x00 → sqNsid e = 0xFFFFFFFF ∨ (∃ n, nsNamed S k.val (sqNsid e) = .ok n) →
      exec (.flush k q e) s = .next (nvmeDone S T 0)) ∧
    (∀ n : Namespace, l.find? (sectorBad S (sqNsid e)) = none →
      (∀ ps : List (Nat × Nat), NvmeAccepted s k q e 0x02 → ioRange S k.val e maxBlocks = .ok n →
        let s1 := countRead512 (nvmeCount S k.val 0x0C (4096 * l.length)) k.val l.length
        Delivers s1 e b.length ps → exec (.nvmeRead k q e) s = .next (nvmeDone (writePieces s1 ps b) T 0)) ∧
      (NvmeAccepted s k q e 0x05 → ioRange S k.val e maxBlocks = .ok n → dataIn S e (4096 * l.length) = .ok b →
        exec (.compare k q e) s = .next (nvmeDone (countRead512 (nvmeCount S k.val 0x0C (4096 * l.length)) k.val l.length) T 0)) ∧
      (∀ b' : List Byte, NvmeAccepted s k q e 0x05 → ioRange S k.val e maxBlocks = .ok n → dataIn S e (4096 * l.length) = .ok b' → b' ≠ b →
        exec (.compare k q e) s = .next (nvmeFail (countRead512 (nvmeCount S k.val 0x0C (4096 * l.length)) k.val l.length) T ncCompareFailure)) ∧
      (NvmeAccepted s k q e 0x0C → ioRange S k.val e 65536 = .ok n → exec (.verify k q e) s = .next (nvmeDone
        (putNvme S k.val { nvmeOf S k.val with unitsRead := (nvmeOf S k.val).unitsRead + 8 * ioBlocks e }) T 0)))

/-- Changes of sectors: Write, Write Zeroes and Dataset Management give their sectors' programs to the media and complete when these are durable; Secure Deallocation starts with its ranges' mapped sectors. -/
def Obligations.NvmeChangesOfSectors : Prop :=
  ∀ (k : Fin 33) (q : Nat) (e : Desc) (s : State) (n : Namespace), q ≠ 0 →
    let S := taken s k q e
    let T := nticketOf s k q e
    S.mediaReadOnly = false →
    (∀ b : List Byte, NvmeAccepted s k q e 0x01 → ioRange S k.val e maxBlocks = .ok n → dataIn S e (4096 * ioBlocks e) = .ok b →
      exec (.nvmeWrite k q e) s = .next (changeSectors (countHostBytes (countWrite512 (nvmeCount S k.val 0x0D (4096 * ioBlocks e)) k.val
        (ioBlocks e)) (4096 * ioBlocks e)) T (sqNsid e) false ((ioSectors e).zipIdx.map (fun p => (p.1, sub b (4096 * p.2) 4096))))) ∧
    (NvmeAccepted s k q e 0x08 → ioRange S k.val e 65536 = .ok n →
      (cdw e 12 / 2 ^ 25 % 2 = 1 → exec (.writeZeroes k q e) s = .next (deallocateSectors S T (sqNsid e) (ioSectors e))) ∧
      (cdw e 12 / 2 ^ 25 % 2 = 0 → exec (.writeZeroes k q e) s = .next (changeSectors (countHostBytes S (4096 * ioBlocks e)) T (sqNsid e) false
        ((ioSectors e).map (fun x => (x, List.replicate 4096 0)))))) ∧
    (∀ b : List Byte, nsNamed S k.val (sqNsid e) = .ok n →
      let r := dsmRanges b (cdw e 10 % 256 + 1)
      dataIn S e (16 * (cdw e 10 % 256 + 1)) = .ok b → rangesOk n r = true →
      (NvmeAccepted s k q e 0x09 → cdw e 11 / 4 % 2 = 1 →
        exec (.datasetManagement k q e) s = .next (deallocateSectors S T (sqNsid e) (mappedIn S (sqNsid e) n r))) ∧
      (NvmeAccepted s k q e 0x81 → cdw e 10 < 512 → (List.range 5).any (fun x => cdw e (11 + x) ≠ 0) = false →
        exec (.secureDeallocation k q e) s =
          .next (deallocSectors S k.val (sqNsid e) (mappedIn S (sqNsid e) n r) (cdw e 10 / 256 % 2 = 1) false T)))

/-! ### The object dictionary -/

namespace Sys2Proof.Claims

/-- A dictionary request that is heard: its transport is up, its message is a sound PDU of the service, the module is not in recovery, and its fields fit the service (R390, R391, R399, R448). -/
abbrev OdHeard (s : State) (r : OdReq) (svc : Nat) : Prop :=
  transportUp s r.transport.val = true ∧ pduShape r.pdu = true ∧ pduSound r.pdu = true ∧ rqSvc r.pdu = svc ∧
  (odDrainAll s).sec.recovery = false ∧ pduFields r.pdu = true ∧ serviceLength r.pdu = true

/-- The session a heard request belongs to: the one it names, opened by the same source on the same transport (R393). -/
abbrev OdSession (s : State) (r : OdReq) (svc : Nat) (n : Session) : Prop :=
  OdHeard s r svc ∧ mapGet? (odDrainAll s).sessions (rqSession r.pdu) = some n ∧ n.transport = r.transport.val ∧ n.source = r.source.toNat

/-- The state once a request of a session has been accepted by its alive counter. -/
def odAccepted (s : State) (r : OdReq) (n : Session) : State := odAccept (odDrainAll s) (rqSession r.pdu) n r.pdu

/-- A request that is executed: the next in its session's sequence, with no deferred write to its entry ahead of it (R394, R395). -/
abbrev OdTaken (s : State) (r : OdReq) (svc : Nat) (n : Session) : Prop :=
  OdSession s r svc n ∧ rqAlive r.pdu = (n.counter + 1) % 65536 ∧ writeWaits (odAccepted s r n) r.pdu = false

/-- The entry a request names. -/
def odEntry (r : OdReq) : Option OdEntry := odFind (rqIndex r.pdu) (rqSub r.pdu)

end Sys2Proof.Claims

/-- OPEN makes a session under a free number and answers with it; CLOSE answers and ends the session. -/
def Obligations.SessionsOpenAndClose : Prop :=
  ∀ (r : OdReq) (s : State),
    let b := r.pdu
    let S := bump (odDrainAll s) 0xA500 1 1
    (∀ sid : Nat, OdHeard s r 1 → periodOk (leNat (rqData b)) = true → sessionNumber S = some sid →
      exec (.odOpen r) s = .next (odAnswer (cvAlive { sessionGone S sid with
        sessions := mapSet (sessionGone S sid).sessions sid (sessionNew S r.transport.val r.source.toNat b) } 0
          (rqAlive b + (sid - 1) * 65536 + 2 ^ 20)) sid (rqHeader b) 0 0 0 (leBytes 2 sid))) ∧
    (∀ n : Session, OdTaken s r 10 n → exec (.odClose r) s =
      .next (sessionGone (odAnswer (odAccepted s r n) (rqSession b) (rqHeader b) 0 0 0 []) (rqSession b)))

/-- READ answers a scalar entry's value, or the first 1,024 bytes of a string or domain; READ-SEGMENT answers a range of a string or domain and keeps the value for the segments that follow. -/
def Obligations.DictionaryReads : Prop :=
  ∀ (r : OdReq) (s : State) (n : Session) (e : OdEntry) (v : List Byte) (t : State),
    let b := r.pdu
    let sid := rqSession b
    readBar (rqIndex b) (rqSub b) = 0 → odEntry r = some e → odFetch (odAccepted s r n) sid e (rqIndex b) (rqSub b) = (0, v, t) →
    (OdTaken s r 2 n → odIsBytes e.ty = false → exec (.odRead r) s = .next (odAnswer t sid (rqHeader b) 0 0 e.ty v)) ∧
    (OdTaken s r 2 n → odIsBytes e.ty = true → 0 < v.length → exec (.odRead r) s = .next (odAnswer
        { t with sessions := mapMod t.sessions sid (fun x => { x with frozen := some (rqKey b, 0, v) }) } sid (rqHeader b) 0
        (if v.length ≤ 1024 then 1 else 0) e.ty (v.take 1024))) ∧
    (OdTaken s r 5 n → odIsBytes e.ty = true → frozenValue (odAccepted s r n) sid (rqKey b) (rqOffset b) = none → rqOffset b < v.length →
      exec (.readSegment r) s = .next (odAnswer
        { t with sessions := mapMod t.sessions sid (fun x => { x with frozen := some (rqKey b, rqOffset b, v) }) } sid (rqHeader b) 0
        (if v.length ≤ rqOffset b + rqLength b then 1 else 0) e.ty ((v.drop (rqOffset b)).take (rqLength b))))

/-- WRITE and COMPARE-WRITE give a writable entry a value in range, the latter only where the value found is the one expected; WRITE-SEGMENT places a segment in the staging buffer. -/
def Obligations.DictionaryWrites : Prop :=
  ∀ (r : OdReq) (s : State) (n : Session) (e : OdEntry),
    let b := r.pdu
    let sid := rqSession b
    let A := odAccepted s r n
    writeBar A sid n.transport (rqIndex b) (rqSub b) = 0 → odEntry r = some e →
    (OdTaken s r 3 n → valueBar A e (rqIndex b) (rqSub b) (rqType b) (rqData b) = 0 →
      exec (.odWrite r) s = .next (scalarWrite A sid (rqHeader b) e (rqIndex b) (rqSub b) (leNat (rqData b)) [])) ∧
    (let w := odTyLen e.ty
     let found := leBytes w (odScalar A sid (rqIndex b) (rqSub b))
     OdTaken s r 4 n → e.acc ≠ 1 → odIsBytes e.ty = false → rqType b = e.ty → (rqData b).length = 2 * w → (rqData b).take w = found →
      valueBar A e (rqIndex b) (rqSub b) (rqType b) ((rqData b).drop w) = 0 →
      exec (.compareWrite r) s = .next (scalarWrite A sid (rqHeader b) e (rqIndex b) (rqSub b) (leNat ((rqData b).drop w)) found)) ∧
    (OdTaken s r 6 n → segmentBar A sid b e = 0 → rqFlags b % 2 = 0 →
      exec (.writeSegment r) s = .next (odAnswer { A with staging := some { stagingOf A sid (rqKey b) with
        bytes := memPutL 0 (stagingOf A sid (rqKey b)).bytes (rqOffset b) (rqData b)
        spans := (stagingOf A sid (rqKey b)).spans ++ [(rqOffset b, rqOffset b + (rqData b).length)] } } sid (rqHeader b) 0 0 e.ty []))

/-- Notifications: SUBSCRIBE replaces a session's masks and starts its sequence from 0, NOTIFY-ACK takes a notification off the list, and one that is not acknowledged is sent again. -/
def Obligations.Notifications : Prop :=
  ∀ s : State,
    (∀ (r : OdReq) (n : Session),
      (OdTaken s r 7 n → exec (.subscribe r) s = .next (odAnswer { odAccepted s r n with
        sessions := mapMod (odAccepted s r n).sessions (rqSession r.pdu) (fun x => { x with
          groups := leAt (rqData r.pdu) 0 4, crofts := leAt (rqData r.pdu) 4 4, nseq := 0, unacked := [], ndropped := 0 }) }
        (rqSession r.pdu) (rqHeader r.pdu) 0 0 0 [])) ∧
      (OdSession s r 9 n → exec (.notifyAck r) s = .next (notifyDrop (odDrainAll s) (rqSession r.pdu) (rqAlive r.pdu)))) ∧
    (∀ (se : Fin 16) (seq : W16) (n : Session) (x : Notify), alive s = true → s.reeveUp = true → mapGet? s.sessions (se.val + 1) = some n →
      n.unacked.find? (fun y => y.seq = seq.toNat) = some x → x.resends < 5 →
      exec (.notifyResend se seq) s = .next (transmit { s with sessions := mapSet s.sessions (se.val + 1) { n with
        unacked := n.unacked.map (fun y => if y.seq = x.seq then { y with resends := y.resends + 1 } else y) } } n.transport
        (pdu 8 0 0 (se.val + 1) x.seq 0 0 0 0 x.entry)))

/-- What the clock and the dictionary's own commands do: a silent supervised session closes, a forgotten staging buffer is released, the dictionary is saved, and its defaults are restored. -/
def Obligations.DictionaryEvents : Prop :=
  ∀ s : State,
    (∀ (se : Fin 16) (n : Session), alive s = true → s.reeveUp = true → mapGet? s.sessions (se.val + 1) = some n → n.period ≠ 0 →
      exec (.sessionSupervisionExpiry se) s =
        .next (moduleEvent (sessionGone s (se.val + 1)) 0x0500 (leBytes 2 (se.val + 1) ++ leBytes 1 n.transport))) ∧
    (alive s = true → s.reeveUp = true → exec .stagingBufferTimeout s = .next { s with staging := none }) ∧
    (odUp s = true → exec .dictionarySave s = .next (odDrainAll (odSave s))) ∧
    (odUp s = true → s.dictConflict = false → exec .saveNow s = .next (odDrainAll (odSave (dictResult s 0)))) ∧
    (odUp s = true → s.dictConflict = false → s.crofts = [] →
      exec .restoreDefaults s = .next (odDrainAll (odSave (dictResult (defaultsRestored s) 0))))

/-- The alive counter of a session (R394): a repeat of the last request is answered with the stored response and executed no second time, any other counter is refused with 0x09 and changes no entry. -/
def Obligations.AliveCounterGuardsASession : Prop :=
  ∀ (r : OdReq) (s : State) (n : Session), s.odWaiting = [] → OdSession s r 3 n → rqAlive r.pdu ≠ (n.counter + 1) % 65536 →
    ∃ t, exec (.odWrite r) s = .next t ∧ t.sessions = s.sessions ∧
      (∀ ix sub : Nat, sub < 256 → ix ≠ 0xA500 → ix ≠ 0xA460 → odGet t ix sub = odGet s ix sub) ∧
      (rqAlive r.pdu = n.counter → rqCheck r.pdu = n.check → n.inProgress = false → t.sent = s.sent ++ [(n.transport, n.response)] ∧
        odGet t 0xA500 4 = odGet s 0xA500 4 + 1) ∧
      (rqAlive r.pdu ≠ n.counter → t.sent = s.sent ++ [(n.transport,
        replyBytes (rqHeader r.pdu) 9 0 (rqSession r.pdu) (rqType r.pdu) [])] ∧ odGet t 0xA500 3 = odGet s 0xA500 3 + 1)

/-- A save goes to the older copy of the saved dictionary and leaves the newer one as it was, so that a save that fails leaves a sound dictionary. -/
def Obligations.SaveKeepsTheNewerCopy : Prop :=
  ∀ s : State, odUp s = true → s.dictConflict = false → s.dictA.valid = true → s.dictB.valid = true → s.odWaiting = [] →
    ∃ t, exec .dictionarySave s = .next t ∧ t.savePending = false ∧ odGet t 0xA500 6 = odGet s 0xA500 6 + 1 ∧
      (s.dictA.seq < s.dictB.seq → t.dictB = s.dictB ∧ t.dictA.seq = s.dictB.seq + 1 ∧ t.dictA.valid = true ∧ t.dictA.vals = savedVals s) ∧
      (s.dictB.seq ≤ s.dictA.seq → t.dictA = s.dictA ∧ t.dictB.seq = s.dictA.seq + 1 ∧ t.dictB.valid = true ∧ t.dictB.vals = savedVals s)

/-- Authorisation and attestation of a session, and the settings of a port. -/
def Obligations.AuthorisationAndAttestation : Prop :=
  ∀ (se : Fin 16) (s : State) (n : Session), odUp s = true → mapGet? s.sessions (se.val + 1) = some n →
    let sid := se.val + 1
    (exec (.authorisationNonceRead se) s = .next (readWhole sid (odKey 0x8300 1) (nonceFor s sid))) ∧
    (∀ b : List Byte, recordOk s n b = true → exec (.authorisationRecord se b) s =
      .next { s with sessions := mapSet s.sessions sid { n with scope := leAt b 552 4, authNonce := [] } }) ∧
    (∃ t, exec (.authorisationExpiry se) s = .next t ∧ mapGet? t.sessions sid = some { n with scope := 0 } ∧ t = { s with sessions := t.sessions }) ∧
    (∀ b : List Byte, b.length = 32 → ∃ t, exec (.attestationNonce se b) s = .next t ∧ mapGet? t.sessions sid = some { n with attNonce := b } ∧
      t = { s with sessions := t.sessions }) ∧
    (n.attNonce ≠ [] → exec (.attestationReport se) s = .next (readWhole sid (odKey 0x8400 2) (0, attReport s n.attNonce))) ∧
    (∀ (p : Fin 8) (item : Fin 3) (v : Byte), s.dictConflict = false → portItemOk item.val v.toNat = true →
      exec (.kamlinPortConfig p item v) s = .next { entrySet s (0x9020 + p.val) (item.val + 1) v.toNat with savePending := true })

/-! ### Crofts -/

/-- CROFT_CREATE, CROFT_APPLY, CROFT_REMOVE and CROFT_REMOVE_AND_PURGE: what each does where its checks let it, and the status it leaves where the first check refuses. -/
def Obligations.CroftCommands : Prop :=
  ∀ (c : Fin 32) (s : State), powered s = true → s.reeveUp = true →
    let n := c.val
    let mask := stagedMask s n
    let map := stagedMap s n
    let park := parkArea mask map
    (croft? s n = none → enginesFree s n mask = true → mapValid mask map = true → otherShares s n + stagedShare s n ≤ 100 →
      (park ≤ quota s n 2 ∨ otherT1 s n + park ≤ t1Available) →
      ∃ t, exec (.croftCreate c) s = .next t ∧ croft? t n = some (croftNew mask map (stagedShare s n) s.sec.nextKey) ∧
        s.sec.nextKey ∈ t.sec.keys ∧ odGet t (0x3000 + n) 9 = 0 ∧ park ≤ quota t n 2 ∧
        t = { s with crofts := t.crofts, sec := t.sec, od := t.od, convs := t.convs, savePending := true }) ∧
    (∀ k : Croft, croft? s n = some k →
      exec (.croftCreate c) s = .next (odPut s (0x3000 + n) 9 1) ∧
      (enginesFree s n mask = true → mapValid mask map = true → otherShares s n + stagedShare s n ≤ 100 →
        t1Taken s n k - k.park + park ≤ quota s n 2 →
        (k.run = none → exec (.croftApply c) s = .next (wakeKept (modCroft (odPut s (0x3000 + n) 9 0) n (fun k => { k with
          mask := mask, saved := mask, map := map, share := stagedShare s n, park := park, state := 1 })))) ∧
        (k.run ≠ none → exec (.croftApply c) s = .next (putCroft (odPut s (0x3000 + n) 9 0) n { k with
          state := if k.state = 3 then 3 else 2, deferred := k.deferred ++ [.apply mask map (stagedShare s n)] }))) ∧
      (openJobs k ≠ [] → exec (.croftRemove c) s = .next (odPut s (0x3000 + n) 9 6)) ∧
      (openJobs k = [] → storeEmptyNow k.store = true → (∀ x ∈ s.namespaces, x.2.owner ≠ n) →
        exec (.croftRemove c) s = .next (odPut (croftGone s n k) (0x3000 + n) 9 0)) ∧
      (k.run = none → exec (.croftRemoveAndPurge c) s = .next (purgeNow s n)) ∧
      (∀ r, k.run = some r → ∃ t, exec (.croftRemoveAndPurge c) s = .next t ∧ odGet t (0x3000 + n) 9 = 0)) ∧
    (croft? s n = none → exec (.croftApply c) s = .next (odPut s (0x3000 + n) 9 1) ∧
      exec (.croftRemove c) s = .next (odPut s (0x3000 + n) 9 1) ∧ exec (.croftRemoveAndPurge c) s = .next (odPut s (0x3000 + n) 9 1))

/-! ### HBM and clusters -/

/-- HBM and clusters: the scrub commands of a stack (a start within the range its entries hold, a stop at a word the spec leaves open, the end of the range, a patrol pass over the whole stack), the monitors of its channels (a hot channel by R158, on the bytes moved in the window: log entry 54), its self-refresh, and the gating and waking of clusters. -/
def Obligations.HbmAndClusterCommands : Prop :=
  ∀ (x : Fin 8) (s : State), powered s = true →
    let h := stackOf s x.val
    (s.reeveUp = true → s.power.stage = 3 → scrubMayStart s x.val = true → exec (.scrubStart x) s = .next { s with hbm := mapSet s.hbm x.val { h with
      scrub := { h.scrub with state := 1, start := odGet s (0x5200 + x.val) 1, length := odGet s (0x5200 + x.val) 2, bell := s.bell.count } } }) ∧
    (s.reeveUp = true → h.scrub.state ≠ 1 → (odGet s (0x5200 + x.val) 2 = 0 ∨ odGet s (0x5200 + x.val) 1 % 32 ≠ 0 ∨ odGet s (0x5200 + x.val) 2 % 32 ≠ 0 ∨
      stackBytes < odGet s (0x5200 + x.val) 1 + odGet s (0x5200 + x.val) 2) → exec (.scrubStart x) s = .next s) ∧
    (s.reeveUp = true → h.scrub.state = 1 → ∃ words : Nat, words ≤ h.scrub.length / 32 ∧
      exec (.scrubStop x) s = .next (scrubFinish (fresh s).2 x.val words 2 3)) ∧
    (h.scrub.state = 1 → exec (.scrubEnd x) s = .next (scrubFinish s x.val (h.scrub.length / 32) 1 2)) ∧
    (s.power.stage = 3 → odGet s 0x5208 2 ≠ 0 → h.scrub.state ≠ 1 → ∃ z t, scanRange s x.val 0 (2 ^ 31) = (z, t) ∧
      exec (.patrolScrub x) s = .next { t with hbm := mapSet t.hbm x.val { stackOf t x.val with scrub := { (stackOf t x.val).scrub with
        patrol := scrubSummary x.val 9 0 (2 ^ 36) (2 ^ 31) z s.bell.count s.bell.count } } }) ∧
    (∀ (ch : Fin 32) (n : Nat), mapGet? h.corrected ch.val = some (clock s / 3600000000000, n) → odGet s 0x5208 3 < n →
      mapGet h.rated ch.val 0 ≠ clock s / 3600000000000 + 1 → exec (.correctedRateThreshold x ch) s = .next
        (logEvent { s with hbm := mapSet s.hbm x.val { h with rated := mapSet h.rated ch.val (clock s / 3600000000000 + 1) } }
          0x0100 1 0 x.val (2 * ch.val) 0xFF 0 (leBytes 8 n))) ∧
    (∀ (chs : List (Fin 32)) (bytes : List Nat) (own : Nat) (cs : List (Fin 32)), let part := hotPart chs bytes own cs
      ∃ t, exec (.hotChannelWindow x chs bytes own h.hotSet.1 cs) s = .next t ∧ (stackOf t x.val).moved = [] ∧
      (stackOf t x.val).hotSet = (odGet s 0x4020 1, odGet s 0x4020 2, odGet s 0x4020 3, odGet s 0x4020 4) ∧
      odGet t 0xA2C0 1 = odGet s 0xA2C0 1 + (hotChannels s x.val part).length ∧
      (∀ ch : Fin 32,
        (h.hotSet.2.1 * stackMoved h part < 256 * onChannel h part ch.val → h.hotSet.2.2.1 * 80000000 * h.hotSet.1 < 100 * onChannel h part ch.val →
          hotHeld s h ch.val = false → mapGet? (stackOf t x.val).hotAt ch.val = some (clock s)) ∧
        ((256 * onChannel h part ch.val ≤ h.hotSet.2.1 * stackMoved h part ∨ 100 * onChannel h part ch.val ≤ h.hotSet.2.2.1 * 80000000 * h.hotSet.1 ∨
          hotHeld s h ch.val = true) → mapGet? (stackOf t x.val).hotAt ch.val = mapGet? h.hotAt ch.val))) ∧
    (∀ (chs : List (Fin 32)) (bytes : List Nat) (own ms : Nat) (cs : List (Fin 32)), h.hotSet.1 ≠ ms →
      exec (.hotChannelWindow x chs bytes own ms cs) s = .next s) ∧
    (∀ (ch : Fin 32) (d : W32), xLt (x32 (odGet s 0x4020 5)) (x32 d.toNat) = true → ∃ t, exec (.hbmTemperatureReading x ch d) s = .next t ∧
      mapGet (stackOf t x.val).throttle ch.val 0 = min 3 (mapGet h.throttle ch.val 0 + 1)) ∧
    (∀ (ch : Fin 32) (d : W32), xLt (x32 (odGet s 0x4020 5)) (x32 d.toNat) = false →
      xLt (xAdd (x32 (odGet s 0x4020 5)) (.num (-3) 0)) (x32 d.toNat) = false → ∃ t, exec (.hbmTemperatureReading x ch d) s = .next t ∧
      mapGet (stackOf t x.val).throttle ch.val 0 = 0) ∧
    (s.power.stage = 3 → odGet s 0x6320 1 ≠ 0 → inputOn s 4 = false → h.scrub.state ≠ 1 →
      exec (.hbmSelfRefreshEntry x) s = .next { s with hbm := mapSet s.hbm x.val { h with selfRefresh := true } }) ∧
    (odGet s 0x6320 1 ≠ 0 → clusterWork s x.val = false → keptAwake s x.val = false → x.val ∉ s.power.gated →
      exec (.clusterGate x) s = .next { s with
        power := { s.power with gated := setIns s.power.gated x.val }, ramps := s.ramps.filter (fun p => p.1 / 64 ≠ x.val) }) ∧
    (x.val ∈ s.power.gated → exec (.clusterWake x) s = .next (bump { s with
      power := { s.power with gated := s.power.gated.filter (· ≠ x.val), points := s.power.points.set x.val (wantedPoint s x.val) }
      rampPtr := mapDel s.rampPtr x.val, droverPtr := mapDel s.droverPtr x.val } 0xA4A0 4 1)) ∧
    (x.val ∉ s.power.gated → exec (.clusterWake x) s = .next s)

/-! ### The plant, the bank, firmware -/

/-- The commands of the plant: arming, clearing a stop or a bank fault, and the two re-learns with their outcomes. -/
def Obligations.PlantCommands : Prop :=
  ∀ s : State, odUp s = true →
    (s.sec.recovery = false → exec .arm s = .next { s with plant := { s.plant with armed := true } }) ∧
    ((s.plant.leakStop = false ∨ leaking s = false) →
      exec .clearPlantStop s = .next (restartCheck { s with plant := { s.plant with leakStop := false, valveFault := false } })) ∧
    (s.plant.leakStop = true → leaking s = true → exec .clearPlantStop s = .next s) ∧
    (s.plant.relearnState ≠ 1 →
      (valveRelearnOk s = true → exec .relearnValveCurve s = .next { s with plant := { s.plant with relearn := 1, relearnState := 1 } }) ∧
      (valveRelearnOk s = false → exec .relearnValveCurve s = .next { s with plant := { s.plant with relearn := 1, relearnState := 3 } }) ∧
      (powered s = true → s.plant.bank < 2 →
        exec .relearnBank s = .next (modeCheck { s with plant := { s.plant with relearn := 2, relearnState := 1, clearing := false, bank := 3 } }) ∧
        (odGet s 0x7500 3 ≠ 0 → exec .bankRelearnInterval s =
          .next (modeCheck { s with plant := { s.plant with relearn := 2, relearnState := 1, clearing := false, bank := 3 } }))) ∧
      (powered s = true → s.plant.bank = 4 → bankCauseHolds s = false → exec .clearBankFault s =
        .next (modeCheck { s with plant := { s.plant with relearn := 2, relearnState := 1, clearing := true, bank := 3 } }))) ∧
    (s.plant.relearnState = 1 →
      exec .relearnValveCurve s = .next { s with plant := { s.plant with refused := true } } ∧
      exec .relearnBank s = .next { s with plant := { s.plant with refused := true } } ∧
      exec .bankRelearnInterval s = .next s ∧ exec .clearBankFault s = .next s ∧
      (∀ l : List W16, s.plant.relearn = 1 → curveOk (l.map (·.toNat)) = true → exec (.relearnComplete (.valve l)) s =
        .next (relearnEnd (odPut { s with
          doms := mapSet s.doms (odKey 0x7200 1) ((l.map (·.toNat)).flatMap (leBytes 2)), savePending := true } 0x7200 2 2) 2)) ∧
      (∀ f m : W32, s.plant.relearn = 2 → xvFinite (x32 f.toNat) = true → xvFinite (x32 m.toNat) = true →
        (1 : Rat) / 2 ≤ f32Rat f.toNat → f32Rat f.toNat ≤ 5 → 1 ≤ f32Rat m.toNat → f32Rat m.toNat ≤ 200 →
        exec (.relearnComplete (.bank f m)) s = .next (energyCheck s (bankLearnt s f m))) ∧
      exec (.relearnComplete .failed) s = .next (energyCheck s (relearnAbort s)))

/-- What the plant's readings and timers do: a loop period, a settled or faulted valve, a faulted sensor, the bank's energy, charge and fault, and the takeover that came too late; and that ARM, CLEAR_PLANT_STOP, CLEAR_BANK_FAULT, the two re-learns, the periodic one and the end of each complete, with what each leaves (R420, R421, R423, R425). -/
def Obligations.PlantEvents : Prop :=
  ∀ s : State, alive s = true →
    (∀ (raw : List W32) (pos : W16), s.reeveUp = true → 1 ≤ s.power.stage →
      ∃ t, t = retarget (valveLoop (takeReadings s raw)) ∧ exec (.plantLoop raw pos) s = .next { t with plant := { t.plant with
        position := pos.toNat, settled := decide (posGap pos.toNat t.plant.target ≤ 100) } }) ∧
    (∀ pos : W16, posGap pos.toNat s.plant.target ≤ 100 →
      exec (.valveSettled pos) s = .next { s with plant := { s.plant with position := pos.toNat, settled := true } }) ∧
    (∀ pos : W16, s.plant.valveFault = false → 500 < posGap pos.toNat s.plant.target → ∃ t, exec (.valveFault pos) s = .next t ∧
      t.plant = { s.plant with valveFault := true, position := pos.toNat, settled := false, target := if s.plant.leakStop then 0 else 10000 } ∧
      odGet t 0xA480 1 = odGet s 0xA480 1 + 1 ∧
      t = { s with plant := t.plant, od := t.od, log := t.log, logSeq := t.logSeq, logSaved := t.logSaved, sessions := t.sessions, sent := t.sent }) ∧
    (∀ j : Fin 24, j.val ≠ 21 → j.val ∉ s.plant.faulted → ∃ t, exec (.sensorFault j) s = .next t ∧
      t.plant = { s.plant with faulted := setIns s.plant.faulted j.val } ∧
      t = { s with plant := t.plant, od := t.od, log := t.log, logSeq := t.logSeq, logSaved := t.logSaved, sessions := t.sessions, sent := t.sent }) ∧
    (∀ volts : W32, xvFinite (x32 volts.toNat) = true → f32Rat volts.toNat ≤ (33 : Rat) / 2 → exec (.bankEnergyUpdate volts) s =
      .next (energyCheck s { s with plant := { s.plant with volts := volts, energy := plantUnits (usableEnergy s (f32Rat volts.toNat) * 1000) } })) ∧
    (∀ cause : Fin 4, s.plant.bank ≠ 4 → (cause.val ≠ 1 ∨ s.plant.bank = 0) → exec (.bankFault cause) s =
      .next (energyCheck s (moduleEvent { s with plant := { s.plant with bank := 4 } } 0x0609 (leBytes 1 cause.val)))) ∧
    (s.plant.bank = 0 → exec .bankChargeTargetReached s = .next { s with plant := { s.plant with bank := 1 } }) ∧
    (s.reeveUp = false → s.plant.leakStop = false →
      exec .plantTakeoverTimeout s = .next { s with plant := { s.plant with target := 10000, settled := false } }) ∧
    (s.reeveUp = true → 1 ≤ s.power.stage →
      (s.sec.recovery = false → ∃ t, exec .arm s = .next t ∧ t.plant.armed = true) ∧
      (s.power.phase = 1 → ¬(s.plant.leakStop = true ∧ leaking s = true) →
        ∃ t, exec .clearPlantStop s = .next t ∧ t.plant.leakStop = false ∧ t.plant.valveFault = false) ∧
      (s.power.phase = 1 → s.plant.relearnState ≠ 1 → (∀ p ∈ s.crofts, p.2.run = none) → sensorBad s 22 = false → 15 ≤ tempOf s 22 →
        tempOf s 22 ≤ 45 → ∃ t, exec .relearnValveCurve s = .next t ∧ t.plant.relearn = 1 ∧ t.plant.relearnState = 1) ∧
      (s.power.phase = 1 → s.plant.relearnState ≠ 1 → s.plant.bank < 2 →
        (∃ t, exec .relearnBank s = .next t ∧ t.plant.relearn = 2 ∧ t.plant.relearnState = 1 ∧ t.plant.bank = 3) ∧
        (odGet s 0x7500 3 ≠ 0 → ∃ t, exec .bankRelearnInterval s = .next t ∧ t.plant.relearn = 2 ∧ t.plant.relearnState = 1 ∧ t.plant.bank = 3)) ∧
      (s.power.phase = 1 → s.plant.relearnState ≠ 1 → s.plant.bank = 4 → bankCauseHolds s = false →
        ∃ t, exec .clearBankFault s = .next t ∧ t.plant.relearn = 2 ∧ t.plant.relearnState = 1 ∧ t.plant.bank = 3)) ∧
    (s.plant.relearnState = 1 → s.plant.relearn = 1 → (∀ l : List W16, ∃ t, exec (.relearnComplete (.valve l)) s = .next t ∧
      t.plant.relearnState = if curveOk (l.map (·.toNat)) then 2 else 4)) ∧
    (s.plant.relearnState = 1 → s.plant.relearn = 2 → s.plant.bank = 3 → (∀ f m : W32, xvFinite (x32 f.toNat) = true →
      xvFinite (x32 m.toNat) = true → (1 : Rat) / 2 ≤ f32Rat f.toNat → f32Rat f.toNat ≤ 5 → 1 ≤ f32Rat m.toNat → f32Rat m.toNat ≤ 200 →
      ∃ t, exec (.relearnComplete (.bank f m)) s = .next t ∧ t.plant.relearnState = 2 ∧ t.plant.bank = 0 ∧
        odGet t 0x7300 1 = f.toNat ∧ odGet t 0x7300 2 = m.toNat))

/-- Firmware commits, the advance of the anti-rollback counters, a module restart and a cleared input fault. -/
def Obligations.FirmwareAndRestart : Prop :=
  ∀ s : State, powered s = true → s.reeveUp = true →
    (1 ≤ s.power.stage → s.sec.recovery = false → s.sec.commit = none → ∀ (path : Fin 34) (slot : Nat), path.val < 33 → slot = 1 ∨ slot = 2 →
      let imgs := packageImages (stagedBytes s path.val)
      (slot ≠ s.sec.running → packageFails s imgs = none →
        exec (.firmwareReplace path slot) s = .next (commitStart s path.val slot false imgs none) ∧
        exec (.firmwareReplaceActivate path slot) s = .next (commitStart s path.val slot true imgs none)) ∧
      (∀ kind check : Nat, slot ≠ s.sec.running → packageFails s imgs = some (kind, check) →
        exec (.firmwareReplace path slot) s = .next (imageRefused s kind check)) ∧
      (slot = s.sec.running → exec (.firmwareReplace path slot) s = .next s ∧ exec (.firmwareReplaceActivate path slot) s = .next s) ∧
      (slotSound s slot = true → ((slotOf s slot).activation ≠ none ∨ (slotOf s slot).fw ≠ []) →
        exec (.firmwareActivate path slot) s =
          .next (putSlot s slot { slotOf s slot with activation := some (nextActivation s) }))) ∧
    (∀ j : FwJob, s.sec.commit = some j →
      (j.stage = 2 → commitAdvance s = { programBank s j.slot ((j.imgs[0]?).getD []) with sec := { s.sec with commit := some { j with stage := 3 } } }) ∧
      (∃ t, commitLost s = t ∧ t.sec.commit = none ∧ slotOf t j.slot = ⟨false, [], [], [], [], none⟩)) ∧
    (odGet s 0x8011 1 = 1 → exec .advanceNow s = .next (raiseCounter (raiseCounter (raiseCounter s 1) 2) 3)) ∧
    (odGet s 0x8011 1 ≠ 1 → exec .advanceNow s = .next s) ∧
    (restartRefused s = false → s.sec.commit = none → exec .moduleRestart s = .next (flushStart s 5)) ∧
    (∀ j : FwJob, restartRefused s = false → s.sec.commit = some j →
      exec .moduleRestart s = .next { s with sec := { s.sec with commit := some { j with restart := true } } }) ∧
    (s.sanitize.running = true → exec .moduleRestart s = .next s) ∧
    (∀ x : Fin 6, x.val = 2 ∨ x.val = 5 → exec (.clearFault x) s = .next (putInput s x.val ⟨(inputOf s x.val).active, false, false⟩))

/-! ### SPDM and MCTP -/

namespace Sys2Proof.Claims

/-- An SPDM request that a mailbox takes: the dictionary and PCIe are up, and the message names the row's code. -/
abbrev SpdmHeard (s : State) (m : List Byte) (code : Nat) : Prop :=
  odUp s = true ∧ pcieUp s = true ∧ 4 ≤ m.length ∧ leAt m 1 1 = code

/-- A control message that a binding takes: the binding is up, and the message is a request of the row's command. -/
abbrev MctpHeard (s : State) (b : Fin 2) (m : List Byte) (code : Nat) : Prop :=
  bindingUp s b.val = true ∧ 3 ≤ m.length ∧ leAt m 0 1 = 0 ∧ 128 ≤ leAt m 1 1 ∧ leAt m 2 1 = code

/-- A control response: the request's instance and command, a completion code, and data. -/
def mctpReply (s : State) (b : Fin 2) (m : List Byte) (cc : Byte) (data : List Byte) : State :=
  { s with sent := s.sent ++ [(4 + b.val, [0, BitVec.ofNat 8 (leAt m 1 1 % 32), (sub m 2 1).headD 0, cc] ++ data)] }

end Sys2Proof.Claims

/-- The SPDM responder's seven requests, each in the phase that admits it (layouts and codes are those of DSP0274, PRESUMED in the log), and GET_DIGESTS out of its phase, answered with ERROR. -/
def Obligations.SpdmRequests : Prop :=
  ∀ (f : Fin 2) (m : List Byte) (s : State),
    let x := spdmOf s f.val
    let answer (y : Spdm) (b : List Byte) : State :=
      { s with sec := { s.sec with spdm := mapSet s.sec.spdm f.val y }, sent := s.sent ++ [(3, BitVec.ofNat 8 f.val :: b)] }
    (SpdmHeard s m 0x84 → exec (.getVersion f m) s =
      .next (answer ⟨1, m ++ [0x10, 0x04, 0, 0, 0, 1, 0x00, 0x12], [], []⟩ [0x10, 0x04, 0, 0, 0, 1, 0x00, 0x12])) ∧
    (SpdmHeard s m 0xE1 → leAt m 0 1 = 0x12 → x.phase = 1 → ∃ b, exec (.getCapabilities f m) s =
      .next (answer { x with phase := 2, vca := x.vca ++ m ++ b } b) ∧ leAt b 1 1 = 0x61) ∧
    (SpdmHeard s m 0xE3 → leAt m 0 1 = 0x12 → x.phase = 2 → leAt m 8 4 / 2 ^ 11 % 2 = 1 → leAt m 12 4 / 2 ^ 5 % 2 = 1 →
      ∃ b, exec (.negotiateAlgorithms f m) s = .next (answer { x with phase := 3, vca := x.vca ++ m ++ b } b) ∧ leAt b 1 1 = 0x63) ∧
    (leAt m 0 1 = 0x12 → x.phase = 3 →
      (SpdmHeard s m 0x81 → exec (.getDigests f m) s =
        .next (answer { x with chal := x.chal ++ m ++ (spdmHead 0x01 0 1 ++ sha3 spdmChain), meas := [] } (spdmHead 0x01 0 1 ++ sha3 spdmChain))) ∧
      (SpdmHeard s m 0x82 → leAt m 2 1 % 16 = 0 → leAt m 4 2 < spdmChain.length → exec (.getCertificate f m) s = .next (spdmCertificate s f.val m)) ∧
      (SpdmHeard s m 0x83 → leAt m 2 1 = 0 → 36 ≤ m.length → (leAt m 3 1 ≤ 1 ∨ leAt m 3 1 = 0xFF) →
        exec (.challenge f m) s = .next (spdmChallenge s f.val m)) ∧
      (SpdmHeard s m 0xE0 → leAt m 2 1 % 2 = 0 → leAt m 3 1 = 0 → ∃ n : List Byte, n.length = 32 ∧ exec (.getMeasurements f m) s =
        .next (let b := spdmHead 0x60 6 0 ++ [0, 0, 0, 0] ++ n ++ [0, 0]
          { answer { x with meas := x.meas ++ m ++ b } b with freeCtr := s.freeCtr + 32 }))) ∧
    (leAt m 0 1 = 0x12 → x.phase ≠ 3 → SpdmHeard s m 0x81 →
      exec (.getDigests f m) s = .next { s with sec := { s.sec with spdm := mapSet s.sec.spdm f.val x }, sent := s.sent ++ [(3, BitVec.ofNat 8 f.val :: [0x12, 0x7F, 4, 0])] })

/-- The five MCTP control commands (layouts and codes are those of DSP0236, PRESUMED in the log) and the dynamic address of the I3C target. -/
def Obligations.MctpControlCommands : Prop :=
  ∀ (b : Fin 2) (m : List Byte) (s : State),
    (MctpHeard s b m 1 → 5 ≤ m.length → leAt m 3 1 % 4 ≤ 1 → 8 ≤ leAt m 4 1 → leAt m 4 1 ≠ 0xFF →
      exec (.setEndpointId b m) s =
        .next (mctpReply { s with eids := mapSet s.eids b.val (leAt m 4 1) } b m 0 [0, BitVec.ofNat 8 (leAt m 4 1), 0])) ∧
    (MctpHeard s b m 1 → 5 ≤ m.length → leAt m 4 1 = 0xFF → exec (.setEndpointId b m) s = .next (mctpReply s b m 2 [])) ∧
    (MctpHeard s b m 2 → exec (.getEndpointId b m) s = .next (mctpReply s b m 0 [BitVec.ofNat 8 (mapGet s.eids b.val 0), 0, 0])) ∧
    (MctpHeard s b m 4 → leAt m 3 1 = 0xFF → ∃ v : List Byte, v.length = 5 ∧ exec (.getMctpVersionSupport b m) s = .next (mctpReply s b m 0 v)) ∧
    (MctpHeard s b m 5 → exec (.getMessageTypeSupport b m) s = .next (mctpReply s b m 0 [2, 0x00, 0x7E])) ∧
    (MctpHeard s b m 6 → leAt m 3 1 = 0 →
      exec (.getVendorDefinedMessageSupport b m) s = .next (mctpReply s b m 0 [0xFF, 0, 0xAC, 0x1C, 0x00, 0x01])) ∧
    (∀ a : Fin 128, alive s = true → s.reeveUp = true →
      (a.val ≠ 0 → mapGet s.eids 2 0 = 0 → exec (.entdaa a) s = .next { s with eids := mapSet s.eids 2 a.val }) ∧
      (mapGet s.eids 2 0 ≠ 0 → exec (.entdaa a) s = .next s))

/-! ### Kamlin and Bell -/

namespace Sys2Proof.Claims

/-- A frame that a port takes in: the port carries traffic (in conflict, Bell and link management frames), the frame keeps its layout and names the row's type, the module is at full service where the frame is no control frame, and it is for this module. -/
abbrev FrameTaken (s : State) (p : Fin 8) (b : List Byte) (type : Nat) : Prop :=
  powered s = true ∧ ((portOf s p.val).state = 2 ∨ ((portOf s p.val).state = 5 ∧ (type = 0x12 ∨ type = 0x13))) ∧
  frameOk b = true ∧ frType b = type ∧ (type < 0x10 → 3 ≤ s.power.stage) ∧ (type < 0x12 → frDst b = (portOf s p.val).addr)

end Sys2Proof.Claims

/-- Links: flits and retries, recovery, training, the timeouts, and credits sent back. -/
def Obligations.KamlinLinks : Prop :=
  ∀ (p : Fin 8) (s : State), powered s = true →
    let x := portOf s p.val
    (∀ (b : List Byte) (decoded : Bool) (n : Nat), x.state = 2 → (decoded = false ∨ flitOk b = false) →
      let s1 := bump (bump s (0xA3A0 + p.val) 3 n) (0xA3A0 + p.val) 4 (if decoded then 0 else 1)
      (x.asked = false ∨ leAt b 0 2 % 4096 = x.rxSeq → exec (.flitReceive p b decoded n) s = .next (askReplay s1 p.val)) ∧
      (x.asked = true → leAt b 0 2 % 4096 ≠ x.rxSeq → exec (.flitReceive p b decoded n) s = .next s1)) ∧
    (∀ (b : List Byte), x.state = 2 → flitOk b = true → bitOf (BitVec.ofNat 16 (leAt b 2 2)) 12 = false → leAt b 1 1 / 16 = 1 →
      leAt b 0 2 % 4096 = x.rxSeq → exec (.flitReceive p b true 0) s =
        .next (putPort s p.val { x with rxSeq := (x.rxSeq + 1) % 4096, asked := false, asks := 0 })) ∧
    (∀ seq : Fin 4096, x.state = 2 →
      let n := (seq.val + 4096 - x.ackSeq) % 4096
      (n ≤ x.replay.length → exec (.retryRequest p seq) s = .next (pump (sendFlits
        (putPort s p.val { x with ackSeq := seq.val, replay := x.replay.drop n }) p.val seq.val (x.replay.drop n)) p.val)) ∧
      (x.replay.length < n → exec (.retryRequest p seq) s = .next (bump (portLost s p.val 3) (0xA3A0 + p.val) 5 1))) ∧
    (x.replay ≠ [] → x.state = 2 → exec (.ackTimeout p) s = .next (bump (portLost s p.val 3) (0xA3A0 + p.val) 5 1)) ∧
    (x.replay = [] → exec (.ackTimeout p) s = .next s) ∧
    (x.awaiting ≠ [] → x.state = 2 → exec (.creditReturnTimeout p) s = .next (bump (portLost s p.val 3) (0xA3A0 + p.val) 5 1)) ∧
    (x.awaiting = [] → exec (.creditReturnTimeout p) s = .next s) ∧
    (∀ (good : Fin 16) (n : Byte), x.state = 3 → exec (.recoveryComplete p good n) s = .next (linkDone s p.val good.val n.toNat)) ∧
    (∀ (good : Fin 16) (n : Byte), x.state = 1 → portEnabled s p.val = true →
      exec (.trainingComplete p good n) s = .next (trained s p.val good.val n.toNat)) ∧
    (∀ (n : Byte), x.state = 1 → portEnabled s p.val = true → odGet s (0x9020 + p.val) 2 ≤ 4 → n.toNat ≠ ownAddress s →
      let s1 := putPort { s with kamlinAddr := ownAddress s } p.val { x with addr := ownAddress s }
      reached s1 p.val n.toNat = false → exec (.trainingComplete p 15 n) s =
        .next (routeBack (putPort s1 p.val { x with addr := ownAddress s, width := 4, neighbour := n.toNat, state := 2 }) p.val)) ∧
    ((x.state = 1 ∨ x.state = 3) → exec (.trainingFailTimeout p) s =
      .next (logEvent (putPort s p.val { x with state := 4 }) 0x0121 0 2 p.val 0 0xFF 0 [4])) ∧
    (x.state = 4 → portEnabled s p.val = true → exec (.downRetryTimeout p) s = .next (putPort s p.val { x with state := 1 })) ∧
    (x.state = 2 → x.owed.all (fun o => o.2 = 0) = false → exec (.creditReturnSend p) s =
      .next (sendOnPort (putPort s p.val { x with owed := [] }) p.val 0xFF
        (mkFrame 0x11 8 (x.neighbour % 256) x.addr 0xFF 0 0 0 true ((List.range 9).flatMap (fun k => leBytes 2 (mapGet x.owed k 0))) [] []))) ∧
    (x.state = 2 → x.owed.all (fun o => o.2 = 0) = true → exec (.creditReturnSend p) s = .next s)

/-- Frames: what each type does where a port takes it in, and how a frame that breaks its layout is discarded and one for another module passed on with its hop class raised, or discarded at class 7 or without a route (R289 to R291, R294). -/
def Obligations.KamlinFrames : Prop :=
  ∀ (p : Fin 8) (b : List Byte) (s : State),
    (∀ (c : Nat) (j : Job) (q : Nat) (k : Croft), frameJob s b = some (c, j, q) → croft? s c = some k → frameTurn k j b = .now →
      (FrameTaken s p b 1 → exec (.sendFrame p b) s = .next (acceptFrame s p.val c q b)) ∧
      (FrameTaken s p b 2 → exec (.reductionPartial p b) s = .next (acceptFrame s p.val c q b)) ∧
      (FrameTaken s p b 3 → exec (.reductionResult p b) s = .next (acceptFrame s p.val c q b)) ∧
      (FrameTaken s p b 4 → exec (.stepEndFrame p b) s = .next (acceptFrame s p.val c q b)) ∧
      (FrameTaken s p b 5 → exec (.listImageFrame p b) s = .next (acceptFrame s p.val c q b))) ∧
    (∀ (y : PeerExport) (z : Binding), mapGet? s.exports (frParam b 0) = some y → bindingOf s y.croft y.bset y.index = some z →
      (FrameTaken s p b 6 → exportOpen y b false = true → frParam b 1 + frParam b 2 ≤ z.count → exec (.tpRead p b) s =
        .next ((List.range (frParam b 2)).foldl (fun s i => answerRead s y b (frParam b 1 + i)) (noteBound (oweCredits s p.val b) (frParam b 0) b))) ∧
      (FrameTaken s p b 8 → exportOpen y b true = true → frParam b 1 < z.count → exec (.tpWrite p b) s = .next (tpWriteFrame s p.val b)) ∧
      (FrameTaken s p b 8 → exportOpen y b true = false → exec (.tpWrite p b) s = .next (routingEvent (discardFrame s p.val b) p.val b))) ∧
    (FrameTaken s p b 7 → (∃ k ∈ s.crofts, ∃ a ∈ k.2.tpAsked, a.home = frParam b 0 + 256 * frSrc b ∧ a.body = frParam b 1 ∧ a.tag = frTag b ∧
        a.step = frStep b ∧ a.attempt = frAttempt b) →
      exec (.tpData p b) s = .next (tpDataFrame s p.val b)) ∧
    (∀ (c : Nat) (e : EngEnv), FrameTaken s p b 9 → doneCroft s b = some c → stepEnv s c = some e →
      exec (.tpWriteDone p b) s = .next (tpDoneFrame s p.val b)) ∧
    (∀ (c : Nat) (j : Job) (g : List Byte), FrameTaken s p b 0x0A → tagJob s (frTag b) = some (c, j) → j.group = some g →
      exec (.groupCheck p b) s = .next (oweCredits (checkJob s c j g b) p.val b)) ∧
    (FrameTaken s p b 0x0A → tagJob s (frTag b) = none → exec (.groupCheck p b) s = .next (holdFrame s p.val b)) ∧
    (∀ (c : Nat) (job : Nat) (j : Job), powered s = true → jobOf s c job = some j → ∀ h : c < 32, j.group ≠ none → groupReady j = false →
      j.faulted = false → exec (.groupCheckTimeout ⟨c, h⟩ job) s = .next (endJob s c job 0x43)) ∧
    (FrameTaken s p b 0x10 → exec (.cancel p b) s = .next (cancelFrame s p.val b)) ∧
    (FrameTaken s p b 0x11 → exec (.creditReturn p b) s = .next (creditsBack s p.val b)) ∧
    (FrameTaken s p b 0x13 → leAt b 32 1 ≠ (portOf s p.val).addr →
      let s1 := oweCredits (putPort s p.val { portOf s p.val with neighbour := leAt b 32 1 }) p.val b
      ((portOf s p.val).state = 2 → exec (.linkManagement p b) s = .next s1) ∧
      ((portOf s p.val).state = 5 → reached s p.val (leAt b 32 1) = true → exec (.linkManagement p b) s = .next s1) ∧
      ((portOf s p.val).state = 5 → reached s p.val (leAt b 32 1) = false → exec (.linkManagement p b) s =
        .next (routeBack (putPort s1 p.val { portOf s1 p.val with state := 2 }) p.val))) ∧
    (powered s = true → (portOf s p.val).state = 2 →
      (frameOk b = true → frDst b ≠ (portOf s p.val).addr → frType b < 0x12 →
        (frHop b = 7 → exec (.frameForward p b) s = .next (routingEvent (discardFrame s p.val b) p.val b)) ∧
        (frHop b ≠ 7 → isControl (frType b) = false → routePort s (frDst b) = none →
          exec (.frameForward p b) s = .next (discardFrame s p.val b)) ∧
        (∀ q : Nat, frHop b ≠ 7 → isControl (frType b) = false → routePort s (frDst b) = some q →
          let b' := patch b 1 [BitVec.ofNat 8 (frHop b + 1)]
          exec (.frameForward p b) s = .next (queueOn s q ⟨b', frClass b', 0xFF, some p.val⟩))) ∧
      (frameOk b = false → exec (.frameForward p b) s = .next (discardFrame s p.val b) ∧ exec (.sendFrame p b) s = .next (discardFrame s p.val b)))

/-- The Bell domain: an exchange counts only where it should, a Bell request is answered, holdover, and the pulse input. That the counter is free once holdover runs out with no master heard is the model's choice (log entry 107). -/
def Obligations.BellCommands : Prop :=
  ∀ s : State, powered s = true →
    (∀ (p : Fin 8) (x : BellX), 1 ≤ s.power.stage → (portOf s p.val).state = 2 → ∃ t,
      t = hearMaster (bellRequest s p.val x) p.val ⟨x.priority.toNat, x.serial.toNat, x.hops.toNat, x.address.toNat⟩ ∧
      (x.retried = true → exec (.bellExchange p x) s = .next t) ∧
      (x.retried = false → odGet t 0x9100 1 ≠ 0 → bellMaster t = false → x.hops ≠ 0xFF → x.hops.toNat < t.bell.mHops →
        x.serial.toNat = t.bell.mSerial → exec (.bellExchange p x) s = .next (takeExchange t (exchangeError t p.val x)))) ∧
    (∀ (p : Fin 8) (b : List Byte), FrameTaken s p b 0x12 → leAt b 32 1 = 0 → exec (.bell p b) s =
      .next (bellResponse (hearMaster (oweCredits s p.val b) p.val ⟨leAt b 34 1, leAt b 40 8, leAt b 33 1, leAt b 38 1⟩) p.val b)) ∧
    (∀ (p : Fin 8) (b : List Byte), FrameTaken s p b 0x12 → leAt b 32 1 ≠ 0 → exec (.bell p b) s =
      .next (hearMaster (oweCredits s p.val b) p.val ⟨leAt b 34 1, leAt b 40 8, leAt b 33 1, leAt b 38 1⟩)) ∧
    (bellMaster s = false → bellState s = 2 → exec .holdoverEntry s = .next (moduleEvent
      (bump { s with bell := { s.bell with state := 3, slew := 0, stale := false, bad := 0 } } 0xA360 3 1) 0x0141 [])) ∧
    (s.bell.state = 3 → (offers s ≠ [] → exec .holdoverLimit s = .next { s with bell := { s.bell with stale := true } }) ∧
      (offers s = [] → exec .holdoverLimit s = .next (followNone s))) ∧
    (1 ≤ s.power.stage → inputBad s 2 = false →
      (s.bell.pps = none → exec .bellPpsEdge s = .next (let t := bump s 0xA442 1 1
        { t with bell := { s.bell with pps := some s.bell.count } })) ∧
      (∀ n : Nat, s.bell.pps = some n → s.bell.count < n + 100000000 → exec .bellPpsEdge s = .next s) ∧
      (∀ n : Nat, s.bell.pps = some n → n + 1000100000 < s.bell.count → exec .bellPpsEdge s = .next (let t := bump s 0xA442 1 1
        bump { t with bell := { s.bell with pps := some s.bell.count } } 0xA360 4 1)))

/-! ### Inputs, power, the staged start -/

/-- The discrete inputs and the input supply: what an assertion, a release, a fault and a change of the supply does to a module that is up. -/
def Obligations.InputsAndSupply : Prop :=
  ∀ s : State,
    (powered s = true →
      (inputBad s 0 = false → exec .pwrfailNAssert s = .next (flushBegin (inputAssert s 0) 1)) ∧
      (inputBad s 0 = true → exec .pwrfailNAssert s = .next (putInput s 0 { inputOf s 0 with active := true })) ∧
      exec .pwrfailNRelease s = .next (putInput s 0 { inputOf s 0 with active := false }) ∧
      exec .leakNAssert s = .next (leakStop (inputAssert s 1)) ∧
      exec .leakNRelease s = .next (putInput s 1 { inputOf s 1 with active := false }) ∧
      exec .perstNAssert s = .next (perstAssert (inputAssert s 3)) ∧
      (inputBad s 3 = false → exec .perstNRelease s = .next (perstRelease (putInput s 3 { inputOf s 3 with active := false }))) ∧
      exec .wakeNAssert s = .next (wakeKept (inputAssert s 4)) ∧
      exec .wakeNRelease s = .next (putInput s 4 { inputOf s 4 with active := false }) ∧
      exec (.inputFault 1 false) s = .next (moduleEvent s 0x0604 []) ∧
      (∀ x : Fin 6, x.val = 2 ∨ x.val = 4 → exec (.inputFault x false) s =
        .next (moduleEvent (bump (putInput s x.val { inputOf s x.val with stuck := true }) (0xA440 + x.val) 2 1) 0x0603 (leBytes 1 x.val ++ leBytes 1 0))) ∧
      exec .enableBreak s = .next (flushBegin { s with power := { s.power with enable := false } } 1) ∧
      exec .inputUndervoltage s = .next (flushBegin { s with power := { s.power with input := false } } 2) ∧
      (∀ v : W32, exec (.inputOvervoltage v) s = .next (flushStart (moduleEvent { s with power := { s.power with input := false } } 0x0615 (leBytes 4 v.toNat)) 3))) ∧
    exec .enableMate s = .next { s with power := { s.power with enable := true } } ∧
    (s.power.phase = 2 → exec .flushComplete s = .next (flushFinish s) ∧ exec .flushPowerLoss s = .next (flushCut s)) ∧
    (s.power.phase ≠ 2 → exec .flushComplete s = .next s ∧ exec .flushPowerLoss s = .next s)

/-- The staged start and the operating points: power-on, the three stages and a stall; the power limit's window, throttling, droop and the core rail. -/
def Obligations.StartAndOperatingPoints : Prop :=
  ∀ s : State,
    (∀ x : Fin 64, s.power.enable = true → s.power.phase = 0 → ∃ t, t = volatileLost s false ∧ exec (.powerOn x) s =
      .next (bootRom { t with slotId := x.val, power := { t.power with phase := 1, stage := 0, input := true }, sec := { t.sec with debugFlag := false } } false)) ∧
    (∀ x : Fin 64, s.power.enable = false → exec (.powerOn x) s = .next s) ∧
    (powered s = true →
      (∀ ms : W32, s.power.stage = 0 → s.sec.recovery = false → ∃ t, exec (.stage1Reached ms) s = .next t ∧ t.power.stage = 1 ∧
        t.bell = bellStart ∧ t.linkUp = !s.perst ∧ t.power.phase = 1 ∧ t.packages = s.packages ∧ t.fuse = s.fuse) ∧
      (∀ ms : W32, s.power.stage = 1 → s.dictConflict = false → s.sec.recovery = false →
        exec (.stage2Reached ms) s = .next (reachStage2 { s with power := { s.power with stage2ms := ms } })) ∧
      (∀ ms : W32, s.power.stage = 1 → s.dictConflict = true → exec (.stage2Reached ms) s = .next s) ∧
      (∀ ms : W32, s.power.stage = 2 → exec (.stage3Reached ms) s = .next (reachStage3 { s with power := { s.power with stage3ms := ms } })) ∧
      (∀ (part : Fin 4) (x : Byte), 1 ≤ s.power.stage → s.power.stage < 3 → exec (.startStalled part x) s =
        .next (moduleEvent s 0x0611 (leBytes 1 s.power.stage ++ leBytes 1 part.val ++ leBytes 1 x.toNat))) ∧
      (∀ w : W32, overLimit s w.toNat = true → s.power.windowsOver = 0 → ∃ t, exec (.powerLimitWindow w) s = .next t ∧
        t.power.watts = w ∧ t.power.windowsOver = 1 ∧ t.power.point = s.power.point) ∧
      (∀ w : W32, overLimit s w.toNat = true → 1 ≤ s.power.windowsOver → ∃ t, exec (.powerLimitWindow w) s = .next t ∧
        t.power.point = min 3 (max s.power.point (odGet s 0x6310 1) + 1)) ∧
      (∀ n : Fin 8, exec (.dieThrottle n) s = .next (lowerClocks { s with power := { s.power with throttled := setIns s.power.throttled n.val } })) ∧
      (∀ n : Fin 8, n.val ∈ s.power.throttled → ∃ t, exec (.dieThrottleEnd n) s = .next t ∧ n.val ∉ t.power.throttled ∧
        t = { s with power := { s.power with throttled := t.power.throttled, points := t.power.points } }) ∧
      (s.power.droop = false → exec .coreRailDroop s = .next (bump { s with power := { s.power with droop := true } } 0xA4A0 2 1)) ∧
      exec .droopEnd s = .next { s with power := { s.power with droop := false } } ∧
      exec .coreRailSettled s = .next { s with power := { s.power with points := (List.range 8).map (wantedPoint s) } })

/-! ### The Reeve's registers -/

/-- The Reeve: restarts, the watchdog's service pair, the code flash's unlock and commands, and the check-value units. -/
def Obligations.ReeveRegisters : Prop :=
  ∀ s : State, alive s = true →
    (∀ (cause : Fin 3) (x : Fin 64), ∃ t, exec (.reeveRestart cause x) s = .next t ∧ t = reeveRestart s cause.val x.val) ∧
    exec .watchdogTimeout s = .next (reeveRestart s 0 s.slotId) ∧
    (∀ v : W32, s.reeveUp = true →
      (s.watchdog.half = false → v.toNat % 65536 = 0x5A5A → exec (.watchdogService v) s = .next { s with watchdog := { s.watchdog with half := true } }) ∧
      (s.watchdog.half = true → v.toNat % 65536 = 0xA5A5 → watchdogWindow s ≤ unitsSince s →
        exec (.watchdogService v) s = .next { s with watchdog := { s.watchdog with half := false, served := clock s } }) ∧
      (s.watchdog.half = true → v.toNat % 65536 = 0xA5A5 → unitsSince s < watchdogWindow s → exec (.watchdogService v) s = .next (reeveRestart s 0 s.slotId))) ∧
    (s.flash.fstat % 2 = 0 →
      (s.flash.fstat / 4 % 2 = 0 → s.flash.lock = 0 → exec (.fkey 0x0F1E2D3C) s = .next { s with flash := { s.flash with lock := 1 } }) ∧
      (s.flash.fstat / 4 % 2 = 0 → s.flash.lock = 1 → exec (.fkey 0xC3D2E1F0) s = .next { s with flash := { s.flash with lock := 2 } }) ∧
      (∀ v : W32, s.flash.fstat / 4 % 2 = 0 → s.flash.lock = 1 → v.toNat ≠ 0xC3D2E1F0 →
        exec (.fkey v) s = .next { s with flash := { s.flash with fstat := s.flash.fstat ||| 4, lock := 0 } }) ∧
      (∀ v : W32, s.flash.lock = 2 → 1 ≤ v.toNat % 16 → v.toNat % 16 ≤ 3 →
        exec (.fcmdWrite v) s = .next { s with flash := { s.flash with lock := 3, fcmd := v.toNat % 16 } }) ∧
      (∀ v : W32, s.flash.lock < 2 → exec (.fcmdWrite v) s = .next { s with flash := { s.flash with fstat := s.flash.fstat ||| 4, lock := 0 } }) ∧
      (∀ v : W32, s.flash.lock = 5 → sectorProt s (sectorOf s.flash.faddr) = false → wordErased s s.flash.faddr = true →
        exec (.flashProgram v) s = .next { s with flash := { s.flash with dhi := v.toNat, lock := 6, fstat := s.flash.fstat ||| 1 } }) ∧
      (∀ v : W32, s.flash.lock = 5 → sectorProt s (sectorOf s.flash.faddr) = true →
        exec (.flashProgram v) s = .next { s with flash := { s.flash with dhi := v.toNat, lock := 0, fstat := s.flash.fstat ||| 32 } }) ∧
      (∀ v : W32, s.flash.lock = 3 → sectorProt s (sectorOf (v.toNat % 2 ^ 21)) = false →
        (s.flash.fcmd = 2 → exec (.flashErase v) s =
          .next { s with flash := { s.flash with faddr := v.toNat % 2 ^ 21, lock := 6, fstat := s.flash.fstat ||| 1 } }) ∧
        (s.flash.fcmd = 3 → exec (.flashBlankCheck v) s =
          .next { s with flash := { s.flash with faddr := v.toNat % 2 ^ 21, lock := 6, fstat := s.flash.fstat ||| 1 } }))) ∧
    (s.flash.fstat % 2 = 1 → ∃ t, exec .flashOperationDone s = .next t ∧ t.flash.lock = 0 ∧
      (s.flash.fcmd = 1 → t.flash.fstat = (s.flash.fstat ||| 2) - 1 ∧
        t.flash.bytes = memPutL 0xFF s.flash.bytes s.flash.faddr (leBytes 4 s.flash.dlo ++ leBytes 4 s.flash.dhi)) ∧
      (s.flash.fcmd = 2 → t.flash.bytes = memClear s.flash.bytes (65536 * sectorOf s.flash.faddr) 65536)) ∧
    (∀ (n : Fin 3) (v : W32),
      (v.toNat % 4 = 1 → exec (.cvctlInit n v) s =
        .next { s with units := mapSet s.units n.val { unitOf s n.val with ctl := v.toNat % 16 / 4 * 4, value := cvInit n.val, stat := 0 } }) ∧
      (v.toNat % 8 = 2 → exec (.cvctlFin n v) s = .next { s with units := mapSet s.units n.val { unitOf s n.val with ctl := v.toNat % 16 / 4 * 4 } }) ∧
      (∀ w : Fin 3, exec (.cvdata n w v) s = .next { s with units := mapSet s.units n.val { unitOf s n.val with
        value := (leBytes (2 ^ w.val) v.toNat).foldl (fun c b => cvByte n.val c b.toNat) (unitOf s n.val).value } }) ∧
      (v.toNat % 65536 = (mapGet (unitOf s n.val).slots (v.toNat / 65536 % 16) 0 + 1) % 65536 → exec (.cvalive n v) s =
        .next { s with units := mapSet s.units n.val { unitOf s n.val with slots := mapSet (unitOf s n.val).slots (v.toNat / 65536 % 16) (v.toNat % 65536) } }))

/-- Blank checks of the code flash (R409): a program over a double word that is not erased is refused with POU and leaves it unchanged, an erase clears its whole sector and no other, and a blank check reports BLANKFAIL where a double word of the sector is not erased, and does not where nothing of the sector has been programmed. -/
def Obligations.FlashBlankChecks : Prop :=
  ∀ s : State, alive s = true →
    (∀ v : W32, s.flash.fstat % 2 = 0 → s.flash.lock = 5 → sectorProt s (sectorOf s.flash.faddr) = false → wordErased s s.flash.faddr = false →
      exec (.flashProgram v) s = .next { s with flash := { s.flash with dhi := v.toNat, lock := 0, fstat := s.flash.fstat ||| 16 } }) ∧
    (s.flash.fstat % 2 = 1 → s.flash.fcmd = 2 → ∃ t, exec .flashOperationDone s = .next t ∧
      ∀ a : Nat, a < 2 ^ 21 → memGet 0xFF t.flash.bytes a =
        (if a / 65536 = sectorOf s.flash.faddr then 0xFF else memGet 0xFF s.flash.bytes a)) ∧
    (s.flash.fstat % 2 = 1 → s.flash.fcmd = 3 → ∃ t, exec .flashOperationDone s = .next t ∧
      ((∃ a : Nat, a % 8 = 0 ∧ a < 2 ^ 21 ∧ a / 65536 = sectorOf s.flash.faddr ∧ wordErased s a = false) → fsHas t 64 = true) ∧
      (s.flash.fstat / 64 % 2 = 0 → sectorOpaque s (sectorOf s.flash.faddr) = false → (∀ x ∈ s.flash.bytes, x.1 / 65536 ≠ sectorOf s.flash.faddr) →
        (∀ a ∈ s.flash.ones, sectorOf a ≠ sectorOf s.flash.faddr) → fsHas t 64 = false))

/-! ### Flash media -/

/-- The media's commands: programs, reads, the Gleaner, wear levelling, refreshes, erases, failures and the end of a sanitize. -/
def Obligations.MediaCommands : Prop :=
  ∀ (p : Fin 48) (n : Nat) (s : State), powered s = true →
    let x := packageOf s p.val
    let b := blockAt x n
    (∀ j : Nat, exec (.nandProgramComplete p j) s = .next (programEnd s p.val j)) ∧
    (∀ (page : Nat) (level : Fin 5), blockExists n = true → b.st = .full → exec (.pageReadComplete p n page level) s = .next (pageRead s p.val n page level.val)) ∧
    (∀ (page : Nat) (level : Fin 5), blockExists n = true → b.st = .erasePending →
      exec (.pageReadComplete p n page level) s = .next (inconsistentRead s p.val n page)) ∧
    (x.conflict = false → gleanerVictim x = some n → exec (.gleanerCollect p) s = .next (evacuateIn s p.val n 1 .victim 0)) ∧
    (∀ w : Nat, x.conflict = false → leastWorn ((fullBlocks x).map (fun b => (blockWear b.2, b.1))) = some (w, n) → wearSpread s x = true →
      exec (.wearLevel p) s = .next (evacuateIn s p.val n 3 .victim 0)) ∧
    (x.conflict = false → (b.st = .victim ∨ b.st = .suspect) → exec (.relocation p n) s = .next (relocate s p.val n)) ∧
    (b.st = .erasePending → exec (.blockErase p n) s = .next (deallocCheck (eraseBlock s p.val n)) ∧
      (∀ blank : Bool, exec (.eraseFail p n blank) s =
        .next (deallocCheck (retireBlock (bump s 0xA400 8 1) p.val n (if blank then 2 else 1))))) ∧
    (b.st = .full →
      (x.conflict = false → disturbLimit s b ≤ b.reads → exec (.disturbRefresh p n) s = .next (evacuateIn s p.val n 4 .victim 0)) ∧
      (b.reads < disturbLimit s b → exec (.disturbRefresh p n) s = .next s) ∧
      (x.conflict = false → exec (.retentionRefresh p n) s = .next (evacuateIn s p.val n 4 .victim 0)) ∧
      (∀ (page : Nat) (level : Fin 5), exec (.patrolRead p n page level) s = .next (patrolBlock s p.val n page level.val))) ∧
    (b.st = .opened → exec (.programFail p n) s = .next (programFail s p.val n) ∧ exec (.suspectBlock p n) s = .next (suspectBlock s p.val n)) ∧
    (∀ q, x.dirty.contains n = true → x.conflict = false → placeRef x .mapPages (.mapPage n) s.bell.count = some q →
      ∃ t, exec (.mapPageWriteback p n) s = .next t ∧ n ∉ (packageOf t p.val).dirty ∧ mapAt (packageOf t p.val) (.mapPage n) = some q.1 ∧
        (∃ k ≤ 3, t.health.nandBytes = s.health.nandBytes + 16384 + 65536 * k) ∧ t = { s with packages := t.packages, health := t.health }) ∧
    (∀ f q, fullMetadata x = some f → openOf x .metadata s.bell.count = some q → ∃ t, exec (.metadataRollover p) s = .next t ∧
      (blockAt (packageOf t p.val) f.1).st = .erasePending ∧ t.health.nandBytes = s.health.nandBytes + 65536 * (newestRecords x f.2).length ∧
      t = { s with packages := t.packages, health := t.health }) ∧
    (∀ d : Fin 12, (∃ y ∈ x.blocks, dieOf y.1 = d.val ∧ y.2.st = .erasePending) → mapGet x.suspends d.val 0 < 16 →
      exec (.readSuspend p d) s = .next (bump { s with packages := mapSet s.packages p.val { x with
        suspends := mapSet x.suspends d.val (mapGet x.suspends d.val 0 + 1) } } 0xA400 6 1)) ∧
    (∀ failed : Bool, s.sanitize.running = true → exec (.sanitizeComplete failed) s = .next (sanitizeEnd s failed)) ∧
    (s.sanitize.running = false → exec (.sanitizeComplete true) s = .next s)

/-! ### Reset and fuses -/

/-- What the spec says the machine is at power-on: stage 0; no session, ring, operation, frame or staged write; every dictionary entry at its default; the registers of the code flash, the check-value units and the watchdog at their reset values; the Bell counter at 0; no endpoint ID assigned. -/
def Obligations.WhatPowerOnLeaves : Prop :=
  let s := State.reset
  s.power.stage = 0 ∧ s.sessions = [] ∧ s.pf1 = [] ∧ s.frames = [] ∧ s.ops = [] ∧ s.staging = none ∧ s.pending = [] ∧
  (∀ (ix sub : Nat) (e : OdEntry), odFind ix sub = some e → odGet s ix sub = e.dflt) ∧
  s.flash.lock = 0 ∧ s.flash.fstat = 0 ∧ s.flash.fctl = 7 ∧ s.flash.fprot = 0 ∧ s.watchdog.ctl = 64 ∧ s.watchdog.lastwd = false ∧
  (∀ n : Nat, (unitOf s n).ctl = 0 ∧ (unitOf s n).stat = 0 ∧ (unitOf s n).expected = 0 ∧ cvResult n (unitOf s n) = 0) ∧
  s.bell.count = 0 ∧ (∀ n : Nat, mapGet s.eids n 0 = 0)

/-- No step clears a fuse (R449): the root digest, the revocation fuses, the identity seed, the grade and the mask of engines fused off stay as they are, no anti-rollback counter decreases, and none passes 64. -/
def Obligations.FusesNeverCleared : Prop :=
  ∀ s t : State, step s = .next t →
    t.fuse.rootDigest = s.fuse.rootDigest ∧ t.fuse.revoked = s.fuse.revoked ∧ t.fuse.seed = s.fuse.seed ∧ t.fuse.grade = s.fuse.grade ∧
    t.fuse.fused = s.fuse.fused ∧ (∀ n : Nat, counterOf s n ≤ counterOf t n) ∧
    ((∀ n : Nat, counterOf s n ≤ 64) → ∀ n : Nat, counterOf t n ≤ 64)

/-! ### Encodings read back -/

/-- Every PDU the module sends reads back field by field and passes its check, and every Kamlin frame it sends keeps the layout it demands of others and reads back field by field, its payload padded to whole units and its poison marks set. -/
def Obligations.PdusAndFramesReadBack : Prop :=
  (∀ (svc status flags session alive ix sb ty offset : Nat) (data : List Byte), svc < 256 → status < 256 → flags < 256 → session < 65536 →
    alive < 65536 → ix < 65536 → sb < 256 → ty < 256 → offset < 2 ^ 32 → data.length < 65536 →
    let b := pdu svc status flags session alive ix sb ty offset data
    b.length = 24 + data.length ∧ rqSvc b = svc ∧ leAt b 2 1 = status ∧ rqFlags b = flags ∧ rqSession b = session ∧ rqAlive b = alive ∧
    rqIndex b = ix ∧ rqSub b = sb ∧ rqType b = ty ∧ rqOffset b = offset ∧ rqLength b = data.length ∧
    (svc ≠ 5 → rqData b = data ∧ pduShape b = true ∧ pduSound b = true)) ∧
  (∀ (type cls dst src croft tag step attempt : Nat) (last : Bool) (params payload : List Byte) (marks : List Nat),
    (1 ≤ type ∧ type ≤ 0x0A ∧ cls < 8) ∨ (0x10 ≤ type ∧ type ≤ 0x13 ∧ cls = 8) → dst < 256 → src < 256 → croft < 256 → tag < 2 ^ 64 →
    step < 2 ^ 64 → attempt < 65536 → params.length = 32 → payload.length ≤ 32 * 1025 → (∀ u ∈ marks, 32 * u < payload.length) →
    let b := mkFrame type cls dst src croft tag step attempt last params payload marks
    frameOk b = true ∧ frType b = type ∧ leAt b 1 1 = cls ∧ frDst b = dst ∧ frSrc b = src ∧ frCroft b = croft ∧ frTag b = tag ∧
    frStep b = step ∧ frAttempt b = attempt ∧ frLast b = last ∧ sub b 32 32 = params ∧ 32 * frUnits b = (payload.length + 31) / 32 * 32 ∧
    (frPayload b).take payload.length = payload ∧ (∀ u : Nat, u ∈ frMarks b ↔ u ∈ marks))
end

