-- ==== Sys2Proof/Laws/Maps.lean ====
section
/-! SUPPORT. Laws of finite maps and byte memories: what a lookup gives after each operation, and that every operation keeps the canonical form. -/

namespace Sys2Proof.Machine

/-! ### Finite maps -/

theorem lookup_append {α : Type} (a b : FMap α) (k : Nat) : (a ++ b).lookup k = (a.lookup k).or (b.lookup k) := by
  induction a with
  | nil => simp
  | cons p t ih =>
    obtain ⟨q, x⟩ := p
    simp only [List.cons_append, List.lookup_cons, ih]
    cases k == q <;> simp

theorem lookup_filter {α : Type} (m : FMap α) (p : Nat → Bool) (k : Nat) :
    List.lookup k (m.filter (fun x => p x.1)) = if p k then m.lookup k else none := by
  induction m with
  | nil => simp
  | cons x t ih =>
    obtain ⟨q, y⟩ := x
    by_cases hk : k = q
    · subst hk
      by_cases hp : p k = true
      · simp [hp]
      · simp only [List.filter_cons, hp, Bool.false_eq_true, if_false] at ih ⊢
        exact ih
    · have hb : (k == q) = false := by simpa using hk
      by_cases hq : p q = true <;> simp [List.lookup_cons, hq, hb, ih]

@[simp] theorem mapGet?_mapSet {α : Type} (m : FMap α) (k k' : Nat) (v : α) :
    mapGet? (mapSet m k v) k' = if k' = k then some v else mapGet? m k' := by
  unfold mapGet? mapSet
  rw [lookup_append, lookup_filter m (fun x => decide (x < k))]
  by_cases h : k' = k
  · simp [h]
  · have hb : (k' == k) = false := by simpa using h
    rw [List.lookup_cons, hb, lookup_filter m (fun x => decide (k < x))]
    by_cases hl : k' < k
    · have : ¬ k < k' := by omega
      simp [h, hl, this]
    · have : k < k' := by omega
      simp [h, hl, this]

@[simp] theorem mapGet?_mapDel {α : Type} (m : FMap α) (k k' : Nat) :
    mapGet? (mapDel m k) k' = if k' = k then none else mapGet? m k' := by
  unfold mapGet? mapDel
  rw [lookup_filter m (fun x => x != k)]
  by_cases h : k' = k <;> simp [h]

@[simp] theorem mapGet?_mapMod {α : Type} (m : FMap α) (k k' : Nat) (f : α → α) :
    mapGet? (mapMod m k f) k' = if k' = k then (mapGet? m k').map f else mapGet? m k' := by
  unfold mapGet? mapMod
  induction m with
  | nil => simp
  | cons p t ih =>
    obtain ⟨q, x⟩ := p
    by_cases hq : q = k
    · subst hq
      by_cases hk : k' = q
      · subst hk; simp
      · have hb : (k' == q) = false := by simpa using hk
        simpa [List.lookup_cons, hb, hk] using ih
    · by_cases hk : k' = q
      · subst hk; simp [hq]
      · have hb : (k' == q) = false := by simpa using hk
        simpa [List.lookup_cons, hb, hq] using ih

@[simp] theorem mapGet_mapSet {α : Type} (m : FMap α) (k k' : Nat) (v d : α) :
    mapGet (mapSet m k v) k' d = if k' = k then v else mapGet m k' d := by
  have h := mapGet?_mapSet m k k' v
  unfold mapGet? at h
  unfold mapGet
  rw [h]
  by_cases hk : k' = k <;> simp [hk]

/-! ### Canonical form of maps -/

@[simp] theorem mapSet_mapSet {α : Type} (m : FMap α) (k : Nat) (v w : α) : mapSet (mapSet m k v) k w = mapSet m k w := by
  have a : ∀ p : Nat × α, (decide (p.1 < k) && decide (k < p.1)) = false := by intro p; simp; omega
  have b : ∀ p : Nat × α, (decide (k < p.1) && decide (p.1 < k)) = false := by intro p; simp; omega
  unfold mapSet
  simp [List.filter_append, List.filter_filter, a, b]

theorem mapWf_iff {α : Type} (m : FMap α) : mapWf m = true ↔ (m.map (·.1)).Pairwise (· < ·) := by simp [mapWf]

theorem mapWf_filter {α : Type} (m : FMap α) (p : Nat × α → Bool) (h : mapWf m = true) : mapWf (m.filter p) = true := by
  rw [mapWf_iff] at h ⊢
  exact h.sublist (List.Sublist.map _ (List.filter_sublist))

/-- Setting a key keeps the keys rising. -/
theorem mapWf_mapSet {α : Type} (m : FMap α) (k : Nat) (v : α) (h : mapWf m = true) : mapWf (mapSet m k v) = true := by
  rw [mapWf_iff] at h ⊢
  unfold mapSet
  rw [List.map_append, List.map_cons, List.pairwise_append, List.pairwise_cons]
  have low : (List.map (·.1) (m.filter (fun p => decide (p.1 < k)))).Pairwise (· < ·) := h.sublist (List.Sublist.map _ List.filter_sublist)
  have high : (List.map (·.1) (m.filter (fun p => decide (k < p.1)))).Pairwise (· < ·) := h.sublist (List.Sublist.map _ List.filter_sublist)
  refine ⟨low, ⟨?_, high⟩, ?_⟩
  · intro a ha
    obtain ⟨p, hp, rfl⟩ := List.mem_map.mp ha
    simpa using (List.mem_filter.mp hp).2
  · intro a ha b hb
    obtain ⟨p, hp, rfl⟩ := List.mem_map.mp ha
    have hp' : p.1 < k := by simpa using (List.mem_filter.mp hp).2
    rcases List.mem_cons.mp hb with hb | hb
    · rw [hb]; exact hp'
    · obtain ⟨q, hq, rfl⟩ := List.mem_map.mp hb
      have hq' : k < q.1 := by simpa using (List.mem_filter.mp hq).2
      omega

/-- Deleting a key keeps the keys rising. -/
theorem mapWf_mapDel {α : Type} (m : FMap α) (k : Nat) (h : mapWf m = true) : mapWf (mapDel m k) = true := mapWf_filter m _ h

/-- Changing a listed value keeps the keys rising. -/
theorem mapWf_mapMod {α : Type} (m : FMap α) (k : Nat) (f : α → α) (h : mapWf m = true) : mapWf (mapMod m k f) = true := by
  rw [mapWf_iff] at h ⊢
  unfold mapMod
  rw [List.map_map]
  refine (List.map_congr_left ?_).symm ▸ h
  intro p _
  simp only [Function.comp]
  split <;> rfl

/-! ### Byte memories -/

theorem memWf_iff (d : Byte) (m : Memory) :
    memWf d m = true ↔ (m.map (·.1)).Pairwise (· < ·) ∧ ∀ c ∈ m, c.2 ≠ d := by simp [memWf]

/-- Reading after writing one byte. -/
@[simp] theorem memGet_memPut (d : Byte) (m : Memory) (a x : Nat) (b : Byte) :
    memGet d (memPut d m a b) x = if x = a then b else memGet d m x := by
  unfold memGet memPut
  rw [lookup_append (α := Byte), lookup_append (α := Byte), lookup_filter (α := Byte) m (fun y => decide (y < a)),
    lookup_filter (α := Byte) m (fun y => decide (a < y))]
  by_cases hx : x = a
  · subst hx
    by_cases hb : b = d <;> simp [hb]
  · have hb' : (x == a) = false := by simpa using hx
    have hone : List.lookup x (if b = d then [] else [(a, b)]) = none := by
      split <;> simp [List.lookup_cons, hb']
    rw [hone]
    by_cases hl : x < a
    · have : ¬ a < x := by omega
      simp [hx, hl, this]
    · have : a < x := by omega
      simp [hx, hl, this]

theorem cellsOf_lower (d : Byte) (a : Nat) (bs : List Byte) : ∀ c ∈ cellsOf d a bs, a ≤ c.1 ∧ c.1 < a + bs.length ∧ c.2 ≠ d := by
  induction bs generalizing a with
  | nil => simp [cellsOf]
  | cons b bs ih =>
    intro c hc
    unfold cellsOf at hc
    simp only [List.length_cons]
    split at hc
    · obtain ⟨h1, h2, h3⟩ := ih (a + 1) c hc; exact ⟨by omega, by omega, h3⟩
    · rename_i hb
      rcases List.mem_cons.mp hc with h | h
      · subst h; exact ⟨Nat.le_refl _, by show a < _; omega, hb⟩
      · obtain ⟨h1, h2, h3⟩ := ih (a + 1) c h; exact ⟨by omega, by omega, h3⟩

theorem cellsOf_rising (d : Byte) (a : Nat) (bs : List Byte) : ((cellsOf d a bs).map (·.1)).Pairwise (· < ·) := by
  induction bs generalizing a with
  | nil => simp [cellsOf]
  | cons b bs ih =>
    unfold cellsOf
    split
    · exact ih _
    · rw [List.map_cons, List.pairwise_cons]
      refine ⟨?_, ih _⟩
      intro x hx
      obtain ⟨c, hc, rfl⟩ := List.mem_map.mp hx
      have := (cellsOf_lower d (a + 1) bs c hc).1
      show a < c.1
      omega

theorem memWf_glue (d : Byte) (m n : Memory) (a b : Nat) (hab : a ≤ b) (hm : memWf d m = true)
    (hn : (n.map (·.1)).Pairwise (· < ·)) (hr : ∀ c ∈ n, a ≤ c.1 ∧ c.1 < b ∧ c.2 ≠ d) :
    memWf d (m.filter (fun c => decide (c.1 < a)) ++ n ++ m.filter (fun c => decide (b ≤ c.1))) = true := by
  rw [memWf_iff] at hm ⊢
  obtain ⟨hm1, hm2⟩ := hm
  constructor
  · rw [List.map_append, List.map_append, List.pairwise_append, List.pairwise_append]
    refine ⟨⟨hm1.sublist (List.Sublist.map _ List.filter_sublist), hn, ?_⟩, hm1.sublist (List.Sublist.map _ List.filter_sublist), ?_⟩
    · intro x hx y hy
      obtain ⟨p, hp, rfl⟩ := List.mem_map.mp hx
      obtain ⟨q, hq, rfl⟩ := List.mem_map.mp hy
      have h1 : p.1 < a := by simpa using (List.mem_filter.mp hp).2
      have h2 := (hr q hq).1
      omega
    · intro x hx y hy
      obtain ⟨q, hq, rfl⟩ := List.mem_map.mp hy
      have h2 : b ≤ q.1 := by simpa using (List.mem_filter.mp hq).2
      rcases List.mem_append.mp hx with h | h
      · obtain ⟨p, hp, rfl⟩ := List.mem_map.mp h
        have h1 : p.1 < a := by simpa using (List.mem_filter.mp hp).2
        omega
      · obtain ⟨p, hp, rfl⟩ := List.mem_map.mp h
        have := (hr p hp).2.1
        omega
  · intro c hc
    rcases List.mem_append.mp hc with h | h
    · rcases List.mem_append.mp h with h | h
      · exact hm2 c (List.mem_filter.mp h).1
      · exact (hr c h).2.2
    · exact hm2 c (List.mem_filter.mp h).1

/-- Writing one byte keeps the canonical form. -/
theorem memWf_memPut (d : Byte) (m : Memory) (a : Nat) (b : Byte) (h : memWf d m = true) : memWf d (memPut d m a b) = true := by
  have e : m.filter (fun c => decide (a < c.1)) = m.filter (fun c => decide (a + 1 ≤ c.1)) := rfl
  unfold memPut
  rw [e]
  refine memWf_glue d m _ a (a + 1) (by omega) h ?_ ?_
  · split <;> simp
  · intro c hc
    split at hc
    · simp at hc
    · rename_i hb
      have := List.mem_singleton.mp hc
      subst this
      exact ⟨Nat.le_refl _, by show a < a + 1; omega, hb⟩

/-- Writing a run of bytes keeps the canonical form. -/
theorem memWf_memPutL (d : Byte) (m : Memory) (a : Nat) (bs : List Byte) (h : memWf d m = true) : memWf d (memPutL d m a bs) = true :=
  memWf_glue d m _ a (a + bs.length) (by omega) h (cellsOf_rising d a bs) (cellsOf_lower d a bs)

/-- Clearing a range keeps the canonical form. -/
theorem memWf_memClear (d : Byte) (m : Memory) (a n : Nat) (h : memWf d m = true) : memWf d (memClear m a n) = true := by
  rw [memWf_iff] at h ⊢
  exact ⟨h.1.sublist (List.Sublist.map _ List.filter_sublist), fun c hc => h.2 c (List.mem_filter.mp hc).1⟩

/-- Cutting a range out and shifting it keeps the canonical form, within the range's new place. -/
theorem memSlice_spec (d : Byte) (m : Memory) (a n b : Nat) (h : memWf d m = true) :
    ((memSlice m a n b).map (·.1)).Pairwise (· < ·) ∧ ∀ c ∈ memSlice m a n b, b ≤ c.1 ∧ c.1 < b + n ∧ c.2 ≠ d := by
  rw [memWf_iff] at h
  have hmem : ∀ c ∈ m.filter (fun c => a ≤ c.1 && c.1 < a + n), a ≤ c.1 ∧ c.1 < a + n ∧ c.2 ≠ d := by
    intro c hc
    obtain ⟨h1, h2⟩ := List.mem_filter.mp hc
    simp only [Bool.and_eq_true, decide_eq_true_eq] at h2
    exact ⟨h2.1, h2.2, h.2 c h1⟩
  unfold memSlice
  constructor
  · rw [List.map_map]
    have hp : ((m.filter (fun c => a ≤ c.1 && c.1 < a + n)).map (·.1)).Pairwise (· < ·) := h.1.sublist (List.Sublist.map _ List.filter_sublist)
    rw [List.pairwise_map] at hp ⊢
    refine hp.imp_of_mem ?_
    intro x y hx hy hxy
    have h1 := hmem x hx
    have h2 := hmem y hy
    show x.1 - a + b < y.1 - a + b
    omega
  · intro c hc
    obtain ⟨p, hp, rfl⟩ := List.mem_map.mp hc
    obtain ⟨h1, h2, h3⟩ := hmem p hp
    exact ⟨by show b ≤ p.1 - a + b; omega, by show p.1 - a + b < b + n; omega, h3⟩

/-- A slice of a canonical memory is canonical. -/
theorem memWf_memSlice (d : Byte) (m : Memory) (a n b : Nat) (h : memWf d m = true) : memWf d (memSlice m a n b) = true := by
  rw [memWf_iff]
  exact ⟨(memSlice_spec d m a n b h).1, fun c hc => ((memSlice_spec d m a n b h).2 c hc).2.2⟩

/-- Copying a range keeps the canonical form. -/
theorem memWf_memBlit (d : Byte) (dst : Memory) (b : Nat) (src : Memory) (a n : Nat) (h : memWf d dst = true) (hs : memWf d src = true) :
    memWf d (memBlit dst b src a n) = true :=
  memWf_glue d dst _ b (b + n) (by omega) h (memSlice_spec d src a n b hs).1 (memSlice_spec d src a n b hs).2

theorem lookup_none_of_not_mem {α : Type} (m : FMap α) (x : Nat) (h : ∀ c ∈ m, c.1 ≠ x) : m.lookup x = none := by
  rw [List.lookup_eq_none_iff]
  intro p hp
  have := h p hp
  simpa using fun e => this e.symm

/-- Writing a run of bytes leaves every byte outside the run. -/
theorem memGet_memPutL_outside (d : Byte) (m : Memory) (a x : Nat) (bs : List Byte) (h : x < a ∨ a + bs.length ≤ x) :
    memGet d (memPutL d m a bs) x = memGet d m x := by
  unfold memGet memPutL
  rw [lookup_append (α := Byte), lookup_append (α := Byte), lookup_filter (α := Byte) m (fun y => decide (y < a)),
    lookup_filter (α := Byte) m (fun y => decide (a + bs.length ≤ y))]
  have hn : List.lookup x (cellsOf d a bs) = none := by
    apply lookup_none_of_not_mem (α := Byte)
    intro c hc
    have := cellsOf_lower d a bs c hc
    omega
  rw [hn]
  rcases h with h | h
  · have : ¬ a + bs.length ≤ x := by omega
    simp [h, this]
  · have : ¬ x < a := by omega
    simp [h, this]

theorem lookup_cellsOf (d : Byte) (a i : Nat) (bs : List Byte) (h : i < bs.length) :
    (List.lookup (a + i) (cellsOf d a bs)).getD d = bs[i] := by
  induction bs generalizing a i with
  | nil => simp at h
  | cons b bs ih =>
    unfold cellsOf
    cases i with
    | zero =>
      have hn : List.lookup a (cellsOf d (a + 1) bs) = none := by
        apply lookup_none_of_not_mem (α := Byte)
        intro c hc
        have := (cellsOf_lower d (a + 1) bs c hc).1
        omega
      by_cases hb : b = d
      · simp [hb, hn]
      · simp [hb]
    | succ i =>
      have h' : i < bs.length := by simpa using h
      have := ih (a + 1) i h'
      have e : a + 1 + i = a + (i + 1) := by omega
      rw [e] at this
      have hb' : (a + (i + 1) == a) = false := by simp
      split <;> simp [List.lookup_cons, hb', this]

/-- A byte of a run just written reads as written. -/
theorem memGet_memPutL_inside (d : Byte) (m : Memory) (a i : Nat) (bs : List Byte) (h : i < bs.length) :
    memGet d (memPutL d m a bs) (a + i) = bs[i] := by
  unfold memGet memPutL
  rw [lookup_append (α := Byte), lookup_append (α := Byte), lookup_filter (α := Byte) m (fun y => decide (y < a)),
    lookup_filter (α := Byte) m (fun y => decide (a + bs.length ≤ y))]
  have h1 : ¬ a + i < a := by omega
  have h2 : ¬ a + bs.length ≤ a + i := by omega
  simp only [h1, h2, decide_false, Bool.false_eq_true, if_false, Option.none_or, Option.or_none]
  exact lookup_cellsOf d a i bs h

/-- `sub` gives as many bytes as asked for. -/
theorem sub_length (bs : List Byte) (i n : Nat) : (sub bs i n).length = n := by simp [sub]

/-- The bytes of `sub`: those of the list, zeros beyond its end. -/
theorem sub_getElem (bs : List Byte) (i n k : Nat) (h : k < n) : (sub bs i n)[k]? = some ((bs[i + k]?).getD 0) := by
  simp only [sub, List.getElem?_append, List.length_take, List.length_drop]
  split
  · rw [List.getElem?_take_of_lt (by omega), List.getElem?_drop, List.getElem?_eq_getElem (by omega)]; rfl
  · rw [List.getElem?_replicate, if_pos (by omega), List.getElem?_eq_none (by omega)]; rfl

/-- A byte of a list laid out from address 0. -/
theorem memGet_cellsOf (bs : List Byte) (x : Nat) : memGet 0 (cellsOf 0 0 bs) x = (bs[x]?).getD 0 := by
  unfold memGet
  by_cases h : x < bs.length
  · have := lookup_cellsOf 0 0 x bs h
    rw [Nat.zero_add] at this
    rw [this, List.getElem?_eq_getElem h]; rfl
  · rw [lookup_none_of_not_mem _ _ (fun c hc => by have := cellsOf_lower 0 0 bs c hc; omega), List.getElem?_eq_none (by omega)]

/-- A range of a list laid out from address 0 is that range of the list. -/
theorem memGetL_cellsOf (bs : List Byte) (a n : Nat) : memGetL 0 (cellsOf 0 0 bs) a n = sub bs a n := by
  apply List.ext_getElem?
  intro k
  by_cases h : k < n
  · rw [sub_getElem _ _ _ _ h, memGetL, List.getElem?_map, List.getElem?_range h]
    simp only [Option.map_some, memGet_cellsOf]
  · rw [List.getElem?_eq_none (by simp [memGetL]; omega), List.getElem?_eq_none (by rw [sub_length]; omega)]

/-- Bytes of the first of two lists. -/
theorem sub_append_left (x y : List Byte) (a n : Nat) (h : a + n ≤ x.length) : sub (x ++ y) a n = sub x a n := by
  apply List.ext_getElem?
  intro k
  by_cases hk : k < n
  · rw [sub_getElem _ _ _ _ hk, sub_getElem _ _ _ _ hk, List.getElem?_append_left (by omega)]
  · rw [List.getElem?_eq_none (by rw [sub_length]; omega), List.getElem?_eq_none (by rw [sub_length]; omega)]

/-- Bytes of the second of two lists. -/
theorem sub_append_right (x y : List Byte) (a n : Nat) (h : x.length ≤ a) : sub (x ++ y) a n = sub y (a - x.length) n := by
  apply List.ext_getElem?
  intro k
  by_cases hk : k < n
  · rw [sub_getElem _ _ _ _ hk, sub_getElem _ _ _ _ hk, List.getElem?_append_right (by omega)]
    congr 3; omega
  · rw [List.getElem?_eq_none (by rw [sub_length]; omega), List.getElem?_eq_none (by rw [sub_length]; omega)]
end Sys2Proof.Machine
end

