-- ==== Sys2Proof/Laws/State.lean ====
section
/-! SUPPORT. What each named update of the state does to each of its fields, so that no later proof unfolds a record update. -/

set_option linter.all false

namespace Sys2Proof.Machine

/-! ### odPut -/

@[simp] theorem odPut_pending (s : State) (i sub v : Nat) : (odPut s i sub v).pending = s.pending := rfl
@[simp] theorem odPut_freeCtr (s : State) (i sub v : Nat) : (odPut s i sub v).freeCtr = s.freeCtr := rfl
@[simp] theorem odPut_fuse (s : State) (i sub v : Nat) : (odPut s i sub v).fuse = s.fuse := rfl
@[simp] theorem odPut_serial (s : State) (i sub v : Nat) : (odPut s i sub v).serial = s.serial := rfl
@[simp] theorem odPut_slotId (s : State) (i sub v : Nat) : (odPut s i sub v).slotId = s.slotId := rfl
@[simp] theorem odPut_od (s : State) (i sub v : Nat) : (odPut s i sub v).od = mapSet s.od (odKey i sub) v := rfl
@[simp] theorem odPut_convs (s : State) (i sub v : Nat) : (odPut s i sub v).convs = s.convs := rfl
@[simp] theorem odPut_doms (s : State) (i sub v : Nat) : (odPut s i sub v).doms = s.doms := rfl
@[simp] theorem odPut_dictA (s : State) (i sub v : Nat) : (odPut s i sub v).dictA = s.dictA := rfl
@[simp] theorem odPut_dictB (s : State) (i sub v : Nat) : (odPut s i sub v).dictB = s.dictB := rfl
@[simp] theorem odPut_dictConflict (s : State) (i sub v : Nat) : (odPut s i sub v).dictConflict = s.dictConflict := rfl
@[simp] theorem odPut_savePending (s : State) (i sub v : Nat) : (odPut s i sub v).savePending = s.savePending := rfl
@[simp] theorem odPut_sessions (s : State) (i sub v : Nat) : (odPut s i sub v).sessions = s.sessions := rfl
@[simp] theorem odPut_sent (s : State) (i sub v : Nat) : (odPut s i sub v).sent = s.sent := rfl
@[simp] theorem odPut_parked (s : State) (i sub v : Nat) : (odPut s i sub v).parked = s.parked := rfl
@[simp] theorem odPut_odWaiting (s : State) (i sub v : Nat) : (odPut s i sub v).odWaiting = s.odWaiting := rfl
@[simp] theorem odPut_staging (s : State) (i sub v : Nat) : (odPut s i sub v).staging = s.staging := rfl
@[simp] theorem odPut_reeveUp (s : State) (i sub v : Nat) : (odPut s i sub v).reeveUp = s.reeveUp := rfl
@[simp] theorem odPut_macAddr (s : State) (i sub v : Nat) : (odPut s i sub v).macAddr = s.macAddr := rfl
@[simp] theorem odPut_t1s (s : State) (i sub v : Nat) : (odPut s i sub v).t1s = s.t1s := rfl
@[simp] theorem odPut_eids (s : State) (i sub v : Nat) : (odPut s i sub v).eids = s.eids := rfl
@[simp] theorem odPut_log (s : State) (i sub v : Nat) : (odPut s i sub v).log = s.log := rfl
@[simp] theorem odPut_logSeq (s : State) (i sub v : Nat) : (odPut s i sub v).logSeq = s.logSeq := rfl
@[simp] theorem odPut_logSaved (s : State) (i sub v : Nat) : (odPut s i sub v).logSaved = s.logSaved := rfl
@[simp] theorem odPut_pf1 (s : State) (i sub v : Nat) : (odPut s i sub v).pf1 = s.pf1 := rfl
@[simp] theorem odPut_nvme (s : State) (i sub v : Nat) : (odPut s i sub v).nvme = s.nvme := rfl
@[simp] theorem odPut_perst (s : State) (i sub v : Nat) : (odPut s i sub v).perst = s.perst := rfl
@[simp] theorem odPut_linkUp (s : State) (i sub v : Nat) : (odPut s i sub v).linkUp = s.linkUp := rfl
@[simp] theorem odPut_layout (s : State) (i sub v : Nat) : (odPut s i sub v).layout = s.layout := rfl
@[simp] theorem odPut_host (s : State) (i sub v : Nat) : (odPut s i sub v).host = s.host := rfl
@[simp] theorem odPut_namespaces (s : State) (i sub v : Nat) : (odPut s i sub v).namespaces = s.namespaces := rfl
@[simp] theorem odPut_sanitize (s : State) (i sub v : Nat) : (odPut s i sub v).sanitize = s.sanitize := rfl
@[simp] theorem odPut_deallocs (s : State) (i sub v : Nat) : (odPut s i sub v).deallocs = s.deallocs := rfl
@[simp] theorem odPut_sdSeq (s : State) (i sub v : Nat) : (odPut s i sub v).sdSeq = s.sdSeq := rfl
@[simp] theorem odPut_sdRecords (s : State) (i sub v : Nat) : (odPut s i sub v).sdRecords = s.sdRecords := rfl
@[simp] theorem odPut_crofts (s : State) (i sub v : Nat) : (odPut s i sub v).crofts = s.crofts := rfl
@[simp] theorem odPut_nextJob (s : State) (i sub v : Nat) : (odPut s i sub v).nextJob = s.nextJob := rfl
@[simp] theorem odPut_nextHandle (s : State) (i sub v : Nat) : (odPut s i sub v).nextHandle = s.nextHandle := rfl
@[simp] theorem odPut_exports (s : State) (i sub v : Nat) : (odPut s i sub v).exports = s.exports := rfl
@[simp] theorem odPut_segs (s : State) (i sub v : Nat) : (odPut s i sub v).segs = s.segs := rfl
@[simp] theorem odPut_nextSerial (s : State) (i sub v : Nat) : (odPut s i sub v).nextSerial = s.nextSerial := rfl
@[simp] theorem odPut_nextSpill (s : State) (i sub v : Nat) : (odPut s i sub v).nextSpill = s.nextSpill := rfl
@[simp] theorem odPut_ops (s : State) (i sub v : Nat) : (odPut s i sub v).ops = s.ops := rfl
@[simp] theorem odPut_nextOp (s : State) (i sub v : Nat) : (odPut s i sub v).nextOp = s.nextOp := rfl
@[simp] theorem odPut_frames (s : State) (i sub v : Nat) : (odPut s i sub v).frames = s.frames := rfl
@[simp] theorem odPut_seedInEffect (s : State) (i sub v : Nat) : (odPut s i sub v).seedInEffect = s.seedInEffect := rfl
@[simp] theorem odPut_hbm (s : State) (i sub v : Nat) : (odPut s i sub v).hbm = s.hbm := rfl
@[simp] theorem odPut_ramps (s : State) (i sub v : Nat) : (odPut s i sub v).ramps = s.ramps := rfl
@[simp] theorem odPut_rampPtr (s : State) (i sub v : Nat) : (odPut s i sub v).rampPtr = s.rampPtr := rfl
@[simp] theorem odPut_flashPtr (s : State) (i sub v : Nat) : (odPut s i sub v).flashPtr = s.flashPtr := rfl
@[simp] theorem odPut_droverPtr (s : State) (i sub v : Nat) : (odPut s i sub v).droverPtr = s.droverPtr := rfl
@[simp] theorem odPut_packages (s : State) (i sub v : Nat) : (odPut s i sub v).packages = s.packages := rfl
@[simp] theorem odPut_health (s : State) (i sub v : Nat) : (odPut s i sub v).health = s.health := rfl
@[simp] theorem odPut_mediaReadOnly (s : State) (i sub v : Nat) : (odPut s i sub v).mediaReadOnly = s.mediaReadOnly := rfl
@[simp] theorem odPut_ports (s : State) (i sub v : Nat) : (odPut s i sub v).ports = s.ports := rfl
@[simp] theorem odPut_kamlinAddr (s : State) (i sub v : Nat) : (odPut s i sub v).kamlinAddr = s.kamlinAddr := rfl
@[simp] theorem odPut_orDone (s : State) (i sub v : Nat) : (odPut s i sub v).orDone = s.orDone := rfl
@[simp] theorem odPut_stranded (s : State) (i sub v : Nat) : (odPut s i sub v).stranded = s.stranded := rfl
@[simp] theorem odPut_bell (s : State) (i sub v : Nat) : (odPut s i sub v).bell = s.bell := rfl
@[simp] theorem odPut_flash (s : State) (i sub v : Nat) : (odPut s i sub v).flash = s.flash := rfl
@[simp] theorem odPut_units (s : State) (i sub v : Nat) : (odPut s i sub v).units = s.units := rfl
@[simp] theorem odPut_watchdog (s : State) (i sub v : Nat) : (odPut s i sub v).watchdog = s.watchdog := rfl
@[simp] theorem odPut_inputs (s : State) (i sub v : Nat) : (odPut s i sub v).inputs = s.inputs := rfl
@[simp] theorem odPut_plant (s : State) (i sub v : Nat) : (odPut s i sub v).plant = s.plant := rfl
@[simp] theorem odPut_power (s : State) (i sub v : Nat) : (odPut s i sub v).power = s.power := rfl
@[simp] theorem odPut_sec (s : State) (i sub v : Nat) : (odPut s i sub v).sec = s.sec := rfl

/-! ### bump -/

@[simp] theorem bump_pending (s : State) (i sub n : Nat) : (bump s i sub n).pending = s.pending := by unfold bump; split <;> rfl
@[simp] theorem bump_freeCtr (s : State) (i sub n : Nat) : (bump s i sub n).freeCtr = s.freeCtr := by unfold bump; split <;> rfl
@[simp] theorem bump_fuse (s : State) (i sub n : Nat) : (bump s i sub n).fuse = s.fuse := by unfold bump; split <;> rfl
@[simp] theorem bump_serial (s : State) (i sub n : Nat) : (bump s i sub n).serial = s.serial := by unfold bump; split <;> rfl
@[simp] theorem bump_slotId (s : State) (i sub n : Nat) : (bump s i sub n).slotId = s.slotId := by unfold bump; split <;> rfl
@[simp] theorem bump_convs (s : State) (i sub n : Nat) : (bump s i sub n).convs = s.convs := by unfold bump; split <;> rfl
@[simp] theorem bump_doms (s : State) (i sub n : Nat) : (bump s i sub n).doms = s.doms := by unfold bump; split <;> rfl
@[simp] theorem bump_dictA (s : State) (i sub n : Nat) : (bump s i sub n).dictA = s.dictA := by unfold bump; split <;> rfl
@[simp] theorem bump_dictB (s : State) (i sub n : Nat) : (bump s i sub n).dictB = s.dictB := by unfold bump; split <;> rfl
@[simp] theorem bump_dictConflict (s : State) (i sub n : Nat) : (bump s i sub n).dictConflict = s.dictConflict := by unfold bump; split <;> rfl
@[simp] theorem bump_savePending (s : State) (i sub n : Nat) : (bump s i sub n).savePending = s.savePending := by unfold bump; split <;> rfl
@[simp] theorem bump_sessions (s : State) (i sub n : Nat) : (bump s i sub n).sessions = s.sessions := by unfold bump; split <;> rfl
@[simp] theorem bump_sent (s : State) (i sub n : Nat) : (bump s i sub n).sent = s.sent := by unfold bump; split <;> rfl
@[simp] theorem bump_parked (s : State) (i sub n : Nat) : (bump s i sub n).parked = s.parked := by unfold bump; split <;> rfl
@[simp] theorem bump_odWaiting (s : State) (i sub n : Nat) : (bump s i sub n).odWaiting = s.odWaiting := by unfold bump; split <;> rfl
@[simp] theorem bump_staging (s : State) (i sub n : Nat) : (bump s i sub n).staging = s.staging := by unfold bump; split <;> rfl
@[simp] theorem bump_reeveUp (s : State) (i sub n : Nat) : (bump s i sub n).reeveUp = s.reeveUp := by unfold bump; split <;> rfl
@[simp] theorem bump_macAddr (s : State) (i sub n : Nat) : (bump s i sub n).macAddr = s.macAddr := by unfold bump; split <;> rfl
@[simp] theorem bump_t1s (s : State) (i sub n : Nat) : (bump s i sub n).t1s = s.t1s := by unfold bump; split <;> rfl
@[simp] theorem bump_eids (s : State) (i sub n : Nat) : (bump s i sub n).eids = s.eids := by unfold bump; split <;> rfl
@[simp] theorem bump_log (s : State) (i sub n : Nat) : (bump s i sub n).log = s.log := by unfold bump; split <;> rfl
@[simp] theorem bump_logSeq (s : State) (i sub n : Nat) : (bump s i sub n).logSeq = s.logSeq := by unfold bump; split <;> rfl
@[simp] theorem bump_logSaved (s : State) (i sub n : Nat) : (bump s i sub n).logSaved = s.logSaved := by unfold bump; split <;> rfl
@[simp] theorem bump_pf1 (s : State) (i sub n : Nat) : (bump s i sub n).pf1 = s.pf1 := by unfold bump; split <;> rfl
@[simp] theorem bump_nvme (s : State) (i sub n : Nat) : (bump s i sub n).nvme = s.nvme := by unfold bump; split <;> rfl
@[simp] theorem bump_perst (s : State) (i sub n : Nat) : (bump s i sub n).perst = s.perst := by unfold bump; split <;> rfl
@[simp] theorem bump_linkUp (s : State) (i sub n : Nat) : (bump s i sub n).linkUp = s.linkUp := by unfold bump; split <;> rfl
@[simp] theorem bump_layout (s : State) (i sub n : Nat) : (bump s i sub n).layout = s.layout := by unfold bump; split <;> rfl
@[simp] theorem bump_host (s : State) (i sub n : Nat) : (bump s i sub n).host = s.host := by unfold bump; split <;> rfl
@[simp] theorem bump_namespaces (s : State) (i sub n : Nat) : (bump s i sub n).namespaces = s.namespaces := by unfold bump; split <;> rfl
@[simp] theorem bump_sanitize (s : State) (i sub n : Nat) : (bump s i sub n).sanitize = s.sanitize := by unfold bump; split <;> rfl
@[simp] theorem bump_deallocs (s : State) (i sub n : Nat) : (bump s i sub n).deallocs = s.deallocs := by unfold bump; split <;> rfl
@[simp] theorem bump_sdSeq (s : State) (i sub n : Nat) : (bump s i sub n).sdSeq = s.sdSeq := by unfold bump; split <;> rfl
@[simp] theorem bump_sdRecords (s : State) (i sub n : Nat) : (bump s i sub n).sdRecords = s.sdRecords := by unfold bump; split <;> rfl
@[simp] theorem bump_crofts (s : State) (i sub n : Nat) : (bump s i sub n).crofts = s.crofts := by unfold bump; split <;> rfl
@[simp] theorem bump_nextJob (s : State) (i sub n : Nat) : (bump s i sub n).nextJob = s.nextJob := by unfold bump; split <;> rfl
@[simp] theorem bump_nextHandle (s : State) (i sub n : Nat) : (bump s i sub n).nextHandle = s.nextHandle := by unfold bump; split <;> rfl
@[simp] theorem bump_exports (s : State) (i sub n : Nat) : (bump s i sub n).exports = s.exports := by unfold bump; split <;> rfl
@[simp] theorem bump_segs (s : State) (i sub n : Nat) : (bump s i sub n).segs = s.segs := by unfold bump; split <;> rfl
@[simp] theorem bump_nextSerial (s : State) (i sub n : Nat) : (bump s i sub n).nextSerial = s.nextSerial := by unfold bump; split <;> rfl
@[simp] theorem bump_nextSpill (s : State) (i sub n : Nat) : (bump s i sub n).nextSpill = s.nextSpill := by unfold bump; split <;> rfl
@[simp] theorem bump_ops (s : State) (i sub n : Nat) : (bump s i sub n).ops = s.ops := by unfold bump; split <;> rfl
@[simp] theorem bump_nextOp (s : State) (i sub n : Nat) : (bump s i sub n).nextOp = s.nextOp := by unfold bump; split <;> rfl
@[simp] theorem bump_frames (s : State) (i sub n : Nat) : (bump s i sub n).frames = s.frames := by unfold bump; split <;> rfl
@[simp] theorem bump_seedInEffect (s : State) (i sub n : Nat) : (bump s i sub n).seedInEffect = s.seedInEffect := by unfold bump; split <;> rfl
@[simp] theorem bump_hbm (s : State) (i sub n : Nat) : (bump s i sub n).hbm = s.hbm := by unfold bump; split <;> rfl
@[simp] theorem bump_ramps (s : State) (i sub n : Nat) : (bump s i sub n).ramps = s.ramps := by unfold bump; split <;> rfl
@[simp] theorem bump_rampPtr (s : State) (i sub n : Nat) : (bump s i sub n).rampPtr = s.rampPtr := by unfold bump; split <;> rfl
@[simp] theorem bump_flashPtr (s : State) (i sub n : Nat) : (bump s i sub n).flashPtr = s.flashPtr := by unfold bump; split <;> rfl
@[simp] theorem bump_droverPtr (s : State) (i sub n : Nat) : (bump s i sub n).droverPtr = s.droverPtr := by unfold bump; split <;> rfl
@[simp] theorem bump_packages (s : State) (i sub n : Nat) : (bump s i sub n).packages = s.packages := by unfold bump; split <;> rfl
@[simp] theorem bump_health (s : State) (i sub n : Nat) : (bump s i sub n).health = s.health := by unfold bump; split <;> rfl
@[simp] theorem bump_mediaReadOnly (s : State) (i sub n : Nat) : (bump s i sub n).mediaReadOnly = s.mediaReadOnly := by unfold bump; split <;> rfl
@[simp] theorem bump_ports (s : State) (i sub n : Nat) : (bump s i sub n).ports = s.ports := by unfold bump; split <;> rfl
@[simp] theorem bump_kamlinAddr (s : State) (i sub n : Nat) : (bump s i sub n).kamlinAddr = s.kamlinAddr := by unfold bump; split <;> rfl
@[simp] theorem bump_orDone (s : State) (i sub n : Nat) : (bump s i sub n).orDone = s.orDone := by unfold bump; split <;> rfl
@[simp] theorem bump_stranded (s : State) (i sub n : Nat) : (bump s i sub n).stranded = s.stranded := by unfold bump; split <;> rfl
@[simp] theorem bump_bell (s : State) (i sub n : Nat) : (bump s i sub n).bell = s.bell := by unfold bump; split <;> rfl
@[simp] theorem bump_flash (s : State) (i sub n : Nat) : (bump s i sub n).flash = s.flash := by unfold bump; split <;> rfl
@[simp] theorem bump_units (s : State) (i sub n : Nat) : (bump s i sub n).units = s.units := by unfold bump; split <;> rfl
@[simp] theorem bump_watchdog (s : State) (i sub n : Nat) : (bump s i sub n).watchdog = s.watchdog := by unfold bump; split <;> rfl
@[simp] theorem bump_inputs (s : State) (i sub n : Nat) : (bump s i sub n).inputs = s.inputs := by unfold bump; split <;> rfl
@[simp] theorem bump_plant (s : State) (i sub n : Nat) : (bump s i sub n).plant = s.plant := by unfold bump; split <;> rfl
@[simp] theorem bump_power (s : State) (i sub n : Nat) : (bump s i sub n).power = s.power := by unfold bump; split <;> rfl
@[simp] theorem bump_sec (s : State) (i sub n : Nat) : (bump s i sub n).sec = s.sec := by unfold bump; split <;> rfl

/-! ### putCroft -/

@[simp] theorem putCroft_pending (s : State) (c : Nat) (k : Croft) : (putCroft s c k).pending = s.pending := rfl
@[simp] theorem putCroft_freeCtr (s : State) (c : Nat) (k : Croft) : (putCroft s c k).freeCtr = s.freeCtr := rfl
@[simp] theorem putCroft_fuse (s : State) (c : Nat) (k : Croft) : (putCroft s c k).fuse = s.fuse := rfl
@[simp] theorem putCroft_serial (s : State) (c : Nat) (k : Croft) : (putCroft s c k).serial = s.serial := rfl
@[simp] theorem putCroft_slotId (s : State) (c : Nat) (k : Croft) : (putCroft s c k).slotId = s.slotId := rfl
@[simp] theorem putCroft_od (s : State) (c : Nat) (k : Croft) : (putCroft s c k).od = s.od := rfl
@[simp] theorem putCroft_convs (s : State) (c : Nat) (k : Croft) : (putCroft s c k).convs = s.convs := rfl
@[simp] theorem putCroft_doms (s : State) (c : Nat) (k : Croft) : (putCroft s c k).doms = s.doms := rfl
@[simp] theorem putCroft_dictA (s : State) (c : Nat) (k : Croft) : (putCroft s c k).dictA = s.dictA := rfl
@[simp] theorem putCroft_dictB (s : State) (c : Nat) (k : Croft) : (putCroft s c k).dictB = s.dictB := rfl
@[simp] theorem putCroft_dictConflict (s : State) (c : Nat) (k : Croft) : (putCroft s c k).dictConflict = s.dictConflict := rfl
@[simp] theorem putCroft_savePending (s : State) (c : Nat) (k : Croft) : (putCroft s c k).savePending = s.savePending := rfl
@[simp] theorem putCroft_sessions (s : State) (c : Nat) (k : Croft) : (putCroft s c k).sessions = s.sessions := rfl
@[simp] theorem putCroft_sent (s : State) (c : Nat) (k : Croft) : (putCroft s c k).sent = s.sent := rfl
@[simp] theorem putCroft_parked (s : State) (c : Nat) (k : Croft) : (putCroft s c k).parked = s.parked := rfl
@[simp] theorem putCroft_odWaiting (s : State) (c : Nat) (k : Croft) : (putCroft s c k).odWaiting = s.odWaiting := rfl
@[simp] theorem putCroft_staging (s : State) (c : Nat) (k : Croft) : (putCroft s c k).staging = s.staging := rfl
@[simp] theorem putCroft_reeveUp (s : State) (c : Nat) (k : Croft) : (putCroft s c k).reeveUp = s.reeveUp := rfl
@[simp] theorem putCroft_macAddr (s : State) (c : Nat) (k : Croft) : (putCroft s c k).macAddr = s.macAddr := rfl
@[simp] theorem putCroft_t1s (s : State) (c : Nat) (k : Croft) : (putCroft s c k).t1s = s.t1s := rfl
@[simp] theorem putCroft_eids (s : State) (c : Nat) (k : Croft) : (putCroft s c k).eids = s.eids := rfl
@[simp] theorem putCroft_log (s : State) (c : Nat) (k : Croft) : (putCroft s c k).log = s.log := rfl
@[simp] theorem putCroft_logSeq (s : State) (c : Nat) (k : Croft) : (putCroft s c k).logSeq = s.logSeq := rfl
@[simp] theorem putCroft_logSaved (s : State) (c : Nat) (k : Croft) : (putCroft s c k).logSaved = s.logSaved := rfl
@[simp] theorem putCroft_pf1 (s : State) (c : Nat) (k : Croft) : (putCroft s c k).pf1 = s.pf1 := rfl
@[simp] theorem putCroft_nvme (s : State) (c : Nat) (k : Croft) : (putCroft s c k).nvme = s.nvme := rfl
@[simp] theorem putCroft_perst (s : State) (c : Nat) (k : Croft) : (putCroft s c k).perst = s.perst := rfl
@[simp] theorem putCroft_linkUp (s : State) (c : Nat) (k : Croft) : (putCroft s c k).linkUp = s.linkUp := rfl
@[simp] theorem putCroft_layout (s : State) (c : Nat) (k : Croft) : (putCroft s c k).layout = s.layout := rfl
@[simp] theorem putCroft_host (s : State) (c : Nat) (k : Croft) : (putCroft s c k).host = s.host := rfl
@[simp] theorem putCroft_namespaces (s : State) (c : Nat) (k : Croft) : (putCroft s c k).namespaces = s.namespaces := rfl
@[simp] theorem putCroft_sanitize (s : State) (c : Nat) (k : Croft) : (putCroft s c k).sanitize = s.sanitize := rfl
@[simp] theorem putCroft_deallocs (s : State) (c : Nat) (k : Croft) : (putCroft s c k).deallocs = s.deallocs := rfl
@[simp] theorem putCroft_sdSeq (s : State) (c : Nat) (k : Croft) : (putCroft s c k).sdSeq = s.sdSeq := rfl
@[simp] theorem putCroft_sdRecords (s : State) (c : Nat) (k : Croft) : (putCroft s c k).sdRecords = s.sdRecords := rfl
@[simp] theorem putCroft_crofts (s : State) (c : Nat) (k : Croft) : (putCroft s c k).crofts = mapSet s.crofts c k := rfl
@[simp] theorem putCroft_nextJob (s : State) (c : Nat) (k : Croft) : (putCroft s c k).nextJob = s.nextJob := rfl
@[simp] theorem putCroft_nextHandle (s : State) (c : Nat) (k : Croft) : (putCroft s c k).nextHandle = s.nextHandle := rfl
@[simp] theorem putCroft_exports (s : State) (c : Nat) (k : Croft) : (putCroft s c k).exports = s.exports := rfl
@[simp] theorem putCroft_segs (s : State) (c : Nat) (k : Croft) : (putCroft s c k).segs = s.segs := rfl
@[simp] theorem putCroft_nextSerial (s : State) (c : Nat) (k : Croft) : (putCroft s c k).nextSerial = s.nextSerial := rfl
@[simp] theorem putCroft_nextSpill (s : State) (c : Nat) (k : Croft) : (putCroft s c k).nextSpill = s.nextSpill := rfl
@[simp] theorem putCroft_ops (s : State) (c : Nat) (k : Croft) : (putCroft s c k).ops = s.ops := rfl
@[simp] theorem putCroft_nextOp (s : State) (c : Nat) (k : Croft) : (putCroft s c k).nextOp = s.nextOp := rfl
@[simp] theorem putCroft_frames (s : State) (c : Nat) (k : Croft) : (putCroft s c k).frames = s.frames := rfl
@[simp] theorem putCroft_seedInEffect (s : State) (c : Nat) (k : Croft) : (putCroft s c k).seedInEffect = s.seedInEffect := rfl
@[simp] theorem putCroft_hbm (s : State) (c : Nat) (k : Croft) : (putCroft s c k).hbm = s.hbm := rfl
@[simp] theorem putCroft_ramps (s : State) (c : Nat) (k : Croft) : (putCroft s c k).ramps = s.ramps := rfl
@[simp] theorem putCroft_rampPtr (s : State) (c : Nat) (k : Croft) : (putCroft s c k).rampPtr = s.rampPtr := rfl
@[simp] theorem putCroft_flashPtr (s : State) (c : Nat) (k : Croft) : (putCroft s c k).flashPtr = s.flashPtr := rfl
@[simp] theorem putCroft_droverPtr (s : State) (c : Nat) (k : Croft) : (putCroft s c k).droverPtr = s.droverPtr := rfl
@[simp] theorem putCroft_packages (s : State) (c : Nat) (k : Croft) : (putCroft s c k).packages = s.packages := rfl
@[simp] theorem putCroft_health (s : State) (c : Nat) (k : Croft) : (putCroft s c k).health = s.health := rfl
@[simp] theorem putCroft_mediaReadOnly (s : State) (c : Nat) (k : Croft) : (putCroft s c k).mediaReadOnly = s.mediaReadOnly := rfl
@[simp] theorem putCroft_ports (s : State) (c : Nat) (k : Croft) : (putCroft s c k).ports = s.ports := rfl
@[simp] theorem putCroft_kamlinAddr (s : State) (c : Nat) (k : Croft) : (putCroft s c k).kamlinAddr = s.kamlinAddr := rfl
@[simp] theorem putCroft_orDone (s : State) (c : Nat) (k : Croft) : (putCroft s c k).orDone = s.orDone := rfl
@[simp] theorem putCroft_stranded (s : State) (c : Nat) (k : Croft) : (putCroft s c k).stranded = s.stranded := rfl
@[simp] theorem putCroft_bell (s : State) (c : Nat) (k : Croft) : (putCroft s c k).bell = s.bell := rfl
@[simp] theorem putCroft_flash (s : State) (c : Nat) (k : Croft) : (putCroft s c k).flash = s.flash := rfl
@[simp] theorem putCroft_units (s : State) (c : Nat) (k : Croft) : (putCroft s c k).units = s.units := rfl
@[simp] theorem putCroft_watchdog (s : State) (c : Nat) (k : Croft) : (putCroft s c k).watchdog = s.watchdog := rfl
@[simp] theorem putCroft_inputs (s : State) (c : Nat) (k : Croft) : (putCroft s c k).inputs = s.inputs := rfl
@[simp] theorem putCroft_plant (s : State) (c : Nat) (k : Croft) : (putCroft s c k).plant = s.plant := rfl
@[simp] theorem putCroft_power (s : State) (c : Nat) (k : Croft) : (putCroft s c k).power = s.power := rfl
@[simp] theorem putCroft_sec (s : State) (c : Nat) (k : Croft) : (putCroft s c k).sec = s.sec := rfl

/-! ### modCroft -/

@[simp] theorem modCroft_pending (s : State) (c : Nat) (f : Croft → Croft) : (modCroft s c f).pending = s.pending := rfl
@[simp] theorem modCroft_freeCtr (s : State) (c : Nat) (f : Croft → Croft) : (modCroft s c f).freeCtr = s.freeCtr := rfl
@[simp] theorem modCroft_fuse (s : State) (c : Nat) (f : Croft → Croft) : (modCroft s c f).fuse = s.fuse := rfl
@[simp] theorem modCroft_serial (s : State) (c : Nat) (f : Croft → Croft) : (modCroft s c f).serial = s.serial := rfl
@[simp] theorem modCroft_slotId (s : State) (c : Nat) (f : Croft → Croft) : (modCroft s c f).slotId = s.slotId := rfl
@[simp] theorem modCroft_od (s : State) (c : Nat) (f : Croft → Croft) : (modCroft s c f).od = s.od := rfl
@[simp] theorem modCroft_convs (s : State) (c : Nat) (f : Croft → Croft) : (modCroft s c f).convs = s.convs := rfl
@[simp] theorem modCroft_doms (s : State) (c : Nat) (f : Croft → Croft) : (modCroft s c f).doms = s.doms := rfl
@[simp] theorem modCroft_dictA (s : State) (c : Nat) (f : Croft → Croft) : (modCroft s c f).dictA = s.dictA := rfl
@[simp] theorem modCroft_dictB (s : State) (c : Nat) (f : Croft → Croft) : (modCroft s c f).dictB = s.dictB := rfl
@[simp] theorem modCroft_dictConflict (s : State) (c : Nat) (f : Croft → Croft) : (modCroft s c f).dictConflict = s.dictConflict := rfl
@[simp] theorem modCroft_savePending (s : State) (c : Nat) (f : Croft → Croft) : (modCroft s c f).savePending = s.savePending := rfl
@[simp] theorem modCroft_sessions (s : State) (c : Nat) (f : Croft → Croft) : (modCroft s c f).sessions = s.sessions := rfl
@[simp] theorem modCroft_sent (s : State) (c : Nat) (f : Croft → Croft) : (modCroft s c f).sent = s.sent := rfl
@[simp] theorem modCroft_parked (s : State) (c : Nat) (f : Croft → Croft) : (modCroft s c f).parked = s.parked := rfl
@[simp] theorem modCroft_odWaiting (s : State) (c : Nat) (f : Croft → Croft) : (modCroft s c f).odWaiting = s.odWaiting := rfl
@[simp] theorem modCroft_staging (s : State) (c : Nat) (f : Croft → Croft) : (modCroft s c f).staging = s.staging := rfl
@[simp] theorem modCroft_reeveUp (s : State) (c : Nat) (f : Croft → Croft) : (modCroft s c f).reeveUp = s.reeveUp := rfl
@[simp] theorem modCroft_macAddr (s : State) (c : Nat) (f : Croft → Croft) : (modCroft s c f).macAddr = s.macAddr := rfl
@[simp] theorem modCroft_t1s (s : State) (c : Nat) (f : Croft → Croft) : (modCroft s c f).t1s = s.t1s := rfl
@[simp] theorem modCroft_eids (s : State) (c : Nat) (f : Croft → Croft) : (modCroft s c f).eids = s.eids := rfl
@[simp] theorem modCroft_log (s : State) (c : Nat) (f : Croft → Croft) : (modCroft s c f).log = s.log := rfl
@[simp] theorem modCroft_logSeq (s : State) (c : Nat) (f : Croft → Croft) : (modCroft s c f).logSeq = s.logSeq := rfl
@[simp] theorem modCroft_logSaved (s : State) (c : Nat) (f : Croft → Croft) : (modCroft s c f).logSaved = s.logSaved := rfl
@[simp] theorem modCroft_pf1 (s : State) (c : Nat) (f : Croft → Croft) : (modCroft s c f).pf1 = s.pf1 := rfl
@[simp] theorem modCroft_nvme (s : State) (c : Nat) (f : Croft → Croft) : (modCroft s c f).nvme = s.nvme := rfl
@[simp] theorem modCroft_perst (s : State) (c : Nat) (f : Croft → Croft) : (modCroft s c f).perst = s.perst := rfl
@[simp] theorem modCroft_linkUp (s : State) (c : Nat) (f : Croft → Croft) : (modCroft s c f).linkUp = s.linkUp := rfl
@[simp] theorem modCroft_layout (s : State) (c : Nat) (f : Croft → Croft) : (modCroft s c f).layout = s.layout := rfl
@[simp] theorem modCroft_host (s : State) (c : Nat) (f : Croft → Croft) : (modCroft s c f).host = s.host := rfl
@[simp] theorem modCroft_namespaces (s : State) (c : Nat) (f : Croft → Croft) : (modCroft s c f).namespaces = s.namespaces := rfl
@[simp] theorem modCroft_sanitize (s : State) (c : Nat) (f : Croft → Croft) : (modCroft s c f).sanitize = s.sanitize := rfl
@[simp] theorem modCroft_deallocs (s : State) (c : Nat) (f : Croft → Croft) : (modCroft s c f).deallocs = s.deallocs := rfl
@[simp] theorem modCroft_sdSeq (s : State) (c : Nat) (f : Croft → Croft) : (modCroft s c f).sdSeq = s.sdSeq := rfl
@[simp] theorem modCroft_sdRecords (s : State) (c : Nat) (f : Croft → Croft) : (modCroft s c f).sdRecords = s.sdRecords := rfl
@[simp] theorem modCroft_crofts (s : State) (c : Nat) (f : Croft → Croft) : (modCroft s c f).crofts = mapMod s.crofts c f := rfl
@[simp] theorem modCroft_nextJob (s : State) (c : Nat) (f : Croft → Croft) : (modCroft s c f).nextJob = s.nextJob := rfl
@[simp] theorem modCroft_nextHandle (s : State) (c : Nat) (f : Croft → Croft) : (modCroft s c f).nextHandle = s.nextHandle := rfl
@[simp] theorem modCroft_exports (s : State) (c : Nat) (f : Croft → Croft) : (modCroft s c f).exports = s.exports := rfl
@[simp] theorem modCroft_segs (s : State) (c : Nat) (f : Croft → Croft) : (modCroft s c f).segs = s.segs := rfl
@[simp] theorem modCroft_nextSerial (s : State) (c : Nat) (f : Croft → Croft) : (modCroft s c f).nextSerial = s.nextSerial := rfl
@[simp] theorem modCroft_nextSpill (s : State) (c : Nat) (f : Croft → Croft) : (modCroft s c f).nextSpill = s.nextSpill := rfl
@[simp] theorem modCroft_ops (s : State) (c : Nat) (f : Croft → Croft) : (modCroft s c f).ops = s.ops := rfl
@[simp] theorem modCroft_nextOp (s : State) (c : Nat) (f : Croft → Croft) : (modCroft s c f).nextOp = s.nextOp := rfl
@[simp] theorem modCroft_frames (s : State) (c : Nat) (f : Croft → Croft) : (modCroft s c f).frames = s.frames := rfl
@[simp] theorem modCroft_seedInEffect (s : State) (c : Nat) (f : Croft → Croft) : (modCroft s c f).seedInEffect = s.seedInEffect := rfl
@[simp] theorem modCroft_hbm (s : State) (c : Nat) (f : Croft → Croft) : (modCroft s c f).hbm = s.hbm := rfl
@[simp] theorem modCroft_ramps (s : State) (c : Nat) (f : Croft → Croft) : (modCroft s c f).ramps = s.ramps := rfl
@[simp] theorem modCroft_rampPtr (s : State) (c : Nat) (f : Croft → Croft) : (modCroft s c f).rampPtr = s.rampPtr := rfl
@[simp] theorem modCroft_flashPtr (s : State) (c : Nat) (f : Croft → Croft) : (modCroft s c f).flashPtr = s.flashPtr := rfl
@[simp] theorem modCroft_droverPtr (s : State) (c : Nat) (f : Croft → Croft) : (modCroft s c f).droverPtr = s.droverPtr := rfl
@[simp] theorem modCroft_packages (s : State) (c : Nat) (f : Croft → Croft) : (modCroft s c f).packages = s.packages := rfl
@[simp] theorem modCroft_health (s : State) (c : Nat) (f : Croft → Croft) : (modCroft s c f).health = s.health := rfl
@[simp] theorem modCroft_mediaReadOnly (s : State) (c : Nat) (f : Croft → Croft) : (modCroft s c f).mediaReadOnly = s.mediaReadOnly := rfl
@[simp] theorem modCroft_ports (s : State) (c : Nat) (f : Croft → Croft) : (modCroft s c f).ports = s.ports := rfl
@[simp] theorem modCroft_kamlinAddr (s : State) (c : Nat) (f : Croft → Croft) : (modCroft s c f).kamlinAddr = s.kamlinAddr := rfl
@[simp] theorem modCroft_orDone (s : State) (c : Nat) (f : Croft → Croft) : (modCroft s c f).orDone = s.orDone := rfl
@[simp] theorem modCroft_stranded (s : State) (c : Nat) (f : Croft → Croft) : (modCroft s c f).stranded = s.stranded := rfl
@[simp] theorem modCroft_bell (s : State) (c : Nat) (f : Croft → Croft) : (modCroft s c f).bell = s.bell := rfl
@[simp] theorem modCroft_flash (s : State) (c : Nat) (f : Croft → Croft) : (modCroft s c f).flash = s.flash := rfl
@[simp] theorem modCroft_units (s : State) (c : Nat) (f : Croft → Croft) : (modCroft s c f).units = s.units := rfl
@[simp] theorem modCroft_watchdog (s : State) (c : Nat) (f : Croft → Croft) : (modCroft s c f).watchdog = s.watchdog := rfl
@[simp] theorem modCroft_inputs (s : State) (c : Nat) (f : Croft → Croft) : (modCroft s c f).inputs = s.inputs := rfl
@[simp] theorem modCroft_plant (s : State) (c : Nat) (f : Croft → Croft) : (modCroft s c f).plant = s.plant := rfl
@[simp] theorem modCroft_power (s : State) (c : Nat) (f : Croft → Croft) : (modCroft s c f).power = s.power := rfl
@[simp] theorem modCroft_sec (s : State) (c : Nat) (f : Croft → Croft) : (modCroft s c f).sec = s.sec := rfl

/-! ### modJob -/

@[simp] theorem modJob_pending (s : State) (c id : Nat) (f : Job → Job) : (modJob s c id f).pending = s.pending := rfl
@[simp] theorem modJob_freeCtr (s : State) (c id : Nat) (f : Job → Job) : (modJob s c id f).freeCtr = s.freeCtr := rfl
@[simp] theorem modJob_fuse (s : State) (c id : Nat) (f : Job → Job) : (modJob s c id f).fuse = s.fuse := rfl
@[simp] theorem modJob_serial (s : State) (c id : Nat) (f : Job → Job) : (modJob s c id f).serial = s.serial := rfl
@[simp] theorem modJob_slotId (s : State) (c id : Nat) (f : Job → Job) : (modJob s c id f).slotId = s.slotId := rfl
@[simp] theorem modJob_od (s : State) (c id : Nat) (f : Job → Job) : (modJob s c id f).od = s.od := rfl
@[simp] theorem modJob_convs (s : State) (c id : Nat) (f : Job → Job) : (modJob s c id f).convs = s.convs := rfl
@[simp] theorem modJob_doms (s : State) (c id : Nat) (f : Job → Job) : (modJob s c id f).doms = s.doms := rfl
@[simp] theorem modJob_dictA (s : State) (c id : Nat) (f : Job → Job) : (modJob s c id f).dictA = s.dictA := rfl
@[simp] theorem modJob_dictB (s : State) (c id : Nat) (f : Job → Job) : (modJob s c id f).dictB = s.dictB := rfl
@[simp] theorem modJob_dictConflict (s : State) (c id : Nat) (f : Job → Job) : (modJob s c id f).dictConflict = s.dictConflict := rfl
@[simp] theorem modJob_savePending (s : State) (c id : Nat) (f : Job → Job) : (modJob s c id f).savePending = s.savePending := rfl
@[simp] theorem modJob_sessions (s : State) (c id : Nat) (f : Job → Job) : (modJob s c id f).sessions = s.sessions := rfl
@[simp] theorem modJob_sent (s : State) (c id : Nat) (f : Job → Job) : (modJob s c id f).sent = s.sent := rfl
@[simp] theorem modJob_parked (s : State) (c id : Nat) (f : Job → Job) : (modJob s c id f).parked = s.parked := rfl
@[simp] theorem modJob_odWaiting (s : State) (c id : Nat) (f : Job → Job) : (modJob s c id f).odWaiting = s.odWaiting := rfl
@[simp] theorem modJob_staging (s : State) (c id : Nat) (f : Job → Job) : (modJob s c id f).staging = s.staging := rfl
@[simp] theorem modJob_reeveUp (s : State) (c id : Nat) (f : Job → Job) : (modJob s c id f).reeveUp = s.reeveUp := rfl
@[simp] theorem modJob_macAddr (s : State) (c id : Nat) (f : Job → Job) : (modJob s c id f).macAddr = s.macAddr := rfl
@[simp] theorem modJob_t1s (s : State) (c id : Nat) (f : Job → Job) : (modJob s c id f).t1s = s.t1s := rfl
@[simp] theorem modJob_eids (s : State) (c id : Nat) (f : Job → Job) : (modJob s c id f).eids = s.eids := rfl
@[simp] theorem modJob_log (s : State) (c id : Nat) (f : Job → Job) : (modJob s c id f).log = s.log := rfl
@[simp] theorem modJob_logSeq (s : State) (c id : Nat) (f : Job → Job) : (modJob s c id f).logSeq = s.logSeq := rfl
@[simp] theorem modJob_logSaved (s : State) (c id : Nat) (f : Job → Job) : (modJob s c id f).logSaved = s.logSaved := rfl
@[simp] theorem modJob_pf1 (s : State) (c id : Nat) (f : Job → Job) : (modJob s c id f).pf1 = s.pf1 := rfl
@[simp] theorem modJob_nvme (s : State) (c id : Nat) (f : Job → Job) : (modJob s c id f).nvme = s.nvme := rfl
@[simp] theorem modJob_perst (s : State) (c id : Nat) (f : Job → Job) : (modJob s c id f).perst = s.perst := rfl
@[simp] theorem modJob_linkUp (s : State) (c id : Nat) (f : Job → Job) : (modJob s c id f).linkUp = s.linkUp := rfl
@[simp] theorem modJob_layout (s : State) (c id : Nat) (f : Job → Job) : (modJob s c id f).layout = s.layout := rfl
@[simp] theorem modJob_host (s : State) (c id : Nat) (f : Job → Job) : (modJob s c id f).host = s.host := rfl
@[simp] theorem modJob_namespaces (s : State) (c id : Nat) (f : Job → Job) : (modJob s c id f).namespaces = s.namespaces := rfl
@[simp] theorem modJob_sanitize (s : State) (c id : Nat) (f : Job → Job) : (modJob s c id f).sanitize = s.sanitize := rfl
@[simp] theorem modJob_deallocs (s : State) (c id : Nat) (f : Job → Job) : (modJob s c id f).deallocs = s.deallocs := rfl
@[simp] theorem modJob_sdSeq (s : State) (c id : Nat) (f : Job → Job) : (modJob s c id f).sdSeq = s.sdSeq := rfl
@[simp] theorem modJob_sdRecords (s : State) (c id : Nat) (f : Job → Job) : (modJob s c id f).sdRecords = s.sdRecords := rfl
@[simp] theorem modJob_crofts (s : State) (c id : Nat) (f : Job → Job) : (modJob s c id f).crofts = mapMod s.crofts c (fun k => { k with jobs := mapMod k.jobs id f }) := rfl
@[simp] theorem modJob_nextJob (s : State) (c id : Nat) (f : Job → Job) : (modJob s c id f).nextJob = s.nextJob := rfl
@[simp] theorem modJob_nextHandle (s : State) (c id : Nat) (f : Job → Job) : (modJob s c id f).nextHandle = s.nextHandle := rfl
@[simp] theorem modJob_exports (s : State) (c id : Nat) (f : Job → Job) : (modJob s c id f).exports = s.exports := rfl
@[simp] theorem modJob_segs (s : State) (c id : Nat) (f : Job → Job) : (modJob s c id f).segs = s.segs := rfl
@[simp] theorem modJob_nextSerial (s : State) (c id : Nat) (f : Job → Job) : (modJob s c id f).nextSerial = s.nextSerial := rfl
@[simp] theorem modJob_nextSpill (s : State) (c id : Nat) (f : Job → Job) : (modJob s c id f).nextSpill = s.nextSpill := rfl
@[simp] theorem modJob_ops (s : State) (c id : Nat) (f : Job → Job) : (modJob s c id f).ops = s.ops := rfl
@[simp] theorem modJob_nextOp (s : State) (c id : Nat) (f : Job → Job) : (modJob s c id f).nextOp = s.nextOp := rfl
@[simp] theorem modJob_frames (s : State) (c id : Nat) (f : Job → Job) : (modJob s c id f).frames = s.frames := rfl
@[simp] theorem modJob_seedInEffect (s : State) (c id : Nat) (f : Job → Job) : (modJob s c id f).seedInEffect = s.seedInEffect := rfl
@[simp] theorem modJob_hbm (s : State) (c id : Nat) (f : Job → Job) : (modJob s c id f).hbm = s.hbm := rfl
@[simp] theorem modJob_ramps (s : State) (c id : Nat) (f : Job → Job) : (modJob s c id f).ramps = s.ramps := rfl
@[simp] theorem modJob_rampPtr (s : State) (c id : Nat) (f : Job → Job) : (modJob s c id f).rampPtr = s.rampPtr := rfl
@[simp] theorem modJob_flashPtr (s : State) (c id : Nat) (f : Job → Job) : (modJob s c id f).flashPtr = s.flashPtr := rfl
@[simp] theorem modJob_droverPtr (s : State) (c id : Nat) (f : Job → Job) : (modJob s c id f).droverPtr = s.droverPtr := rfl
@[simp] theorem modJob_packages (s : State) (c id : Nat) (f : Job → Job) : (modJob s c id f).packages = s.packages := rfl
@[simp] theorem modJob_health (s : State) (c id : Nat) (f : Job → Job) : (modJob s c id f).health = s.health := rfl
@[simp] theorem modJob_mediaReadOnly (s : State) (c id : Nat) (f : Job → Job) : (modJob s c id f).mediaReadOnly = s.mediaReadOnly := rfl
@[simp] theorem modJob_ports (s : State) (c id : Nat) (f : Job → Job) : (modJob s c id f).ports = s.ports := rfl
@[simp] theorem modJob_kamlinAddr (s : State) (c id : Nat) (f : Job → Job) : (modJob s c id f).kamlinAddr = s.kamlinAddr := rfl
@[simp] theorem modJob_orDone (s : State) (c id : Nat) (f : Job → Job) : (modJob s c id f).orDone = s.orDone := rfl
@[simp] theorem modJob_stranded (s : State) (c id : Nat) (f : Job → Job) : (modJob s c id f).stranded = s.stranded := rfl
@[simp] theorem modJob_bell (s : State) (c id : Nat) (f : Job → Job) : (modJob s c id f).bell = s.bell := rfl
@[simp] theorem modJob_flash (s : State) (c id : Nat) (f : Job → Job) : (modJob s c id f).flash = s.flash := rfl
@[simp] theorem modJob_units (s : State) (c id : Nat) (f : Job → Job) : (modJob s c id f).units = s.units := rfl
@[simp] theorem modJob_watchdog (s : State) (c id : Nat) (f : Job → Job) : (modJob s c id f).watchdog = s.watchdog := rfl
@[simp] theorem modJob_inputs (s : State) (c id : Nat) (f : Job → Job) : (modJob s c id f).inputs = s.inputs := rfl
@[simp] theorem modJob_plant (s : State) (c id : Nat) (f : Job → Job) : (modJob s c id f).plant = s.plant := rfl
@[simp] theorem modJob_power (s : State) (c id : Nat) (f : Job → Job) : (modJob s c id f).power = s.power := rfl
@[simp] theorem modJob_sec (s : State) (c id : Nat) (f : Job → Job) : (modJob s c id f).sec = s.sec := rfl

/-! ### modRun -/

@[simp] theorem modRun_pending (s : State) (c : Nat) (f : RunStep → RunStep) : (modRun s c f).pending = s.pending := rfl
@[simp] theorem modRun_freeCtr (s : State) (c : Nat) (f : RunStep → RunStep) : (modRun s c f).freeCtr = s.freeCtr := rfl
@[simp] theorem modRun_fuse (s : State) (c : Nat) (f : RunStep → RunStep) : (modRun s c f).fuse = s.fuse := rfl
@[simp] theorem modRun_serial (s : State) (c : Nat) (f : RunStep → RunStep) : (modRun s c f).serial = s.serial := rfl
@[simp] theorem modRun_slotId (s : State) (c : Nat) (f : RunStep → RunStep) : (modRun s c f).slotId = s.slotId := rfl
@[simp] theorem modRun_od (s : State) (c : Nat) (f : RunStep → RunStep) : (modRun s c f).od = s.od := rfl
@[simp] theorem modRun_convs (s : State) (c : Nat) (f : RunStep → RunStep) : (modRun s c f).convs = s.convs := rfl
@[simp] theorem modRun_doms (s : State) (c : Nat) (f : RunStep → RunStep) : (modRun s c f).doms = s.doms := rfl
@[simp] theorem modRun_dictA (s : State) (c : Nat) (f : RunStep → RunStep) : (modRun s c f).dictA = s.dictA := rfl
@[simp] theorem modRun_dictB (s : State) (c : Nat) (f : RunStep → RunStep) : (modRun s c f).dictB = s.dictB := rfl
@[simp] theorem modRun_dictConflict (s : State) (c : Nat) (f : RunStep → RunStep) : (modRun s c f).dictConflict = s.dictConflict := rfl
@[simp] theorem modRun_savePending (s : State) (c : Nat) (f : RunStep → RunStep) : (modRun s c f).savePending = s.savePending := rfl
@[simp] theorem modRun_sessions (s : State) (c : Nat) (f : RunStep → RunStep) : (modRun s c f).sessions = s.sessions := rfl
@[simp] theorem modRun_sent (s : State) (c : Nat) (f : RunStep → RunStep) : (modRun s c f).sent = s.sent := rfl
@[simp] theorem modRun_parked (s : State) (c : Nat) (f : RunStep → RunStep) : (modRun s c f).parked = s.parked := rfl
@[simp] theorem modRun_odWaiting (s : State) (c : Nat) (f : RunStep → RunStep) : (modRun s c f).odWaiting = s.odWaiting := rfl
@[simp] theorem modRun_staging (s : State) (c : Nat) (f : RunStep → RunStep) : (modRun s c f).staging = s.staging := rfl
@[simp] theorem modRun_reeveUp (s : State) (c : Nat) (f : RunStep → RunStep) : (modRun s c f).reeveUp = s.reeveUp := rfl
@[simp] theorem modRun_macAddr (s : State) (c : Nat) (f : RunStep → RunStep) : (modRun s c f).macAddr = s.macAddr := rfl
@[simp] theorem modRun_t1s (s : State) (c : Nat) (f : RunStep → RunStep) : (modRun s c f).t1s = s.t1s := rfl
@[simp] theorem modRun_eids (s : State) (c : Nat) (f : RunStep → RunStep) : (modRun s c f).eids = s.eids := rfl
@[simp] theorem modRun_log (s : State) (c : Nat) (f : RunStep → RunStep) : (modRun s c f).log = s.log := rfl
@[simp] theorem modRun_logSeq (s : State) (c : Nat) (f : RunStep → RunStep) : (modRun s c f).logSeq = s.logSeq := rfl
@[simp] theorem modRun_logSaved (s : State) (c : Nat) (f : RunStep → RunStep) : (modRun s c f).logSaved = s.logSaved := rfl
@[simp] theorem modRun_pf1 (s : State) (c : Nat) (f : RunStep → RunStep) : (modRun s c f).pf1 = s.pf1 := rfl
@[simp] theorem modRun_nvme (s : State) (c : Nat) (f : RunStep → RunStep) : (modRun s c f).nvme = s.nvme := rfl
@[simp] theorem modRun_perst (s : State) (c : Nat) (f : RunStep → RunStep) : (modRun s c f).perst = s.perst := rfl
@[simp] theorem modRun_linkUp (s : State) (c : Nat) (f : RunStep → RunStep) : (modRun s c f).linkUp = s.linkUp := rfl
@[simp] theorem modRun_layout (s : State) (c : Nat) (f : RunStep → RunStep) : (modRun s c f).layout = s.layout := rfl
@[simp] theorem modRun_host (s : State) (c : Nat) (f : RunStep → RunStep) : (modRun s c f).host = s.host := rfl
@[simp] theorem modRun_namespaces (s : State) (c : Nat) (f : RunStep → RunStep) : (modRun s c f).namespaces = s.namespaces := rfl
@[simp] theorem modRun_sanitize (s : State) (c : Nat) (f : RunStep → RunStep) : (modRun s c f).sanitize = s.sanitize := rfl
@[simp] theorem modRun_deallocs (s : State) (c : Nat) (f : RunStep → RunStep) : (modRun s c f).deallocs = s.deallocs := rfl
@[simp] theorem modRun_sdSeq (s : State) (c : Nat) (f : RunStep → RunStep) : (modRun s c f).sdSeq = s.sdSeq := rfl
@[simp] theorem modRun_sdRecords (s : State) (c : Nat) (f : RunStep → RunStep) : (modRun s c f).sdRecords = s.sdRecords := rfl
@[simp] theorem modRun_crofts (s : State) (c : Nat) (f : RunStep → RunStep) : (modRun s c f).crofts = mapMod s.crofts c (fun k => { k with run := k.run.map f }) := rfl
@[simp] theorem modRun_nextJob (s : State) (c : Nat) (f : RunStep → RunStep) : (modRun s c f).nextJob = s.nextJob := rfl
@[simp] theorem modRun_nextHandle (s : State) (c : Nat) (f : RunStep → RunStep) : (modRun s c f).nextHandle = s.nextHandle := rfl
@[simp] theorem modRun_exports (s : State) (c : Nat) (f : RunStep → RunStep) : (modRun s c f).exports = s.exports := rfl
@[simp] theorem modRun_segs (s : State) (c : Nat) (f : RunStep → RunStep) : (modRun s c f).segs = s.segs := rfl
@[simp] theorem modRun_nextSerial (s : State) (c : Nat) (f : RunStep → RunStep) : (modRun s c f).nextSerial = s.nextSerial := rfl
@[simp] theorem modRun_nextSpill (s : State) (c : Nat) (f : RunStep → RunStep) : (modRun s c f).nextSpill = s.nextSpill := rfl
@[simp] theorem modRun_ops (s : State) (c : Nat) (f : RunStep → RunStep) : (modRun s c f).ops = s.ops := rfl
@[simp] theorem modRun_nextOp (s : State) (c : Nat) (f : RunStep → RunStep) : (modRun s c f).nextOp = s.nextOp := rfl
@[simp] theorem modRun_frames (s : State) (c : Nat) (f : RunStep → RunStep) : (modRun s c f).frames = s.frames := rfl
@[simp] theorem modRun_seedInEffect (s : State) (c : Nat) (f : RunStep → RunStep) : (modRun s c f).seedInEffect = s.seedInEffect := rfl
@[simp] theorem modRun_hbm (s : State) (c : Nat) (f : RunStep → RunStep) : (modRun s c f).hbm = s.hbm := rfl
@[simp] theorem modRun_ramps (s : State) (c : Nat) (f : RunStep → RunStep) : (modRun s c f).ramps = s.ramps := rfl
@[simp] theorem modRun_rampPtr (s : State) (c : Nat) (f : RunStep → RunStep) : (modRun s c f).rampPtr = s.rampPtr := rfl
@[simp] theorem modRun_flashPtr (s : State) (c : Nat) (f : RunStep → RunStep) : (modRun s c f).flashPtr = s.flashPtr := rfl
@[simp] theorem modRun_droverPtr (s : State) (c : Nat) (f : RunStep → RunStep) : (modRun s c f).droverPtr = s.droverPtr := rfl
@[simp] theorem modRun_packages (s : State) (c : Nat) (f : RunStep → RunStep) : (modRun s c f).packages = s.packages := rfl
@[simp] theorem modRun_health (s : State) (c : Nat) (f : RunStep → RunStep) : (modRun s c f).health = s.health := rfl
@[simp] theorem modRun_mediaReadOnly (s : State) (c : Nat) (f : RunStep → RunStep) : (modRun s c f).mediaReadOnly = s.mediaReadOnly := rfl
@[simp] theorem modRun_ports (s : State) (c : Nat) (f : RunStep → RunStep) : (modRun s c f).ports = s.ports := rfl
@[simp] theorem modRun_kamlinAddr (s : State) (c : Nat) (f : RunStep → RunStep) : (modRun s c f).kamlinAddr = s.kamlinAddr := rfl
@[simp] theorem modRun_orDone (s : State) (c : Nat) (f : RunStep → RunStep) : (modRun s c f).orDone = s.orDone := rfl
@[simp] theorem modRun_stranded (s : State) (c : Nat) (f : RunStep → RunStep) : (modRun s c f).stranded = s.stranded := rfl
@[simp] theorem modRun_bell (s : State) (c : Nat) (f : RunStep → RunStep) : (modRun s c f).bell = s.bell := rfl
@[simp] theorem modRun_flash (s : State) (c : Nat) (f : RunStep → RunStep) : (modRun s c f).flash = s.flash := rfl
@[simp] theorem modRun_units (s : State) (c : Nat) (f : RunStep → RunStep) : (modRun s c f).units = s.units := rfl
@[simp] theorem modRun_watchdog (s : State) (c : Nat) (f : RunStep → RunStep) : (modRun s c f).watchdog = s.watchdog := rfl
@[simp] theorem modRun_inputs (s : State) (c : Nat) (f : RunStep → RunStep) : (modRun s c f).inputs = s.inputs := rfl
@[simp] theorem modRun_plant (s : State) (c : Nat) (f : RunStep → RunStep) : (modRun s c f).plant = s.plant := rfl
@[simp] theorem modRun_power (s : State) (c : Nat) (f : RunStep → RunStep) : (modRun s c f).power = s.power := rfl
@[simp] theorem modRun_sec (s : State) (c : Nat) (f : RunStep → RunStep) : (modRun s c f).sec = s.sec := rfl

/-! ### setVe -/

@[simp] theorem setVe_pending (s : State) (c v : Nat) (ve : VEngine) : (setVe s c v ve).pending = s.pending := rfl
@[simp] theorem setVe_freeCtr (s : State) (c v : Nat) (ve : VEngine) : (setVe s c v ve).freeCtr = s.freeCtr := rfl
@[simp] theorem setVe_fuse (s : State) (c v : Nat) (ve : VEngine) : (setVe s c v ve).fuse = s.fuse := rfl
@[simp] theorem setVe_serial (s : State) (c v : Nat) (ve : VEngine) : (setVe s c v ve).serial = s.serial := rfl
@[simp] theorem setVe_slotId (s : State) (c v : Nat) (ve : VEngine) : (setVe s c v ve).slotId = s.slotId := rfl
@[simp] theorem setVe_od (s : State) (c v : Nat) (ve : VEngine) : (setVe s c v ve).od = s.od := rfl
@[simp] theorem setVe_convs (s : State) (c v : Nat) (ve : VEngine) : (setVe s c v ve).convs = s.convs := rfl
@[simp] theorem setVe_doms (s : State) (c v : Nat) (ve : VEngine) : (setVe s c v ve).doms = s.doms := rfl
@[simp] theorem setVe_dictA (s : State) (c v : Nat) (ve : VEngine) : (setVe s c v ve).dictA = s.dictA := rfl
@[simp] theorem setVe_dictB (s : State) (c v : Nat) (ve : VEngine) : (setVe s c v ve).dictB = s.dictB := rfl
@[simp] theorem setVe_dictConflict (s : State) (c v : Nat) (ve : VEngine) : (setVe s c v ve).dictConflict = s.dictConflict := rfl
@[simp] theorem setVe_savePending (s : State) (c v : Nat) (ve : VEngine) : (setVe s c v ve).savePending = s.savePending := rfl
@[simp] theorem setVe_sessions (s : State) (c v : Nat) (ve : VEngine) : (setVe s c v ve).sessions = s.sessions := rfl
@[simp] theorem setVe_sent (s : State) (c v : Nat) (ve : VEngine) : (setVe s c v ve).sent = s.sent := rfl
@[simp] theorem setVe_parked (s : State) (c v : Nat) (ve : VEngine) : (setVe s c v ve).parked = s.parked := rfl
@[simp] theorem setVe_odWaiting (s : State) (c v : Nat) (ve : VEngine) : (setVe s c v ve).odWaiting = s.odWaiting := rfl
@[simp] theorem setVe_staging (s : State) (c v : Nat) (ve : VEngine) : (setVe s c v ve).staging = s.staging := rfl
@[simp] theorem setVe_reeveUp (s : State) (c v : Nat) (ve : VEngine) : (setVe s c v ve).reeveUp = s.reeveUp := rfl
@[simp] theorem setVe_macAddr (s : State) (c v : Nat) (ve : VEngine) : (setVe s c v ve).macAddr = s.macAddr := rfl
@[simp] theorem setVe_t1s (s : State) (c v : Nat) (ve : VEngine) : (setVe s c v ve).t1s = s.t1s := rfl
@[simp] theorem setVe_eids (s : State) (c v : Nat) (ve : VEngine) : (setVe s c v ve).eids = s.eids := rfl
@[simp] theorem setVe_log (s : State) (c v : Nat) (ve : VEngine) : (setVe s c v ve).log = s.log := rfl
@[simp] theorem setVe_logSeq (s : State) (c v : Nat) (ve : VEngine) : (setVe s c v ve).logSeq = s.logSeq := rfl
@[simp] theorem setVe_logSaved (s : State) (c v : Nat) (ve : VEngine) : (setVe s c v ve).logSaved = s.logSaved := rfl
@[simp] theorem setVe_pf1 (s : State) (c v : Nat) (ve : VEngine) : (setVe s c v ve).pf1 = s.pf1 := rfl
@[simp] theorem setVe_nvme (s : State) (c v : Nat) (ve : VEngine) : (setVe s c v ve).nvme = s.nvme := rfl
@[simp] theorem setVe_perst (s : State) (c v : Nat) (ve : VEngine) : (setVe s c v ve).perst = s.perst := rfl
@[simp] theorem setVe_linkUp (s : State) (c v : Nat) (ve : VEngine) : (setVe s c v ve).linkUp = s.linkUp := rfl
@[simp] theorem setVe_layout (s : State) (c v : Nat) (ve : VEngine) : (setVe s c v ve).layout = s.layout := rfl
@[simp] theorem setVe_host (s : State) (c v : Nat) (ve : VEngine) : (setVe s c v ve).host = s.host := rfl
@[simp] theorem setVe_namespaces (s : State) (c v : Nat) (ve : VEngine) : (setVe s c v ve).namespaces = s.namespaces := rfl
@[simp] theorem setVe_sanitize (s : State) (c v : Nat) (ve : VEngine) : (setVe s c v ve).sanitize = s.sanitize := rfl
@[simp] theorem setVe_deallocs (s : State) (c v : Nat) (ve : VEngine) : (setVe s c v ve).deallocs = s.deallocs := rfl
@[simp] theorem setVe_sdSeq (s : State) (c v : Nat) (ve : VEngine) : (setVe s c v ve).sdSeq = s.sdSeq := rfl
@[simp] theorem setVe_sdRecords (s : State) (c v : Nat) (ve : VEngine) : (setVe s c v ve).sdRecords = s.sdRecords := rfl
@[simp] theorem setVe_crofts (s : State) (c v : Nat) (ve : VEngine) : (setVe s c v ve).crofts = mapMod s.crofts c (fun k => { k with run := k.run.map (fun r => { r with ves := mapSet r.ves v ve }) }) := rfl
@[simp] theorem setVe_nextJob (s : State) (c v : Nat) (ve : VEngine) : (setVe s c v ve).nextJob = s.nextJob := rfl
@[simp] theorem setVe_nextHandle (s : State) (c v : Nat) (ve : VEngine) : (setVe s c v ve).nextHandle = s.nextHandle := rfl
@[simp] theorem setVe_exports (s : State) (c v : Nat) (ve : VEngine) : (setVe s c v ve).exports = s.exports := rfl
@[simp] theorem setVe_segs (s : State) (c v : Nat) (ve : VEngine) : (setVe s c v ve).segs = s.segs := rfl
@[simp] theorem setVe_nextSerial (s : State) (c v : Nat) (ve : VEngine) : (setVe s c v ve).nextSerial = s.nextSerial := rfl
@[simp] theorem setVe_nextSpill (s : State) (c v : Nat) (ve : VEngine) : (setVe s c v ve).nextSpill = s.nextSpill := rfl
@[simp] theorem setVe_ops (s : State) (c v : Nat) (ve : VEngine) : (setVe s c v ve).ops = s.ops := rfl
@[simp] theorem setVe_nextOp (s : State) (c v : Nat) (ve : VEngine) : (setVe s c v ve).nextOp = s.nextOp := rfl
@[simp] theorem setVe_frames (s : State) (c v : Nat) (ve : VEngine) : (setVe s c v ve).frames = s.frames := rfl
@[simp] theorem setVe_seedInEffect (s : State) (c v : Nat) (ve : VEngine) : (setVe s c v ve).seedInEffect = s.seedInEffect := rfl
@[simp] theorem setVe_hbm (s : State) (c v : Nat) (ve : VEngine) : (setVe s c v ve).hbm = s.hbm := rfl
@[simp] theorem setVe_ramps (s : State) (c v : Nat) (ve : VEngine) : (setVe s c v ve).ramps = s.ramps := rfl
@[simp] theorem setVe_rampPtr (s : State) (c v : Nat) (ve : VEngine) : (setVe s c v ve).rampPtr = s.rampPtr := rfl
@[simp] theorem setVe_flashPtr (s : State) (c v : Nat) (ve : VEngine) : (setVe s c v ve).flashPtr = s.flashPtr := rfl
@[simp] theorem setVe_droverPtr (s : State) (c v : Nat) (ve : VEngine) : (setVe s c v ve).droverPtr = s.droverPtr := rfl
@[simp] theorem setVe_packages (s : State) (c v : Nat) (ve : VEngine) : (setVe s c v ve).packages = s.packages := rfl
@[simp] theorem setVe_health (s : State) (c v : Nat) (ve : VEngine) : (setVe s c v ve).health = s.health := rfl
@[simp] theorem setVe_mediaReadOnly (s : State) (c v : Nat) (ve : VEngine) : (setVe s c v ve).mediaReadOnly = s.mediaReadOnly := rfl
@[simp] theorem setVe_ports (s : State) (c v : Nat) (ve : VEngine) : (setVe s c v ve).ports = s.ports := rfl
@[simp] theorem setVe_kamlinAddr (s : State) (c v : Nat) (ve : VEngine) : (setVe s c v ve).kamlinAddr = s.kamlinAddr := rfl
@[simp] theorem setVe_orDone (s : State) (c v : Nat) (ve : VEngine) : (setVe s c v ve).orDone = s.orDone := rfl
@[simp] theorem setVe_stranded (s : State) (c v : Nat) (ve : VEngine) : (setVe s c v ve).stranded = s.stranded := rfl
@[simp] theorem setVe_bell (s : State) (c v : Nat) (ve : VEngine) : (setVe s c v ve).bell = s.bell := rfl
@[simp] theorem setVe_flash (s : State) (c v : Nat) (ve : VEngine) : (setVe s c v ve).flash = s.flash := rfl
@[simp] theorem setVe_units (s : State) (c v : Nat) (ve : VEngine) : (setVe s c v ve).units = s.units := rfl
@[simp] theorem setVe_watchdog (s : State) (c v : Nat) (ve : VEngine) : (setVe s c v ve).watchdog = s.watchdog := rfl
@[simp] theorem setVe_inputs (s : State) (c v : Nat) (ve : VEngine) : (setVe s c v ve).inputs = s.inputs := rfl
@[simp] theorem setVe_plant (s : State) (c v : Nat) (ve : VEngine) : (setVe s c v ve).plant = s.plant := rfl
@[simp] theorem setVe_power (s : State) (c v : Nat) (ve : VEngine) : (setVe s c v ve).power = s.power := rfl
@[simp] theorem setVe_sec (s : State) (c v : Nat) (ve : VEngine) : (setVe s c v ve).sec = s.sec := rfl

/-! ### modVe -/

@[simp] theorem modVe_pending (s : State) (c v : Nat) (f : VEngine → VEngine) : (modVe s c v f).pending = s.pending := rfl
@[simp] theorem modVe_freeCtr (s : State) (c v : Nat) (f : VEngine → VEngine) : (modVe s c v f).freeCtr = s.freeCtr := rfl
@[simp] theorem modVe_fuse (s : State) (c v : Nat) (f : VEngine → VEngine) : (modVe s c v f).fuse = s.fuse := rfl
@[simp] theorem modVe_serial (s : State) (c v : Nat) (f : VEngine → VEngine) : (modVe s c v f).serial = s.serial := rfl
@[simp] theorem modVe_slotId (s : State) (c v : Nat) (f : VEngine → VEngine) : (modVe s c v f).slotId = s.slotId := rfl
@[simp] theorem modVe_od (s : State) (c v : Nat) (f : VEngine → VEngine) : (modVe s c v f).od = s.od := rfl
@[simp] theorem modVe_convs (s : State) (c v : Nat) (f : VEngine → VEngine) : (modVe s c v f).convs = s.convs := rfl
@[simp] theorem modVe_doms (s : State) (c v : Nat) (f : VEngine → VEngine) : (modVe s c v f).doms = s.doms := rfl
@[simp] theorem modVe_dictA (s : State) (c v : Nat) (f : VEngine → VEngine) : (modVe s c v f).dictA = s.dictA := rfl
@[simp] theorem modVe_dictB (s : State) (c v : Nat) (f : VEngine → VEngine) : (modVe s c v f).dictB = s.dictB := rfl
@[simp] theorem modVe_dictConflict (s : State) (c v : Nat) (f : VEngine → VEngine) : (modVe s c v f).dictConflict = s.dictConflict := rfl
@[simp] theorem modVe_savePending (s : State) (c v : Nat) (f : VEngine → VEngine) : (modVe s c v f).savePending = s.savePending := rfl
@[simp] theorem modVe_sessions (s : State) (c v : Nat) (f : VEngine → VEngine) : (modVe s c v f).sessions = s.sessions := rfl
@[simp] theorem modVe_sent (s : State) (c v : Nat) (f : VEngine → VEngine) : (modVe s c v f).sent = s.sent := rfl
@[simp] theorem modVe_parked (s : State) (c v : Nat) (f : VEngine → VEngine) : (modVe s c v f).parked = s.parked := rfl
@[simp] theorem modVe_odWaiting (s : State) (c v : Nat) (f : VEngine → VEngine) : (modVe s c v f).odWaiting = s.odWaiting := rfl
@[simp] theorem modVe_staging (s : State) (c v : Nat) (f : VEngine → VEngine) : (modVe s c v f).staging = s.staging := rfl
@[simp] theorem modVe_reeveUp (s : State) (c v : Nat) (f : VEngine → VEngine) : (modVe s c v f).reeveUp = s.reeveUp := rfl
@[simp] theorem modVe_macAddr (s : State) (c v : Nat) (f : VEngine → VEngine) : (modVe s c v f).macAddr = s.macAddr := rfl
@[simp] theorem modVe_t1s (s : State) (c v : Nat) (f : VEngine → VEngine) : (modVe s c v f).t1s = s.t1s := rfl
@[simp] theorem modVe_eids (s : State) (c v : Nat) (f : VEngine → VEngine) : (modVe s c v f).eids = s.eids := rfl
@[simp] theorem modVe_log (s : State) (c v : Nat) (f : VEngine → VEngine) : (modVe s c v f).log = s.log := rfl
@[simp] theorem modVe_logSeq (s : State) (c v : Nat) (f : VEngine → VEngine) : (modVe s c v f).logSeq = s.logSeq := rfl
@[simp] theorem modVe_logSaved (s : State) (c v : Nat) (f : VEngine → VEngine) : (modVe s c v f).logSaved = s.logSaved := rfl
@[simp] theorem modVe_pf1 (s : State) (c v : Nat) (f : VEngine → VEngine) : (modVe s c v f).pf1 = s.pf1 := rfl
@[simp] theorem modVe_nvme (s : State) (c v : Nat) (f : VEngine → VEngine) : (modVe s c v f).nvme = s.nvme := rfl
@[simp] theorem modVe_perst (s : State) (c v : Nat) (f : VEngine → VEngine) : (modVe s c v f).perst = s.perst := rfl
@[simp] theorem modVe_linkUp (s : State) (c v : Nat) (f : VEngine → VEngine) : (modVe s c v f).linkUp = s.linkUp := rfl
@[simp] theorem modVe_layout (s : State) (c v : Nat) (f : VEngine → VEngine) : (modVe s c v f).layout = s.layout := rfl
@[simp] theorem modVe_host (s : State) (c v : Nat) (f : VEngine → VEngine) : (modVe s c v f).host = s.host := rfl
@[simp] theorem modVe_namespaces (s : State) (c v : Nat) (f : VEngine → VEngine) : (modVe s c v f).namespaces = s.namespaces := rfl
@[simp] theorem modVe_sanitize (s : State) (c v : Nat) (f : VEngine → VEngine) : (modVe s c v f).sanitize = s.sanitize := rfl
@[simp] theorem modVe_deallocs (s : State) (c v : Nat) (f : VEngine → VEngine) : (modVe s c v f).deallocs = s.deallocs := rfl
@[simp] theorem modVe_sdSeq (s : State) (c v : Nat) (f : VEngine → VEngine) : (modVe s c v f).sdSeq = s.sdSeq := rfl
@[simp] theorem modVe_sdRecords (s : State) (c v : Nat) (f : VEngine → VEngine) : (modVe s c v f).sdRecords = s.sdRecords := rfl
@[simp] theorem modVe_crofts (s : State) (c v : Nat) (f : VEngine → VEngine) : (modVe s c v f).crofts = mapMod s.crofts c (fun k => { k with run := k.run.map (fun r => { r with ves := mapMod r.ves v f }) }) := rfl
@[simp] theorem modVe_nextJob (s : State) (c v : Nat) (f : VEngine → VEngine) : (modVe s c v f).nextJob = s.nextJob := rfl
@[simp] theorem modVe_nextHandle (s : State) (c v : Nat) (f : VEngine → VEngine) : (modVe s c v f).nextHandle = s.nextHandle := rfl
@[simp] theorem modVe_exports (s : State) (c v : Nat) (f : VEngine → VEngine) : (modVe s c v f).exports = s.exports := rfl
@[simp] theorem modVe_segs (s : State) (c v : Nat) (f : VEngine → VEngine) : (modVe s c v f).segs = s.segs := rfl
@[simp] theorem modVe_nextSerial (s : State) (c v : Nat) (f : VEngine → VEngine) : (modVe s c v f).nextSerial = s.nextSerial := rfl
@[simp] theorem modVe_nextSpill (s : State) (c v : Nat) (f : VEngine → VEngine) : (modVe s c v f).nextSpill = s.nextSpill := rfl
@[simp] theorem modVe_ops (s : State) (c v : Nat) (f : VEngine → VEngine) : (modVe s c v f).ops = s.ops := rfl
@[simp] theorem modVe_nextOp (s : State) (c v : Nat) (f : VEngine → VEngine) : (modVe s c v f).nextOp = s.nextOp := rfl
@[simp] theorem modVe_frames (s : State) (c v : Nat) (f : VEngine → VEngine) : (modVe s c v f).frames = s.frames := rfl
@[simp] theorem modVe_seedInEffect (s : State) (c v : Nat) (f : VEngine → VEngine) : (modVe s c v f).seedInEffect = s.seedInEffect := rfl
@[simp] theorem modVe_hbm (s : State) (c v : Nat) (f : VEngine → VEngine) : (modVe s c v f).hbm = s.hbm := rfl
@[simp] theorem modVe_ramps (s : State) (c v : Nat) (f : VEngine → VEngine) : (modVe s c v f).ramps = s.ramps := rfl
@[simp] theorem modVe_rampPtr (s : State) (c v : Nat) (f : VEngine → VEngine) : (modVe s c v f).rampPtr = s.rampPtr := rfl
@[simp] theorem modVe_flashPtr (s : State) (c v : Nat) (f : VEngine → VEngine) : (modVe s c v f).flashPtr = s.flashPtr := rfl
@[simp] theorem modVe_droverPtr (s : State) (c v : Nat) (f : VEngine → VEngine) : (modVe s c v f).droverPtr = s.droverPtr := rfl
@[simp] theorem modVe_packages (s : State) (c v : Nat) (f : VEngine → VEngine) : (modVe s c v f).packages = s.packages := rfl
@[simp] theorem modVe_health (s : State) (c v : Nat) (f : VEngine → VEngine) : (modVe s c v f).health = s.health := rfl
@[simp] theorem modVe_mediaReadOnly (s : State) (c v : Nat) (f : VEngine → VEngine) : (modVe s c v f).mediaReadOnly = s.mediaReadOnly := rfl
@[simp] theorem modVe_ports (s : State) (c v : Nat) (f : VEngine → VEngine) : (modVe s c v f).ports = s.ports := rfl
@[simp] theorem modVe_kamlinAddr (s : State) (c v : Nat) (f : VEngine → VEngine) : (modVe s c v f).kamlinAddr = s.kamlinAddr := rfl
@[simp] theorem modVe_orDone (s : State) (c v : Nat) (f : VEngine → VEngine) : (modVe s c v f).orDone = s.orDone := rfl
@[simp] theorem modVe_stranded (s : State) (c v : Nat) (f : VEngine → VEngine) : (modVe s c v f).stranded = s.stranded := rfl
@[simp] theorem modVe_bell (s : State) (c v : Nat) (f : VEngine → VEngine) : (modVe s c v f).bell = s.bell := rfl
@[simp] theorem modVe_flash (s : State) (c v : Nat) (f : VEngine → VEngine) : (modVe s c v f).flash = s.flash := rfl
@[simp] theorem modVe_units (s : State) (c v : Nat) (f : VEngine → VEngine) : (modVe s c v f).units = s.units := rfl
@[simp] theorem modVe_watchdog (s : State) (c v : Nat) (f : VEngine → VEngine) : (modVe s c v f).watchdog = s.watchdog := rfl
@[simp] theorem modVe_inputs (s : State) (c v : Nat) (f : VEngine → VEngine) : (modVe s c v f).inputs = s.inputs := rfl
@[simp] theorem modVe_plant (s : State) (c v : Nat) (f : VEngine → VEngine) : (modVe s c v f).plant = s.plant := rfl
@[simp] theorem modVe_power (s : State) (c v : Nat) (f : VEngine → VEngine) : (modVe s c v f).power = s.power := rfl
@[simp] theorem modVe_sec (s : State) (c v : Nat) (f : VEngine → VEngine) : (modVe s c v f).sec = s.sec := rfl

/-! ### modStore -/

@[simp] theorem modStore_pending (s : State) (c : Nat) (f : Store → Store) : (modStore s c f).pending = s.pending := rfl
@[simp] theorem modStore_freeCtr (s : State) (c : Nat) (f : Store → Store) : (modStore s c f).freeCtr = s.freeCtr := rfl
@[simp] theorem modStore_fuse (s : State) (c : Nat) (f : Store → Store) : (modStore s c f).fuse = s.fuse := rfl
@[simp] theorem modStore_serial (s : State) (c : Nat) (f : Store → Store) : (modStore s c f).serial = s.serial := rfl
@[simp] theorem modStore_slotId (s : State) (c : Nat) (f : Store → Store) : (modStore s c f).slotId = s.slotId := rfl
@[simp] theorem modStore_od (s : State) (c : Nat) (f : Store → Store) : (modStore s c f).od = s.od := rfl
@[simp] theorem modStore_convs (s : State) (c : Nat) (f : Store → Store) : (modStore s c f).convs = s.convs := rfl
@[simp] theorem modStore_doms (s : State) (c : Nat) (f : Store → Store) : (modStore s c f).doms = s.doms := rfl
@[simp] theorem modStore_dictA (s : State) (c : Nat) (f : Store → Store) : (modStore s c f).dictA = s.dictA := rfl
@[simp] theorem modStore_dictB (s : State) (c : Nat) (f : Store → Store) : (modStore s c f).dictB = s.dictB := rfl
@[simp] theorem modStore_dictConflict (s : State) (c : Nat) (f : Store → Store) : (modStore s c f).dictConflict = s.dictConflict := rfl
@[simp] theorem modStore_savePending (s : State) (c : Nat) (f : Store → Store) : (modStore s c f).savePending = s.savePending := rfl
@[simp] theorem modStore_sessions (s : State) (c : Nat) (f : Store → Store) : (modStore s c f).sessions = s.sessions := rfl
@[simp] theorem modStore_sent (s : State) (c : Nat) (f : Store → Store) : (modStore s c f).sent = s.sent := rfl
@[simp] theorem modStore_parked (s : State) (c : Nat) (f : Store → Store) : (modStore s c f).parked = s.parked := rfl
@[simp] theorem modStore_odWaiting (s : State) (c : Nat) (f : Store → Store) : (modStore s c f).odWaiting = s.odWaiting := rfl
@[simp] theorem modStore_staging (s : State) (c : Nat) (f : Store → Store) : (modStore s c f).staging = s.staging := rfl
@[simp] theorem modStore_reeveUp (s : State) (c : Nat) (f : Store → Store) : (modStore s c f).reeveUp = s.reeveUp := rfl
@[simp] theorem modStore_macAddr (s : State) (c : Nat) (f : Store → Store) : (modStore s c f).macAddr = s.macAddr := rfl
@[simp] theorem modStore_t1s (s : State) (c : Nat) (f : Store → Store) : (modStore s c f).t1s = s.t1s := rfl
@[simp] theorem modStore_eids (s : State) (c : Nat) (f : Store → Store) : (modStore s c f).eids = s.eids := rfl
@[simp] theorem modStore_log (s : State) (c : Nat) (f : Store → Store) : (modStore s c f).log = s.log := rfl
@[simp] theorem modStore_logSeq (s : State) (c : Nat) (f : Store → Store) : (modStore s c f).logSeq = s.logSeq := rfl
@[simp] theorem modStore_logSaved (s : State) (c : Nat) (f : Store → Store) : (modStore s c f).logSaved = s.logSaved := rfl
@[simp] theorem modStore_pf1 (s : State) (c : Nat) (f : Store → Store) : (modStore s c f).pf1 = s.pf1 := rfl
@[simp] theorem modStore_nvme (s : State) (c : Nat) (f : Store → Store) : (modStore s c f).nvme = s.nvme := rfl
@[simp] theorem modStore_perst (s : State) (c : Nat) (f : Store → Store) : (modStore s c f).perst = s.perst := rfl
@[simp] theorem modStore_linkUp (s : State) (c : Nat) (f : Store → Store) : (modStore s c f).linkUp = s.linkUp := rfl
@[simp] theorem modStore_layout (s : State) (c : Nat) (f : Store → Store) : (modStore s c f).layout = s.layout := rfl
@[simp] theorem modStore_host (s : State) (c : Nat) (f : Store → Store) : (modStore s c f).host = s.host := rfl
@[simp] theorem modStore_namespaces (s : State) (c : Nat) (f : Store → Store) : (modStore s c f).namespaces = s.namespaces := rfl
@[simp] theorem modStore_sanitize (s : State) (c : Nat) (f : Store → Store) : (modStore s c f).sanitize = s.sanitize := rfl
@[simp] theorem modStore_deallocs (s : State) (c : Nat) (f : Store → Store) : (modStore s c f).deallocs = s.deallocs := rfl
@[simp] theorem modStore_sdSeq (s : State) (c : Nat) (f : Store → Store) : (modStore s c f).sdSeq = s.sdSeq := rfl
@[simp] theorem modStore_sdRecords (s : State) (c : Nat) (f : Store → Store) : (modStore s c f).sdRecords = s.sdRecords := rfl
@[simp] theorem modStore_crofts (s : State) (c : Nat) (f : Store → Store) : (modStore s c f).crofts = mapMod s.crofts c (fun k => { k with store := f k.store }) := rfl
@[simp] theorem modStore_nextJob (s : State) (c : Nat) (f : Store → Store) : (modStore s c f).nextJob = s.nextJob := rfl
@[simp] theorem modStore_nextHandle (s : State) (c : Nat) (f : Store → Store) : (modStore s c f).nextHandle = s.nextHandle := rfl
@[simp] theorem modStore_exports (s : State) (c : Nat) (f : Store → Store) : (modStore s c f).exports = s.exports := rfl
@[simp] theorem modStore_segs (s : State) (c : Nat) (f : Store → Store) : (modStore s c f).segs = s.segs := rfl
@[simp] theorem modStore_nextSerial (s : State) (c : Nat) (f : Store → Store) : (modStore s c f).nextSerial = s.nextSerial := rfl
@[simp] theorem modStore_nextSpill (s : State) (c : Nat) (f : Store → Store) : (modStore s c f).nextSpill = s.nextSpill := rfl
@[simp] theorem modStore_ops (s : State) (c : Nat) (f : Store → Store) : (modStore s c f).ops = s.ops := rfl
@[simp] theorem modStore_nextOp (s : State) (c : Nat) (f : Store → Store) : (modStore s c f).nextOp = s.nextOp := rfl
@[simp] theorem modStore_frames (s : State) (c : Nat) (f : Store → Store) : (modStore s c f).frames = s.frames := rfl
@[simp] theorem modStore_seedInEffect (s : State) (c : Nat) (f : Store → Store) : (modStore s c f).seedInEffect = s.seedInEffect := rfl
@[simp] theorem modStore_hbm (s : State) (c : Nat) (f : Store → Store) : (modStore s c f).hbm = s.hbm := rfl
@[simp] theorem modStore_ramps (s : State) (c : Nat) (f : Store → Store) : (modStore s c f).ramps = s.ramps := rfl
@[simp] theorem modStore_rampPtr (s : State) (c : Nat) (f : Store → Store) : (modStore s c f).rampPtr = s.rampPtr := rfl
@[simp] theorem modStore_flashPtr (s : State) (c : Nat) (f : Store → Store) : (modStore s c f).flashPtr = s.flashPtr := rfl
@[simp] theorem modStore_droverPtr (s : State) (c : Nat) (f : Store → Store) : (modStore s c f).droverPtr = s.droverPtr := rfl
@[simp] theorem modStore_packages (s : State) (c : Nat) (f : Store → Store) : (modStore s c f).packages = s.packages := rfl
@[simp] theorem modStore_health (s : State) (c : Nat) (f : Store → Store) : (modStore s c f).health = s.health := rfl
@[simp] theorem modStore_mediaReadOnly (s : State) (c : Nat) (f : Store → Store) : (modStore s c f).mediaReadOnly = s.mediaReadOnly := rfl
@[simp] theorem modStore_ports (s : State) (c : Nat) (f : Store → Store) : (modStore s c f).ports = s.ports := rfl
@[simp] theorem modStore_kamlinAddr (s : State) (c : Nat) (f : Store → Store) : (modStore s c f).kamlinAddr = s.kamlinAddr := rfl
@[simp] theorem modStore_orDone (s : State) (c : Nat) (f : Store → Store) : (modStore s c f).orDone = s.orDone := rfl
@[simp] theorem modStore_stranded (s : State) (c : Nat) (f : Store → Store) : (modStore s c f).stranded = s.stranded := rfl
@[simp] theorem modStore_bell (s : State) (c : Nat) (f : Store → Store) : (modStore s c f).bell = s.bell := rfl
@[simp] theorem modStore_flash (s : State) (c : Nat) (f : Store → Store) : (modStore s c f).flash = s.flash := rfl
@[simp] theorem modStore_units (s : State) (c : Nat) (f : Store → Store) : (modStore s c f).units = s.units := rfl
@[simp] theorem modStore_watchdog (s : State) (c : Nat) (f : Store → Store) : (modStore s c f).watchdog = s.watchdog := rfl
@[simp] theorem modStore_inputs (s : State) (c : Nat) (f : Store → Store) : (modStore s c f).inputs = s.inputs := rfl
@[simp] theorem modStore_plant (s : State) (c : Nat) (f : Store → Store) : (modStore s c f).plant = s.plant := rfl
@[simp] theorem modStore_power (s : State) (c : Nat) (f : Store → Store) : (modStore s c f).power = s.power := rfl
@[simp] theorem modStore_sec (s : State) (c : Nat) (f : Store → Store) : (modStore s c f).sec = s.sec := rfl

/-! ### putStack -/

@[simp] theorem putStack_pending (s : State) (x : Nat) (h : Stack) : (putStack s x h).pending = s.pending := rfl
@[simp] theorem putStack_freeCtr (s : State) (x : Nat) (h : Stack) : (putStack s x h).freeCtr = s.freeCtr := rfl
@[simp] theorem putStack_fuse (s : State) (x : Nat) (h : Stack) : (putStack s x h).fuse = s.fuse := rfl
@[simp] theorem putStack_serial (s : State) (x : Nat) (h : Stack) : (putStack s x h).serial = s.serial := rfl
@[simp] theorem putStack_slotId (s : State) (x : Nat) (h : Stack) : (putStack s x h).slotId = s.slotId := rfl
@[simp] theorem putStack_od (s : State) (x : Nat) (h : Stack) : (putStack s x h).od = s.od := rfl
@[simp] theorem putStack_convs (s : State) (x : Nat) (h : Stack) : (putStack s x h).convs = s.convs := rfl
@[simp] theorem putStack_doms (s : State) (x : Nat) (h : Stack) : (putStack s x h).doms = s.doms := rfl
@[simp] theorem putStack_dictA (s : State) (x : Nat) (h : Stack) : (putStack s x h).dictA = s.dictA := rfl
@[simp] theorem putStack_dictB (s : State) (x : Nat) (h : Stack) : (putStack s x h).dictB = s.dictB := rfl
@[simp] theorem putStack_dictConflict (s : State) (x : Nat) (h : Stack) : (putStack s x h).dictConflict = s.dictConflict := rfl
@[simp] theorem putStack_savePending (s : State) (x : Nat) (h : Stack) : (putStack s x h).savePending = s.savePending := rfl
@[simp] theorem putStack_sessions (s : State) (x : Nat) (h : Stack) : (putStack s x h).sessions = s.sessions := rfl
@[simp] theorem putStack_sent (s : State) (x : Nat) (h : Stack) : (putStack s x h).sent = s.sent := rfl
@[simp] theorem putStack_parked (s : State) (x : Nat) (h : Stack) : (putStack s x h).parked = s.parked := rfl
@[simp] theorem putStack_odWaiting (s : State) (x : Nat) (h : Stack) : (putStack s x h).odWaiting = s.odWaiting := rfl
@[simp] theorem putStack_staging (s : State) (x : Nat) (h : Stack) : (putStack s x h).staging = s.staging := rfl
@[simp] theorem putStack_reeveUp (s : State) (x : Nat) (h : Stack) : (putStack s x h).reeveUp = s.reeveUp := rfl
@[simp] theorem putStack_macAddr (s : State) (x : Nat) (h : Stack) : (putStack s x h).macAddr = s.macAddr := rfl
@[simp] theorem putStack_t1s (s : State) (x : Nat) (h : Stack) : (putStack s x h).t1s = s.t1s := rfl
@[simp] theorem putStack_eids (s : State) (x : Nat) (h : Stack) : (putStack s x h).eids = s.eids := rfl
@[simp] theorem putStack_log (s : State) (x : Nat) (h : Stack) : (putStack s x h).log = s.log := rfl
@[simp] theorem putStack_logSeq (s : State) (x : Nat) (h : Stack) : (putStack s x h).logSeq = s.logSeq := rfl
@[simp] theorem putStack_logSaved (s : State) (x : Nat) (h : Stack) : (putStack s x h).logSaved = s.logSaved := rfl
@[simp] theorem putStack_pf1 (s : State) (x : Nat) (h : Stack) : (putStack s x h).pf1 = s.pf1 := rfl
@[simp] theorem putStack_nvme (s : State) (x : Nat) (h : Stack) : (putStack s x h).nvme = s.nvme := rfl
@[simp] theorem putStack_perst (s : State) (x : Nat) (h : Stack) : (putStack s x h).perst = s.perst := rfl
@[simp] theorem putStack_linkUp (s : State) (x : Nat) (h : Stack) : (putStack s x h).linkUp = s.linkUp := rfl
@[simp] theorem putStack_layout (s : State) (x : Nat) (h : Stack) : (putStack s x h).layout = s.layout := rfl
@[simp] theorem putStack_host (s : State) (x : Nat) (h : Stack) : (putStack s x h).host = s.host := rfl
@[simp] theorem putStack_namespaces (s : State) (x : Nat) (h : Stack) : (putStack s x h).namespaces = s.namespaces := rfl
@[simp] theorem putStack_sanitize (s : State) (x : Nat) (h : Stack) : (putStack s x h).sanitize = s.sanitize := rfl
@[simp] theorem putStack_deallocs (s : State) (x : Nat) (h : Stack) : (putStack s x h).deallocs = s.deallocs := rfl
@[simp] theorem putStack_sdSeq (s : State) (x : Nat) (h : Stack) : (putStack s x h).sdSeq = s.sdSeq := rfl
@[simp] theorem putStack_sdRecords (s : State) (x : Nat) (h : Stack) : (putStack s x h).sdRecords = s.sdRecords := rfl
@[simp] theorem putStack_crofts (s : State) (x : Nat) (h : Stack) : (putStack s x h).crofts = s.crofts := rfl
@[simp] theorem putStack_nextJob (s : State) (x : Nat) (h : Stack) : (putStack s x h).nextJob = s.nextJob := rfl
@[simp] theorem putStack_nextHandle (s : State) (x : Nat) (h : Stack) : (putStack s x h).nextHandle = s.nextHandle := rfl
@[simp] theorem putStack_exports (s : State) (x : Nat) (h : Stack) : (putStack s x h).exports = s.exports := rfl
@[simp] theorem putStack_segs (s : State) (x : Nat) (h : Stack) : (putStack s x h).segs = s.segs := rfl
@[simp] theorem putStack_nextSerial (s : State) (x : Nat) (h : Stack) : (putStack s x h).nextSerial = s.nextSerial := rfl
@[simp] theorem putStack_nextSpill (s : State) (x : Nat) (h : Stack) : (putStack s x h).nextSpill = s.nextSpill := rfl
@[simp] theorem putStack_ops (s : State) (x : Nat) (h : Stack) : (putStack s x h).ops = s.ops := rfl
@[simp] theorem putStack_nextOp (s : State) (x : Nat) (h : Stack) : (putStack s x h).nextOp = s.nextOp := rfl
@[simp] theorem putStack_frames (s : State) (x : Nat) (h : Stack) : (putStack s x h).frames = s.frames := rfl
@[simp] theorem putStack_seedInEffect (s : State) (x : Nat) (h : Stack) : (putStack s x h).seedInEffect = s.seedInEffect := rfl
@[simp] theorem putStack_hbm (s : State) (x : Nat) (h : Stack) : (putStack s x h).hbm = mapSet s.hbm x h := rfl
@[simp] theorem putStack_ramps (s : State) (x : Nat) (h : Stack) : (putStack s x h).ramps = s.ramps := rfl
@[simp] theorem putStack_rampPtr (s : State) (x : Nat) (h : Stack) : (putStack s x h).rampPtr = s.rampPtr := rfl
@[simp] theorem putStack_flashPtr (s : State) (x : Nat) (h : Stack) : (putStack s x h).flashPtr = s.flashPtr := rfl
@[simp] theorem putStack_droverPtr (s : State) (x : Nat) (h : Stack) : (putStack s x h).droverPtr = s.droverPtr := rfl
@[simp] theorem putStack_packages (s : State) (x : Nat) (h : Stack) : (putStack s x h).packages = s.packages := rfl
@[simp] theorem putStack_health (s : State) (x : Nat) (h : Stack) : (putStack s x h).health = s.health := rfl
@[simp] theorem putStack_mediaReadOnly (s : State) (x : Nat) (h : Stack) : (putStack s x h).mediaReadOnly = s.mediaReadOnly := rfl
@[simp] theorem putStack_ports (s : State) (x : Nat) (h : Stack) : (putStack s x h).ports = s.ports := rfl
@[simp] theorem putStack_kamlinAddr (s : State) (x : Nat) (h : Stack) : (putStack s x h).kamlinAddr = s.kamlinAddr := rfl
@[simp] theorem putStack_orDone (s : State) (x : Nat) (h : Stack) : (putStack s x h).orDone = s.orDone := rfl
@[simp] theorem putStack_stranded (s : State) (x : Nat) (h : Stack) : (putStack s x h).stranded = s.stranded := rfl
@[simp] theorem putStack_bell (s : State) (x : Nat) (h : Stack) : (putStack s x h).bell = s.bell := rfl
@[simp] theorem putStack_flash (s : State) (x : Nat) (h : Stack) : (putStack s x h).flash = s.flash := rfl
@[simp] theorem putStack_units (s : State) (x : Nat) (h : Stack) : (putStack s x h).units = s.units := rfl
@[simp] theorem putStack_watchdog (s : State) (x : Nat) (h : Stack) : (putStack s x h).watchdog = s.watchdog := rfl
@[simp] theorem putStack_inputs (s : State) (x : Nat) (h : Stack) : (putStack s x h).inputs = s.inputs := rfl
@[simp] theorem putStack_plant (s : State) (x : Nat) (h : Stack) : (putStack s x h).plant = s.plant := rfl
@[simp] theorem putStack_power (s : State) (x : Nat) (h : Stack) : (putStack s x h).power = s.power := rfl
@[simp] theorem putStack_sec (s : State) (x : Nat) (h : Stack) : (putStack s x h).sec = s.sec := rfl

/-! ### putPackage -/

@[simp] theorem putPackage_pending (s : State) (p : Nat) (x : Package) : (putPackage s p x).pending = s.pending := rfl
@[simp] theorem putPackage_freeCtr (s : State) (p : Nat) (x : Package) : (putPackage s p x).freeCtr = s.freeCtr := rfl
@[simp] theorem putPackage_fuse (s : State) (p : Nat) (x : Package) : (putPackage s p x).fuse = s.fuse := rfl
@[simp] theorem putPackage_serial (s : State) (p : Nat) (x : Package) : (putPackage s p x).serial = s.serial := rfl
@[simp] theorem putPackage_slotId (s : State) (p : Nat) (x : Package) : (putPackage s p x).slotId = s.slotId := rfl
@[simp] theorem putPackage_od (s : State) (p : Nat) (x : Package) : (putPackage s p x).od = s.od := rfl
@[simp] theorem putPackage_convs (s : State) (p : Nat) (x : Package) : (putPackage s p x).convs = s.convs := rfl
@[simp] theorem putPackage_doms (s : State) (p : Nat) (x : Package) : (putPackage s p x).doms = s.doms := rfl
@[simp] theorem putPackage_dictA (s : State) (p : Nat) (x : Package) : (putPackage s p x).dictA = s.dictA := rfl
@[simp] theorem putPackage_dictB (s : State) (p : Nat) (x : Package) : (putPackage s p x).dictB = s.dictB := rfl
@[simp] theorem putPackage_dictConflict (s : State) (p : Nat) (x : Package) : (putPackage s p x).dictConflict = s.dictConflict := rfl
@[simp] theorem putPackage_savePending (s : State) (p : Nat) (x : Package) : (putPackage s p x).savePending = s.savePending := rfl
@[simp] theorem putPackage_sessions (s : State) (p : Nat) (x : Package) : (putPackage s p x).sessions = s.sessions := rfl
@[simp] theorem putPackage_sent (s : State) (p : Nat) (x : Package) : (putPackage s p x).sent = s.sent := rfl
@[simp] theorem putPackage_parked (s : State) (p : Nat) (x : Package) : (putPackage s p x).parked = s.parked := rfl
@[simp] theorem putPackage_odWaiting (s : State) (p : Nat) (x : Package) : (putPackage s p x).odWaiting = s.odWaiting := rfl
@[simp] theorem putPackage_staging (s : State) (p : Nat) (x : Package) : (putPackage s p x).staging = s.staging := rfl
@[simp] theorem putPackage_reeveUp (s : State) (p : Nat) (x : Package) : (putPackage s p x).reeveUp = s.reeveUp := rfl
@[simp] theorem putPackage_macAddr (s : State) (p : Nat) (x : Package) : (putPackage s p x).macAddr = s.macAddr := rfl
@[simp] theorem putPackage_t1s (s : State) (p : Nat) (x : Package) : (putPackage s p x).t1s = s.t1s := rfl
@[simp] theorem putPackage_eids (s : State) (p : Nat) (x : Package) : (putPackage s p x).eids = s.eids := rfl
@[simp] theorem putPackage_log (s : State) (p : Nat) (x : Package) : (putPackage s p x).log = s.log := rfl
@[simp] theorem putPackage_logSeq (s : State) (p : Nat) (x : Package) : (putPackage s p x).logSeq = s.logSeq := rfl
@[simp] theorem putPackage_logSaved (s : State) (p : Nat) (x : Package) : (putPackage s p x).logSaved = s.logSaved := rfl
@[simp] theorem putPackage_pf1 (s : State) (p : Nat) (x : Package) : (putPackage s p x).pf1 = s.pf1 := rfl
@[simp] theorem putPackage_nvme (s : State) (p : Nat) (x : Package) : (putPackage s p x).nvme = s.nvme := rfl
@[simp] theorem putPackage_perst (s : State) (p : Nat) (x : Package) : (putPackage s p x).perst = s.perst := rfl
@[simp] theorem putPackage_linkUp (s : State) (p : Nat) (x : Package) : (putPackage s p x).linkUp = s.linkUp := rfl
@[simp] theorem putPackage_layout (s : State) (p : Nat) (x : Package) : (putPackage s p x).layout = s.layout := rfl
@[simp] theorem putPackage_host (s : State) (p : Nat) (x : Package) : (putPackage s p x).host = s.host := rfl
@[simp] theorem putPackage_namespaces (s : State) (p : Nat) (x : Package) : (putPackage s p x).namespaces = s.namespaces := rfl
@[simp] theorem putPackage_sanitize (s : State) (p : Nat) (x : Package) : (putPackage s p x).sanitize = s.sanitize := rfl
@[simp] theorem putPackage_deallocs (s : State) (p : Nat) (x : Package) : (putPackage s p x).deallocs = s.deallocs := rfl
@[simp] theorem putPackage_sdSeq (s : State) (p : Nat) (x : Package) : (putPackage s p x).sdSeq = s.sdSeq := rfl
@[simp] theorem putPackage_sdRecords (s : State) (p : Nat) (x : Package) : (putPackage s p x).sdRecords = s.sdRecords := rfl
@[simp] theorem putPackage_crofts (s : State) (p : Nat) (x : Package) : (putPackage s p x).crofts = s.crofts := rfl
@[simp] theorem putPackage_nextJob (s : State) (p : Nat) (x : Package) : (putPackage s p x).nextJob = s.nextJob := rfl
@[simp] theorem putPackage_nextHandle (s : State) (p : Nat) (x : Package) : (putPackage s p x).nextHandle = s.nextHandle := rfl
@[simp] theorem putPackage_exports (s : State) (p : Nat) (x : Package) : (putPackage s p x).exports = s.exports := rfl
@[simp] theorem putPackage_segs (s : State) (p : Nat) (x : Package) : (putPackage s p x).segs = s.segs := rfl
@[simp] theorem putPackage_nextSerial (s : State) (p : Nat) (x : Package) : (putPackage s p x).nextSerial = s.nextSerial := rfl
@[simp] theorem putPackage_nextSpill (s : State) (p : Nat) (x : Package) : (putPackage s p x).nextSpill = s.nextSpill := rfl
@[simp] theorem putPackage_ops (s : State) (p : Nat) (x : Package) : (putPackage s p x).ops = s.ops := rfl
@[simp] theorem putPackage_nextOp (s : State) (p : Nat) (x : Package) : (putPackage s p x).nextOp = s.nextOp := rfl
@[simp] theorem putPackage_frames (s : State) (p : Nat) (x : Package) : (putPackage s p x).frames = s.frames := rfl
@[simp] theorem putPackage_seedInEffect (s : State) (p : Nat) (x : Package) : (putPackage s p x).seedInEffect = s.seedInEffect := rfl
@[simp] theorem putPackage_hbm (s : State) (p : Nat) (x : Package) : (putPackage s p x).hbm = s.hbm := rfl
@[simp] theorem putPackage_ramps (s : State) (p : Nat) (x : Package) : (putPackage s p x).ramps = s.ramps := rfl
@[simp] theorem putPackage_rampPtr (s : State) (p : Nat) (x : Package) : (putPackage s p x).rampPtr = s.rampPtr := rfl
@[simp] theorem putPackage_flashPtr (s : State) (p : Nat) (x : Package) : (putPackage s p x).flashPtr = s.flashPtr := rfl
@[simp] theorem putPackage_droverPtr (s : State) (p : Nat) (x : Package) : (putPackage s p x).droverPtr = s.droverPtr := rfl
@[simp] theorem putPackage_packages (s : State) (p : Nat) (x : Package) : (putPackage s p x).packages = mapSet s.packages p x := rfl
@[simp] theorem putPackage_health (s : State) (p : Nat) (x : Package) : (putPackage s p x).health = s.health := rfl
@[simp] theorem putPackage_mediaReadOnly (s : State) (p : Nat) (x : Package) : (putPackage s p x).mediaReadOnly = s.mediaReadOnly := rfl
@[simp] theorem putPackage_ports (s : State) (p : Nat) (x : Package) : (putPackage s p x).ports = s.ports := rfl
@[simp] theorem putPackage_kamlinAddr (s : State) (p : Nat) (x : Package) : (putPackage s p x).kamlinAddr = s.kamlinAddr := rfl
@[simp] theorem putPackage_orDone (s : State) (p : Nat) (x : Package) : (putPackage s p x).orDone = s.orDone := rfl
@[simp] theorem putPackage_stranded (s : State) (p : Nat) (x : Package) : (putPackage s p x).stranded = s.stranded := rfl
@[simp] theorem putPackage_bell (s : State) (p : Nat) (x : Package) : (putPackage s p x).bell = s.bell := rfl
@[simp] theorem putPackage_flash (s : State) (p : Nat) (x : Package) : (putPackage s p x).flash = s.flash := rfl
@[simp] theorem putPackage_units (s : State) (p : Nat) (x : Package) : (putPackage s p x).units = s.units := rfl
@[simp] theorem putPackage_watchdog (s : State) (p : Nat) (x : Package) : (putPackage s p x).watchdog = s.watchdog := rfl
@[simp] theorem putPackage_inputs (s : State) (p : Nat) (x : Package) : (putPackage s p x).inputs = s.inputs := rfl
@[simp] theorem putPackage_plant (s : State) (p : Nat) (x : Package) : (putPackage s p x).plant = s.plant := rfl
@[simp] theorem putPackage_power (s : State) (p : Nat) (x : Package) : (putPackage s p x).power = s.power := rfl
@[simp] theorem putPackage_sec (s : State) (p : Nat) (x : Package) : (putPackage s p x).sec = s.sec := rfl

/-! ### putPort -/

@[simp] theorem putPort_pending (s : State) (p : Nat) (x : Port) : (putPort s p x).pending = s.pending := rfl
@[simp] theorem putPort_freeCtr (s : State) (p : Nat) (x : Port) : (putPort s p x).freeCtr = s.freeCtr := rfl
@[simp] theorem putPort_fuse (s : State) (p : Nat) (x : Port) : (putPort s p x).fuse = s.fuse := rfl
@[simp] theorem putPort_serial (s : State) (p : Nat) (x : Port) : (putPort s p x).serial = s.serial := rfl
@[simp] theorem putPort_slotId (s : State) (p : Nat) (x : Port) : (putPort s p x).slotId = s.slotId := rfl
@[simp] theorem putPort_od (s : State) (p : Nat) (x : Port) : (putPort s p x).od = s.od := rfl
@[simp] theorem putPort_convs (s : State) (p : Nat) (x : Port) : (putPort s p x).convs = s.convs := rfl
@[simp] theorem putPort_doms (s : State) (p : Nat) (x : Port) : (putPort s p x).doms = s.doms := rfl
@[simp] theorem putPort_dictA (s : State) (p : Nat) (x : Port) : (putPort s p x).dictA = s.dictA := rfl
@[simp] theorem putPort_dictB (s : State) (p : Nat) (x : Port) : (putPort s p x).dictB = s.dictB := rfl
@[simp] theorem putPort_dictConflict (s : State) (p : Nat) (x : Port) : (putPort s p x).dictConflict = s.dictConflict := rfl
@[simp] theorem putPort_savePending (s : State) (p : Nat) (x : Port) : (putPort s p x).savePending = s.savePending := rfl
@[simp] theorem putPort_sessions (s : State) (p : Nat) (x : Port) : (putPort s p x).sessions = s.sessions := rfl
@[simp] theorem putPort_sent (s : State) (p : Nat) (x : Port) : (putPort s p x).sent = s.sent := rfl
@[simp] theorem putPort_parked (s : State) (p : Nat) (x : Port) : (putPort s p x).parked = s.parked := rfl
@[simp] theorem putPort_odWaiting (s : State) (p : Nat) (x : Port) : (putPort s p x).odWaiting = s.odWaiting := rfl
@[simp] theorem putPort_staging (s : State) (p : Nat) (x : Port) : (putPort s p x).staging = s.staging := rfl
@[simp] theorem putPort_reeveUp (s : State) (p : Nat) (x : Port) : (putPort s p x).reeveUp = s.reeveUp := rfl
@[simp] theorem putPort_macAddr (s : State) (p : Nat) (x : Port) : (putPort s p x).macAddr = s.macAddr := rfl
@[simp] theorem putPort_t1s (s : State) (p : Nat) (x : Port) : (putPort s p x).t1s = s.t1s := rfl
@[simp] theorem putPort_eids (s : State) (p : Nat) (x : Port) : (putPort s p x).eids = s.eids := rfl
@[simp] theorem putPort_log (s : State) (p : Nat) (x : Port) : (putPort s p x).log = s.log := rfl
@[simp] theorem putPort_logSeq (s : State) (p : Nat) (x : Port) : (putPort s p x).logSeq = s.logSeq := rfl
@[simp] theorem putPort_logSaved (s : State) (p : Nat) (x : Port) : (putPort s p x).logSaved = s.logSaved := rfl
@[simp] theorem putPort_pf1 (s : State) (p : Nat) (x : Port) : (putPort s p x).pf1 = s.pf1 := rfl
@[simp] theorem putPort_nvme (s : State) (p : Nat) (x : Port) : (putPort s p x).nvme = s.nvme := rfl
@[simp] theorem putPort_perst (s : State) (p : Nat) (x : Port) : (putPort s p x).perst = s.perst := rfl
@[simp] theorem putPort_linkUp (s : State) (p : Nat) (x : Port) : (putPort s p x).linkUp = s.linkUp := rfl
@[simp] theorem putPort_layout (s : State) (p : Nat) (x : Port) : (putPort s p x).layout = s.layout := rfl
@[simp] theorem putPort_host (s : State) (p : Nat) (x : Port) : (putPort s p x).host = s.host := rfl
@[simp] theorem putPort_namespaces (s : State) (p : Nat) (x : Port) : (putPort s p x).namespaces = s.namespaces := rfl
@[simp] theorem putPort_sanitize (s : State) (p : Nat) (x : Port) : (putPort s p x).sanitize = s.sanitize := rfl
@[simp] theorem putPort_deallocs (s : State) (p : Nat) (x : Port) : (putPort s p x).deallocs = s.deallocs := rfl
@[simp] theorem putPort_sdSeq (s : State) (p : Nat) (x : Port) : (putPort s p x).sdSeq = s.sdSeq := rfl
@[simp] theorem putPort_sdRecords (s : State) (p : Nat) (x : Port) : (putPort s p x).sdRecords = s.sdRecords := rfl
@[simp] theorem putPort_crofts (s : State) (p : Nat) (x : Port) : (putPort s p x).crofts = s.crofts := rfl
@[simp] theorem putPort_nextJob (s : State) (p : Nat) (x : Port) : (putPort s p x).nextJob = s.nextJob := rfl
@[simp] theorem putPort_nextHandle (s : State) (p : Nat) (x : Port) : (putPort s p x).nextHandle = s.nextHandle := rfl
@[simp] theorem putPort_exports (s : State) (p : Nat) (x : Port) : (putPort s p x).exports = s.exports := rfl
@[simp] theorem putPort_segs (s : State) (p : Nat) (x : Port) : (putPort s p x).segs = s.segs := rfl
@[simp] theorem putPort_nextSerial (s : State) (p : Nat) (x : Port) : (putPort s p x).nextSerial = s.nextSerial := rfl
@[simp] theorem putPort_nextSpill (s : State) (p : Nat) (x : Port) : (putPort s p x).nextSpill = s.nextSpill := rfl
@[simp] theorem putPort_ops (s : State) (p : Nat) (x : Port) : (putPort s p x).ops = s.ops := rfl
@[simp] theorem putPort_nextOp (s : State) (p : Nat) (x : Port) : (putPort s p x).nextOp = s.nextOp := rfl
@[simp] theorem putPort_frames (s : State) (p : Nat) (x : Port) : (putPort s p x).frames = s.frames := rfl
@[simp] theorem putPort_seedInEffect (s : State) (p : Nat) (x : Port) : (putPort s p x).seedInEffect = s.seedInEffect := rfl
@[simp] theorem putPort_hbm (s : State) (p : Nat) (x : Port) : (putPort s p x).hbm = s.hbm := rfl
@[simp] theorem putPort_ramps (s : State) (p : Nat) (x : Port) : (putPort s p x).ramps = s.ramps := rfl
@[simp] theorem putPort_rampPtr (s : State) (p : Nat) (x : Port) : (putPort s p x).rampPtr = s.rampPtr := rfl
@[simp] theorem putPort_flashPtr (s : State) (p : Nat) (x : Port) : (putPort s p x).flashPtr = s.flashPtr := rfl
@[simp] theorem putPort_droverPtr (s : State) (p : Nat) (x : Port) : (putPort s p x).droverPtr = s.droverPtr := rfl
@[simp] theorem putPort_packages (s : State) (p : Nat) (x : Port) : (putPort s p x).packages = s.packages := rfl
@[simp] theorem putPort_health (s : State) (p : Nat) (x : Port) : (putPort s p x).health = s.health := rfl
@[simp] theorem putPort_mediaReadOnly (s : State) (p : Nat) (x : Port) : (putPort s p x).mediaReadOnly = s.mediaReadOnly := rfl
@[simp] theorem putPort_ports (s : State) (p : Nat) (x : Port) : (putPort s p x).ports = mapSet s.ports p x := rfl
@[simp] theorem putPort_kamlinAddr (s : State) (p : Nat) (x : Port) : (putPort s p x).kamlinAddr = s.kamlinAddr := rfl
@[simp] theorem putPort_orDone (s : State) (p : Nat) (x : Port) : (putPort s p x).orDone = s.orDone := rfl
@[simp] theorem putPort_stranded (s : State) (p : Nat) (x : Port) : (putPort s p x).stranded = s.stranded := rfl
@[simp] theorem putPort_bell (s : State) (p : Nat) (x : Port) : (putPort s p x).bell = s.bell := rfl
@[simp] theorem putPort_flash (s : State) (p : Nat) (x : Port) : (putPort s p x).flash = s.flash := rfl
@[simp] theorem putPort_units (s : State) (p : Nat) (x : Port) : (putPort s p x).units = s.units := rfl
@[simp] theorem putPort_watchdog (s : State) (p : Nat) (x : Port) : (putPort s p x).watchdog = s.watchdog := rfl
@[simp] theorem putPort_inputs (s : State) (p : Nat) (x : Port) : (putPort s p x).inputs = s.inputs := rfl
@[simp] theorem putPort_plant (s : State) (p : Nat) (x : Port) : (putPort s p x).plant = s.plant := rfl
@[simp] theorem putPort_power (s : State) (p : Nat) (x : Port) : (putPort s p x).power = s.power := rfl
@[simp] theorem putPort_sec (s : State) (p : Nat) (x : Port) : (putPort s p x).sec = s.sec := rfl

/-! ### putPf1 -/

@[simp] theorem putPf1_pending (s : State) (f : Nat) (p : Pf1) : (putPf1 s f p).pending = s.pending := rfl
@[simp] theorem putPf1_freeCtr (s : State) (f : Nat) (p : Pf1) : (putPf1 s f p).freeCtr = s.freeCtr := rfl
@[simp] theorem putPf1_fuse (s : State) (f : Nat) (p : Pf1) : (putPf1 s f p).fuse = s.fuse := rfl
@[simp] theorem putPf1_serial (s : State) (f : Nat) (p : Pf1) : (putPf1 s f p).serial = s.serial := rfl
@[simp] theorem putPf1_slotId (s : State) (f : Nat) (p : Pf1) : (putPf1 s f p).slotId = s.slotId := rfl
@[simp] theorem putPf1_od (s : State) (f : Nat) (p : Pf1) : (putPf1 s f p).od = s.od := rfl
@[simp] theorem putPf1_convs (s : State) (f : Nat) (p : Pf1) : (putPf1 s f p).convs = s.convs := rfl
@[simp] theorem putPf1_doms (s : State) (f : Nat) (p : Pf1) : (putPf1 s f p).doms = s.doms := rfl
@[simp] theorem putPf1_dictA (s : State) (f : Nat) (p : Pf1) : (putPf1 s f p).dictA = s.dictA := rfl
@[simp] theorem putPf1_dictB (s : State) (f : Nat) (p : Pf1) : (putPf1 s f p).dictB = s.dictB := rfl
@[simp] theorem putPf1_dictConflict (s : State) (f : Nat) (p : Pf1) : (putPf1 s f p).dictConflict = s.dictConflict := rfl
@[simp] theorem putPf1_savePending (s : State) (f : Nat) (p : Pf1) : (putPf1 s f p).savePending = s.savePending := rfl
@[simp] theorem putPf1_sessions (s : State) (f : Nat) (p : Pf1) : (putPf1 s f p).sessions = s.sessions := rfl
@[simp] theorem putPf1_sent (s : State) (f : Nat) (p : Pf1) : (putPf1 s f p).sent = s.sent := rfl
@[simp] theorem putPf1_parked (s : State) (f : Nat) (p : Pf1) : (putPf1 s f p).parked = s.parked := rfl
@[simp] theorem putPf1_odWaiting (s : State) (f : Nat) (p : Pf1) : (putPf1 s f p).odWaiting = s.odWaiting := rfl
@[simp] theorem putPf1_staging (s : State) (f : Nat) (p : Pf1) : (putPf1 s f p).staging = s.staging := rfl
@[simp] theorem putPf1_reeveUp (s : State) (f : Nat) (p : Pf1) : (putPf1 s f p).reeveUp = s.reeveUp := rfl
@[simp] theorem putPf1_macAddr (s : State) (f : Nat) (p : Pf1) : (putPf1 s f p).macAddr = s.macAddr := rfl
@[simp] theorem putPf1_t1s (s : State) (f : Nat) (p : Pf1) : (putPf1 s f p).t1s = s.t1s := rfl
@[simp] theorem putPf1_eids (s : State) (f : Nat) (p : Pf1) : (putPf1 s f p).eids = s.eids := rfl
@[simp] theorem putPf1_log (s : State) (f : Nat) (p : Pf1) : (putPf1 s f p).log = s.log := rfl
@[simp] theorem putPf1_logSeq (s : State) (f : Nat) (p : Pf1) : (putPf1 s f p).logSeq = s.logSeq := rfl
@[simp] theorem putPf1_logSaved (s : State) (f : Nat) (p : Pf1) : (putPf1 s f p).logSaved = s.logSaved := rfl
@[simp] theorem putPf1_pf1 (s : State) (f : Nat) (p : Pf1) : (putPf1 s f p).pf1 = mapSet s.pf1 f p := rfl
@[simp] theorem putPf1_nvme (s : State) (f : Nat) (p : Pf1) : (putPf1 s f p).nvme = s.nvme := rfl
@[simp] theorem putPf1_perst (s : State) (f : Nat) (p : Pf1) : (putPf1 s f p).perst = s.perst := rfl
@[simp] theorem putPf1_linkUp (s : State) (f : Nat) (p : Pf1) : (putPf1 s f p).linkUp = s.linkUp := rfl
@[simp] theorem putPf1_layout (s : State) (f : Nat) (p : Pf1) : (putPf1 s f p).layout = s.layout := rfl
@[simp] theorem putPf1_host (s : State) (f : Nat) (p : Pf1) : (putPf1 s f p).host = s.host := rfl
@[simp] theorem putPf1_namespaces (s : State) (f : Nat) (p : Pf1) : (putPf1 s f p).namespaces = s.namespaces := rfl
@[simp] theorem putPf1_sanitize (s : State) (f : Nat) (p : Pf1) : (putPf1 s f p).sanitize = s.sanitize := rfl
@[simp] theorem putPf1_deallocs (s : State) (f : Nat) (p : Pf1) : (putPf1 s f p).deallocs = s.deallocs := rfl
@[simp] theorem putPf1_sdSeq (s : State) (f : Nat) (p : Pf1) : (putPf1 s f p).sdSeq = s.sdSeq := rfl
@[simp] theorem putPf1_sdRecords (s : State) (f : Nat) (p : Pf1) : (putPf1 s f p).sdRecords = s.sdRecords := rfl
@[simp] theorem putPf1_crofts (s : State) (f : Nat) (p : Pf1) : (putPf1 s f p).crofts = s.crofts := rfl
@[simp] theorem putPf1_nextJob (s : State) (f : Nat) (p : Pf1) : (putPf1 s f p).nextJob = s.nextJob := rfl
@[simp] theorem putPf1_nextHandle (s : State) (f : Nat) (p : Pf1) : (putPf1 s f p).nextHandle = s.nextHandle := rfl
@[simp] theorem putPf1_exports (s : State) (f : Nat) (p : Pf1) : (putPf1 s f p).exports = s.exports := rfl
@[simp] theorem putPf1_segs (s : State) (f : Nat) (p : Pf1) : (putPf1 s f p).segs = s.segs := rfl
@[simp] theorem putPf1_nextSerial (s : State) (f : Nat) (p : Pf1) : (putPf1 s f p).nextSerial = s.nextSerial := rfl
@[simp] theorem putPf1_nextSpill (s : State) (f : Nat) (p : Pf1) : (putPf1 s f p).nextSpill = s.nextSpill := rfl
@[simp] theorem putPf1_ops (s : State) (f : Nat) (p : Pf1) : (putPf1 s f p).ops = s.ops := rfl
@[simp] theorem putPf1_nextOp (s : State) (f : Nat) (p : Pf1) : (putPf1 s f p).nextOp = s.nextOp := rfl
@[simp] theorem putPf1_frames (s : State) (f : Nat) (p : Pf1) : (putPf1 s f p).frames = s.frames := rfl
@[simp] theorem putPf1_seedInEffect (s : State) (f : Nat) (p : Pf1) : (putPf1 s f p).seedInEffect = s.seedInEffect := rfl
@[simp] theorem putPf1_hbm (s : State) (f : Nat) (p : Pf1) : (putPf1 s f p).hbm = s.hbm := rfl
@[simp] theorem putPf1_ramps (s : State) (f : Nat) (p : Pf1) : (putPf1 s f p).ramps = s.ramps := rfl
@[simp] theorem putPf1_rampPtr (s : State) (f : Nat) (p : Pf1) : (putPf1 s f p).rampPtr = s.rampPtr := rfl
@[simp] theorem putPf1_flashPtr (s : State) (f : Nat) (p : Pf1) : (putPf1 s f p).flashPtr = s.flashPtr := rfl
@[simp] theorem putPf1_droverPtr (s : State) (f : Nat) (p : Pf1) : (putPf1 s f p).droverPtr = s.droverPtr := rfl
@[simp] theorem putPf1_packages (s : State) (f : Nat) (p : Pf1) : (putPf1 s f p).packages = s.packages := rfl
@[simp] theorem putPf1_health (s : State) (f : Nat) (p : Pf1) : (putPf1 s f p).health = s.health := rfl
@[simp] theorem putPf1_mediaReadOnly (s : State) (f : Nat) (p : Pf1) : (putPf1 s f p).mediaReadOnly = s.mediaReadOnly := rfl
@[simp] theorem putPf1_ports (s : State) (f : Nat) (p : Pf1) : (putPf1 s f p).ports = s.ports := rfl
@[simp] theorem putPf1_kamlinAddr (s : State) (f : Nat) (p : Pf1) : (putPf1 s f p).kamlinAddr = s.kamlinAddr := rfl
@[simp] theorem putPf1_orDone (s : State) (f : Nat) (p : Pf1) : (putPf1 s f p).orDone = s.orDone := rfl
@[simp] theorem putPf1_stranded (s : State) (f : Nat) (p : Pf1) : (putPf1 s f p).stranded = s.stranded := rfl
@[simp] theorem putPf1_bell (s : State) (f : Nat) (p : Pf1) : (putPf1 s f p).bell = s.bell := rfl
@[simp] theorem putPf1_flash (s : State) (f : Nat) (p : Pf1) : (putPf1 s f p).flash = s.flash := rfl
@[simp] theorem putPf1_units (s : State) (f : Nat) (p : Pf1) : (putPf1 s f p).units = s.units := rfl
@[simp] theorem putPf1_watchdog (s : State) (f : Nat) (p : Pf1) : (putPf1 s f p).watchdog = s.watchdog := rfl
@[simp] theorem putPf1_inputs (s : State) (f : Nat) (p : Pf1) : (putPf1 s f p).inputs = s.inputs := rfl
@[simp] theorem putPf1_plant (s : State) (f : Nat) (p : Pf1) : (putPf1 s f p).plant = s.plant := rfl
@[simp] theorem putPf1_power (s : State) (f : Nat) (p : Pf1) : (putPf1 s f p).power = s.power := rfl
@[simp] theorem putPf1_sec (s : State) (f : Nat) (p : Pf1) : (putPf1 s f p).sec = s.sec := rfl

/-! ### putNvme -/

@[simp] theorem putNvme_pending (s : State) (k : Nat) (x : Nvme) : (putNvme s k x).pending = s.pending := rfl
@[simp] theorem putNvme_freeCtr (s : State) (k : Nat) (x : Nvme) : (putNvme s k x).freeCtr = s.freeCtr := rfl
@[simp] theorem putNvme_fuse (s : State) (k : Nat) (x : Nvme) : (putNvme s k x).fuse = s.fuse := rfl
@[simp] theorem putNvme_serial (s : State) (k : Nat) (x : Nvme) : (putNvme s k x).serial = s.serial := rfl
@[simp] theorem putNvme_slotId (s : State) (k : Nat) (x : Nvme) : (putNvme s k x).slotId = s.slotId := rfl
@[simp] theorem putNvme_od (s : State) (k : Nat) (x : Nvme) : (putNvme s k x).od = s.od := rfl
@[simp] theorem putNvme_convs (s : State) (k : Nat) (x : Nvme) : (putNvme s k x).convs = s.convs := rfl
@[simp] theorem putNvme_doms (s : State) (k : Nat) (x : Nvme) : (putNvme s k x).doms = s.doms := rfl
@[simp] theorem putNvme_dictA (s : State) (k : Nat) (x : Nvme) : (putNvme s k x).dictA = s.dictA := rfl
@[simp] theorem putNvme_dictB (s : State) (k : Nat) (x : Nvme) : (putNvme s k x).dictB = s.dictB := rfl
@[simp] theorem putNvme_dictConflict (s : State) (k : Nat) (x : Nvme) : (putNvme s k x).dictConflict = s.dictConflict := rfl
@[simp] theorem putNvme_savePending (s : State) (k : Nat) (x : Nvme) : (putNvme s k x).savePending = s.savePending := rfl
@[simp] theorem putNvme_sessions (s : State) (k : Nat) (x : Nvme) : (putNvme s k x).sessions = s.sessions := rfl
@[simp] theorem putNvme_sent (s : State) (k : Nat) (x : Nvme) : (putNvme s k x).sent = s.sent := rfl
@[simp] theorem putNvme_parked (s : State) (k : Nat) (x : Nvme) : (putNvme s k x).parked = s.parked := rfl
@[simp] theorem putNvme_odWaiting (s : State) (k : Nat) (x : Nvme) : (putNvme s k x).odWaiting = s.odWaiting := rfl
@[simp] theorem putNvme_staging (s : State) (k : Nat) (x : Nvme) : (putNvme s k x).staging = s.staging := rfl
@[simp] theorem putNvme_reeveUp (s : State) (k : Nat) (x : Nvme) : (putNvme s k x).reeveUp = s.reeveUp := rfl
@[simp] theorem putNvme_macAddr (s : State) (k : Nat) (x : Nvme) : (putNvme s k x).macAddr = s.macAddr := rfl
@[simp] theorem putNvme_t1s (s : State) (k : Nat) (x : Nvme) : (putNvme s k x).t1s = s.t1s := rfl
@[simp] theorem putNvme_eids (s : State) (k : Nat) (x : Nvme) : (putNvme s k x).eids = s.eids := rfl
@[simp] theorem putNvme_log (s : State) (k : Nat) (x : Nvme) : (putNvme s k x).log = s.log := rfl
@[simp] theorem putNvme_logSeq (s : State) (k : Nat) (x : Nvme) : (putNvme s k x).logSeq = s.logSeq := rfl
@[simp] theorem putNvme_logSaved (s : State) (k : Nat) (x : Nvme) : (putNvme s k x).logSaved = s.logSaved := rfl
@[simp] theorem putNvme_pf1 (s : State) (k : Nat) (x : Nvme) : (putNvme s k x).pf1 = s.pf1 := rfl
@[simp] theorem putNvme_nvme (s : State) (k : Nat) (x : Nvme) : (putNvme s k x).nvme = mapSet s.nvme k x := rfl
@[simp] theorem putNvme_perst (s : State) (k : Nat) (x : Nvme) : (putNvme s k x).perst = s.perst := rfl
@[simp] theorem putNvme_linkUp (s : State) (k : Nat) (x : Nvme) : (putNvme s k x).linkUp = s.linkUp := rfl
@[simp] theorem putNvme_layout (s : State) (k : Nat) (x : Nvme) : (putNvme s k x).layout = s.layout := rfl
@[simp] theorem putNvme_host (s : State) (k : Nat) (x : Nvme) : (putNvme s k x).host = s.host := rfl
@[simp] theorem putNvme_namespaces (s : State) (k : Nat) (x : Nvme) : (putNvme s k x).namespaces = s.namespaces := rfl
@[simp] theorem putNvme_sanitize (s : State) (k : Nat) (x : Nvme) : (putNvme s k x).sanitize = s.sanitize := rfl
@[simp] theorem putNvme_deallocs (s : State) (k : Nat) (x : Nvme) : (putNvme s k x).deallocs = s.deallocs := rfl
@[simp] theorem putNvme_sdSeq (s : State) (k : Nat) (x : Nvme) : (putNvme s k x).sdSeq = s.sdSeq := rfl
@[simp] theorem putNvme_sdRecords (s : State) (k : Nat) (x : Nvme) : (putNvme s k x).sdRecords = s.sdRecords := rfl
@[simp] theorem putNvme_crofts (s : State) (k : Nat) (x : Nvme) : (putNvme s k x).crofts = s.crofts := rfl
@[simp] theorem putNvme_nextJob (s : State) (k : Nat) (x : Nvme) : (putNvme s k x).nextJob = s.nextJob := rfl
@[simp] theorem putNvme_nextHandle (s : State) (k : Nat) (x : Nvme) : (putNvme s k x).nextHandle = s.nextHandle := rfl
@[simp] theorem putNvme_exports (s : State) (k : Nat) (x : Nvme) : (putNvme s k x).exports = s.exports := rfl
@[simp] theorem putNvme_segs (s : State) (k : Nat) (x : Nvme) : (putNvme s k x).segs = s.segs := rfl
@[simp] theorem putNvme_nextSerial (s : State) (k : Nat) (x : Nvme) : (putNvme s k x).nextSerial = s.nextSerial := rfl
@[simp] theorem putNvme_nextSpill (s : State) (k : Nat) (x : Nvme) : (putNvme s k x).nextSpill = s.nextSpill := rfl
@[simp] theorem putNvme_ops (s : State) (k : Nat) (x : Nvme) : (putNvme s k x).ops = s.ops := rfl
@[simp] theorem putNvme_nextOp (s : State) (k : Nat) (x : Nvme) : (putNvme s k x).nextOp = s.nextOp := rfl
@[simp] theorem putNvme_frames (s : State) (k : Nat) (x : Nvme) : (putNvme s k x).frames = s.frames := rfl
@[simp] theorem putNvme_seedInEffect (s : State) (k : Nat) (x : Nvme) : (putNvme s k x).seedInEffect = s.seedInEffect := rfl
@[simp] theorem putNvme_hbm (s : State) (k : Nat) (x : Nvme) : (putNvme s k x).hbm = s.hbm := rfl
@[simp] theorem putNvme_ramps (s : State) (k : Nat) (x : Nvme) : (putNvme s k x).ramps = s.ramps := rfl
@[simp] theorem putNvme_rampPtr (s : State) (k : Nat) (x : Nvme) : (putNvme s k x).rampPtr = s.rampPtr := rfl
@[simp] theorem putNvme_flashPtr (s : State) (k : Nat) (x : Nvme) : (putNvme s k x).flashPtr = s.flashPtr := rfl
@[simp] theorem putNvme_droverPtr (s : State) (k : Nat) (x : Nvme) : (putNvme s k x).droverPtr = s.droverPtr := rfl
@[simp] theorem putNvme_packages (s : State) (k : Nat) (x : Nvme) : (putNvme s k x).packages = s.packages := rfl
@[simp] theorem putNvme_health (s : State) (k : Nat) (x : Nvme) : (putNvme s k x).health = s.health := rfl
@[simp] theorem putNvme_mediaReadOnly (s : State) (k : Nat) (x : Nvme) : (putNvme s k x).mediaReadOnly = s.mediaReadOnly := rfl
@[simp] theorem putNvme_ports (s : State) (k : Nat) (x : Nvme) : (putNvme s k x).ports = s.ports := rfl
@[simp] theorem putNvme_kamlinAddr (s : State) (k : Nat) (x : Nvme) : (putNvme s k x).kamlinAddr = s.kamlinAddr := rfl
@[simp] theorem putNvme_orDone (s : State) (k : Nat) (x : Nvme) : (putNvme s k x).orDone = s.orDone := rfl
@[simp] theorem putNvme_stranded (s : State) (k : Nat) (x : Nvme) : (putNvme s k x).stranded = s.stranded := rfl
@[simp] theorem putNvme_bell (s : State) (k : Nat) (x : Nvme) : (putNvme s k x).bell = s.bell := rfl
@[simp] theorem putNvme_flash (s : State) (k : Nat) (x : Nvme) : (putNvme s k x).flash = s.flash := rfl
@[simp] theorem putNvme_units (s : State) (k : Nat) (x : Nvme) : (putNvme s k x).units = s.units := rfl
@[simp] theorem putNvme_watchdog (s : State) (k : Nat) (x : Nvme) : (putNvme s k x).watchdog = s.watchdog := rfl
@[simp] theorem putNvme_inputs (s : State) (k : Nat) (x : Nvme) : (putNvme s k x).inputs = s.inputs := rfl
@[simp] theorem putNvme_plant (s : State) (k : Nat) (x : Nvme) : (putNvme s k x).plant = s.plant := rfl
@[simp] theorem putNvme_power (s : State) (k : Nat) (x : Nvme) : (putNvme s k x).power = s.power := rfl
@[simp] theorem putNvme_sec (s : State) (k : Nat) (x : Nvme) : (putNvme s k x).sec = s.sec := rfl

/-! ### putInput -/

@[simp] theorem putInput_pending (s : State) (j : Nat) (x : Input) : (putInput s j x).pending = s.pending := rfl
@[simp] theorem putInput_freeCtr (s : State) (j : Nat) (x : Input) : (putInput s j x).freeCtr = s.freeCtr := rfl
@[simp] theorem putInput_fuse (s : State) (j : Nat) (x : Input) : (putInput s j x).fuse = s.fuse := rfl
@[simp] theorem putInput_serial (s : State) (j : Nat) (x : Input) : (putInput s j x).serial = s.serial := rfl
@[simp] theorem putInput_slotId (s : State) (j : Nat) (x : Input) : (putInput s j x).slotId = s.slotId := rfl
@[simp] theorem putInput_od (s : State) (j : Nat) (x : Input) : (putInput s j x).od = s.od := rfl
@[simp] theorem putInput_convs (s : State) (j : Nat) (x : Input) : (putInput s j x).convs = s.convs := rfl
@[simp] theorem putInput_doms (s : State) (j : Nat) (x : Input) : (putInput s j x).doms = s.doms := rfl
@[simp] theorem putInput_dictA (s : State) (j : Nat) (x : Input) : (putInput s j x).dictA = s.dictA := rfl
@[simp] theorem putInput_dictB (s : State) (j : Nat) (x : Input) : (putInput s j x).dictB = s.dictB := rfl
@[simp] theorem putInput_dictConflict (s : State) (j : Nat) (x : Input) : (putInput s j x).dictConflict = s.dictConflict := rfl
@[simp] theorem putInput_savePending (s : State) (j : Nat) (x : Input) : (putInput s j x).savePending = s.savePending := rfl
@[simp] theorem putInput_sessions (s : State) (j : Nat) (x : Input) : (putInput s j x).sessions = s.sessions := rfl
@[simp] theorem putInput_sent (s : State) (j : Nat) (x : Input) : (putInput s j x).sent = s.sent := rfl
@[simp] theorem putInput_parked (s : State) (j : Nat) (x : Input) : (putInput s j x).parked = s.parked := rfl
@[simp] theorem putInput_odWaiting (s : State) (j : Nat) (x : Input) : (putInput s j x).odWaiting = s.odWaiting := rfl
@[simp] theorem putInput_staging (s : State) (j : Nat) (x : Input) : (putInput s j x).staging = s.staging := rfl
@[simp] theorem putInput_reeveUp (s : State) (j : Nat) (x : Input) : (putInput s j x).reeveUp = s.reeveUp := rfl
@[simp] theorem putInput_macAddr (s : State) (j : Nat) (x : Input) : (putInput s j x).macAddr = s.macAddr := rfl
@[simp] theorem putInput_t1s (s : State) (j : Nat) (x : Input) : (putInput s j x).t1s = s.t1s := rfl
@[simp] theorem putInput_eids (s : State) (j : Nat) (x : Input) : (putInput s j x).eids = s.eids := rfl
@[simp] theorem putInput_log (s : State) (j : Nat) (x : Input) : (putInput s j x).log = s.log := rfl
@[simp] theorem putInput_logSeq (s : State) (j : Nat) (x : Input) : (putInput s j x).logSeq = s.logSeq := rfl
@[simp] theorem putInput_logSaved (s : State) (j : Nat) (x : Input) : (putInput s j x).logSaved = s.logSaved := rfl
@[simp] theorem putInput_pf1 (s : State) (j : Nat) (x : Input) : (putInput s j x).pf1 = s.pf1 := rfl
@[simp] theorem putInput_nvme (s : State) (j : Nat) (x : Input) : (putInput s j x).nvme = s.nvme := rfl
@[simp] theorem putInput_perst (s : State) (j : Nat) (x : Input) : (putInput s j x).perst = s.perst := rfl
@[simp] theorem putInput_linkUp (s : State) (j : Nat) (x : Input) : (putInput s j x).linkUp = s.linkUp := rfl
@[simp] theorem putInput_layout (s : State) (j : Nat) (x : Input) : (putInput s j x).layout = s.layout := rfl
@[simp] theorem putInput_host (s : State) (j : Nat) (x : Input) : (putInput s j x).host = s.host := rfl
@[simp] theorem putInput_namespaces (s : State) (j : Nat) (x : Input) : (putInput s j x).namespaces = s.namespaces := rfl
@[simp] theorem putInput_sanitize (s : State) (j : Nat) (x : Input) : (putInput s j x).sanitize = s.sanitize := rfl
@[simp] theorem putInput_deallocs (s : State) (j : Nat) (x : Input) : (putInput s j x).deallocs = s.deallocs := rfl
@[simp] theorem putInput_sdSeq (s : State) (j : Nat) (x : Input) : (putInput s j x).sdSeq = s.sdSeq := rfl
@[simp] theorem putInput_sdRecords (s : State) (j : Nat) (x : Input) : (putInput s j x).sdRecords = s.sdRecords := rfl
@[simp] theorem putInput_crofts (s : State) (j : Nat) (x : Input) : (putInput s j x).crofts = s.crofts := rfl
@[simp] theorem putInput_nextJob (s : State) (j : Nat) (x : Input) : (putInput s j x).nextJob = s.nextJob := rfl
@[simp] theorem putInput_nextHandle (s : State) (j : Nat) (x : Input) : (putInput s j x).nextHandle = s.nextHandle := rfl
@[simp] theorem putInput_exports (s : State) (j : Nat) (x : Input) : (putInput s j x).exports = s.exports := rfl
@[simp] theorem putInput_segs (s : State) (j : Nat) (x : Input) : (putInput s j x).segs = s.segs := rfl
@[simp] theorem putInput_nextSerial (s : State) (j : Nat) (x : Input) : (putInput s j x).nextSerial = s.nextSerial := rfl
@[simp] theorem putInput_nextSpill (s : State) (j : Nat) (x : Input) : (putInput s j x).nextSpill = s.nextSpill := rfl
@[simp] theorem putInput_ops (s : State) (j : Nat) (x : Input) : (putInput s j x).ops = s.ops := rfl
@[simp] theorem putInput_nextOp (s : State) (j : Nat) (x : Input) : (putInput s j x).nextOp = s.nextOp := rfl
@[simp] theorem putInput_frames (s : State) (j : Nat) (x : Input) : (putInput s j x).frames = s.frames := rfl
@[simp] theorem putInput_seedInEffect (s : State) (j : Nat) (x : Input) : (putInput s j x).seedInEffect = s.seedInEffect := rfl
@[simp] theorem putInput_hbm (s : State) (j : Nat) (x : Input) : (putInput s j x).hbm = s.hbm := rfl
@[simp] theorem putInput_ramps (s : State) (j : Nat) (x : Input) : (putInput s j x).ramps = s.ramps := rfl
@[simp] theorem putInput_rampPtr (s : State) (j : Nat) (x : Input) : (putInput s j x).rampPtr = s.rampPtr := rfl
@[simp] theorem putInput_flashPtr (s : State) (j : Nat) (x : Input) : (putInput s j x).flashPtr = s.flashPtr := rfl
@[simp] theorem putInput_droverPtr (s : State) (j : Nat) (x : Input) : (putInput s j x).droverPtr = s.droverPtr := rfl
@[simp] theorem putInput_packages (s : State) (j : Nat) (x : Input) : (putInput s j x).packages = s.packages := rfl
@[simp] theorem putInput_health (s : State) (j : Nat) (x : Input) : (putInput s j x).health = s.health := rfl
@[simp] theorem putInput_mediaReadOnly (s : State) (j : Nat) (x : Input) : (putInput s j x).mediaReadOnly = s.mediaReadOnly := rfl
@[simp] theorem putInput_ports (s : State) (j : Nat) (x : Input) : (putInput s j x).ports = s.ports := rfl
@[simp] theorem putInput_kamlinAddr (s : State) (j : Nat) (x : Input) : (putInput s j x).kamlinAddr = s.kamlinAddr := rfl
@[simp] theorem putInput_orDone (s : State) (j : Nat) (x : Input) : (putInput s j x).orDone = s.orDone := rfl
@[simp] theorem putInput_stranded (s : State) (j : Nat) (x : Input) : (putInput s j x).stranded = s.stranded := rfl
@[simp] theorem putInput_bell (s : State) (j : Nat) (x : Input) : (putInput s j x).bell = s.bell := rfl
@[simp] theorem putInput_flash (s : State) (j : Nat) (x : Input) : (putInput s j x).flash = s.flash := rfl
@[simp] theorem putInput_units (s : State) (j : Nat) (x : Input) : (putInput s j x).units = s.units := rfl
@[simp] theorem putInput_watchdog (s : State) (j : Nat) (x : Input) : (putInput s j x).watchdog = s.watchdog := rfl
@[simp] theorem putInput_inputs (s : State) (j : Nat) (x : Input) : (putInput s j x).inputs = mapSet s.inputs j x := rfl
@[simp] theorem putInput_plant (s : State) (j : Nat) (x : Input) : (putInput s j x).plant = s.plant := rfl
@[simp] theorem putInput_power (s : State) (j : Nat) (x : Input) : (putInput s j x).power = s.power := rfl
@[simp] theorem putInput_sec (s : State) (j : Nat) (x : Input) : (putInput s j x).sec = s.sec := rfl

/-! ### putUnit -/

@[simp] theorem putUnit_pending (s : State) (n : Nat) (u : CheckUnit) : (putUnit s n u).pending = s.pending := rfl
@[simp] theorem putUnit_freeCtr (s : State) (n : Nat) (u : CheckUnit) : (putUnit s n u).freeCtr = s.freeCtr := rfl
@[simp] theorem putUnit_fuse (s : State) (n : Nat) (u : CheckUnit) : (putUnit s n u).fuse = s.fuse := rfl
@[simp] theorem putUnit_serial (s : State) (n : Nat) (u : CheckUnit) : (putUnit s n u).serial = s.serial := rfl
@[simp] theorem putUnit_slotId (s : State) (n : Nat) (u : CheckUnit) : (putUnit s n u).slotId = s.slotId := rfl
@[simp] theorem putUnit_od (s : State) (n : Nat) (u : CheckUnit) : (putUnit s n u).od = s.od := rfl
@[simp] theorem putUnit_convs (s : State) (n : Nat) (u : CheckUnit) : (putUnit s n u).convs = s.convs := rfl
@[simp] theorem putUnit_doms (s : State) (n : Nat) (u : CheckUnit) : (putUnit s n u).doms = s.doms := rfl
@[simp] theorem putUnit_dictA (s : State) (n : Nat) (u : CheckUnit) : (putUnit s n u).dictA = s.dictA := rfl
@[simp] theorem putUnit_dictB (s : State) (n : Nat) (u : CheckUnit) : (putUnit s n u).dictB = s.dictB := rfl
@[simp] theorem putUnit_dictConflict (s : State) (n : Nat) (u : CheckUnit) : (putUnit s n u).dictConflict = s.dictConflict := rfl
@[simp] theorem putUnit_savePending (s : State) (n : Nat) (u : CheckUnit) : (putUnit s n u).savePending = s.savePending := rfl
@[simp] theorem putUnit_sessions (s : State) (n : Nat) (u : CheckUnit) : (putUnit s n u).sessions = s.sessions := rfl
@[simp] theorem putUnit_sent (s : State) (n : Nat) (u : CheckUnit) : (putUnit s n u).sent = s.sent := rfl
@[simp] theorem putUnit_parked (s : State) (n : Nat) (u : CheckUnit) : (putUnit s n u).parked = s.parked := rfl
@[simp] theorem putUnit_odWaiting (s : State) (n : Nat) (u : CheckUnit) : (putUnit s n u).odWaiting = s.odWaiting := rfl
@[simp] theorem putUnit_staging (s : State) (n : Nat) (u : CheckUnit) : (putUnit s n u).staging = s.staging := rfl
@[simp] theorem putUnit_reeveUp (s : State) (n : Nat) (u : CheckUnit) : (putUnit s n u).reeveUp = s.reeveUp := rfl
@[simp] theorem putUnit_macAddr (s : State) (n : Nat) (u : CheckUnit) : (putUnit s n u).macAddr = s.macAddr := rfl
@[simp] theorem putUnit_t1s (s : State) (n : Nat) (u : CheckUnit) : (putUnit s n u).t1s = s.t1s := rfl
@[simp] theorem putUnit_eids (s : State) (n : Nat) (u : CheckUnit) : (putUnit s n u).eids = s.eids := rfl
@[simp] theorem putUnit_log (s : State) (n : Nat) (u : CheckUnit) : (putUnit s n u).log = s.log := rfl
@[simp] theorem putUnit_logSeq (s : State) (n : Nat) (u : CheckUnit) : (putUnit s n u).logSeq = s.logSeq := rfl
@[simp] theorem putUnit_logSaved (s : State) (n : Nat) (u : CheckUnit) : (putUnit s n u).logSaved = s.logSaved := rfl
@[simp] theorem putUnit_pf1 (s : State) (n : Nat) (u : CheckUnit) : (putUnit s n u).pf1 = s.pf1 := rfl
@[simp] theorem putUnit_nvme (s : State) (n : Nat) (u : CheckUnit) : (putUnit s n u).nvme = s.nvme := rfl
@[simp] theorem putUnit_perst (s : State) (n : Nat) (u : CheckUnit) : (putUnit s n u).perst = s.perst := rfl
@[simp] theorem putUnit_linkUp (s : State) (n : Nat) (u : CheckUnit) : (putUnit s n u).linkUp = s.linkUp := rfl
@[simp] theorem putUnit_layout (s : State) (n : Nat) (u : CheckUnit) : (putUnit s n u).layout = s.layout := rfl
@[simp] theorem putUnit_host (s : State) (n : Nat) (u : CheckUnit) : (putUnit s n u).host = s.host := rfl
@[simp] theorem putUnit_namespaces (s : State) (n : Nat) (u : CheckUnit) : (putUnit s n u).namespaces = s.namespaces := rfl
@[simp] theorem putUnit_sanitize (s : State) (n : Nat) (u : CheckUnit) : (putUnit s n u).sanitize = s.sanitize := rfl
@[simp] theorem putUnit_deallocs (s : State) (n : Nat) (u : CheckUnit) : (putUnit s n u).deallocs = s.deallocs := rfl
@[simp] theorem putUnit_sdSeq (s : State) (n : Nat) (u : CheckUnit) : (putUnit s n u).sdSeq = s.sdSeq := rfl
@[simp] theorem putUnit_sdRecords (s : State) (n : Nat) (u : CheckUnit) : (putUnit s n u).sdRecords = s.sdRecords := rfl
@[simp] theorem putUnit_crofts (s : State) (n : Nat) (u : CheckUnit) : (putUnit s n u).crofts = s.crofts := rfl
@[simp] theorem putUnit_nextJob (s : State) (n : Nat) (u : CheckUnit) : (putUnit s n u).nextJob = s.nextJob := rfl
@[simp] theorem putUnit_nextHandle (s : State) (n : Nat) (u : CheckUnit) : (putUnit s n u).nextHandle = s.nextHandle := rfl
@[simp] theorem putUnit_exports (s : State) (n : Nat) (u : CheckUnit) : (putUnit s n u).exports = s.exports := rfl
@[simp] theorem putUnit_segs (s : State) (n : Nat) (u : CheckUnit) : (putUnit s n u).segs = s.segs := rfl
@[simp] theorem putUnit_nextSerial (s : State) (n : Nat) (u : CheckUnit) : (putUnit s n u).nextSerial = s.nextSerial := rfl
@[simp] theorem putUnit_nextSpill (s : State) (n : Nat) (u : CheckUnit) : (putUnit s n u).nextSpill = s.nextSpill := rfl
@[simp] theorem putUnit_ops (s : State) (n : Nat) (u : CheckUnit) : (putUnit s n u).ops = s.ops := rfl
@[simp] theorem putUnit_nextOp (s : State) (n : Nat) (u : CheckUnit) : (putUnit s n u).nextOp = s.nextOp := rfl
@[simp] theorem putUnit_frames (s : State) (n : Nat) (u : CheckUnit) : (putUnit s n u).frames = s.frames := rfl
@[simp] theorem putUnit_seedInEffect (s : State) (n : Nat) (u : CheckUnit) : (putUnit s n u).seedInEffect = s.seedInEffect := rfl
@[simp] theorem putUnit_hbm (s : State) (n : Nat) (u : CheckUnit) : (putUnit s n u).hbm = s.hbm := rfl
@[simp] theorem putUnit_ramps (s : State) (n : Nat) (u : CheckUnit) : (putUnit s n u).ramps = s.ramps := rfl
@[simp] theorem putUnit_rampPtr (s : State) (n : Nat) (u : CheckUnit) : (putUnit s n u).rampPtr = s.rampPtr := rfl
@[simp] theorem putUnit_flashPtr (s : State) (n : Nat) (u : CheckUnit) : (putUnit s n u).flashPtr = s.flashPtr := rfl
@[simp] theorem putUnit_droverPtr (s : State) (n : Nat) (u : CheckUnit) : (putUnit s n u).droverPtr = s.droverPtr := rfl
@[simp] theorem putUnit_packages (s : State) (n : Nat) (u : CheckUnit) : (putUnit s n u).packages = s.packages := rfl
@[simp] theorem putUnit_health (s : State) (n : Nat) (u : CheckUnit) : (putUnit s n u).health = s.health := rfl
@[simp] theorem putUnit_mediaReadOnly (s : State) (n : Nat) (u : CheckUnit) : (putUnit s n u).mediaReadOnly = s.mediaReadOnly := rfl
@[simp] theorem putUnit_ports (s : State) (n : Nat) (u : CheckUnit) : (putUnit s n u).ports = s.ports := rfl
@[simp] theorem putUnit_kamlinAddr (s : State) (n : Nat) (u : CheckUnit) : (putUnit s n u).kamlinAddr = s.kamlinAddr := rfl
@[simp] theorem putUnit_orDone (s : State) (n : Nat) (u : CheckUnit) : (putUnit s n u).orDone = s.orDone := rfl
@[simp] theorem putUnit_stranded (s : State) (n : Nat) (u : CheckUnit) : (putUnit s n u).stranded = s.stranded := rfl
@[simp] theorem putUnit_bell (s : State) (n : Nat) (u : CheckUnit) : (putUnit s n u).bell = s.bell := rfl
@[simp] theorem putUnit_flash (s : State) (n : Nat) (u : CheckUnit) : (putUnit s n u).flash = s.flash := rfl
@[simp] theorem putUnit_units (s : State) (n : Nat) (u : CheckUnit) : (putUnit s n u).units = mapSet s.units n u := rfl
@[simp] theorem putUnit_watchdog (s : State) (n : Nat) (u : CheckUnit) : (putUnit s n u).watchdog = s.watchdog := rfl
@[simp] theorem putUnit_inputs (s : State) (n : Nat) (u : CheckUnit) : (putUnit s n u).inputs = s.inputs := rfl
@[simp] theorem putUnit_plant (s : State) (n : Nat) (u : CheckUnit) : (putUnit s n u).plant = s.plant := rfl
@[simp] theorem putUnit_power (s : State) (n : Nat) (u : CheckUnit) : (putUnit s n u).power = s.power := rfl
@[simp] theorem putUnit_sec (s : State) (n : Nat) (u : CheckUnit) : (putUnit s n u).sec = s.sec := rfl

/-! ### putRamp -/

@[simp] theorem putRamp_pending (s : State) (e a : Nat) (r : Ramp) : (putRamp s e a r).pending = s.pending := rfl
@[simp] theorem putRamp_freeCtr (s : State) (e a : Nat) (r : Ramp) : (putRamp s e a r).freeCtr = s.freeCtr := rfl
@[simp] theorem putRamp_fuse (s : State) (e a : Nat) (r : Ramp) : (putRamp s e a r).fuse = s.fuse := rfl
@[simp] theorem putRamp_serial (s : State) (e a : Nat) (r : Ramp) : (putRamp s e a r).serial = s.serial := rfl
@[simp] theorem putRamp_slotId (s : State) (e a : Nat) (r : Ramp) : (putRamp s e a r).slotId = s.slotId := rfl
@[simp] theorem putRamp_od (s : State) (e a : Nat) (r : Ramp) : (putRamp s e a r).od = s.od := rfl
@[simp] theorem putRamp_convs (s : State) (e a : Nat) (r : Ramp) : (putRamp s e a r).convs = s.convs := rfl
@[simp] theorem putRamp_doms (s : State) (e a : Nat) (r : Ramp) : (putRamp s e a r).doms = s.doms := rfl
@[simp] theorem putRamp_dictA (s : State) (e a : Nat) (r : Ramp) : (putRamp s e a r).dictA = s.dictA := rfl
@[simp] theorem putRamp_dictB (s : State) (e a : Nat) (r : Ramp) : (putRamp s e a r).dictB = s.dictB := rfl
@[simp] theorem putRamp_dictConflict (s : State) (e a : Nat) (r : Ramp) : (putRamp s e a r).dictConflict = s.dictConflict := rfl
@[simp] theorem putRamp_savePending (s : State) (e a : Nat) (r : Ramp) : (putRamp s e a r).savePending = s.savePending := rfl
@[simp] theorem putRamp_sessions (s : State) (e a : Nat) (r : Ramp) : (putRamp s e a r).sessions = s.sessions := rfl
@[simp] theorem putRamp_sent (s : State) (e a : Nat) (r : Ramp) : (putRamp s e a r).sent = s.sent := rfl
@[simp] theorem putRamp_parked (s : State) (e a : Nat) (r : Ramp) : (putRamp s e a r).parked = s.parked := rfl
@[simp] theorem putRamp_odWaiting (s : State) (e a : Nat) (r : Ramp) : (putRamp s e a r).odWaiting = s.odWaiting := rfl
@[simp] theorem putRamp_staging (s : State) (e a : Nat) (r : Ramp) : (putRamp s e a r).staging = s.staging := rfl
@[simp] theorem putRamp_reeveUp (s : State) (e a : Nat) (r : Ramp) : (putRamp s e a r).reeveUp = s.reeveUp := rfl
@[simp] theorem putRamp_macAddr (s : State) (e a : Nat) (r : Ramp) : (putRamp s e a r).macAddr = s.macAddr := rfl
@[simp] theorem putRamp_t1s (s : State) (e a : Nat) (r : Ramp) : (putRamp s e a r).t1s = s.t1s := rfl
@[simp] theorem putRamp_eids (s : State) (e a : Nat) (r : Ramp) : (putRamp s e a r).eids = s.eids := rfl
@[simp] theorem putRamp_log (s : State) (e a : Nat) (r : Ramp) : (putRamp s e a r).log = s.log := rfl
@[simp] theorem putRamp_logSeq (s : State) (e a : Nat) (r : Ramp) : (putRamp s e a r).logSeq = s.logSeq := rfl
@[simp] theorem putRamp_logSaved (s : State) (e a : Nat) (r : Ramp) : (putRamp s e a r).logSaved = s.logSaved := rfl
@[simp] theorem putRamp_pf1 (s : State) (e a : Nat) (r : Ramp) : (putRamp s e a r).pf1 = s.pf1 := rfl
@[simp] theorem putRamp_nvme (s : State) (e a : Nat) (r : Ramp) : (putRamp s e a r).nvme = s.nvme := rfl
@[simp] theorem putRamp_perst (s : State) (e a : Nat) (r : Ramp) : (putRamp s e a r).perst = s.perst := rfl
@[simp] theorem putRamp_linkUp (s : State) (e a : Nat) (r : Ramp) : (putRamp s e a r).linkUp = s.linkUp := rfl
@[simp] theorem putRamp_layout (s : State) (e a : Nat) (r : Ramp) : (putRamp s e a r).layout = s.layout := rfl
@[simp] theorem putRamp_host (s : State) (e a : Nat) (r : Ramp) : (putRamp s e a r).host = s.host := rfl
@[simp] theorem putRamp_namespaces (s : State) (e a : Nat) (r : Ramp) : (putRamp s e a r).namespaces = s.namespaces := rfl
@[simp] theorem putRamp_sanitize (s : State) (e a : Nat) (r : Ramp) : (putRamp s e a r).sanitize = s.sanitize := rfl
@[simp] theorem putRamp_deallocs (s : State) (e a : Nat) (r : Ramp) : (putRamp s e a r).deallocs = s.deallocs := rfl
@[simp] theorem putRamp_sdSeq (s : State) (e a : Nat) (r : Ramp) : (putRamp s e a r).sdSeq = s.sdSeq := rfl
@[simp] theorem putRamp_sdRecords (s : State) (e a : Nat) (r : Ramp) : (putRamp s e a r).sdRecords = s.sdRecords := rfl
@[simp] theorem putRamp_crofts (s : State) (e a : Nat) (r : Ramp) : (putRamp s e a r).crofts = s.crofts := rfl
@[simp] theorem putRamp_nextJob (s : State) (e a : Nat) (r : Ramp) : (putRamp s e a r).nextJob = s.nextJob := rfl
@[simp] theorem putRamp_nextHandle (s : State) (e a : Nat) (r : Ramp) : (putRamp s e a r).nextHandle = s.nextHandle := rfl
@[simp] theorem putRamp_exports (s : State) (e a : Nat) (r : Ramp) : (putRamp s e a r).exports = s.exports := rfl
@[simp] theorem putRamp_segs (s : State) (e a : Nat) (r : Ramp) : (putRamp s e a r).segs = s.segs := rfl
@[simp] theorem putRamp_nextSerial (s : State) (e a : Nat) (r : Ramp) : (putRamp s e a r).nextSerial = s.nextSerial := rfl
@[simp] theorem putRamp_nextSpill (s : State) (e a : Nat) (r : Ramp) : (putRamp s e a r).nextSpill = s.nextSpill := rfl
@[simp] theorem putRamp_ops (s : State) (e a : Nat) (r : Ramp) : (putRamp s e a r).ops = s.ops := rfl
@[simp] theorem putRamp_nextOp (s : State) (e a : Nat) (r : Ramp) : (putRamp s e a r).nextOp = s.nextOp := rfl
@[simp] theorem putRamp_frames (s : State) (e a : Nat) (r : Ramp) : (putRamp s e a r).frames = s.frames := rfl
@[simp] theorem putRamp_seedInEffect (s : State) (e a : Nat) (r : Ramp) : (putRamp s e a r).seedInEffect = s.seedInEffect := rfl
@[simp] theorem putRamp_hbm (s : State) (e a : Nat) (r : Ramp) : (putRamp s e a r).hbm = s.hbm := rfl
@[simp] theorem putRamp_ramps (s : State) (e a : Nat) (r : Ramp) : (putRamp s e a r).ramps = mapSet s.ramps (8 * e + a) r := rfl
@[simp] theorem putRamp_rampPtr (s : State) (e a : Nat) (r : Ramp) : (putRamp s e a r).rampPtr = s.rampPtr := rfl
@[simp] theorem putRamp_flashPtr (s : State) (e a : Nat) (r : Ramp) : (putRamp s e a r).flashPtr = s.flashPtr := rfl
@[simp] theorem putRamp_droverPtr (s : State) (e a : Nat) (r : Ramp) : (putRamp s e a r).droverPtr = s.droverPtr := rfl
@[simp] theorem putRamp_packages (s : State) (e a : Nat) (r : Ramp) : (putRamp s e a r).packages = s.packages := rfl
@[simp] theorem putRamp_health (s : State) (e a : Nat) (r : Ramp) : (putRamp s e a r).health = s.health := rfl
@[simp] theorem putRamp_mediaReadOnly (s : State) (e a : Nat) (r : Ramp) : (putRamp s e a r).mediaReadOnly = s.mediaReadOnly := rfl
@[simp] theorem putRamp_ports (s : State) (e a : Nat) (r : Ramp) : (putRamp s e a r).ports = s.ports := rfl
@[simp] theorem putRamp_kamlinAddr (s : State) (e a : Nat) (r : Ramp) : (putRamp s e a r).kamlinAddr = s.kamlinAddr := rfl
@[simp] theorem putRamp_orDone (s : State) (e a : Nat) (r : Ramp) : (putRamp s e a r).orDone = s.orDone := rfl
@[simp] theorem putRamp_stranded (s : State) (e a : Nat) (r : Ramp) : (putRamp s e a r).stranded = s.stranded := rfl
@[simp] theorem putRamp_bell (s : State) (e a : Nat) (r : Ramp) : (putRamp s e a r).bell = s.bell := rfl
@[simp] theorem putRamp_flash (s : State) (e a : Nat) (r : Ramp) : (putRamp s e a r).flash = s.flash := rfl
@[simp] theorem putRamp_units (s : State) (e a : Nat) (r : Ramp) : (putRamp s e a r).units = s.units := rfl
@[simp] theorem putRamp_watchdog (s : State) (e a : Nat) (r : Ramp) : (putRamp s e a r).watchdog = s.watchdog := rfl
@[simp] theorem putRamp_inputs (s : State) (e a : Nat) (r : Ramp) : (putRamp s e a r).inputs = s.inputs := rfl
@[simp] theorem putRamp_plant (s : State) (e a : Nat) (r : Ramp) : (putRamp s e a r).plant = s.plant := rfl
@[simp] theorem putRamp_power (s : State) (e a : Nat) (r : Ramp) : (putRamp s e a r).power = s.power := rfl
@[simp] theorem putRamp_sec (s : State) (e a : Nat) (r : Ramp) : (putRamp s e a r).sec = s.sec := rfl

/-! ### putSlot -/

@[simp] theorem putSlot_pending (s : State) (n : Nat) (x : Slot) : (putSlot s n x).pending = s.pending := rfl
@[simp] theorem putSlot_freeCtr (s : State) (n : Nat) (x : Slot) : (putSlot s n x).freeCtr = s.freeCtr := rfl
@[simp] theorem putSlot_fuse (s : State) (n : Nat) (x : Slot) : (putSlot s n x).fuse = s.fuse := rfl
@[simp] theorem putSlot_serial (s : State) (n : Nat) (x : Slot) : (putSlot s n x).serial = s.serial := rfl
@[simp] theorem putSlot_slotId (s : State) (n : Nat) (x : Slot) : (putSlot s n x).slotId = s.slotId := rfl
@[simp] theorem putSlot_od (s : State) (n : Nat) (x : Slot) : (putSlot s n x).od = s.od := rfl
@[simp] theorem putSlot_convs (s : State) (n : Nat) (x : Slot) : (putSlot s n x).convs = s.convs := rfl
@[simp] theorem putSlot_doms (s : State) (n : Nat) (x : Slot) : (putSlot s n x).doms = s.doms := rfl
@[simp] theorem putSlot_dictA (s : State) (n : Nat) (x : Slot) : (putSlot s n x).dictA = s.dictA := rfl
@[simp] theorem putSlot_dictB (s : State) (n : Nat) (x : Slot) : (putSlot s n x).dictB = s.dictB := rfl
@[simp] theorem putSlot_dictConflict (s : State) (n : Nat) (x : Slot) : (putSlot s n x).dictConflict = s.dictConflict := rfl
@[simp] theorem putSlot_savePending (s : State) (n : Nat) (x : Slot) : (putSlot s n x).savePending = s.savePending := rfl
@[simp] theorem putSlot_sessions (s : State) (n : Nat) (x : Slot) : (putSlot s n x).sessions = s.sessions := rfl
@[simp] theorem putSlot_sent (s : State) (n : Nat) (x : Slot) : (putSlot s n x).sent = s.sent := rfl
@[simp] theorem putSlot_parked (s : State) (n : Nat) (x : Slot) : (putSlot s n x).parked = s.parked := rfl
@[simp] theorem putSlot_odWaiting (s : State) (n : Nat) (x : Slot) : (putSlot s n x).odWaiting = s.odWaiting := rfl
@[simp] theorem putSlot_staging (s : State) (n : Nat) (x : Slot) : (putSlot s n x).staging = s.staging := rfl
@[simp] theorem putSlot_reeveUp (s : State) (n : Nat) (x : Slot) : (putSlot s n x).reeveUp = s.reeveUp := rfl
@[simp] theorem putSlot_macAddr (s : State) (n : Nat) (x : Slot) : (putSlot s n x).macAddr = s.macAddr := rfl
@[simp] theorem putSlot_t1s (s : State) (n : Nat) (x : Slot) : (putSlot s n x).t1s = s.t1s := rfl
@[simp] theorem putSlot_eids (s : State) (n : Nat) (x : Slot) : (putSlot s n x).eids = s.eids := rfl
@[simp] theorem putSlot_log (s : State) (n : Nat) (x : Slot) : (putSlot s n x).log = s.log := rfl
@[simp] theorem putSlot_logSeq (s : State) (n : Nat) (x : Slot) : (putSlot s n x).logSeq = s.logSeq := rfl
@[simp] theorem putSlot_logSaved (s : State) (n : Nat) (x : Slot) : (putSlot s n x).logSaved = s.logSaved := rfl
@[simp] theorem putSlot_pf1 (s : State) (n : Nat) (x : Slot) : (putSlot s n x).pf1 = s.pf1 := rfl
@[simp] theorem putSlot_nvme (s : State) (n : Nat) (x : Slot) : (putSlot s n x).nvme = s.nvme := rfl
@[simp] theorem putSlot_perst (s : State) (n : Nat) (x : Slot) : (putSlot s n x).perst = s.perst := rfl
@[simp] theorem putSlot_linkUp (s : State) (n : Nat) (x : Slot) : (putSlot s n x).linkUp = s.linkUp := rfl
@[simp] theorem putSlot_layout (s : State) (n : Nat) (x : Slot) : (putSlot s n x).layout = s.layout := rfl
@[simp] theorem putSlot_host (s : State) (n : Nat) (x : Slot) : (putSlot s n x).host = s.host := rfl
@[simp] theorem putSlot_namespaces (s : State) (n : Nat) (x : Slot) : (putSlot s n x).namespaces = s.namespaces := rfl
@[simp] theorem putSlot_sanitize (s : State) (n : Nat) (x : Slot) : (putSlot s n x).sanitize = s.sanitize := rfl
@[simp] theorem putSlot_deallocs (s : State) (n : Nat) (x : Slot) : (putSlot s n x).deallocs = s.deallocs := rfl
@[simp] theorem putSlot_sdSeq (s : State) (n : Nat) (x : Slot) : (putSlot s n x).sdSeq = s.sdSeq := rfl
@[simp] theorem putSlot_sdRecords (s : State) (n : Nat) (x : Slot) : (putSlot s n x).sdRecords = s.sdRecords := rfl
@[simp] theorem putSlot_crofts (s : State) (n : Nat) (x : Slot) : (putSlot s n x).crofts = s.crofts := rfl
@[simp] theorem putSlot_nextJob (s : State) (n : Nat) (x : Slot) : (putSlot s n x).nextJob = s.nextJob := rfl
@[simp] theorem putSlot_nextHandle (s : State) (n : Nat) (x : Slot) : (putSlot s n x).nextHandle = s.nextHandle := rfl
@[simp] theorem putSlot_exports (s : State) (n : Nat) (x : Slot) : (putSlot s n x).exports = s.exports := rfl
@[simp] theorem putSlot_segs (s : State) (n : Nat) (x : Slot) : (putSlot s n x).segs = s.segs := rfl
@[simp] theorem putSlot_nextSerial (s : State) (n : Nat) (x : Slot) : (putSlot s n x).nextSerial = s.nextSerial := rfl
@[simp] theorem putSlot_nextSpill (s : State) (n : Nat) (x : Slot) : (putSlot s n x).nextSpill = s.nextSpill := rfl
@[simp] theorem putSlot_ops (s : State) (n : Nat) (x : Slot) : (putSlot s n x).ops = s.ops := rfl
@[simp] theorem putSlot_nextOp (s : State) (n : Nat) (x : Slot) : (putSlot s n x).nextOp = s.nextOp := rfl
@[simp] theorem putSlot_frames (s : State) (n : Nat) (x : Slot) : (putSlot s n x).frames = s.frames := rfl
@[simp] theorem putSlot_seedInEffect (s : State) (n : Nat) (x : Slot) : (putSlot s n x).seedInEffect = s.seedInEffect := rfl
@[simp] theorem putSlot_hbm (s : State) (n : Nat) (x : Slot) : (putSlot s n x).hbm = s.hbm := rfl
@[simp] theorem putSlot_ramps (s : State) (n : Nat) (x : Slot) : (putSlot s n x).ramps = s.ramps := rfl
@[simp] theorem putSlot_rampPtr (s : State) (n : Nat) (x : Slot) : (putSlot s n x).rampPtr = s.rampPtr := rfl
@[simp] theorem putSlot_flashPtr (s : State) (n : Nat) (x : Slot) : (putSlot s n x).flashPtr = s.flashPtr := rfl
@[simp] theorem putSlot_droverPtr (s : State) (n : Nat) (x : Slot) : (putSlot s n x).droverPtr = s.droverPtr := rfl
@[simp] theorem putSlot_packages (s : State) (n : Nat) (x : Slot) : (putSlot s n x).packages = s.packages := rfl
@[simp] theorem putSlot_health (s : State) (n : Nat) (x : Slot) : (putSlot s n x).health = s.health := rfl
@[simp] theorem putSlot_mediaReadOnly (s : State) (n : Nat) (x : Slot) : (putSlot s n x).mediaReadOnly = s.mediaReadOnly := rfl
@[simp] theorem putSlot_ports (s : State) (n : Nat) (x : Slot) : (putSlot s n x).ports = s.ports := rfl
@[simp] theorem putSlot_kamlinAddr (s : State) (n : Nat) (x : Slot) : (putSlot s n x).kamlinAddr = s.kamlinAddr := rfl
@[simp] theorem putSlot_orDone (s : State) (n : Nat) (x : Slot) : (putSlot s n x).orDone = s.orDone := rfl
@[simp] theorem putSlot_stranded (s : State) (n : Nat) (x : Slot) : (putSlot s n x).stranded = s.stranded := rfl
@[simp] theorem putSlot_bell (s : State) (n : Nat) (x : Slot) : (putSlot s n x).bell = s.bell := rfl
@[simp] theorem putSlot_flash (s : State) (n : Nat) (x : Slot) : (putSlot s n x).flash = s.flash := rfl
@[simp] theorem putSlot_units (s : State) (n : Nat) (x : Slot) : (putSlot s n x).units = s.units := rfl
@[simp] theorem putSlot_watchdog (s : State) (n : Nat) (x : Slot) : (putSlot s n x).watchdog = s.watchdog := rfl
@[simp] theorem putSlot_inputs (s : State) (n : Nat) (x : Slot) : (putSlot s n x).inputs = s.inputs := rfl
@[simp] theorem putSlot_plant (s : State) (n : Nat) (x : Slot) : (putSlot s n x).plant = s.plant := rfl
@[simp] theorem putSlot_power (s : State) (n : Nat) (x : Slot) : (putSlot s n x).power = s.power := rfl
@[simp] theorem putSlot_sec (s : State) (n : Nat) (x : Slot) : (putSlot s n x).sec = { s.sec with slots := mapSet s.sec.slots n x } := rfl

/-! ### transmit -/

@[simp] theorem transmit_pending (s : State) (d : Nat) (b : List Byte) : (transmit s d b).pending = s.pending := rfl
@[simp] theorem transmit_freeCtr (s : State) (d : Nat) (b : List Byte) : (transmit s d b).freeCtr = s.freeCtr := rfl
@[simp] theorem transmit_fuse (s : State) (d : Nat) (b : List Byte) : (transmit s d b).fuse = s.fuse := rfl
@[simp] theorem transmit_serial (s : State) (d : Nat) (b : List Byte) : (transmit s d b).serial = s.serial := rfl
@[simp] theorem transmit_slotId (s : State) (d : Nat) (b : List Byte) : (transmit s d b).slotId = s.slotId := rfl
@[simp] theorem transmit_od (s : State) (d : Nat) (b : List Byte) : (transmit s d b).od = s.od := rfl
@[simp] theorem transmit_convs (s : State) (d : Nat) (b : List Byte) : (transmit s d b).convs = s.convs := rfl
@[simp] theorem transmit_doms (s : State) (d : Nat) (b : List Byte) : (transmit s d b).doms = s.doms := rfl
@[simp] theorem transmit_dictA (s : State) (d : Nat) (b : List Byte) : (transmit s d b).dictA = s.dictA := rfl
@[simp] theorem transmit_dictB (s : State) (d : Nat) (b : List Byte) : (transmit s d b).dictB = s.dictB := rfl
@[simp] theorem transmit_dictConflict (s : State) (d : Nat) (b : List Byte) : (transmit s d b).dictConflict = s.dictConflict := rfl
@[simp] theorem transmit_savePending (s : State) (d : Nat) (b : List Byte) : (transmit s d b).savePending = s.savePending := rfl
@[simp] theorem transmit_sessions (s : State) (d : Nat) (b : List Byte) : (transmit s d b).sessions = s.sessions := rfl
@[simp] theorem transmit_sent (s : State) (d : Nat) (b : List Byte) : (transmit s d b).sent = s.sent ++ [(d, b)] := rfl
@[simp] theorem transmit_parked (s : State) (d : Nat) (b : List Byte) : (transmit s d b).parked = s.parked := rfl
@[simp] theorem transmit_odWaiting (s : State) (d : Nat) (b : List Byte) : (transmit s d b).odWaiting = s.odWaiting := rfl
@[simp] theorem transmit_staging (s : State) (d : Nat) (b : List Byte) : (transmit s d b).staging = s.staging := rfl
@[simp] theorem transmit_reeveUp (s : State) (d : Nat) (b : List Byte) : (transmit s d b).reeveUp = s.reeveUp := rfl
@[simp] theorem transmit_macAddr (s : State) (d : Nat) (b : List Byte) : (transmit s d b).macAddr = s.macAddr := rfl
@[simp] theorem transmit_t1s (s : State) (d : Nat) (b : List Byte) : (transmit s d b).t1s = s.t1s := rfl
@[simp] theorem transmit_eids (s : State) (d : Nat) (b : List Byte) : (transmit s d b).eids = s.eids := rfl
@[simp] theorem transmit_log (s : State) (d : Nat) (b : List Byte) : (transmit s d b).log = s.log := rfl
@[simp] theorem transmit_logSeq (s : State) (d : Nat) (b : List Byte) : (transmit s d b).logSeq = s.logSeq := rfl
@[simp] theorem transmit_logSaved (s : State) (d : Nat) (b : List Byte) : (transmit s d b).logSaved = s.logSaved := rfl
@[simp] theorem transmit_pf1 (s : State) (d : Nat) (b : List Byte) : (transmit s d b).pf1 = s.pf1 := rfl
@[simp] theorem transmit_nvme (s : State) (d : Nat) (b : List Byte) : (transmit s d b).nvme = s.nvme := rfl
@[simp] theorem transmit_perst (s : State) (d : Nat) (b : List Byte) : (transmit s d b).perst = s.perst := rfl
@[simp] theorem transmit_linkUp (s : State) (d : Nat) (b : List Byte) : (transmit s d b).linkUp = s.linkUp := rfl
@[simp] theorem transmit_layout (s : State) (d : Nat) (b : List Byte) : (transmit s d b).layout = s.layout := rfl
@[simp] theorem transmit_host (s : State) (d : Nat) (b : List Byte) : (transmit s d b).host = s.host := rfl
@[simp] theorem transmit_namespaces (s : State) (d : Nat) (b : List Byte) : (transmit s d b).namespaces = s.namespaces := rfl
@[simp] theorem transmit_sanitize (s : State) (d : Nat) (b : List Byte) : (transmit s d b).sanitize = s.sanitize := rfl
@[simp] theorem transmit_deallocs (s : State) (d : Nat) (b : List Byte) : (transmit s d b).deallocs = s.deallocs := rfl
@[simp] theorem transmit_sdSeq (s : State) (d : Nat) (b : List Byte) : (transmit s d b).sdSeq = s.sdSeq := rfl
@[simp] theorem transmit_sdRecords (s : State) (d : Nat) (b : List Byte) : (transmit s d b).sdRecords = s.sdRecords := rfl
@[simp] theorem transmit_crofts (s : State) (d : Nat) (b : List Byte) : (transmit s d b).crofts = s.crofts := rfl
@[simp] theorem transmit_nextJob (s : State) (d : Nat) (b : List Byte) : (transmit s d b).nextJob = s.nextJob := rfl
@[simp] theorem transmit_nextHandle (s : State) (d : Nat) (b : List Byte) : (transmit s d b).nextHandle = s.nextHandle := rfl
@[simp] theorem transmit_exports (s : State) (d : Nat) (b : List Byte) : (transmit s d b).exports = s.exports := rfl
@[simp] theorem transmit_segs (s : State) (d : Nat) (b : List Byte) : (transmit s d b).segs = s.segs := rfl
@[simp] theorem transmit_nextSerial (s : State) (d : Nat) (b : List Byte) : (transmit s d b).nextSerial = s.nextSerial := rfl
@[simp] theorem transmit_nextSpill (s : State) (d : Nat) (b : List Byte) : (transmit s d b).nextSpill = s.nextSpill := rfl
@[simp] theorem transmit_ops (s : State) (d : Nat) (b : List Byte) : (transmit s d b).ops = s.ops := rfl
@[simp] theorem transmit_nextOp (s : State) (d : Nat) (b : List Byte) : (transmit s d b).nextOp = s.nextOp := rfl
@[simp] theorem transmit_frames (s : State) (d : Nat) (b : List Byte) : (transmit s d b).frames = s.frames := rfl
@[simp] theorem transmit_seedInEffect (s : State) (d : Nat) (b : List Byte) : (transmit s d b).seedInEffect = s.seedInEffect := rfl
@[simp] theorem transmit_hbm (s : State) (d : Nat) (b : List Byte) : (transmit s d b).hbm = s.hbm := rfl
@[simp] theorem transmit_ramps (s : State) (d : Nat) (b : List Byte) : (transmit s d b).ramps = s.ramps := rfl
@[simp] theorem transmit_rampPtr (s : State) (d : Nat) (b : List Byte) : (transmit s d b).rampPtr = s.rampPtr := rfl
@[simp] theorem transmit_flashPtr (s : State) (d : Nat) (b : List Byte) : (transmit s d b).flashPtr = s.flashPtr := rfl
@[simp] theorem transmit_droverPtr (s : State) (d : Nat) (b : List Byte) : (transmit s d b).droverPtr = s.droverPtr := rfl
@[simp] theorem transmit_packages (s : State) (d : Nat) (b : List Byte) : (transmit s d b).packages = s.packages := rfl
@[simp] theorem transmit_health (s : State) (d : Nat) (b : List Byte) : (transmit s d b).health = s.health := rfl
@[simp] theorem transmit_mediaReadOnly (s : State) (d : Nat) (b : List Byte) : (transmit s d b).mediaReadOnly = s.mediaReadOnly := rfl
@[simp] theorem transmit_ports (s : State) (d : Nat) (b : List Byte) : (transmit s d b).ports = s.ports := rfl
@[simp] theorem transmit_kamlinAddr (s : State) (d : Nat) (b : List Byte) : (transmit s d b).kamlinAddr = s.kamlinAddr := rfl
@[simp] theorem transmit_orDone (s : State) (d : Nat) (b : List Byte) : (transmit s d b).orDone = s.orDone := rfl
@[simp] theorem transmit_stranded (s : State) (d : Nat) (b : List Byte) : (transmit s d b).stranded = s.stranded := rfl
@[simp] theorem transmit_bell (s : State) (d : Nat) (b : List Byte) : (transmit s d b).bell = s.bell := rfl
@[simp] theorem transmit_flash (s : State) (d : Nat) (b : List Byte) : (transmit s d b).flash = s.flash := rfl
@[simp] theorem transmit_units (s : State) (d : Nat) (b : List Byte) : (transmit s d b).units = s.units := rfl
@[simp] theorem transmit_watchdog (s : State) (d : Nat) (b : List Byte) : (transmit s d b).watchdog = s.watchdog := rfl
@[simp] theorem transmit_inputs (s : State) (d : Nat) (b : List Byte) : (transmit s d b).inputs = s.inputs := rfl
@[simp] theorem transmit_plant (s : State) (d : Nat) (b : List Byte) : (transmit s d b).plant = s.plant := rfl
@[simp] theorem transmit_power (s : State) (d : Nat) (b : List Byte) : (transmit s d b).power = s.power := rfl
@[simp] theorem transmit_sec (s : State) (d : Nat) (b : List Byte) : (transmit s d b).sec = s.sec := rfl

/-! ### hostWrite -/

@[simp] theorem hostWrite_pending (s : State) (a : Nat) (bs : List Byte) : (hostWrite s a bs).pending = s.pending := rfl
@[simp] theorem hostWrite_freeCtr (s : State) (a : Nat) (bs : List Byte) : (hostWrite s a bs).freeCtr = s.freeCtr := rfl
@[simp] theorem hostWrite_fuse (s : State) (a : Nat) (bs : List Byte) : (hostWrite s a bs).fuse = s.fuse := rfl
@[simp] theorem hostWrite_serial (s : State) (a : Nat) (bs : List Byte) : (hostWrite s a bs).serial = s.serial := rfl
@[simp] theorem hostWrite_slotId (s : State) (a : Nat) (bs : List Byte) : (hostWrite s a bs).slotId = s.slotId := rfl
@[simp] theorem hostWrite_od (s : State) (a : Nat) (bs : List Byte) : (hostWrite s a bs).od = s.od := rfl
@[simp] theorem hostWrite_convs (s : State) (a : Nat) (bs : List Byte) : (hostWrite s a bs).convs = s.convs := rfl
@[simp] theorem hostWrite_doms (s : State) (a : Nat) (bs : List Byte) : (hostWrite s a bs).doms = s.doms := rfl
@[simp] theorem hostWrite_dictA (s : State) (a : Nat) (bs : List Byte) : (hostWrite s a bs).dictA = s.dictA := rfl
@[simp] theorem hostWrite_dictB (s : State) (a : Nat) (bs : List Byte) : (hostWrite s a bs).dictB = s.dictB := rfl
@[simp] theorem hostWrite_dictConflict (s : State) (a : Nat) (bs : List Byte) : (hostWrite s a bs).dictConflict = s.dictConflict := rfl
@[simp] theorem hostWrite_savePending (s : State) (a : Nat) (bs : List Byte) : (hostWrite s a bs).savePending = s.savePending := rfl
@[simp] theorem hostWrite_sessions (s : State) (a : Nat) (bs : List Byte) : (hostWrite s a bs).sessions = s.sessions := rfl
@[simp] theorem hostWrite_sent (s : State) (a : Nat) (bs : List Byte) : (hostWrite s a bs).sent = s.sent := rfl
@[simp] theorem hostWrite_parked (s : State) (a : Nat) (bs : List Byte) : (hostWrite s a bs).parked = s.parked := rfl
@[simp] theorem hostWrite_odWaiting (s : State) (a : Nat) (bs : List Byte) : (hostWrite s a bs).odWaiting = s.odWaiting := rfl
@[simp] theorem hostWrite_staging (s : State) (a : Nat) (bs : List Byte) : (hostWrite s a bs).staging = s.staging := rfl
@[simp] theorem hostWrite_reeveUp (s : State) (a : Nat) (bs : List Byte) : (hostWrite s a bs).reeveUp = s.reeveUp := rfl
@[simp] theorem hostWrite_macAddr (s : State) (a : Nat) (bs : List Byte) : (hostWrite s a bs).macAddr = s.macAddr := rfl
@[simp] theorem hostWrite_t1s (s : State) (a : Nat) (bs : List Byte) : (hostWrite s a bs).t1s = s.t1s := rfl
@[simp] theorem hostWrite_eids (s : State) (a : Nat) (bs : List Byte) : (hostWrite s a bs).eids = s.eids := rfl
@[simp] theorem hostWrite_log (s : State) (a : Nat) (bs : List Byte) : (hostWrite s a bs).log = s.log := rfl
@[simp] theorem hostWrite_logSeq (s : State) (a : Nat) (bs : List Byte) : (hostWrite s a bs).logSeq = s.logSeq := rfl
@[simp] theorem hostWrite_logSaved (s : State) (a : Nat) (bs : List Byte) : (hostWrite s a bs).logSaved = s.logSaved := rfl
@[simp] theorem hostWrite_pf1 (s : State) (a : Nat) (bs : List Byte) : (hostWrite s a bs).pf1 = s.pf1 := rfl
@[simp] theorem hostWrite_nvme (s : State) (a : Nat) (bs : List Byte) : (hostWrite s a bs).nvme = s.nvme := rfl
@[simp] theorem hostWrite_perst (s : State) (a : Nat) (bs : List Byte) : (hostWrite s a bs).perst = s.perst := rfl
@[simp] theorem hostWrite_linkUp (s : State) (a : Nat) (bs : List Byte) : (hostWrite s a bs).linkUp = s.linkUp := rfl
@[simp] theorem hostWrite_layout (s : State) (a : Nat) (bs : List Byte) : (hostWrite s a bs).layout = s.layout := rfl
@[simp] theorem hostWrite_host (s : State) (a : Nat) (bs : List Byte) : (hostWrite s a bs).host = { s.host with bytes := memPutL 0 s.host.bytes a bs } := rfl
@[simp] theorem hostWrite_namespaces (s : State) (a : Nat) (bs : List Byte) : (hostWrite s a bs).namespaces = s.namespaces := rfl
@[simp] theorem hostWrite_sanitize (s : State) (a : Nat) (bs : List Byte) : (hostWrite s a bs).sanitize = s.sanitize := rfl
@[simp] theorem hostWrite_deallocs (s : State) (a : Nat) (bs : List Byte) : (hostWrite s a bs).deallocs = s.deallocs := rfl
@[simp] theorem hostWrite_sdSeq (s : State) (a : Nat) (bs : List Byte) : (hostWrite s a bs).sdSeq = s.sdSeq := rfl
@[simp] theorem hostWrite_sdRecords (s : State) (a : Nat) (bs : List Byte) : (hostWrite s a bs).sdRecords = s.sdRecords := rfl
@[simp] theorem hostWrite_crofts (s : State) (a : Nat) (bs : List Byte) : (hostWrite s a bs).crofts = s.crofts := rfl
@[simp] theorem hostWrite_nextJob (s : State) (a : Nat) (bs : List Byte) : (hostWrite s a bs).nextJob = s.nextJob := rfl
@[simp] theorem hostWrite_nextHandle (s : State) (a : Nat) (bs : List Byte) : (hostWrite s a bs).nextHandle = s.nextHandle := rfl
@[simp] theorem hostWrite_exports (s : State) (a : Nat) (bs : List Byte) : (hostWrite s a bs).exports = s.exports := rfl
@[simp] theorem hostWrite_segs (s : State) (a : Nat) (bs : List Byte) : (hostWrite s a bs).segs = s.segs := rfl
@[simp] theorem hostWrite_nextSerial (s : State) (a : Nat) (bs : List Byte) : (hostWrite s a bs).nextSerial = s.nextSerial := rfl
@[simp] theorem hostWrite_nextSpill (s : State) (a : Nat) (bs : List Byte) : (hostWrite s a bs).nextSpill = s.nextSpill := rfl
@[simp] theorem hostWrite_ops (s : State) (a : Nat) (bs : List Byte) : (hostWrite s a bs).ops = s.ops := rfl
@[simp] theorem hostWrite_nextOp (s : State) (a : Nat) (bs : List Byte) : (hostWrite s a bs).nextOp = s.nextOp := rfl
@[simp] theorem hostWrite_frames (s : State) (a : Nat) (bs : List Byte) : (hostWrite s a bs).frames = s.frames := rfl
@[simp] theorem hostWrite_seedInEffect (s : State) (a : Nat) (bs : List Byte) : (hostWrite s a bs).seedInEffect = s.seedInEffect := rfl
@[simp] theorem hostWrite_hbm (s : State) (a : Nat) (bs : List Byte) : (hostWrite s a bs).hbm = s.hbm := rfl
@[simp] theorem hostWrite_ramps (s : State) (a : Nat) (bs : List Byte) : (hostWrite s a bs).ramps = s.ramps := rfl
@[simp] theorem hostWrite_rampPtr (s : State) (a : Nat) (bs : List Byte) : (hostWrite s a bs).rampPtr = s.rampPtr := rfl
@[simp] theorem hostWrite_flashPtr (s : State) (a : Nat) (bs : List Byte) : (hostWrite s a bs).flashPtr = s.flashPtr := rfl
@[simp] theorem hostWrite_droverPtr (s : State) (a : Nat) (bs : List Byte) : (hostWrite s a bs).droverPtr = s.droverPtr := rfl
@[simp] theorem hostWrite_packages (s : State) (a : Nat) (bs : List Byte) : (hostWrite s a bs).packages = s.packages := rfl
@[simp] theorem hostWrite_health (s : State) (a : Nat) (bs : List Byte) : (hostWrite s a bs).health = s.health := rfl
@[simp] theorem hostWrite_mediaReadOnly (s : State) (a : Nat) (bs : List Byte) : (hostWrite s a bs).mediaReadOnly = s.mediaReadOnly := rfl
@[simp] theorem hostWrite_ports (s : State) (a : Nat) (bs : List Byte) : (hostWrite s a bs).ports = s.ports := rfl
@[simp] theorem hostWrite_kamlinAddr (s : State) (a : Nat) (bs : List Byte) : (hostWrite s a bs).kamlinAddr = s.kamlinAddr := rfl
@[simp] theorem hostWrite_orDone (s : State) (a : Nat) (bs : List Byte) : (hostWrite s a bs).orDone = s.orDone := rfl
@[simp] theorem hostWrite_stranded (s : State) (a : Nat) (bs : List Byte) : (hostWrite s a bs).stranded = s.stranded := rfl
@[simp] theorem hostWrite_bell (s : State) (a : Nat) (bs : List Byte) : (hostWrite s a bs).bell = s.bell := rfl
@[simp] theorem hostWrite_flash (s : State) (a : Nat) (bs : List Byte) : (hostWrite s a bs).flash = s.flash := rfl
@[simp] theorem hostWrite_units (s : State) (a : Nat) (bs : List Byte) : (hostWrite s a bs).units = s.units := rfl
@[simp] theorem hostWrite_watchdog (s : State) (a : Nat) (bs : List Byte) : (hostWrite s a bs).watchdog = s.watchdog := rfl
@[simp] theorem hostWrite_inputs (s : State) (a : Nat) (bs : List Byte) : (hostWrite s a bs).inputs = s.inputs := rfl
@[simp] theorem hostWrite_plant (s : State) (a : Nat) (bs : List Byte) : (hostWrite s a bs).plant = s.plant := rfl
@[simp] theorem hostWrite_power (s : State) (a : Nat) (bs : List Byte) : (hostWrite s a bs).power = s.power := rfl
@[simp] theorem hostWrite_sec (s : State) (a : Nat) (bs : List Byte) : (hostWrite s a bs).sec = s.sec := rfl

/-! ### interrupt -/

@[simp] theorem interrupt_pending (s : State) (f v : Nat) : (interrupt s f v).pending = s.pending := rfl
@[simp] theorem interrupt_freeCtr (s : State) (f v : Nat) : (interrupt s f v).freeCtr = s.freeCtr := rfl
@[simp] theorem interrupt_fuse (s : State) (f v : Nat) : (interrupt s f v).fuse = s.fuse := rfl
@[simp] theorem interrupt_serial (s : State) (f v : Nat) : (interrupt s f v).serial = s.serial := rfl
@[simp] theorem interrupt_slotId (s : State) (f v : Nat) : (interrupt s f v).slotId = s.slotId := rfl
@[simp] theorem interrupt_od (s : State) (f v : Nat) : (interrupt s f v).od = s.od := rfl
@[simp] theorem interrupt_convs (s : State) (f v : Nat) : (interrupt s f v).convs = s.convs := rfl
@[simp] theorem interrupt_doms (s : State) (f v : Nat) : (interrupt s f v).doms = s.doms := rfl
@[simp] theorem interrupt_dictA (s : State) (f v : Nat) : (interrupt s f v).dictA = s.dictA := rfl
@[simp] theorem interrupt_dictB (s : State) (f v : Nat) : (interrupt s f v).dictB = s.dictB := rfl
@[simp] theorem interrupt_dictConflict (s : State) (f v : Nat) : (interrupt s f v).dictConflict = s.dictConflict := rfl
@[simp] theorem interrupt_savePending (s : State) (f v : Nat) : (interrupt s f v).savePending = s.savePending := rfl
@[simp] theorem interrupt_sessions (s : State) (f v : Nat) : (interrupt s f v).sessions = s.sessions := rfl
@[simp] theorem interrupt_sent (s : State) (f v : Nat) : (interrupt s f v).sent = s.sent := rfl
@[simp] theorem interrupt_parked (s : State) (f v : Nat) : (interrupt s f v).parked = s.parked := rfl
@[simp] theorem interrupt_odWaiting (s : State) (f v : Nat) : (interrupt s f v).odWaiting = s.odWaiting := rfl
@[simp] theorem interrupt_staging (s : State) (f v : Nat) : (interrupt s f v).staging = s.staging := rfl
@[simp] theorem interrupt_reeveUp (s : State) (f v : Nat) : (interrupt s f v).reeveUp = s.reeveUp := rfl
@[simp] theorem interrupt_macAddr (s : State) (f v : Nat) : (interrupt s f v).macAddr = s.macAddr := rfl
@[simp] theorem interrupt_t1s (s : State) (f v : Nat) : (interrupt s f v).t1s = s.t1s := rfl
@[simp] theorem interrupt_eids (s : State) (f v : Nat) : (interrupt s f v).eids = s.eids := rfl
@[simp] theorem interrupt_log (s : State) (f v : Nat) : (interrupt s f v).log = s.log := rfl
@[simp] theorem interrupt_logSeq (s : State) (f v : Nat) : (interrupt s f v).logSeq = s.logSeq := rfl
@[simp] theorem interrupt_logSaved (s : State) (f v : Nat) : (interrupt s f v).logSaved = s.logSaved := rfl
@[simp] theorem interrupt_nvme (s : State) (f v : Nat) : (interrupt s f v).nvme = s.nvme := rfl
@[simp] theorem interrupt_perst (s : State) (f v : Nat) : (interrupt s f v).perst = s.perst := rfl
@[simp] theorem interrupt_linkUp (s : State) (f v : Nat) : (interrupt s f v).linkUp = s.linkUp := rfl
@[simp] theorem interrupt_layout (s : State) (f v : Nat) : (interrupt s f v).layout = s.layout := rfl
@[simp] theorem interrupt_host (s : State) (f v : Nat) : (interrupt s f v).host = s.host := rfl
@[simp] theorem interrupt_namespaces (s : State) (f v : Nat) : (interrupt s f v).namespaces = s.namespaces := rfl
@[simp] theorem interrupt_sanitize (s : State) (f v : Nat) : (interrupt s f v).sanitize = s.sanitize := rfl
@[simp] theorem interrupt_deallocs (s : State) (f v : Nat) : (interrupt s f v).deallocs = s.deallocs := rfl
@[simp] theorem interrupt_sdSeq (s : State) (f v : Nat) : (interrupt s f v).sdSeq = s.sdSeq := rfl
@[simp] theorem interrupt_sdRecords (s : State) (f v : Nat) : (interrupt s f v).sdRecords = s.sdRecords := rfl
@[simp] theorem interrupt_crofts (s : State) (f v : Nat) : (interrupt s f v).crofts = s.crofts := rfl
@[simp] theorem interrupt_nextJob (s : State) (f v : Nat) : (interrupt s f v).nextJob = s.nextJob := rfl
@[simp] theorem interrupt_nextHandle (s : State) (f v : Nat) : (interrupt s f v).nextHandle = s.nextHandle := rfl
@[simp] theorem interrupt_exports (s : State) (f v : Nat) : (interrupt s f v).exports = s.exports := rfl
@[simp] theorem interrupt_segs (s : State) (f v : Nat) : (interrupt s f v).segs = s.segs := rfl
@[simp] theorem interrupt_nextSerial (s : State) (f v : Nat) : (interrupt s f v).nextSerial = s.nextSerial := rfl
@[simp] theorem interrupt_nextSpill (s : State) (f v : Nat) : (interrupt s f v).nextSpill = s.nextSpill := rfl
@[simp] theorem interrupt_ops (s : State) (f v : Nat) : (interrupt s f v).ops = s.ops := rfl
@[simp] theorem interrupt_nextOp (s : State) (f v : Nat) : (interrupt s f v).nextOp = s.nextOp := rfl
@[simp] theorem interrupt_frames (s : State) (f v : Nat) : (interrupt s f v).frames = s.frames := rfl
@[simp] theorem interrupt_seedInEffect (s : State) (f v : Nat) : (interrupt s f v).seedInEffect = s.seedInEffect := rfl
@[simp] theorem interrupt_hbm (s : State) (f v : Nat) : (interrupt s f v).hbm = s.hbm := rfl
@[simp] theorem interrupt_ramps (s : State) (f v : Nat) : (interrupt s f v).ramps = s.ramps := rfl
@[simp] theorem interrupt_rampPtr (s : State) (f v : Nat) : (interrupt s f v).rampPtr = s.rampPtr := rfl
@[simp] theorem interrupt_flashPtr (s : State) (f v : Nat) : (interrupt s f v).flashPtr = s.flashPtr := rfl
@[simp] theorem interrupt_droverPtr (s : State) (f v : Nat) : (interrupt s f v).droverPtr = s.droverPtr := rfl
@[simp] theorem interrupt_packages (s : State) (f v : Nat) : (interrupt s f v).packages = s.packages := rfl
@[simp] theorem interrupt_health (s : State) (f v : Nat) : (interrupt s f v).health = s.health := rfl
@[simp] theorem interrupt_mediaReadOnly (s : State) (f v : Nat) : (interrupt s f v).mediaReadOnly = s.mediaReadOnly := rfl
@[simp] theorem interrupt_ports (s : State) (f v : Nat) : (interrupt s f v).ports = s.ports := rfl
@[simp] theorem interrupt_kamlinAddr (s : State) (f v : Nat) : (interrupt s f v).kamlinAddr = s.kamlinAddr := rfl
@[simp] theorem interrupt_orDone (s : State) (f v : Nat) : (interrupt s f v).orDone = s.orDone := rfl
@[simp] theorem interrupt_stranded (s : State) (f v : Nat) : (interrupt s f v).stranded = s.stranded := rfl
@[simp] theorem interrupt_bell (s : State) (f v : Nat) : (interrupt s f v).bell = s.bell := rfl
@[simp] theorem interrupt_flash (s : State) (f v : Nat) : (interrupt s f v).flash = s.flash := rfl
@[simp] theorem interrupt_units (s : State) (f v : Nat) : (interrupt s f v).units = s.units := rfl
@[simp] theorem interrupt_watchdog (s : State) (f v : Nat) : (interrupt s f v).watchdog = s.watchdog := rfl
@[simp] theorem interrupt_inputs (s : State) (f v : Nat) : (interrupt s f v).inputs = s.inputs := rfl
@[simp] theorem interrupt_plant (s : State) (f v : Nat) : (interrupt s f v).plant = s.plant := rfl
@[simp] theorem interrupt_power (s : State) (f v : Nat) : (interrupt s f v).power = s.power := rfl
@[simp] theorem interrupt_sec (s : State) (f v : Nat) : (interrupt s f v).sec = s.sec := rfl

/-! ### logAppend -/

@[simp] theorem logAppend_pending (s : State) (sev : Nat) (r : List Byte) : (logAppend s sev r).pending = s.pending := rfl
@[simp] theorem logAppend_freeCtr (s : State) (sev : Nat) (r : List Byte) : (logAppend s sev r).freeCtr = s.freeCtr := rfl
@[simp] theorem logAppend_fuse (s : State) (sev : Nat) (r : List Byte) : (logAppend s sev r).fuse = s.fuse := rfl
@[simp] theorem logAppend_serial (s : State) (sev : Nat) (r : List Byte) : (logAppend s sev r).serial = s.serial := rfl
@[simp] theorem logAppend_slotId (s : State) (sev : Nat) (r : List Byte) : (logAppend s sev r).slotId = s.slotId := rfl
@[simp] theorem logAppend_od (s : State) (sev : Nat) (r : List Byte) : (logAppend s sev r).od = s.od := rfl
@[simp] theorem logAppend_convs (s : State) (sev : Nat) (r : List Byte) : (logAppend s sev r).convs = s.convs := rfl
@[simp] theorem logAppend_doms (s : State) (sev : Nat) (r : List Byte) : (logAppend s sev r).doms = s.doms := rfl
@[simp] theorem logAppend_dictA (s : State) (sev : Nat) (r : List Byte) : (logAppend s sev r).dictA = s.dictA := rfl
@[simp] theorem logAppend_dictB (s : State) (sev : Nat) (r : List Byte) : (logAppend s sev r).dictB = s.dictB := rfl
@[simp] theorem logAppend_dictConflict (s : State) (sev : Nat) (r : List Byte) : (logAppend s sev r).dictConflict = s.dictConflict := rfl
@[simp] theorem logAppend_savePending (s : State) (sev : Nat) (r : List Byte) : (logAppend s sev r).savePending = s.savePending := rfl
@[simp] theorem logAppend_sessions (s : State) (sev : Nat) (r : List Byte) : (logAppend s sev r).sessions = s.sessions := rfl
@[simp] theorem logAppend_sent (s : State) (sev : Nat) (r : List Byte) : (logAppend s sev r).sent = s.sent := rfl
@[simp] theorem logAppend_parked (s : State) (sev : Nat) (r : List Byte) : (logAppend s sev r).parked = s.parked := rfl
@[simp] theorem logAppend_odWaiting (s : State) (sev : Nat) (r : List Byte) : (logAppend s sev r).odWaiting = s.odWaiting := rfl
@[simp] theorem logAppend_staging (s : State) (sev : Nat) (r : List Byte) : (logAppend s sev r).staging = s.staging := rfl
@[simp] theorem logAppend_reeveUp (s : State) (sev : Nat) (r : List Byte) : (logAppend s sev r).reeveUp = s.reeveUp := rfl
@[simp] theorem logAppend_macAddr (s : State) (sev : Nat) (r : List Byte) : (logAppend s sev r).macAddr = s.macAddr := rfl
@[simp] theorem logAppend_t1s (s : State) (sev : Nat) (r : List Byte) : (logAppend s sev r).t1s = s.t1s := rfl
@[simp] theorem logAppend_eids (s : State) (sev : Nat) (r : List Byte) : (logAppend s sev r).eids = s.eids := rfl
@[simp] theorem logAppend_log (s : State) (sev : Nat) (r : List Byte) : (logAppend s sev r).log = newest 4096 (s.log ++ [r]) := rfl
@[simp] theorem logAppend_logSeq (s : State) (sev : Nat) (r : List Byte) : (logAppend s sev r).logSeq = (s.logSeq + 1) % 2 ^ 32 := rfl
@[simp] theorem logAppend_logSaved (s : State) (sev : Nat) (r : List Byte) : (logAppend s sev r).logSaved = if 2 ≤ sev then s.logSaved.put r else s.logSaved := rfl
@[simp] theorem logAppend_pf1 (s : State) (sev : Nat) (r : List Byte) : (logAppend s sev r).pf1 = s.pf1 := rfl
@[simp] theorem logAppend_nvme (s : State) (sev : Nat) (r : List Byte) : (logAppend s sev r).nvme = s.nvme := rfl
@[simp] theorem logAppend_perst (s : State) (sev : Nat) (r : List Byte) : (logAppend s sev r).perst = s.perst := rfl
@[simp] theorem logAppend_linkUp (s : State) (sev : Nat) (r : List Byte) : (logAppend s sev r).linkUp = s.linkUp := rfl
@[simp] theorem logAppend_layout (s : State) (sev : Nat) (r : List Byte) : (logAppend s sev r).layout = s.layout := rfl
@[simp] theorem logAppend_host (s : State) (sev : Nat) (r : List Byte) : (logAppend s sev r).host = s.host := rfl
@[simp] theorem logAppend_namespaces (s : State) (sev : Nat) (r : List Byte) : (logAppend s sev r).namespaces = s.namespaces := rfl
@[simp] theorem logAppend_sanitize (s : State) (sev : Nat) (r : List Byte) : (logAppend s sev r).sanitize = s.sanitize := rfl
@[simp] theorem logAppend_deallocs (s : State) (sev : Nat) (r : List Byte) : (logAppend s sev r).deallocs = s.deallocs := rfl
@[simp] theorem logAppend_sdSeq (s : State) (sev : Nat) (r : List Byte) : (logAppend s sev r).sdSeq = s.sdSeq := rfl
@[simp] theorem logAppend_sdRecords (s : State) (sev : Nat) (r : List Byte) : (logAppend s sev r).sdRecords = s.sdRecords := rfl
@[simp] theorem logAppend_crofts (s : State) (sev : Nat) (r : List Byte) : (logAppend s sev r).crofts = s.crofts := rfl
@[simp] theorem logAppend_nextJob (s : State) (sev : Nat) (r : List Byte) : (logAppend s sev r).nextJob = s.nextJob := rfl
@[simp] theorem logAppend_nextHandle (s : State) (sev : Nat) (r : List Byte) : (logAppend s sev r).nextHandle = s.nextHandle := rfl
@[simp] theorem logAppend_exports (s : State) (sev : Nat) (r : List Byte) : (logAppend s sev r).exports = s.exports := rfl
@[simp] theorem logAppend_segs (s : State) (sev : Nat) (r : List Byte) : (logAppend s sev r).segs = s.segs := rfl
@[simp] theorem logAppend_nextSerial (s : State) (sev : Nat) (r : List Byte) : (logAppend s sev r).nextSerial = s.nextSerial := rfl
@[simp] theorem logAppend_nextSpill (s : State) (sev : Nat) (r : List Byte) : (logAppend s sev r).nextSpill = s.nextSpill := rfl
@[simp] theorem logAppend_ops (s : State) (sev : Nat) (r : List Byte) : (logAppend s sev r).ops = s.ops := rfl
@[simp] theorem logAppend_nextOp (s : State) (sev : Nat) (r : List Byte) : (logAppend s sev r).nextOp = s.nextOp := rfl
@[simp] theorem logAppend_frames (s : State) (sev : Nat) (r : List Byte) : (logAppend s sev r).frames = s.frames := rfl
@[simp] theorem logAppend_seedInEffect (s : State) (sev : Nat) (r : List Byte) : (logAppend s sev r).seedInEffect = s.seedInEffect := rfl
@[simp] theorem logAppend_hbm (s : State) (sev : Nat) (r : List Byte) : (logAppend s sev r).hbm = s.hbm := rfl
@[simp] theorem logAppend_ramps (s : State) (sev : Nat) (r : List Byte) : (logAppend s sev r).ramps = s.ramps := rfl
@[simp] theorem logAppend_rampPtr (s : State) (sev : Nat) (r : List Byte) : (logAppend s sev r).rampPtr = s.rampPtr := rfl
@[simp] theorem logAppend_flashPtr (s : State) (sev : Nat) (r : List Byte) : (logAppend s sev r).flashPtr = s.flashPtr := rfl
@[simp] theorem logAppend_droverPtr (s : State) (sev : Nat) (r : List Byte) : (logAppend s sev r).droverPtr = s.droverPtr := rfl
@[simp] theorem logAppend_packages (s : State) (sev : Nat) (r : List Byte) : (logAppend s sev r).packages = s.packages := rfl
@[simp] theorem logAppend_health (s : State) (sev : Nat) (r : List Byte) : (logAppend s sev r).health = s.health := rfl
@[simp] theorem logAppend_mediaReadOnly (s : State) (sev : Nat) (r : List Byte) : (logAppend s sev r).mediaReadOnly = s.mediaReadOnly := rfl
@[simp] theorem logAppend_ports (s : State) (sev : Nat) (r : List Byte) : (logAppend s sev r).ports = s.ports := rfl
@[simp] theorem logAppend_kamlinAddr (s : State) (sev : Nat) (r : List Byte) : (logAppend s sev r).kamlinAddr = s.kamlinAddr := rfl
@[simp] theorem logAppend_orDone (s : State) (sev : Nat) (r : List Byte) : (logAppend s sev r).orDone = s.orDone := rfl
@[simp] theorem logAppend_stranded (s : State) (sev : Nat) (r : List Byte) : (logAppend s sev r).stranded = s.stranded := rfl
@[simp] theorem logAppend_bell (s : State) (sev : Nat) (r : List Byte) : (logAppend s sev r).bell = s.bell := rfl
@[simp] theorem logAppend_flash (s : State) (sev : Nat) (r : List Byte) : (logAppend s sev r).flash = s.flash := rfl
@[simp] theorem logAppend_units (s : State) (sev : Nat) (r : List Byte) : (logAppend s sev r).units = s.units := rfl
@[simp] theorem logAppend_watchdog (s : State) (sev : Nat) (r : List Byte) : (logAppend s sev r).watchdog = s.watchdog := rfl
@[simp] theorem logAppend_inputs (s : State) (sev : Nat) (r : List Byte) : (logAppend s sev r).inputs = s.inputs := rfl
@[simp] theorem logAppend_plant (s : State) (sev : Nat) (r : List Byte) : (logAppend s sev r).plant = s.plant := rfl
@[simp] theorem logAppend_power (s : State) (sev : Nat) (r : List Byte) : (logAppend s sev r).power = s.power := rfl
@[simp] theorem logAppend_sec (s : State) (sev : Nat) (r : List Byte) : (logAppend s sev r).sec = s.sec := rfl

/-! ### fresh -/

@[simp] theorem fresh_pending (s : State) : (fresh s).2.pending = s.pending := rfl
@[simp] theorem fresh_freeCtr (s : State) : (fresh s).2.freeCtr = s.freeCtr + 1 := rfl
@[simp] theorem fresh_fuse (s : State) : (fresh s).2.fuse = s.fuse := rfl
@[simp] theorem fresh_serial (s : State) : (fresh s).2.serial = s.serial := rfl
@[simp] theorem fresh_slotId (s : State) : (fresh s).2.slotId = s.slotId := rfl
@[simp] theorem fresh_od (s : State) : (fresh s).2.od = s.od := rfl
@[simp] theorem fresh_convs (s : State) : (fresh s).2.convs = s.convs := rfl
@[simp] theorem fresh_doms (s : State) : (fresh s).2.doms = s.doms := rfl
@[simp] theorem fresh_dictA (s : State) : (fresh s).2.dictA = s.dictA := rfl
@[simp] theorem fresh_dictB (s : State) : (fresh s).2.dictB = s.dictB := rfl
@[simp] theorem fresh_dictConflict (s : State) : (fresh s).2.dictConflict = s.dictConflict := rfl
@[simp] theorem fresh_savePending (s : State) : (fresh s).2.savePending = s.savePending := rfl
@[simp] theorem fresh_sessions (s : State) : (fresh s).2.sessions = s.sessions := rfl
@[simp] theorem fresh_sent (s : State) : (fresh s).2.sent = s.sent := rfl
@[simp] theorem fresh_parked (s : State) : (fresh s).2.parked = s.parked := rfl
@[simp] theorem fresh_odWaiting (s : State) : (fresh s).2.odWaiting = s.odWaiting := rfl
@[simp] theorem fresh_staging (s : State) : (fresh s).2.staging = s.staging := rfl
@[simp] theorem fresh_reeveUp (s : State) : (fresh s).2.reeveUp = s.reeveUp := rfl
@[simp] theorem fresh_macAddr (s : State) : (fresh s).2.macAddr = s.macAddr := rfl
@[simp] theorem fresh_t1s (s : State) : (fresh s).2.t1s = s.t1s := rfl
@[simp] theorem fresh_eids (s : State) : (fresh s).2.eids = s.eids := rfl
@[simp] theorem fresh_log (s : State) : (fresh s).2.log = s.log := rfl
@[simp] theorem fresh_logSeq (s : State) : (fresh s).2.logSeq = s.logSeq := rfl
@[simp] theorem fresh_logSaved (s : State) : (fresh s).2.logSaved = s.logSaved := rfl
@[simp] theorem fresh_pf1 (s : State) : (fresh s).2.pf1 = s.pf1 := rfl
@[simp] theorem fresh_nvme (s : State) : (fresh s).2.nvme = s.nvme := rfl
@[simp] theorem fresh_perst (s : State) : (fresh s).2.perst = s.perst := rfl
@[simp] theorem fresh_linkUp (s : State) : (fresh s).2.linkUp = s.linkUp := rfl
@[simp] theorem fresh_layout (s : State) : (fresh s).2.layout = s.layout := rfl
@[simp] theorem fresh_host (s : State) : (fresh s).2.host = s.host := rfl
@[simp] theorem fresh_namespaces (s : State) : (fresh s).2.namespaces = s.namespaces := rfl
@[simp] theorem fresh_sanitize (s : State) : (fresh s).2.sanitize = s.sanitize := rfl
@[simp] theorem fresh_deallocs (s : State) : (fresh s).2.deallocs = s.deallocs := rfl
@[simp] theorem fresh_sdSeq (s : State) : (fresh s).2.sdSeq = s.sdSeq := rfl
@[simp] theorem fresh_sdRecords (s : State) : (fresh s).2.sdRecords = s.sdRecords := rfl
@[simp] theorem fresh_crofts (s : State) : (fresh s).2.crofts = s.crofts := rfl
@[simp] theorem fresh_nextJob (s : State) : (fresh s).2.nextJob = s.nextJob := rfl
@[simp] theorem fresh_nextHandle (s : State) : (fresh s).2.nextHandle = s.nextHandle := rfl
@[simp] theorem fresh_exports (s : State) : (fresh s).2.exports = s.exports := rfl
@[simp] theorem fresh_segs (s : State) : (fresh s).2.segs = s.segs := rfl
@[simp] theorem fresh_nextSerial (s : State) : (fresh s).2.nextSerial = s.nextSerial := rfl
@[simp] theorem fresh_nextSpill (s : State) : (fresh s).2.nextSpill = s.nextSpill := rfl
@[simp] theorem fresh_ops (s : State) : (fresh s).2.ops = s.ops := rfl
@[simp] theorem fresh_nextOp (s : State) : (fresh s).2.nextOp = s.nextOp := rfl
@[simp] theorem fresh_frames (s : State) : (fresh s).2.frames = s.frames := rfl
@[simp] theorem fresh_seedInEffect (s : State) : (fresh s).2.seedInEffect = s.seedInEffect := rfl
@[simp] theorem fresh_hbm (s : State) : (fresh s).2.hbm = s.hbm := rfl
@[simp] theorem fresh_ramps (s : State) : (fresh s).2.ramps = s.ramps := rfl
@[simp] theorem fresh_rampPtr (s : State) : (fresh s).2.rampPtr = s.rampPtr := rfl
@[simp] theorem fresh_flashPtr (s : State) : (fresh s).2.flashPtr = s.flashPtr := rfl
@[simp] theorem fresh_droverPtr (s : State) : (fresh s).2.droverPtr = s.droverPtr := rfl
@[simp] theorem fresh_packages (s : State) : (fresh s).2.packages = s.packages := rfl
@[simp] theorem fresh_health (s : State) : (fresh s).2.health = s.health := rfl
@[simp] theorem fresh_mediaReadOnly (s : State) : (fresh s).2.mediaReadOnly = s.mediaReadOnly := rfl
@[simp] theorem fresh_ports (s : State) : (fresh s).2.ports = s.ports := rfl
@[simp] theorem fresh_kamlinAddr (s : State) : (fresh s).2.kamlinAddr = s.kamlinAddr := rfl
@[simp] theorem fresh_orDone (s : State) : (fresh s).2.orDone = s.orDone := rfl
@[simp] theorem fresh_stranded (s : State) : (fresh s).2.stranded = s.stranded := rfl
@[simp] theorem fresh_bell (s : State) : (fresh s).2.bell = s.bell := rfl
@[simp] theorem fresh_flash (s : State) : (fresh s).2.flash = s.flash := rfl
@[simp] theorem fresh_units (s : State) : (fresh s).2.units = s.units := rfl
@[simp] theorem fresh_watchdog (s : State) : (fresh s).2.watchdog = s.watchdog := rfl
@[simp] theorem fresh_inputs (s : State) : (fresh s).2.inputs = s.inputs := rfl
@[simp] theorem fresh_plant (s : State) : (fresh s).2.plant = s.plant := rfl
@[simp] theorem fresh_power (s : State) : (fresh s).2.power = s.power := rfl
@[simp] theorem fresh_sec (s : State) : (fresh s).2.sec = s.sec := rfl

end Sys2Proof.Machine
end

