-- ==== Sys2Proof/Laws/Ops.lean ====
section
/-! SUPPORT. What the shared operations can do, each said once: dictionary values, notifications, events of the log and of a croft, tickets. -/

set_option linter.all false

namespace Sys2Proof.Machine

/-! ### Dictionary values -/

theorem odKey_inj {i j a b : Nat} (ha : a < 256) (hb : b < 256) : odKey i a = odKey j b ↔ i = j ∧ a = b := by
  unfold odKey; omega

/-- A value put is the value got; every other entry reads as before. -/
theorem odGet_odPut (s : State) (i sub v j sub' : Nat) :
    odGet (odPut s i sub v) j sub' = if odKey j sub' = odKey i sub then v else odGet s j sub' := by
  have h := mapGet?_mapSet s.od (odKey i sub) (odKey j sub') v
  unfold mapGet? at h
  unfold odGet
  rw [odPut_od, h]
  by_cases e : odKey j sub' = odKey i sub
  · rw [if_pos e, if_pos e]
  · rw [if_neg e, if_neg e]

@[simp] theorem odGet_odPut_self (s : State) (i sub v : Nat) : odGet (odPut s i sub v) i sub = v := by
  rw [odGet_odPut, if_pos rfl]

theorem odGet_odPut_ne (s : State) (i sub v j sub' : Nat) (h : odKey j sub' ≠ odKey i sub) :
    odGet (odPut s i sub v) j sub' = odGet s j sub' := by rw [odGet_odPut, if_neg h]

theorem odGet_bump_ne (s : State) (i sub n j sub' : Nat) (h : odKey j sub' ≠ odKey i sub) :
    odGet (bump s i sub n) j sub' = odGet s j sub' := by
  unfold bump; split
  · rfl
  · exact odGet_odPut_ne _ _ _ _ _ _ h

@[simp] theorem odGet_bump_self (s : State) (i sub n : Nat) : odGet (bump s i sub n) i sub = odGet s i sub + n := by
  unfold bump; split
  · omega
  · simp

/-- The value of an entry depends on the dictionary's values alone. -/
theorem odGet_congr {s t : State} (h : t.od = s.od) (i sub : Nat) : odGet t i sub = odGet s i sub := by
  unfold odGet; rw [h]

/-! ### Notifications and events -/

/-- A notification changes sessions, what has been sent and the count of dropped notifications. -/
theorem notifyOne_only (s : State) (sid : Nat) (n : Session) (b : List Byte) :
    ∃ se st, (notifyOne s sid n b = { s with sessions := se, sent := st }) ∨ (notifyOne s sid n b = bump { s with sessions := se } 0xA500 5 1) := by
  unfold notifyOne; split
  · exact ⟨_, _, .inl rfl⟩
  · exact ⟨_, s.sent, .inr rfl⟩

/-- An event's notifications change sessions, what has been sent and the count of dropped notifications. -/
theorem notify_only (s : State) (cls croft : Nat) (b : List Byte) :
    ∃ se st o, notify s cls croft b = { s with sessions := se, sent := st, od := o } ∧
      ∀ j sub', odKey j sub' ≠ odKey 0xA500 5 → odGet (notify s cls croft b) j sub' = odGet s j sub' := by
  unfold notify
  generalize s.sessions = l
  induction l generalizing s with
  | nil => exact ⟨s.sessions, s.sent, s.od, rfl, fun _ _ _ => rfl⟩
  | cons p l ih =>
    rw [List.foldl_cons]
    split
    · obtain ⟨se, st, h⟩ := notifyOne_only s p.1 p.2 b
      obtain ⟨a1, a2, a3, h1, h2⟩ := ih (notifyOne s p.1 p.2 b)
      rcases h with h | h
      · rw [h] at h1 h2 ⊢
        exact ⟨a1, a2, a3, h1, h2⟩
      · rw [h] at h1 h2 ⊢
        refine ⟨a1, a2, a3, ?_, ?_⟩
        · rw [h1]; rfl
        · intro j x hj; rw [h2 j x hj, odGet_bump_ne _ _ _ _ _ _ hj]; rfl
    · exact ih s

/-- An event of the log changes the log, sessions, what has been sent and the count of dropped notifications. -/
theorem logEvent_only (s : State) (cls sev unit place subplace symbol addr : Nat) (d : List Byte) :
    ∃ l ls n se st o, logEvent s cls sev unit place subplace symbol addr d =
        { s with log := l, logSaved := ls, logSeq := n, sessions := se, sent := st, od := o } ∧
      ∀ j sub', odKey j sub' ≠ odKey 0xA500 5 → odGet (logEvent s cls sev unit place subplace symbol addr d) j sub' = odGet s j sub' := by
  unfold logEvent
  obtain ⟨se, st, o, h1, h2⟩ := notify_only (logAppend s sev (logRecord s cls sev unit 0xFF place subplace symbol addr d)) cls 0xFF
    (eventEntry cls 0xFF s.logSeq s.bell.count d)
  exact ⟨_, _, _, se, st, o, h1, fun j x hj => h2 j x hj⟩

/-- An event of a croft changes that croft's record, the host's memory, the interrupts of a function, and what a notification changes. -/
theorem croftEvent_only (s : State) (c cls : Nat) (b : List Byte) :
    ∃ k h p se st o, croftEvent s c cls b = { s with crofts := k, host := h, pf1 := p, sessions := se, sent := st, od := o } ∧
      ∀ j sub', odKey j sub' ≠ odKey 0xA500 5 → odGet (croftEvent s c cls b) j sub' = odGet s j sub' := by
  unfold croftEvent
  split
  · exact ⟨_, _, _, _, _, _, rfl, fun _ _ _ => rfl⟩
  · rename_i k hk
    dsimp only
    have key : ∀ s1 : State, (∃ a b d, s1 = { s with crofts := a, host := b, pf1 := d }) → ∀ e,
        ∃ k h p se st o, notify s1 cls c e = { s with crofts := k, host := h, pf1 := p, sessions := se, sent := st, od := o } ∧
        ∀ j sub', odKey j sub' ≠ odKey 0xA500 5 → odGet (notify s1 cls c e) j sub' = odGet s j sub' := by
      rintro s1 ⟨a, b, d, rfl⟩ e
      obtain ⟨se, st, o, h1, h2⟩ := notify_only { s with crofts := a, host := b, pf1 := d } cls c e
      exact ⟨_, _, _, se, st, o, h1, fun j x hj => h2 j x hj⟩
    split
    · split
      · exact key _ ⟨_, _, _, rfl⟩ _
      · exact key _ ⟨_, _, _, rfl⟩ _
    · exact key _ ⟨_, _, _, rfl⟩ _

/-- A media or error event changes the log, and what an event of the log or of a croft changes. -/
theorem errorEvent_only (s : State) (c : Option Nat) (cls sev unit place subplace symbol addr : Nat) (d : List Byte) :
    ∃ l ls n k h p se st o, errorEvent s c cls sev unit place subplace symbol addr d =
        { s with log := l, logSaved := ls, logSeq := n, crofts := k, host := h, pf1 := p, sessions := se, sent := st, od := o } ∧
      ∀ j sub', odKey j sub' ≠ odKey 0xA500 5 → odGet (errorEvent s c cls sev unit place subplace symbol addr d) j sub' = odGet s j sub' := by
  unfold errorEvent
  split
  · obtain ⟨l, ls, n, se, st, o, h1, h2⟩ := logEvent_only s cls sev unit place subplace symbol addr d
    exact ⟨l, ls, n, _, _, _, se, st, o, h1, h2⟩
  · rename_i c
    obtain ⟨k, h, p, se, st, o, h1, h2⟩ := croftEvent_only (logAppend s sev (logRecord s cls sev unit c place subplace symbol addr d)) c cls d
    exact ⟨_, _, _, k, h, p, se, st, o, h1, fun j x hj => h2 j x hj⟩

/-! ### Tickets -/

/-- A ticket taken changes PF1's records and the fetch pointer of the ring's croft alone. -/
theorem takeTicket_only (s : State) (f ring : Nat) (d : Desc) :
    ∃ p k, (takeTicket s f ring d).2 = { s with pf1 := p, crofts := k } := by
  unfold takeTicket; dsimp only; split
  · exact ⟨s.pf1, s.crofts, rfl⟩
  · exact ⟨_, _, rfl⟩

end Sys2Proof.Machine
end

