-- ==== Sys2Proof/WellFormed.lean ====
section
/-! DEFINITION. Which command terms are spelled as their row is: the opcode, service or type the carried bytes hold is the row's, and every list and index has a length or range its place can hold. -/

namespace Sys2Proof

/-- One byte of a list as a number. -/
def listByte (l : List Byte) (i : Nat) : Nat := ((l[i]?).getD 0).toNat

/-- The opcode, service or type of a row beside the one the term's bits carry: engine opcodes (R130), work and admin descriptors (R312, R317, R221), NVMe commands (R320), dictionary services (R391) and frame types (R291). -/
def Instr.spelled : Instr → Option (Nat × Nat)
  | .nop _ _ _ w => some (0x0, byteOf w 0)
  | .signal _ _ _ w => some (0x1, byteOf w 0)
  | .gate _ _ _ w => some (0x2, byteOf w 0)
  | .step _ _ _ w => some (0x3, byteOf w 0)
  | .fetch _ _ w => some (0x10, byteOf w 0)
  | .ldsh _ _ w => some (0x20, byteOf w 0)
  | .swap _ _ w => some (0x21, byteOf w 0)
  | .mac _ _ w => some (0x22, byteOf w 0)
  | .tload _ _ w => some (0x23, byteOf w 0)
  | .preload _ _ w => some (0x24, byteOf w 0)
  | .tag _ _ w => some (0x25, byteOf w 0)
  | .vop _ _ w => some (0x30, byteOf w 0)
  | .vfn _ _ w => some (0x31, byteOf w 0)
  | .vred _ _ w => some (0x32, byteOf w 0)
  | .vcvt _ _ w => some (0x33, byteOf w 0)
  | .vupd _ _ w => some (0x34, byteOf w 0)
  | .select _ _ w => some (0x35, byteOf w 0)
  | .vpos _ _ w => some (0x36, byteOf w 0)
  | .psum _ _ w => some (0x37, byteOf w 0)
  | .drain _ _ w => some (0x40, byteOf w 0)
  | .wcvt _ _ w => some (0x41, byteOf w 0)
  | .store _ _ w => some (0x42, byteOf w 0)
  | .send _ _ w => some (0x43, byteOf w 0)
  | .reduce _ _ w => some (0x44, byteOf w 0)
  | .tally _ _ w => some (0x45, byteOf w 0)
  | .wpos _ _ w => some (0x46, byteOf w 0)
  | .openJob _ _ d => some (0x1, byteOf d 0)
  | .stepDescriptor _ _ d => some (0x2, byteOf d 0)
  | .request _ _ d => some (0x3, byteOf d 0)
  | .closeJob _ _ d => some (0x4, byteOf d 0)
  | .search _ _ d => some (0x5, byteOf d 0)
  | .setcreate _ _ d => some (0x6, byteOf d 0)
  | .compact _ _ d => some (0x7, byteOf d 0)
  | .write _ _ d => some (0x10, byteOf d 0)
  | .persist _ _ d => some (0x11, byteOf d 0)
  | .read _ _ d => some (0x12, byteOf d 0)
  | .truncate _ _ d => some (0x13, byteOf d 0)
  | .update _ _ d => some (0x14, byteOf d 0)
  | .copy _ _ d => some (0x15, byteOf d 0)
  | .commit _ _ d => some (0x18, byteOf d 0)
  | .discard _ _ d => some (0x19, byteOf d 0)
  | .snapshot _ _ d => some (0x1a, byteOf d 0)
  | .release _ _ d => some (0x1b, byteOf d 0)
  | .rollback _ _ d => some (0x1c, byteOf d 0)
  | .manifest _ _ d => some (0x1d, byteOf d 0)
  | .hold _ _ d => some (0x20, byteOf d 0)
  | .resume _ _ d => some (0x21, byteOf d 0)
  | .unhold _ _ d => some (0x22, byteOf d 0)
  | .secdealloc _ _ d => some (0x81, byteOf d 0)
  | .mkwr _ d => some (0x81, byteOf d 0)
  | .rmwr _ d => some (0x82, byteOf d 0)
  | .mkcr _ d => some (0x83, byteOf d 0)
  | .rmcr _ d => some (0x84, byteOf d 0)
  | .setev _ d => some (0x85, byteOf d 0)
  | .ldimg _ d => some (0x88, byteOf d 0)
  | .rmimg _ d => some (0x89, byteOf d 0)
  | .ldalm _ d => some (0x8a, byteOf d 0)
  | .mkbnd _ d => some (0x8b, byteOf d 0)
  | .rmbnd _ d => some (0x8c, byteOf d 0)
  | .exportSet _ d => some (0x8d, byteOf d 0)
  | .unexportSet _ d => some (0x8e, byteOf d 0)
  | .createIoSubmissionQueue _ e => some (0x1, byteOf e 0)
  | .deleteIoSubmissionQueue _ e => some (0x0, byteOf e 0)
  | .createIoCompletionQueue _ e => some (0x5, byteOf e 0)
  | .deleteIoCompletionQueue _ e => some (0x4, byteOf e 0)
  | .getLogPage _ e => some (0x2, byteOf e 0)
  | .identify _ e => some (0x6, byteOf e 0)
  | .abortCmd _ e => some (0x8, byteOf e 0)
  | .setFeatures _ e => some (0x9, byteOf e 0)
  | .getFeatures _ e => some (0xa, byteOf e 0)
  | .asynchronousEventRequest _ e => some (0xc, byteOf e 0)
  | .namespaceManagement _ e => some (0xd, byteOf e 0)
  | .namespaceAttachment _ e => some (0x15, byteOf e 0)
  | .firmwareCommit _ e => some (0x10, byteOf e 0)
  | .firmwareImageDownload _ e => some (0x11, byteOf e 0)
  | .formatNvm _ e => some (0x80, byteOf e 0)
  | .sanitize _ e => some (0x84, byteOf e 0)
  | .flush _ _ e => some (0x0, byteOf e 0)
  | .nvmeWrite _ _ e => some (0x1, byteOf e 0)
  | .nvmeRead _ _ e => some (0x2, byteOf e 0)
  | .compare _ _ e => some (0x5, byteOf e 0)
  | .writeZeroes _ _ e => some (0x8, byteOf e 0)
  | .datasetManagement _ _ e => some (0x9, byteOf e 0)
  | .verify _ _ e => some (0xc, byteOf e 0)
  | .secureDeallocation _ _ e => some (0x81, byteOf e 0)
  | .odOpen r => some (0x1, listByte r.pdu 1)
  | .odRead r => some (0x2, listByte r.pdu 1)
  | .odWrite r => some (0x3, listByte r.pdu 1)
  | .compareWrite r => some (0x4, listByte r.pdu 1)
  | .readSegment r => some (0x5, listByte r.pdu 1)
  | .writeSegment r => some (0x6, listByte r.pdu 1)
  | .subscribe r => some (0x7, listByte r.pdu 1)
  | .notifyAck r => some (0x9, listByte r.pdu 1)
  | .odClose r => some (0xa, listByte r.pdu 1)
  | .sendFrame _ frame => some (0x1, listByte frame 0)
  | .reductionPartial _ frame => some (0x2, listByte frame 0)
  | .reductionResult _ frame => some (0x3, listByte frame 0)
  | .stepEndFrame _ frame => some (0x4, listByte frame 0)
  | .listImageFrame _ frame => some (0x5, listByte frame 0)
  | .tpRead _ frame => some (0x6, listByte frame 0)
  | .tpData _ frame => some (0x7, listByte frame 0)
  | .tpWrite _ frame => some (0x8, listByte frame 0)
  | .tpWriteDone _ frame => some (0x9, listByte frame 0)
  | .groupCheck _ frame => some (0xa, listByte frame 0)
  | .cancel _ frame => some (0x10, listByte frame 0)
  | .creditReturn _ frame => some (0x11, listByte frame 0)
  | .bell _ frame => some (0x12, listByte frame 0)
  | .linkManagement _ frame => some (0x13, listByte frame 0)
  | _ => none

/-- Whether the lists, indexes and widths of a term lie in the ranges their places have: PDU of at least 24 bytes (R389), flits of 1,280 bytes (R283), frames of whole 32-byte units (R291), the 24 readings of a plant period (R417), packages of 12 x 3,455 blocks (R337), rings up to 0xFFFF (R307), register writes of 4 or 8 bytes (R307). -/
def Instr.inRange : Instr → Bool
  | .odOpen r => 24 ≤ r.pdu.length
  | .odRead r => 24 ≤ r.pdu.length
  | .odWrite r => 24 ≤ r.pdu.length
  | .compareWrite r => 24 ≤ r.pdu.length
  | .readSegment r => 24 ≤ r.pdu.length
  | .writeSegment r => 24 ≤ r.pdu.length
  | .subscribe r => 24 ≤ r.pdu.length
  | .notifyAck r => 24 ≤ r.pdu.length
  | .odClose r => 24 ≤ r.pdu.length
  | .flitReceive _ flit _ _ => flit.length = 1280
  | .frameForward _ frame => 64 ≤ frame.length && frame.length % 32 = 0
  | .sendFrame _ frame => 64 ≤ frame.length && frame.length % 32 = 0
  | .reductionPartial _ frame => 64 ≤ frame.length && frame.length % 32 = 0
  | .reductionResult _ frame => 64 ≤ frame.length && frame.length % 32 = 0
  | .stepEndFrame _ frame => 64 ≤ frame.length && frame.length % 32 = 0
  | .listImageFrame _ frame => 64 ≤ frame.length && frame.length % 32 = 0
  | .tpRead _ frame => 64 ≤ frame.length && frame.length % 32 = 0
  | .tpData _ frame => 64 ≤ frame.length && frame.length % 32 = 0
  | .tpWrite _ frame => 64 ≤ frame.length && frame.length % 32 = 0
  | .tpWriteDone _ frame => 64 ≤ frame.length && frame.length % 32 = 0
  | .groupCheck _ frame => 64 ≤ frame.length && frame.length % 32 = 0
  | .cancel _ frame => 64 ≤ frame.length && frame.length % 32 = 0
  | .creditReturn _ frame => 64 ≤ frame.length && frame.length % 32 = 0
  | .bell _ frame => 64 ≤ frame.length && frame.length % 32 = 0
  | .linkManagement _ frame => 64 ≤ frame.length && frame.length % 32 = 0
  | .plantLoop raw _ => raw.length = 24
  | .blockErase _ blk => blk < 41460
  | .disturbRefresh _ blk => blk < 41460
  | .retentionRefresh _ blk => blk < 41460
  | .programFail _ blk => blk < 41460
  | .eraseFail _ blk _ => blk < 41460
  | .suspectBlock _ blk => blk < 41460
  | .patrolRead _ blk _ _ => blk < 41460
  | .pageReadComplete _ blk _ _ => blk < 41460
  | .registerWrite _ _ width _ => width = 4 || width = 8
  | .openJob _ ring _ => ring < 0xFFFF
  | .interruptTimeThreshold _ (.completion n) => n ≤ 0xFFFF
  | _ => true

/-- Whether a term is well formed. -/
def Instr.wellFormed (i : Instr) : Bool :=
  (match i.spelled with
    | some p => p.1 == p.2
    | none => true) && i.inRange

end Sys2Proof
end

