-- ==== Sys2Proof/Tests/Slice0.lean ====
section
/-! SUPPORT. The model's own tests: ill-formed terms that the check refuses, and for the hypotheses of every statement a small state and operands that meet them together, clause by clause, at the ends of their ranges where they have any, and values from outside the model (the conversion samples of the spec, FIPS 197, FIPS 202, published check values). -/

set_option linter.all false
set_option maxRecDepth 20000
set_option exponentiation.threshold 40000

namespace Sys2Proof.Tests

set_option Elab.async false

open Sys2Proof Sys2Proof.Machine Sys2Proof.Claims

/-! ### Small states -/

/-- A module at full service, its PCIe link up. -/
def up : State := { State.reset with perst := false, linkUp := true, power := { powerReset with stage := 3 } }

/-- A number with the given values at the given byte places. -/
def bytesNum (l : List (Nat × Nat)) : Nat := (l.map (fun p => p.2 * 2 ^ (8 * p.1))).sum

/-- A 64-byte entry with the given values at the given byte places. -/
def desc (l : List (Nat × Nat)) : Desc := BitVec.ofNat 512 (bytesNum l)

/-- The same as bytes. -/
def bytesOf (n : Nat) (l : List (Nat × Nat)) : List Byte := leBytes n (bytesNum l)

/-- A work ring of 8 entries for croft 0 with two entries waiting, posting to completion ring `comp`. -/
def wring (comp : Nat) : WRing := ⟨8, 0x10000, 0, comp, 0, 2, false, [], none⟩

/-- An empty completion ring of 8 entries. -/
def cring : CRing := ⟨8, 0x20000, 1, 0, 0, 0, 0, 0, 0, false⟩

/-- PF1 with work ring 0, completion ring 0 and its admin rings. -/
def fn1 : Pf1 := { pf1Reset with en := true, wr := [(0, wring 0), (0xFFFF, { wring 0xFFFF with croft := 0xFF })], cr := [(0, cring), (0xFFFF, cring)] }

/-- An empty store with no copy of its table, so that no digest is computed. -/
def storeT : Store := { storeEmpty with tables := [] }

/-- Croft 0 with one engine, its work ring 0 the last that was served. -/
def croft0 : Croft := { croftNew 1 0 10 1 with descPtr := 1, store := storeT }

/-- A module at full service whose PF1 works for croft 0. -/
def work (k : Croft) : State := { up with pf1 := [(0, fn1)], crofts := [(0, k)] }

/-- Host memory with bytes at an address. -/
def withHost (s : State) (a : Nat) (b : List Byte) : State := { s with host := ⟨cellsOf 0 a b, [], []⟩ }

/-! ### A running step -/

/-- A program image's tables: one step, region (binding 0, every tier, read and write), fetch spec, output spec (FP32, rows of 128 bytes) and mask (virtual engine 0); semaphores 0 to 3 of virtual engine 0 are local to the queue of their number, 4 is of gate class. -/
def imgT : Memory := cellsOf 0 0 (bytesOf 272 [(16, 1), (18, 1), (20, 1), (22, 1), (24, 1), (32, 272), (40, 128), (48, 144), (56, 160), (64, 224), (72, 232), (80, 272),
  (132, 0x1F), (133, 3), (160, 1), (172, 128), (184, 32), (224, 1), (233, 5), (234, 10), (235, 15), (236, 0x10)])

/-- A step of kind `kind` that waits in its job or runs. -/
def qstep (kind : StepKind) (t : Option Ticket) : QStep := ⟨kind, t, 0, 1, 1, 0, 0, none, none, none, false, some 0, 0, false, []⟩

/-- The ticket of the work ring's first descriptor. -/
def tkt : Ticket := ⟨0, 0, 7, 1, false, 0, 1⟩

/-- A plain job. -/
def job1 : Job := ⟨1, 0, 0, 1, 1, none, 3, false, false, 0, 0, none, none, [], [], [], 0, 0, 2, [], [], none, false, none, []⟩

/-- A buffer of 4 sheaves in T0. -/
def buf : Binding := ⟨0, 3, 0, 0, 0, 4, 0, 0, 0, [], [], 4, [], ⟨[], false, 0, 0⟩⟩

/-- A virtual engine that runs on engine 0. -/
def ve0 : VEngine := { veStart with engine := some 0 }

/-- A running step of a job. -/
def run1 (q : QStep) (ves : FMap VEngine) : RunStep :=
  ⟨1, q, 0, 0, ⟨1, 1, 2, none, 0⟩, ves, false, false, [], [⟨0, 1, 4, true, false, false, false, 0, 0, 0, 0⟩], [], [], [], [], [], none, false, false, false, [], [], [],
   none, none, false, 0, [], 0⟩

/-- A croft with the image, one binding set and one job. -/
def croftT (j : Job) (r : Option RunStep) : Croft :=
  { croft0 with images := [(1, ⟨0, imgT, 272⟩)], bsets := [(1, ⟨0, 1, [buf]⟩)], jobs := [(1, j)], run := r }

/-- A croft that runs a program step on virtual engine 0 in the given state. -/
def croftR (ve : VEngine) : Croft := croftT job1 (some (run1 (qstep .program (some tkt)) [(0, ve)]))

/-- The environment of an instruction of virtual engine 0. -/
def envR (ve : VEngine) : EngEnv := ⟨croftR ve, run1 (qstep .program (some tkt)) [(0, ve)], job1, imgT, ve⟩

/-- The image whose step gives queue `q` of virtual engine 0 a stream of one word: the table entry at 272 + 12 q, the word at 3,344. -/
def imgW (q : Nat) (w : IWord) : Memory := imgT ++ cellsOf 0 (272 + 12 * q) (bytesOf 9 [(0, 192), (8, 1)]) ++ cellsOf 0 3344 (leBytes 16 w.toNat)

/-- A croft with that image. -/
def imaged (k : Croft) (q : Nat) (w : IWord) : Croft := { k with images := [(1, ⟨0, imgW q w, 3360⟩)] }

/-- The environment of that word. -/
def envW (ve : VEngine) (q : Nat) (w : IWord) : EngEnv :=
  ⟨imaged (croftR ve) q w, run1 (qstep .program (some tkt)) [(0, ve)], job1, imgW q w, ve⟩

/-- An instruction word with the given values at the given bit places. -/
def word (l : List (Nat × Nat)) : IWord := BitVec.ofNat 128 ((l.map (fun p => p.2 * 2 ^ p.1)).sum)

/-- Whether an operation on a virtual engine takes effect. -/
def takes (r : EngRes) : Bool := match r with
  | .done _ _ => true
  | _ => false

/-- Whether an instruction takes effect. -/
def takesWide (r : EngOut) : Bool := match r with
  | .done _ _ => true
  | _ => false

/-! ### Ill-formed terms are refused -/

theorem test_spelled_refuses : (Instr.nop 0 0 0 1).wellFormed = false ∧ (Instr.mac 0 0 0x21).wellFormed = false ∧
    (Instr.openJob 0 0 (desc [(0, 2)])).wellFormed = false ∧ (Instr.mkwr 0 (desc [(0, 0x82)])).wellFormed = false ∧
    (Instr.identify 0 (desc [(0, 2)])).wellFormed = false ∧ (Instr.flush 0 1 (desc [(0, 1)])).wellFormed = false ∧
    (Instr.odRead ⟨0, 0, pdu 3 0 0 0 0 0 0 0 0 []⟩).wellFormed = false ∧
    (Instr.cancel 0 (mkFrame 0x11 8 0 0 0 0 0 0 false [] [] [])).wellFormed = false := by decide +kernel

theorem test_spelled_admits : (Instr.nop 0 0 0 0).wellFormed = true ∧ (Instr.mac 0 0 0x22).wellFormed = true ∧
    (Instr.openJob 0 0 (desc [(0, 1)])).wellFormed = true ∧ (Instr.mkwr 0 (desc [(0, 0x81)])).wellFormed = true ∧
    (Instr.identify 0 (desc [(0, 6)])).wellFormed = true ∧ (Instr.flush 0 1 (desc [])).wellFormed = true ∧
    (Instr.odRead ⟨0, 0, pdu 2 0 0 0 0 0 0 0 0 []⟩).wellFormed = true ∧
    (Instr.cancel 0 (mkFrame 0x10 8 0 0 0 0 0 0 false [] [] [])).wellFormed = true := by decide +kernel

theorem test_ranges_refuse : (Instr.odRead ⟨0, 0, [1, 2]⟩).wellFormed = false ∧
    (Instr.flitReceive 0 (List.replicate 1279 0) true 0).wellFormed = false ∧
    (Instr.frameForward 0 (List.replicate 65 0)).wellFormed = false ∧ (Instr.frameForward 0 (List.replicate 32 0)).wellFormed = false ∧
    (Instr.sendFrame 0 (1 :: List.replicate 32 0)).wellFormed = false ∧ (Instr.plantLoop (List.replicate 23 0) 0).wellFormed = false ∧
    (Instr.blockErase 0 41460).wellFormed = false ∧ (Instr.registerWrite (.bar 0) 0 2 0).wellFormed = false ∧
    (Instr.openJob 0 0xFFFF (desc [(0, 1)])).wellFormed = false ∧
    (Instr.interruptTimeThreshold 0 (.completion 0x10000)).wellFormed = false := by decide +kernel

theorem test_ranges_admit : (Instr.flitReceive 0 (List.replicate 1280 0) true 0).wellFormed = true ∧
    (Instr.frameForward 0 (List.replicate 64 0)).wellFormed = true ∧ (Instr.plantLoop (List.replicate 24 0) 0).wellFormed = true ∧
    (Instr.blockErase 0 41459).wellFormed = true ∧ (Instr.registerWrite (.bar 0) 0 8 0).wellFormed = true ∧
    (Instr.openJob 0 0xFFFE (desc [(0, 1)])).wellFormed = true ∧
    (Instr.interruptTimeThreshold 0 (.completion 0xFFFF)).wellFormed = true := by decide +kernel

/-! ### The step -/

theorem witness_StepRunsTheFrontCommand : { up with pending := [Instr.arm] }.pending = [Instr.arm] ∧ up.pending = [] := ⟨rfl, rfl⟩

/-! ### Engine instructions -/

/-- An operation that takes effect gives a virtual engine and flags. -/
theorem takes_done {r : EngRes} (h : takes r = true) : ∃ ve fl, r = .done ve fl := by
  cases r <;> simp_all [takes]

/-- An instruction that takes effect gives a state and flags. -/
theorem takesWide_done {r : EngOut} (h : takesWide r = true) : ∃ t fl, r = .done t fl := by
  cases r <;> simp_all [takesWide]

/-- A module whose croft 0 runs that stream. -/
def workW (ve : VEngine) (q : Nat) (w : IWord) : State := work (imaged (croftR ve) q w)

/-- That queue `q` of virtual engine 0 takes a word and its operation neither waits nor faults. -/
abbrev IssuesAt (ve : VEngine) (q op : Nat) (w : IWord) (f : EngEnv → EngRes) : Prop :=
  Taken (workW ve q w) 0 0 q op w (envW ve q w) ∧ takes (f (waited (envW ve q w) w)) = true

/-- The same for an instruction that reaches beyond its virtual engine. -/
abbrev IssuesWideAt (ve : VEngine) (q op : Nat) (w : IWord) (f : EngEnv → EngOut) : Prop :=
  Taken (workW ve q w) 0 0 q op w (envW ve q w) ∧ takesWide (f (waited (envW ve q w) w)) = true

/-- A virtual engine with an INT8 array loaded and a chain open on it. -/
def veMac : VEngine := { ve0 with arrays := [(0, { arrayClear with actSide := { sideNone with mode := some 1, fmt := 7 } })]
                                  chains := [⟨5, 0, 0, 32, false, 0, some 1, [0], none, none, []⟩] }

theorem engEnv_ve0 (q : Nat) (w : IWord) : engEnv (workW ve0 q w) 0 0 = some (envW ve0 q w) := rfl

theorem engEnv_veMac (q : Nat) (w : IWord) : engEnv (workW veMac q w) 0 0 = some (envW veMac q w) := rfl

theorem witness_ArrayAndVectorInstructionsIssue :
    IssuesAt ve0 3 0 0 (fun e => .done e.ve noFlags) ∧
    IssuesAt ve0 1 0x20 (word [(0, 0x20), (53, 1), (56, 7)]) (fun e => doLdsh e.ve (word [(0, 0x20), (53, 1), (56, 7)])) ∧
    IssuesAt ve0 1 0x21 (word [(0, 0x21), (32, 7)]) (fun e => doSwap e.ve (word [(0, 0x21), (32, 7)])) ∧
    IssuesAt ve0 1 0x23 (word [(0, 0x23), (53, 255), (61, 1)]) (fun e => doTload e.ve (word [(0, 0x23), (53, 255), (61, 1)])) ∧
    IssuesAt ve0 1 0x24 (word [(0, 0x24), (53, 32)]) (fun e => doPreload e.ve (word [(0, 0x24), (53, 32)])) ∧
    IssuesAt ve0 1 0x25 (word [(0, 0x25), (64, 2 ^ 64 - 1)]) (fun e => doTag e.ve (word [(0, 0x25), (64, 2 ^ 64 - 1)])) ∧
    IssuesAt ve0 2 0x30 (word [(0, 0x30), (32, 0xA)]) (fun e => doVop e.ve (word [(0, 0x30), (32, 0xA)])) ∧
    IssuesAt ve0 2 0x31 (word [(0, 0x31), (32, 1)]) (fun e => doVfn e.ve (word [(0, 0x31), (32, 1)])) ∧
    IssuesAt ve0 2 0x32 (word [(0, 0x32), (70, 1)]) (fun e => doVred e.r.ctx e.ve (word [(0, 0x32), (70, 1)])) ∧
    IssuesAt ve0 2 0x34 (word [(0, 0x34), (51, 8), (69, 16)]) (fun e => doVupd e.r.ctx e.ve (word [(0, 0x34), (51, 8), (69, 16)])) ∧
    IssuesAt ve0 2 0x36 (word [(0, 0x36), (32, 2 ^ 44 - 1)]) (fun e => doVpos e.ve (word [(0, 0x36), (32, 2 ^ 44 - 1)])) ∧
    IssuesAt ve0 3 0x46 (word [(0, 0x46), (64, 2 ^ 32 - 1)]) (fun e => doWpos e.ve (word [(0, 0x46), (64, 2 ^ 32 - 1)])) := by
  and_intros <;> first | exact engEnv_ve0 _ _ | exact engEnv_veMac _ _ | decide +kernel

theorem witness_ArrayAndVectorInstructionsIssue_mac :
    Taken (workW veMac 1 (word [(0, 0x22), (35, 5), (47, 1), (79, 32), (123, 7)])) 0 0 1 0x22 (word [(0, 0x22), (35, 5), (47, 1), (79, 32), (123, 7)]) (envW veMac 1 (word [(0, 0x22), (35, 5), (47, 1), (79, 32), (123, 7)])) ∧
    takes (doMac (envW veMac 1 (word [(0, 0x22), (35, 5), (47, 1), (79, 32), (123, 7)])).r.ctx (waited (envW veMac 1 (word [(0, 0x22), (35, 5), (47, 1), (79, 32), (123, 7)])) (word [(0, 0x22), (35, 5), (47, 1), (79, 32), (123, 7)])).ve
      (word [(0, 0x22), (35, 5), (47, 1), (79, 32), (123, 7)])) = true := by
  and_intros <;> first | exact engEnv_ve0 _ _ | exact engEnv_veMac _ _ | decide +kernel

theorem witness_ArrayAndVectorInstructionsIssue_vcvt :
    Taken (workW ve0 2 (word [(0, 0x33), (50, 8)])) 0 0 2 0x33 (word [(0, 0x33), (50, 8)]) (envW ve0 2 (word [(0, 0x33), (50, 8)])) ∧
    fld (word [(0, 0x33), (50, 8)]) 88 81 < imgOspecs (envW ve0 2 (word [(0, 0x33), (50, 8)])).im ∧
    takes (doVcvt (envW ve0 2 (word [(0, 0x33), (50, 8)])).r.ctx (waited (envW ve0 2 (word [(0, 0x33), (50, 8)])) (word [(0, 0x33), (50, 8)])).ve (word [(0, 0x33), (50, 8)])
      (ospecAt (envW ve0 2 (word [(0, 0x33), (50, 8)])).im (fld (word [(0, 0x33), (50, 8)]) 88 81))) = true := by
  and_intros <;> first | exact engEnv_ve0 _ _ | exact engEnv_veMac _ _ | decide +kernel

theorem witness_SwapCopiesShadowToActive : Taken (workW ve0 1 (word [(0, 0x21), (32, 7)])) 0 0 1 0x21 (word [(0, 0x21), (32, 7)]) (envW ve0 1 (word [(0, 0x21), (32, 7)])) ∧
    anyInA (waited (envW ve0 1 (word [(0, 0x21), (32, 7)])) (word [(0, 0x21), (32, 7)])).ve
      (fun u => fld u 7 0 = 0x20 && fld u 52 50 = fld (word [(0, 0x21), (32, 7)]) 34 32) = false := by
  and_intros <;> first | exact engEnv_ve0 _ _ | exact engEnv_veMac _ _ | decide +kernel

theorem witness_SharedInstructionsIssue :
    IssuesWideAt ve0 3 1 (word [(0, 1), (38, 4)]) (doSignal (workW ve0 3 (word [(0, 1), (38, 4)])) 0 0 (word [(0, 1), (38, 4)])) ∧
    IssuesWideAt ve0 0 0x10 (word [(0, 0x10), (72, 3), (104, 1)]) (doFetch (workW ve0 0 (word [(0, 0x10), (72, 3), (104, 1)])) 0 0 (word [(0, 0x10), (72, 3), (104, 1)])) ∧
    IssuesWideAt ve0 2 0x35 (word [(0, 0x35), (50, 1)]) (doSelect (workW ve0 2 (word [(0, 0x35), (50, 1)])) 0 0 (word [(0, 0x35), (50, 1)])) ∧
    IssuesWideAt veMac 3 0x40 (word [(0, 0x40), (35, 5), (116, 32)]) (fun e => withSpec (workW veMac 3 (word [(0, 0x40), (35, 5), (116, 32)])) 0 0 e
      (fld (word [(0, 0x40), (35, 5), (116, 32)]) 79 72) (fun b ch => doDrain e.r.ctx e.ve (word [(0, 0x40), (35, 5), (116, 32)]) b ch)) ∧
    IssuesWideAt ve0 3 0x41 (word [(0, 0x41), (50, 1)]) (fun e => withSpec (workW ve0 3 (word [(0, 0x41), (50, 1)])) 0 0 e
      (fld (word [(0, 0x41), (50, 1)]) 107 100) (fun b ch => doWcvt e.r.ctx e.ve (word [(0, 0x41), (50, 1)]) b ch)) ∧
    IssuesWideAt ve0 3 0x42 (word [(0, 0x42), (64, 3), (96, 1)]) (doStore (workW ve0 3 (word [(0, 0x42), (64, 3), (96, 1)])) 0 0 (word [(0, 0x42), (64, 3), (96, 1)])) ∧
    IssuesWideAt ve0 3 0x43 (word [(0, 0x43), (83, 4), (88, 1)]) (doSend (workW ve0 3 (word [(0, 0x43), (83, 4), (88, 1)])) 0 0 (word [(0, 0x43), (83, 4), (88, 1)])) ∧
    IssuesWideAt ve0 3 0x44 (word [(0, 0x44), (102, 4)]) (doReduce (workW ve0 3 (word [(0, 0x44), (102, 4)])) 0 0 (word [(0, 0x44), (102, 4)])) ∧
    IssuesWideAt ve0 3 0x45 (word [(0, 0x45), (32, 1), (52, 1)]) (doTally (workW ve0 3 (word [(0, 0x45), (32, 1), (52, 1)])) 0 0 (word [(0, 0x45), (32, 1), (52, 1)])) := by
  and_intros <;> first | exact engEnv_ve0 _ _ | exact engEnv_veMac _ _ | decide +kernel

/-- A step that has the partial of mask 0's one participant. -/
def runP : RunStep := { run1 (qstep .program (some tkt)) [(0, ve0)] with parts := [(0, 0, 0)] }

/-- Its croft, with a PSUM next in its stream. -/
def croftP : Croft := imaged (croftT job1 (some runP)) 2 (word [(0, 0x37), (56, 1)])

/-- Its environment. -/
def envP : EngEnv := ⟨croftP, runP, job1, imgW 2 (word [(0, 0x37), (56, 1)]), ve0⟩

theorem witness_SharedInstructionsIssue_psum : Taken (work croftP) 0 0 2 0x37 (word [(0, 0x37), (56, 1)]) envP ∧
    takesWide (doPsumStep (work croftP) 0 0 (word [(0, 0x37), (56, 1)]) (waited envP (word [(0, 0x37), (56, 1)]))) = true := by
  and_intros <;> first | exact engEnv_ve0 _ _ | exact engEnv_veMac _ _ | exact rfl | decide +kernel

theorem witness_BarrierInstructionsIssue :
    (let w := word [(0, 2), (32, 0xFFFF), (48, 4), (53, 1), (54, 255), (62, 96)]
     Taken (workW ve0 3 w) 0 0 3 2 w (envW ve0 3 w) ∧ gLive w ≤ 96 ∧
       (gWaits w = true → gArrive w ≠ 0 ∧ declGate (semAt (envW ve0 3 w).im 0 (gSem w)) = true)) ∧
    Taken (workW ve0 3 (word [(0, 3), (32, 1)])) 0 0 3 3 (word [(0, 3), (32, 1)]) (envW ve0 3 (word [(0, 3), (32, 1)])) := by
  and_intros <;> first | exact engEnv_ve0 _ _ | exact engEnv_veMac _ _ | exact rfl | decide +kernel

/-- The conditions of a word that its queue comes to next and whose wait on its queue's own semaphore is not met. -/
abbrev Waits (q op : Nat) : Prop :=
  let w := word [(0, op), (8, 1), (9, q)]
  engEnv (workW ve0 q w) 0 0 = some (envW ve0 q w) ∧ queueOpen ve0 q w = true ∧ nextWord (envW ve0 q w) 0 q w = true ∧ rsvOk w = true ∧
    headerFault (envW ve0 q w).im 0 q w = none ∧ bitOf w 8 = true ∧ veSem ve0 (fld w 13 9) = 0 ∧ wop w = op

theorem witness_UnmetWaitStallsTheQueue : Waits 3 0 ∧ Waits 0 0 ∧ Waits 2 2 ∧ Waits 1 3 ∧ Waits 1 0x22 ∧ Waits 2 0x30 ∧ Waits 0 0x10 ∧ Waits 3 0x40 := by
  and_intros <;> first | exact engEnv_ve0 _ _ | exact engEnv_veMac _ _ | exact rfl | decide +kernel

theorem witness_UnmetWaitStallsTheQueue_other : engEnv (work (croftR ve0)) 0 0 = some (envR ve0) ∧
    ([0, 1, 2, 3].all (fun q => !nextWord (envR ve0) 0 q 0)) = true := by
  and_intros <;> first | exact engEnv_ve0 _ _ | exact engEnv_veMac _ _ | exact rfl | decide +kernel

/-! ### The life of a step -/

/-- A job with steps waiting. -/
def jobQ (l : List QStep) : Job := { job1 with steps := l }

/-- A search batch. -/
def srch : SearchReq := ⟨[], 0, [], 0, 0, false⟩

/-- The conditions of a step that is ready and may start. -/
abbrev Starts (q : QStep) : Prop :=
  let k := croftT (jobQ [q]) none
  croft? (work k) 0 = some k ∧ bestReady k = some (jobQ [q], q) ∧ croft? (takeCancels (work k) 0 1) 0 = some k ∧
    mayStart (takeCancels (work k) 0 1) k = true ∧ (work k).power.stage = 3 ∧ missed q (lateness (takeCancels (work k) 0 1) (jobQ [q]) q) = false

theorem witness_StepStartRunsTheBestReadyStep : Starts (qstep .program (some tkt)) ∧ Starts (qstep (.search srch) (some tkt)) ∧
    StepKind.search srch ≠ .program := by
  and_intros <;> first | exact rfl | decide +kernel

/-- A state at Bell count `n`. -/
def atCount (n : Nat) (s : State) : State := { s with bell := { bellStart with count := n } }

/-- A step of late policy 1 whose count 9 was reached at nanosecond 9. -/
def qLate : QStep := { qstep .program (some tkt) with launch := some (9, false, true), reached := some 9, ready := some 9 }

theorem witness_StepStartRunsTheBestReadyStep_missed :
    let k := croftT (jobQ [qLate]) none
    let s := atCount 10 (work k)
    croft? s 0 = some k ∧ bestReady k = some (jobQ [qLate], qLate) ∧ croft? (takeCancels s 0 1) 0 = some k ∧
      mayStart (takeCancels s 0 1) k = true ∧ s.power.stage = 3 ∧ missed qLate (lateness (takeCancels s 0 1) (jobQ [qLate]) qLate) = true := by
  and_intros <;> first | exact rfl | decide +kernel

/-- A running step of a kind with its reads and streams ended. -/
def runE (kind : StepKind) (ended : Bool) : RunStep :=
  { run1 (qstep kind (some tkt)) [(0, ve0)] with ended := ended, groups := [], contexts := [⟨0, none⟩, ⟨0, none⟩] }

/-- Its environment at its end, in a job without and in one with a group. -/
def envE (j : Job) : EngEnv := ⟨croftT j (some (runE .program true)), runE .program true, j, imgT, veStart⟩

/-- The conditions of the end of a program step. -/
abbrev Ends (j : Job) : Prop :=
  let s := work (croftT j (some (runE .program true)))
  powered s = true ∧ runOf s 0 = some ((envE j).k, (envE j).r) ∧ (envE j).r.step.kind = .program ∧ stepEnv s 0 = some (envE j) ∧
    (envE j).r.ended = true ∧ (envE j).r.orResult = none ∧ (envE j).r.orHeld = none ∧ mergeAll s 0 (envE j) = .ok []

theorem witness_BatchStepEndClosesAFinishedStep_program : Ends job1 ∧ job1.group = none := by
  and_intros <;> first | exact rfl | decide +kernel

theorem witness_BatchStepEndClosesAFinishedStep_group :
    let j := { job1 with group := some (bytesOf 128 [(0, 1), (4, 2)]) }
    Ends j ∧ j.group = some (bytesOf 128 [(0, 1), (4, 2)]) := by
  and_intros <;> first | exact rfl | decide +kernel

theorem witness_BatchStepEndClosesAFinishedStep_batches :
    (let r := runE (.search srch) false
     runOf (work (croftT job1 (some r))) 0 = some (croftT job1 (some r), r) ∧ r.contexts.all (fun x => x.waits = 0) = true ∧ r.step.ticket = some tkt) ∧
    (let r := runE (.compact 5 ⟨[], true, 0, 0⟩) false
     runOf (work (croftT job1 (some r))) 0 = some (croftT job1 (some r), r) ∧ r.contexts.all (fun x => x.waits = 0) = true) := by
  and_intros <;> first | exact rfl | decide +kernel

/-- A virtual engine with a VPOS in flight. -/
def veFly : VEngine := { ve0 with qV := { queueStart with inflight := [⟨word [(0, 0x36)], 0⟩], off := 1 } }

/-- Promotions of an empty segment's sheaves: one a fetch demands, one of Almanac record 0. -/
def promo : Promo := ⟨true, none, none, 1, false, 0, 31, none, 0, 0, 0, 1⟩
def promoB : Promo := { promo with demand := false, record := some 0, body := 30 }

/-- A croft with both under way. -/
def croftPr : Croft := { croft0 with promos := [promo, promoB] }

/-- A module with room in T1 for them. -/
def workPr : State := { work croftPr with od := [(odKey 0x4100 2, 2 ^ 34)] }

theorem witness_LimitsAndCompletionsOfARunningStep :
    (let r := { run1 (qstep .program (some tkt)) [(0, ve0)] with preempt := some 1 }
     powered (work (croftT job1 (some r))) = true ∧ runOf (work (croftT job1 (some r))) 0 = some (croftT job1 (some r), r) ∧
       stoppable r = true ∧ r.preempt.isSome = true) ∧
    (engEnv (work (croftR veFly)) 0 0 = some (envR veFly) ∧ (veQueue veFly 2).inflight[0]? = some ⟨word [(0, 0x36)], 0⟩ ∧
       wop (word [(0, 0x36)]) ≠ 0x22) ∧
    (croft? workPr 0 = some croftPr ∧ croftPr.promos[0]? = some promo ∧ promoServed workPr 0 croftPr 0 promo = true ∧
       promoSheaf workPr croftPr promo = some sheafZero) ∧
    (croftPr.promos[1]? = some promoB ∧ promoServed workPr 0 croftPr 1 promoB = false) := by
  and_intros <;> first | exact rfl | decide +kernel

/-- A step that waits for the Bell count 9, of either selector and policy. -/
def qWait (byJob strict : Bool) : QStep := { qstep .program (some tkt) with launch := some (9, byJob, strict), ready := none }

/-- A serving request. -/
def req1 (rows : Nat) : ServReq := ⟨rows, 4, 4, [0, 0, 0, 0], 0, 0, tkt⟩

/-- The state in which the head of job 1 has reached its count. -/
abbrev reachedState (q : QStep) : State :=
  let s := atCount 9 (work (croftT (jobQ [q]) none))
  markReady (modJob s 0 1 (fun j => { j with steps := j.steps.set 0 { q with reached := some (clock s), unsync := false } })) 0

theorem witness_LaunchCountsAndBatches :
    (let j := jobQ [qWait false false]
     let s := atCount 9 (work (croftT j none))
     powered s = true ∧ jobOf s 0 1 = some j ∧ waitingLaunch s j = some (0, qWait false false) ∧ (qWait false false).ticket = some tkt) ∧
    (let j := jobQ [qWait true true]
     let s := atCount 9 (work (croftT j none))
     jobOf s 0 1 = some j ∧ waitingLaunch s j = some (0, qWait true true) ∧ startsNow (reachedState (qWait true true)) 0 1 = true) ∧
    (let j := jobQ [qWait false true]
     let s := atCount 9 (work (croftT j none))
     jobOf s 0 1 = some j ∧ waitingLaunch s j = some (0, qWait false true) ∧ bellSound s = false) ∧
    (let j := jobQ [qWait false true]
     let s := atCount 8 (work (croftT j none))
     jobOf s 0 1 = some j ∧ waitingLaunch s j = none) ∧
    (let j := { job1 with kind := 1, reqs := [req1 1] }
     jobOf (work (croftT j none)) 0 1 = some j ∧ takeRows (blockRows (work (croftT j none)) 0) j.reqs = req1 1 :: []) ∧
    (let j := { job1 with kind := 1, reqs := [req1 65536] }
     jobOf (work (croftT j none)) 0 1 = some j ∧ takeRows (blockRows (work (croftT j none)) 0) j.reqs = []) := by
  and_intros <;> first | exact rfl | decide +kernel

/-! ### Activity ramps -/

/-- A powered module with array 7 of engine 63 in a ramp state. -/
def ramp (r : Ramp) : State := { up with ramps := [(511, r)], rampPtr := [(7, 63)] }

theorem witness_RampsOfArrays :
    powered (ramp .warm) = true ∧ rampOf (ramp .warm) 63 7 ≠ .wantsUp ∧ rampOf (ramp (.up 7)) 63 7 = .up 7 ∧
    rampOf (ramp (.up 0)) 63 7 = .up 0 ∧ rampOf (ramp (.ballast 7)) 63 7 = .ballast 7 ∧
    ((List.range 64).map (fun x => (mapGet (ramp .wantsUp).rampPtr 7 0 + x) % 64)).find?
      (fun x => rampOf (ramp .wantsUp) (8 * 7 + x / 8) (x % 8) = .wantsUp) = some 63 := by
  and_intros <;> decide +kernel

/-! ### Work descriptors -/

/-- The ticket and the state of a descriptor fetched at PF1's ring 0. -/
abbrev fet (s : State) (d : Desc) : State := fetched s 0 0 d

/-- Whether an either holds its first part. -/
def isInl {α β : Type} (x : α ⊕ β) : Bool := match x with
  | .inl _ => true
  | .inr _ => false

theorem witness_JobsOpenAndClose :
    (let k := croftT job1 none
     let s := work k
     let d := desc [(0, 1), (16, 1), (20, 1), (24, 7)]
     let r : OpenReq := ⟨bytesAt d 16 4, bytesAt d 20 4, byteOf d 24, byteOf d 25, bytesAt d 26 2, bytesAt d 32 8, none, bytesAt d 48 8, none, none⟩
     croft? (fet s d) 0 = some k ∧ Accepted s 0 0 d 1 3 0 ∧ byteOf d 24 ≤ 7 ∧ byteOf d 25 ≤ 31 ∧ byteOf d 25 / 2 % 2 = 0 ∧ descZero d 28 31 = true ∧
       descZero d 40 47 = true ∧ (byteOf d 25 / 4 % 2 = 0 → descZero d 48 55 = true) ∧ (byteOf d 25 / 16 % 2 = 0 → descZero d 56 63 = true) ∧
       flagRead (fet s d) (byteOf d 25 / 16 % 2 = 1) (bytesAt d 56 8) 544 = some none ∧ openRefusal (fet s d) k r = none ∧
       mapGet? k.images r.image = some ⟨0, imgT, 272⟩ ∧ mapGet? k.bsets r.bset = some ⟨0, 1, [buf]⟩ ∧
       (openTrain (fet s d) 0 imgT r).all trainOk = true) ∧
    (let k := croftT job1 none
     let s := work k
     let d := desc [(0, 4), (8, 1)]
     croft? (fet s d) 0 = some k ∧ Accepted s 0 0 d 4 3 0 ∧ descZero d 16 63 = true ∧ lookJob (fet s d) 0 d (fun x => x < 2) = .inl job1 ∧ job1.closing = none) := by
  and_intros <;> first | exact rfl | decide +kernel

theorem witness_StepsAndRequestsAreQueued :
    (let k := croftT job1 none
     let s := work k
     let d := desc [(0, 2), (8, 1)]
     croft? (fet s d) 0 = some k ∧ Accepted s 0 0 d 2 3 0 ∧ byteOf d 18 ≤ 7 ∧ descZero d 19 19 = true ∧ descZero d 48 63 = true ∧
       lookJob (fet s d) 0 d (fun x => x = 0) = .inl job1 ∧ mapGet? k.images job1.image = some ⟨0, imgT, 272⟩ ∧
       bytesAt d 16 2 < imgSteps imgT ∧ (stepOf d (ticketOf s 0 0 d)).launch = none) ∧
    (let j := { job1 with kind := 1 }
     let k := croftT j none
     let s := odPut (work k) 0x3000 6 2
     let d := desc [(0, 3), (8, 1), (16, 2), (20, 4), (24, 4)]
     croft? (fet s d) 0 = some k ∧ Accepted s 0 0 d 3 3 0 ∧ descZero d 18 19 = true ∧ descZero d 28 31 = true ∧ descZero d 48 63 = true ∧
       lookJob (fet s d) 0 d (fun x => x = 1) = .inl j ∧ bytesAt d 16 2 ≠ 0 ∧ bytesAt d 16 2 ≤ blockRows (fet s d) 0 ∧
       hostRead (fet s d) (bytesAt d 32 8) (bytesAt d 16 2 * bytesAt d 20 4) = some (List.replicate 8 0)) := by
  and_intros <;> first | exact rfl | decide +kernel

/-- A vector-set header: number 5, one chunk, 16 attribute bytes, inner product, BF16 records of 32 elements, 32 records. -/
def setB : List Byte := bytesOf 256 [(0, 0x53565744), (4, 1), (6, 5), (8, 1), (9, 1), (10, 1), (11, 2), (12, 32), (16, 32), (24, 1), (28, 2), (32, 3),
  (36, 4), (40, 5), (44, 6)]

/-- The segment of a set that holds nothing but its header, and its object. -/
def setSeg : Segment := ⟨0, 2, false, true, true, 9, 0, 1, [(0, ⟨0, cellsOf 0 0 setB, []⟩)]⟩
def setObj1 : Obj := ⟨[1], true, 4, 1⟩

/-- A croft whose committed epoch 3 and open state hold the set. -/
def croftS : Croft := { croft0 with store := { storeT with epoch := 3, epochs := [(3, [(9, setObj1)])], openState := [(9, setObj1)] } }

/-- A module with quotas of 4 MiB for croft 0 in the flash classes. -/
def store (k : Croft) : State :=
  { odPut (odPut (work k) 0x4100 3 4194304) 0x4100 4 4194304 with segs := [(1, setSeg)], nextSerial := 2 }

/-- A batch record: a scan of set 5 with tables, one query. -/
def batchB : List Byte := bytesOf 2704 [(0, 0x42515744), (4, 1), (6, 5), (9, 2), (10, 1), (12, 1), (32, epochLatest)]

theorem witness_VectorSetCommands_search :
    let s := withHost (store croftS) 0x1000 batchB
    let d := desc [(0, 5), (16, 0x1000), (24, 2704), (28, 4096)]
    let b := fillRecord (fet s d) 0 3 batchB
    let r : SearchReq := ⟨b, 3, [(9, setObj1)], bytesAt d 32 8, bytesAt d 28 4, false⟩
    croft? (fet s d) 0 = some croftS ∧ Accepted s 0 0 d 5 2 0 ∧ descZero d 40 63 = true ∧ hostRead (fet s d) (bytesAt d 16 8) (bytesAt d 24 4) = some batchB ∧
      s.power.stage = 3 ∧ qbTableOk batchB = true ∧ epochMap croftS.store (qbEpoch batchB) = some (3, [(9, setObj1)]) ∧
      batchSet (fet s d) r = some (setHdrOf setB, setSeg.sheaves, 4) ∧ qbLimitsOk b (setHdrOf setB) 4 false = true ∧ ownRoom croftS 2 = true ∧
      (predTerms ((setHdrOf setB).attr / 4) (sub b 128 272)).isSome = true ∧ batchOut b ≤ bytesAt d 28 4 := by
  and_intros <;> decide +kernel

theorem witness_VectorSetCommands_setcreate :
    let s := withHost (store croft0) 0x1000 setB
    let d := desc [(0, 6), (16, 9), (24, 0x1000)]
    let cb := List.replicate 1024 0
    let m0 : FMap Sheaf := [(0, ⟨0, cellsOf 0 0 setB, []⟩)]
    let m := (List.range ((cb.length + 32767) / 32768)).foldl (fun m n =>
      mapSet m ((setHdrOf setB).cbSh + n) ⟨0, cellsOf 0 0 (sub cb (32768 * n) 32768), []⟩) m0
    let o := newOp (fet s d) 0 (some (ticketOf s 0 0 d)) none 0 0
    croft? (fet s d) 0 = some croft0 ∧ Accepted s 0 0 d 6 3 0 ∧ descZero d 32 63 = true ∧ storeReadOnly (fet s d) croft0 = false ∧
      hostRead (fet s d) (bytesAt d 24 8) 256 = some setB ∧ objOf croft0.store.openState (bytesAt d 16 8) = none ∧ objRoom croft0.store (bytesAt d 16 8) = true ∧ setHdrOk setB = true ∧
      (setsOf (fet s d) croft0.store.openState).any (fun p => p.2 = (setHdrOf setB).number) = false ∧
      hostRead (fet s d) (bytesAt d 24 8 + 256) (32 * (setHdrOf setB).dims) = some cb ∧
      (rebuildSet o.2 0 (bytesAt d 16 8) o.1 ⟨[], true, 0, 0⟩ m 0).isSome = true := by
  and_intros <;> decide +kernel

theorem witness_VectorSetCommands_compact :
    let s := store croftS
    let d := desc [(0, 7), (16, 5)]
    croft? (fet s d) 0 = some croftS ∧ Accepted s 0 0 d 7 3 0 ∧ descZero d 18 63 = true ∧ storeReadOnly (fet s d) croftS = false ∧
      epochMap croftS.store epochLatest = some (3, [(9, setObj1)]) ∧ findSet (fet s d) [(9, setObj1)] (bytesAt d 16 2) = some (9, setObj1) ∧
      ownRoom croftS 3 = true ∧ (imgHdr (objImg (fet s d) setObj1)).nodes = false := by
  and_intros <;> decide +kernel

theorem witness_DroverEvents :
    let s := odPut (store croftS) 0x3580 1 74
    powered s = true ∧ s.power.stage = 3 ∧ croft? s 0 = some croftS ∧ epochMap croftS.store epochLatest = some (3, [(9, setObj1)]) ∧
      findSet s [(9, setObj1)] 5 = some (9, setObj1) ∧ odGet s 0x3580 1 ≠ 0 ∧
      odGet s 0x3580 1 * setObj1.hw < (setObj1.hw - setObj1.live) * 100 ∧ (imgHdr (objImg s setObj1)).nodes = false ∧
      compacting croftS 9 = false ∧ ownRoom croftS 3 = true ∧ storeReadOnly s croftS = false := by
  and_intros <;> decide +kernel

theorem witness_DroverEvents_reads :
    let r := { runE (.search srch) false with contexts := [⟨1, some 4095⟩, ⟨1, none⟩] }
    let s := work (croftT job1 (some r))
    runOf s 0 = some (croftT job1 (some r), r) ∧ r.contexts[0]? = some ⟨0 + 1, some 4095⟩ ∧ r.contexts[1]? = some ⟨1, none⟩ := by
  and_intros <;> first | exact rfl | decide +kernel

/-! ### The segment store -/

/-- A plain segment and its object under key 8. -/
def plainSeg : Segment := ⟨0, 2, false, false, false, 8, 0, 1, []⟩
def plainObj : Obj := ⟨[2, 2], false, 0, 0⟩

/-- A croft with a plain object 8, a set 9 and two retained epochs. -/
def croftD : Croft :=
  { croft0 with store := { storeT with epoch := 3, epochs := [(2, [(8, plainObj)]), (3, [(8, plainObj)])], openState := [(8, plainObj), (9, setObj1)] } }

/-- A module with that croft and its segments. -/
def storeD (k : Croft) : State := { store k with segs := [(1, setSeg), (2, plainSeg)], nextSerial := 3 }

theorem witness_OpenStateCommands_write :
    let s := storeD croftD
    let d := desc [(0, 0x10), (16, 8), (24, 2), (48, 1), (56, 2)]
    let o := newOp (fet s d) 0 (some (ticketOf s 0 0 d)) none 0 0
    ChangeAccepted s 0 0 d 0x10 (1 + 2 + 8 + 16 + 64) 8 0 croftD ∧ stRaw d = false ∧ stCount d ≠ 0 ∧ stCount d ≤ 64 ∧
      (hostRead (fet s d) (stAddr d) (stCount d * 1049600)).isSome = true ∧
      ((objOf croftD.store.openState (stKey d)).getD ⟨[], false, 0, 0⟩).isSet = false ∧
      stIndex d ≤ ((objOf croftD.store.openState (stKey d)).getD ⟨[], false, 0, 0⟩).segs.length ∧ stIndex d + stCount d ≤ 2 ^ 32 ∧
      objRoom croftD.store (stKey d) = true ∧
      (addSegments 0 (stClass d) o.1 (((List.range (stCount d)).map (writePart false
        ((hostRead (fet s d) (stAddr d) (stCount d * 1049600)).getD []))).zipIdx.map (fun p =>
          some (plainSegment 0 (stKey d) (stIndex d + p.2) (openEpoch croftD.store) p.1))) o.2).isSome = true := by
  and_intros <;> first | with_reducible rfl | decide +kernel

/-- The same croft with a binding set and a running step. -/
def croftB : Croft := { croftD with bsets := [(1, ⟨0, 1, [buf]⟩)], run := some (run1 (qstep .program (some tkt)) []) }

theorem witness_OpenStateCommands_persist :
    let s := storeD croftB
    let d := desc [(0, 0x11), (16, 7), (48, 4), (52, 256), (56, 3)]
    let o := newOp (fet s d) 0 (some (ticketOf s 0 0 d)) none 0 0
    ChangeAccepted s 0 0 d 0x11 (1 + 2 + 16 + 32 + 64) 0 0 croftB ∧ persistBinding croftB d = some buf ∧ stCount d ≠ 0 ∧ buf.kind = 0 ∧
      stIndex d % 32 = 0 ∧ objOf croftB.store.openState (stKey d) = none ∧ stIndex d + stCount d ≤ buf.count ∧
      stIndex d / 32 + persistPlaces (stCount d) ≤ 2 ^ 32 ∧ objRoom croftB.store (stKey d) = true ∧ croftB.run.isSome = true ∧
      (placeNews 0 (stClass d) ((List.range (persistPlaces (stCount d))).map (fun x =>
        persistBlank 0 (stKey d) (stIndex d / 32 + x) (openEpoch croftB.store))) o.2).isSome = true := by
  and_intros <;> first | with_reducible rfl | decide +kernel

/-- One update entry: the record of ID 77 goes. -/
def updB : List Byte := bytesOf 32 [(0, 2), (8, 77)]

theorem witness_OpenStateCommands_update :
    let s := withHost (storeD croftD) 0x1000 updB
    let d := desc [(0, 0x14), (16, 9), (40, 0x1000), (48, 32)]
    let img := objImg (fet s d) setObj1
    let es : List UEntry := [⟨2, 77, []⟩]
    let r := es.foldl (applyEntry (imgHdr img)) ⟨img, setObj1.hw, none, 0, 0, false⟩
    let p := newOp (fet s d) 0 (some (ticketOf s 0 0 d)) none r.inserts (r.first.getD 0)
    ChangeAccepted s 0 0 d 0x14 (1 + 8 + 16) 0 0 croftD ∧ hostRead (fet s d) (stAddr d) (stCount d) = some updB ∧
      objOf croftD.store.openState (stKey d) = some setObj1 ∧ setObj1.isSet = true ∧
      parseEntries (imgHdr img) (updB.length + 1) setObj1.hw updB = some es ∧ r.full = false ∧
      (rebuildSet p.2 0 (stKey d) p.1 setObj1 r.img r.hw).isSome = true := by
  and_intros <;> first | with_reducible rfl | decide +kernel

theorem witness_OpenStateCommands_copy_truncate :
    (let d := desc [(0, 0x15), (16, 8), (32, 2)]
     ChangeAccepted (storeD croftD) 0 0 d 0x15 (1 + 4) 0 0 croftD ∧ epochMap croftD.store (stEpoch d) = some (2, [(8, plainObj)]) ∧
       (objOf [(8, plainObj)] (stKey d) = none ∨ objRoom croftD.store (stKey d) = true)) ∧
    (let d := desc [(0, 0x13), (16, 9)]
     ChangeAccepted (storeD croftD) 0 0 d 0x13 (1 + 2) 0 0 croftD ∧ objOf croftD.store.openState (stKey d) = some setObj1 ∧ stIndex d = 0) ∧
    (let d := desc [(0, 0x13), (16, 8), (24, 2)]
     ChangeAccepted (storeD croftD) 0 0 d 0x13 (1 + 2) 0 0 croftD ∧ objOf croftD.store.openState (stKey d) = some plainObj ∧
       0 < stIndex d ∧ stIndex d ≤ plainObj.segs.length ∧ plainObj.isSet = false) := by
  and_intros <;> first | with_reducible rfl | decide +kernel

theorem witness_ReadsOfAnEpoch_read :
    let s := storeD croftD
    let d := desc [(0, 0x12), (16, 8), (24, 62), (32, 2), (48, 2)]
    let segs := [(2, plainSeg)]
    StoreAccepted s 0 0 d 0x12 2 (1 + 2 + 4 + 8 + 16) 8 0 croftD ∧ epochMap croftD.store (stEpoch d) = some (2, [(8, plainObj)]) ∧ stCount d ≠ 0 ∧
      objOf [(8, plainObj)] (stKey d) = some plainObj ∧ stRaw d = false ∧ stIndex d + stCount d ≤ 32 * plainObj.segs.length ∧
      segsAt (fet s d) 0 (stKey d) plainObj (stIndex d / 32) ((stIndex d + stCount d + 31) / 32 - stIndex d / 32) = some segs ∧
      segs.any (fun g => segConflict (fet s d) g.1) = false ∧ (readSheaves segs (stIndex d) (stCount d)).any (·.isNone) = false ∧
      hostWritable (fet s d) (stAddr d) (stCount d * 32768) = true := by
  and_intros <;> first | with_reducible rfl | decide +kernel

theorem witness_ReadsOfAnEpoch_raw_and_manifest :
    (let s := storeD croftD
     let d := desc [(0, 0x12), (16, 8), (24, 1), (32, epochLatest), (48, 1), (57, 8)]
     StoreAccepted s 0 0 d 0x12 2 (1 + 2 + 4 + 8 + 16) 8 0 croftD ∧ epochMap croftD.store (stEpoch d) = some (3, [(8, plainObj)]) ∧
       stRaw d = true ∧ stIndex d + stCount d ≤ plainObj.segs.length ∧
       segsAt (fet s d) 0 (stKey d) plainObj (stIndex d) (stCount d) = some [(2, plainSeg)] ∧
       hostWritable (fet s d) (stAddr d) (stCount d * 1049728) = true) ∧
    (let s := storeD croftD
     let d := desc [(0, 0x1D), (24, 7), (32, 3), (48, 1)]
     StoreAccepted s 0 0 d 0x1D 2 (2 + 4 + 8 + 16) 0 0 croftD ∧ epochMap croftD.store (stEpoch d) = some (3, [(8, plainObj)]) ∧
       hostWritable (fet s d) (stAddr d) (16 * ((([(8, plainObj)] : FMap Obj).filter (fun p => stIndex d < p.1)).take (stCount d)).length) = true) := by
  and_intros <;> first | with_reducible rfl | decide +kernel

/-- A commit with nothing outstanding. -/
def commit1 : Commit := ⟨[(8, plainObj)], false, [], none, [], [], 0, none⟩

theorem witness_CommitsAndTheOpenState :
    StoreAccepted (storeD croftD) 0 0 (desc [(0, 0x18), (57, 1)]) 0x18 3 0 1 0 croftD ∧
    (let d := desc [(0, 0x1C), (32, 2), (57, 2)]
     ChangeAccepted (storeD croftD) 0 0 d 0x1C 4 2 0 croftD ∧ epochMap croftD.store (stEpoch d) = some (2, [(8, plainObj)]) ∧ (openEmpty croftD.store = true ∨ stFlags d = 2)) ∧
    ChangeAccepted (storeD croftD) 0 0 (desc [(0, 0x19)]) 0x19 0 0 0 croftD ∧
    (let k := { croftD with store := { croftD.store with commits := [commit1] } }
     let s := storeD k
     croft? s 0 = some k ∧ k.store.commits = [commit1] ∧ commit1.covered.any (fun n => s.ops.any (fun o => o.id = n)) = false ∧
       storeReadOnly s k = false ∧ s.power.stage = 3 ∧ poisonedNew s commit1.frozen k.store.epochs = none) := by
  and_intros <;> first | with_reducible rfl | decide +kernel

/-- A croft that holds epoch 2 under a record. -/
def croftH : Croft := { croftD with store := { croftD.store with holds := [(2, [1])] } }

theorem witness_RetainedEpochs_marks :
    (let d := desc [(0, 0x1A), (32, 2)]
     ChangeAccepted (storeD croftD) 0 0 d 0x1A 4 0 0 croftD ∧ epochMap croftD.store (stEpoch d) = some (2, [(8, plainObj)]) ∧
       (croftD.store.snaps.contains 2 = true ∨ (mapGet? croftD.store.holds 2).isSome = true ∨ epochRoom croftD = true)) ∧
    (let d := desc [(0, 0x1B), (32, 2)]
     ChangeAccepted (storeD croftD) 0 0 d 0x1B 4 0 0 croftD ∧ epochMap croftD.store (stEpoch d) = some (2, [(8, plainObj)]) ∧
       2 ≠ croftD.store.epoch ∧ mapGet? croftD.store.holds 2 = none) ∧
    (let d := desc [(0, 0x22), (32, 2)]
     ChangeAccepted (storeD croftH) 0 0 d 0x22 4 0 0 croftH ∧ epochMap croftH.store (stEpoch d) = some (2, [(8, plainObj)]) ∧
       mapGet? croftH.store.holds 2 = some [1]) := by
  and_intros <;> first | with_reducible rfl | decide +kernel

/-- The croft with a program job to hold. -/
def croftJ : Croft := { croftD with jobs := [(1, job1)] }

theorem witness_RetainedEpochs_hold :
    let s := withHost (storeD croftJ) 0x1000 (leBytes 8 8)
    let d := desc [(0, 0x20), (16, 7), (24, 1), (32, epochLatest), (40, 0x1000), (48, 1), (57, 4)]
    let keys := (List.range (stCount d)).map (fun x => leAt (leBytes 8 8) (8 * x) 8)
    StoreAccepted s 0 0 d 0x20 3 (1 + 2 + 4 + 8 + 16) 4 0 croftJ ∧ stCount d ≠ 0 ∧ stCount d ≤ 16 ∧
      hostRead (fet s d) (stAddr d) (8 * stCount d) = some (leBytes 8 8) ∧ mapGet? croftJ.jobs (stIndex d) = some job1 ∧ job1.faulted = false ∧
      job1.kind ≤ 1 ∧ (objOf croftJ.store.openState (stKey d)).any (·.isSet) = false ∧ ascending keys = true ∧
      keys.all (fun x => (objOf croftJ.store.openState x).isSome) = true ∧ objRoom croftJ.store (stKey d) = true ∧
      croftJ.store.holds.length + pendingHolds croftJ - (if job1.holdReq.isSome then 1 else 0) < 64 ∧
      (job1.holdReq.isSome = true ∨ epochRoom croftJ = true) ∧ job1.group = none ∧
      stEpoch d = epochLatest ∧ croftJ.run = none := by
  and_intros <;> first | with_reducible rfl | decide +kernel

/-- A secure deallocation whose blocks are done. -/
def deal : Dealloc := ⟨4, true, false, false, 0, 0, 8, 1, [], 0, 0, 0, 0, [2], none, none, none, false, 0⟩

theorem witness_SecureDeallocationOfSegments :
    (let s := storeD croftD
     let d := desc [(0, 0x81), (16, 8), (48, 2), (57, 1)]
     Accepted s 0 0 d 0x81 3 0 ∧ croft? (fet s d) 0 = some croftD ∧ stFieldsOk d (1 + 2 + 8 + 16) 1 = true ∧ storeReadOnly (fet s d) croftD = false ∧
       objsOfKey croftD (stKey d) ≠ [] ∧ hostWritable (fet s d) (stAddr d) 64 = true ∧
       croftD.store.persists.any (fun w => w.serials.any
         (((objsOfKey croftD (stKey d)).flatMap (objSerials (stIndex d) (stCount d))).foldl setIns []).contains) = false) ∧
    (let k := { croftD with store := { croftD.store with persists := [⟨1, [2], 1, 0, 0, 1⟩] } }
     let s := storeD k
     let d := desc [(0, 0x81), (16, 8), (48, 2), (57, 1)]
     Accepted s 0 0 d 0x81 3 0 ∧ croft? (fet s d) 0 = some k ∧ stFieldsOk d (1 + 2 + 8 + 16) 1 = true ∧ storeReadOnly (fet s d) k = false ∧
       objsOfKey k (stKey d) ≠ [] ∧ hostWritable (fet s d) (stAddr d) 64 = true ∧
       k.store.persists.any (fun w => w.serials.any
         (((objsOfKey k (stKey d)).flatMap (objSerials (stIndex d) (stCount d))).foldl setIns []).contains) = true) ∧
    (let s := { up with deallocs := [deal] }
     powered s = true ∧ s.deallocs.find? (fun y => y.seq = 4) = some deal) := by
  and_intros <;> first | with_reducible rfl | decide +kernel

/-- A resume block: a header for image 1 and binding set 1 at priority 7, and an unsigned hold record of level 2 with weight key 6 and state key 8; its two digests come from a SHAKE256 of its own (not the model's). -/
def resumeB : List Byte := bytesOf 656 [(0, 0x70000000100000001),
  (128, 0x8000000000000000000000000000100000002000152485744),
  (192, 0x74202f29acd278480f0cd4f42d422a0915ab46ebce40c0f85c047d3016a86710000000000000000000000000000000000000031f000000000000000000000000),
  (256, 0xc2bb6780c61e35ceba8d432a76ad879d1dbe4d6e0cbb40c47d322063efbb94f3),
  (320, 0x60000000000000000),
  (448, 0x90b0338ac4493557651648b8a7596ddaa53975345637db40a5f6886c65fbedae4164624d52b0179d000000000000000000000000000000000000000000000000),
  (512, 0x76c4197c7bb3b00c035c402486ba8bfabb09918de8cfab2)]

/-- A croft with the image, a binding set and an epoch that holds the weight and the state. -/
def croftM : Croft := { croftT job1 none with store := { storeT with epochs := [(0, [(6, ⟨[], false, 0, 0⟩), (8, plainObj)])] } }

theorem witness_RetainedEpochs_resume :
    let s := withHost (storeD croftM) 0x1000 resumeB
    let d := desc [(0, 0x21), (40, 0x1000)]
    let h := sub resumeB 0 128
    let b := sub resumeB 128 528
    let m : FMap Obj := [(6, ⟨[], false, 0, 0⟩), (8, plainObj)]
    let st := stateBytes (fet s d) plainObj
    StoreAccepted s 0 0 d 0x21 3 (4 + 8) 0 0 croftM ∧ hostRead (fet s d) (stAddr d) 656 = some resumeB ∧ leAt h 9 1 / 16 % 2 = 0 ∧ leAt h 24 8 = 0 ∧
      holdRecOk b = true ∧ holdSigned (fet s d) b = true ∧ resumeHdrOk h = true ∧ levelAllowed (fet s d) 0 (leAt b 6 2) = true ∧
      mapGet? croftM.images (leAt h 0 4) = some ⟨0, imgT, 272⟩ ∧ mapGet? croftM.bsets (leAt h 4 4) = some ⟨0, 1, [buf]⟩ ∧
      epochMap croftM.store (stEpoch d) = some (0, m) ∧ imageDigest ⟨0, imgT, 272⟩ = sub b 32 64 ∧
      weightDigest (fet s d) m ((List.range (leAt b 10 2)).map (fun n => leAt b (200 + 8 * n) 8)) = some (sub b 96 64) ∧
      objOf m (leAt b 24 8) = some plainObj ∧ groupAgrees b none = true ∧
      (let r : OpenReq := ⟨leAt h 0 4, leAt h 4 4, leAt h 8 1, leAt h 9 1, leAt h 10 2, leAt b 160 8,
         if leAt b 9 1 / 2 % 2 = 1 then some (sub st 0 64) else none, leAt h 16 8, none,
         some ⟨leAt b 6 2, leAt st 64 8,
           (List.range 2048).filterMap (fun n => if leAt st (128 + n) 1 = 0 then none else some (n, leAt st (128 + n) 1)),
           leAt b 176 8, 0, m⟩⟩
       openRefusal (fet s d) croftM r = none ∧ (openTrain (fet s d) 0 imgT r).all trainOk = true) := by
  and_intros <;> decide +kernel

/-! ### Admin commands, doorbells, registers, resets -/

/-- The state after an admin descriptor of PF1 is fetched. -/
abbrev fetA (s : State) (d : Desc) : State := fetched s 0 adminRing d

theorem witness_AdminRingCommands :
    (let s := work croft0
     let d := desc [(0, 0x81), (16, 1023), (20, 65536), (24, 0x1000)]
     AdminAccepted s 0 d 0x81 18 2 ∧ ringSizeOk (bytesAt d 20 4) = true ∧ bytesAt d 24 8 % 4096 = 0 ∧ descZero d 18 19 = true ∧
       bytesAt d 16 2 < ringCount 0 ∧ mapGet? (pf1Of (fetA s d) 0).wr (bytesAt d 16 2) = none ∧ bytesAt d 32 2 < ringCount 0 ∧
       (mapGet? (pf1Of (fetA s d) 0).cr (bytesAt d 32 2)).isSome = true) ∧
    (let s := work croft0
     let d := desc [(0, 0x82)]
     AdminAccepted s 0 d 0x82 2 2 ∧ bytesAt d 16 2 ≠ adminRing ∧ mapGet? (pf1Of (fetA s d) 0).wr (bytesAt d 16 2) = some (wring 0) ∧
       (wring 0).removing = none) ∧
    (let s := work croft0
     let d := desc [(0, 0x83), (16, 1023), (20, 16), (24, 0x1000), (32, 2047)]
     AdminAccepted s 0 d 0x83 20 2 ∧ ringSizeOk (bytesAt d 20 4) = true ∧ bytesAt d 24 8 % 4096 = 0 ∧ descZero d 18 19 = true ∧
       bytesAt d 16 2 < ringCount 0 ∧ mapGet? (pf1Of (fetA s d) 0).cr (bytesAt d 16 2) = none ∧ bytesAt d 32 2 < vectorCount 0) := by
  and_intros <;> decide +kernel

/-- PF1 with a completion ring that no work ring posts to. -/
def fnIdle : Pf1 := { fn1 with cr := [(0, cring), (1, cring), (0xFFFF, cring)] }

theorem witness_AdminRingCommands_rmcr_setev :
    (let s := { work croft0 with pf1 := [(0, fnIdle)] }
     let d := desc [(0, 0x84), (16, 1)]
     AdminAccepted s 0 d 0x84 2 2 ∧ bytesAt d 16 2 ≠ adminRing ∧ (mapGet? (pf1Of (fetA s d) 0).cr (bytesAt d 16 2)).isSome = true ∧
       (pf1Of (fetA s d) 0).wr.any (fun w => w.2.comp = bytesAt d 16 2) = false) ∧
    (let s := work croft0
     let d := desc [(0, 0x85)]
     AdminAccepted s 0 d 0x85 18 2 ∧ croft? (fetA s d) (adCroft d) = some croft0 ∧ bytesAt d 16 4 = 0 ∧ descZero d 20 23 = true) ∧
    (let s := work croft0
     let d := desc [(0, 0x85), (16, 65536), (24, 0x1000), (32, 2047)]
     AdminAccepted s 0 d 0x85 18 2 ∧ croft? (fetA s d) (adCroft d) = some croft0 ∧ ringSizeOk (bytesAt d 16 4) = true ∧ bytesAt d 24 8 % 4096 = 0 ∧
       descZero d 20 23 = true ∧ bytesAt d 32 2 < vectorCount 0) := by
  and_intros <;> decide +kernel

/-- The test image with one sheaf asked of region 0. -/
def imgA : Image := ⟨0, memPutL 0 imgT 136 [1], 272⟩

/-- An Almanac for the test image: one layer, one record of one sheaf of region 0 to T1. -/
def almB : List Byte := bytesOf 144 [(0, 0x4C415744), (4, 1), (6, 1), (8, 1), (13, 1), (24, leNat (memGetL 0 imgA.bytes 88 64)), (136, 1)]

/-- A croft with an image and a binding set and no job. -/
def croftA : Croft := { croft0 with images := [(1, imgA)], bsets := [(1, ⟨0, 1, [buf]⟩)] }

theorem witness_AdminObjectCommands_images :
    (let s := work croftA
     let d := desc [(0, 0x89), (16, 1)]
     AdminAccepted s 0 d 0x89 4 2 ∧ croft? (fetA s d) (adCroft d) = some croftA ∧ (mapGet? croftA.images (bytesAt d 16 4)).isSome = true ∧
       imageInUse croftA (bytesAt d 16 4) = false ∧ croftA.alm.any (fun a => a.image = bytesAt d 16 4) = false) ∧
    (let d := desc [(0, 0x8A), (24, 144), (32, 1)]
     AdminAccepted (work (croftR ve0)) 0 d 0x8A 20 3 ∧ croft? (fetA (work (croftR ve0)) d) (adCroft d) = some (croftR ve0) ∧ (croftR ve0).run.isSome = true) := by
  and_intros <;> decide +kernel

theorem witness_AdminObjectCommands_almanac_and_bindings :
    (let s := withHost (odPut (work croftA) 0x4100 2 (2 ^ 36)) 0x1000 almB
     let d := desc [(0, 0x8A), (16, 0x1000), (24, 144), (32, 1)]
     AdminAccepted s 0 d 0x8A 20 3 ∧ croft? (fetA s d) (adCroft d) = some croftA ∧ croftA.run = none ∧ mapGet? croftA.images (bytesAt d 32 4) = some imgA ∧
       hostRead (fetA s d) (bytesAt d 16 8) (bytesAt d 24 8) = some almB ∧ almReason (fetA s d) (adCroft d) croftA imgA almB = none) ∧
    (let b := bytesOf 64 [(1, 3), (2, 1), (8, 1)]
     let s := withHost (odPut (work croftA) 0x4100 2 (2 ^ 36)) 0x1000 b
     let d := desc [(0, 0x8B), (16, 0x1000), (24, 1)]
     croft? (fetA s d) (adCroft d) = some croftA ∧ AdminAccepted s 0 d 0x8B 12 2 ∧ bytesAt d 24 4 ≠ 0 ∧ bytesAt d 24 4 ≤ 256 ∧
       hostRead (fetA s d) (bytesAt d 16 8) (64 * bytesAt d 24 4) = some b ∧
       isInl (bindAll 0 s.nextHandle ((List.range (bytesAt d 24 4)).map (fun n => sub b (64 * n) 64))
         (putCroft { fetA s d with nextHandle := (fetA s d).nextHandle + 1 } 0
           { croftA with bsets := mapSet croftA.bsets s.nextHandle ⟨0, s.nextHandle, []⟩ })) = false) ∧
    (let s := work croftA
     let d := desc [(0, 0x8C), (16, 1)]
     croft? (fetA s d) (adCroft d) = some croftA ∧ AdminAccepted s 0 d 0x8C 4 2 ∧ (mapGet? croftA.bsets (bytesAt d 16 4)).isSome = true ∧ bsetInUse croftA (bytesAt d 16 4) = false ∧
       s.exports.any (fun p => p.2.croft = 0 && p.2.bset = bytesAt d 16 4) = false) := by
  and_intros <;> decide +kernel

/-- An export of croft 0's binding. -/
def exp0 : PeerExport := ⟨0, 0, 1, 0, true, [(4, 0)], []⟩

theorem witness_AdminObjectCommands_exports :
    (let s := work croftA
     let d := desc [(0, 0x8D), (16, 1), (24, 255), (25, 1), (28, 2 ^ 240 - 1)]
     croft? (fetA s d) (adCroft d) = some croftA ∧ AdminAccepted s 0 d 0x8D 42 2 ∧ mapGet? croftA.bsets (bytesAt d 16 4) = some ⟨0, 1, [buf]⟩ ∧
       (([buf] : List Binding)[bytesAt d 20 4]?).any (fun x => x.kind = 0) = true ∧ byteOf d 25 ≤ 1 ∧
       (byteOf d 25 = 1 → (exportPeers d).length = 1) ∧ mapGet? s.exports (byteOf d 24) = none) ∧
    (let s := { work croftA with exports := [(255, exp0)] }
     let d := desc [(0, 0x8E), (16, 255)]
     croft? (fetA s d) (adCroft d) = some croftA ∧ AdminAccepted s 0 d 0x8E 1 2 ∧ mapGet? s.exports (byteOf d 16) = some exp0 ∧ exp0.croft = adCroft d ∧ exp0.bound = []) := by
  and_intros <;> decide +kernel

theorem witness_DoorbellsMoveRings :
    pcieUp (work croft0) = true ∧ (pf1Of (work croft0) 0).en = true ∧ mapGet? (pf1Of (work croft0) 0).wr 0 = some (wring 0) ∧
    fld (7 : W32) 15 0 < (wring 0).size ∧ (wring 0).size ≤ fld (8 : W32) 15 0 ∧
    mapGet? (pf1Of (work croft0) 0).cr 0xFFFF = some cring ∧ fld (7 : W32) 15 0 < cring.size ∧ cring.size ≤ fld (8 : W32) 15 0 ∧
    (let e : ERing := ⟨0, 16, 0x3000, 2, 0, 0, false⟩
     let k := { croft0 with ering := some e }
     croft? (work k) 0 = some k ∧ k.ering = some e ∧ e.fn = 0 ∧ fld (15 : W32) 15 0 < e.size ∧ e.size ≤ fld (16 : W32) 15 0) := by
  and_intros <;> decide +kernel

theorem witness_FunctionsStartAndReset :
    (let p := { pf1Reset with aqa := 0x000F000F, awq := 0x1000, acq := 0x2000 }
     let s := { up with pf1 := [(32, p)] }
     pcieUp s = true ∧ (pf1Of s 32).en = false ∧ (pf1Of s 32).fatal = false ∧ (adminRings (pf1Of s 32)).isSome = true) ∧
    (pcieUp (work croft0) = true ∧ (pf1Of (work croft0) 0).en = true) := by
  and_intros <;> decide +kernel

theorem witness_RegisterWritesTakeEffect :
    pcieUp up = true ∧ 2047 < vectorCount 0 ∧ (1 : W64).toNat % 2 = 1 ∧
    (pf1Of { up with pf1 := [(0, { fn1 with masked := [2047] })] } 0).masked.contains 2047 = true ∧
    alive State.reset = true ∧ 0xFC < 0x100 ∧ 0xFC % 4 = 0 := by
  and_intros <;> decide +kernel

theorem witness_TimeThresholdSignalsTheRing :
    let r := { cring with timeTh := 1, unsignalled := 1 }
    let s := { up with pf1 := [(0, { fn1 with cr := [(0, r)] }), (1, { fn1 with cr := [(0, r)], masked := [1] })] }
    pcieUp s = true ∧ mapGet? (pf1Of s 0).cr 0 = some r ∧ r.timeTh ≠ 0 ∧ r.unsignalled ≠ 0 ∧ (pf1Of s 0).masked.contains r.vector = false ∧
      mapGet? (pf1Of s 1).cr 0 = some r ∧ (pf1Of s 1).masked.contains r.vector = true := by
  and_intros <;> decide +kernel

/-! ### NVMe commands -/

/-- A ready controller with its admin queues, I/O queues 1, and a completion queue 2 that nothing posts to. -/
def ctl : Nvme := { nvmeReset with
  en := true, rdy := true, sq := [(0, ⟨16, 0x8000, 0, 0⟩), (1, ⟨16, 0x9000, 1, 0⟩)]
  cq := [(0, ⟨16, 0xA000, 0, 0, true⟩), (1, ⟨16, 0xB000, 0, 1, true⟩), (2, ⟨16, 0xC000, 0, 1, true⟩)] }

/-- A namespace of 8 sectors attached to controller 0. -/
def ns1 : Namespace := ⟨8, some 0, 1, 0xFF, [], [2], []⟩

/-- A module at full service with that controller and namespace. -/
def nvm : State := { up with nvme := [(0, ctl)], namespaces := [(1, ns1), (256, { ns1 with ctrl := none })] }

/-- Whether a fetch of data succeeds, and its bytes. -/
def isOk {ε α : Type} (x : Except ε α) : Bool := match x with
  | .ok _ => true
  | .error _ => false
def bytesIn (s : State) (e : Desc) (n : Nat) : List Byte := match dataIn s e n with
  | .ok b => b
  | .error _ => []

/-- Whether a delivery of so many bytes can be made. -/
def delivers (s : State) (e : Desc) (n : Nat) : Bool := match prpPieces s e n with
  | .ok l => l.all (fun p => hostWritable s p.1 p.2)
  | .error _ => false

theorem delivers_iff {s : State} {e : Desc} {n : Nat} (h : delivers s e n = true) : ∃ l, Delivers s e n l := by
  unfold delivers at h
  split at h
  · exact ⟨_, by assumption, h⟩
  · cases h

theorem isOk_ok {ε α : Type} {x : Except ε α} (h : isOk x = true) : ∃ a, x = .ok a := by
  cases x <;> simp_all [isOk]

theorem witness_NvmeControllersStartAndReset :
    pcieUp { up with nvme := [(32, nvmeReset)] } = true ∧ (nvmeOf { up with nvme := [(32, nvmeReset)] } 32).en = false ∧
    pcieUp nvm = true ∧ (nvmeOf nvm 0).en = true := by
  and_intros <;> decide +kernel

theorem witness_NvmeQueueCommands :
    (let e := desc [(0, 5), (24, 0x1000), (40, 128), (42, 1), (44, 1), (46, 128)]
     NvmeAccepted nvm 0 0 e 0x05 ∧ queueBad (mapGet? (nvmeOf (taken nvm 0 0 e) 0).cq (qId e)).isSome 0 e = 0 ∧ cdw e 11 / 65536 < nvmeVectors 0) ∧
    (let e := desc [(0, 1), (24, 0x1000), (40, 128), (42, 1), (44, 1), (46, 2)]
     NvmeAccepted nvm 0 0 e 0x01 ∧ queueBad (mapGet? (nvmeOf (taken nvm 0 0 e) 0).sq (qId e)).isSome 0 e = 0 ∧ cdw e 11 / 65536 ≠ 0 ∧
       (mapGet? (nvmeOf (taken nvm 0 0 e) 0).cq (cdw e 11 / 65536)).isSome = true) ∧
    (let e := desc [(0, 0), (40, 1)]
     NvmeAccepted nvm 0 0 e 0x00 ∧ qId e ≠ 0 ∧ (mapGet? (nvmeOf (taken nvm 0 0 e) 0).sq (qId e)).isSome = true) ∧
    (let e := desc [(0, 4), (40, 2)]
     NvmeAccepted nvm 0 0 e 0x04 ∧ qId e ≠ 0 ∧ (mapGet? (nvmeOf (taken nvm 0 0 e) 0).cq (qId e)).isSome = true ∧
       (nvmeOf (taken nvm 0 0 e) 0).sq.any (fun p => p.2.cq = qId e) = false) := by
  and_intros <;> decide +kernel

theorem witness_NvmeInformationCommands_pages :
    (let e := desc [(0, 2), (24, 0x1000), (40, 2), (42, 1)]
     let s1 := logRead (taken nvm 0 0 e) 0 2
     NvmeAccepted nvm 0 0 e 0x02 ∧ (logPage (taken nvm 0 0 e) 0 (cdw e 10 % 256)).isSome = true ∧ cdw e 10 / 2 ^ 15 % 2 = 0 ∧ cdw e 10 % 256 = 2 ∧
       delivers s1 e 8 = true ∧ 4 * (cdw e 10 / 65536 % 4096 + 1) = 8) ∧
    (let e := desc [(0, 6), (4, 1), (24, 0x1000)]
     NvmeAccepted nvm 0 0 e 0x06 ∧ isOk (identifyData (taken nvm 0 0 e) 0 e) = true ∧ delivers (taken nvm 0 0 e) e 4096 = true) := by
  and_intros <;> decide +kernel

theorem witness_NvmeInformationCommands_rest :
    (let s := { nvm with nvme := [(0, { ctl with aers := [9] })] }
     let e := desc [(0, 8), (42, 9)]
     NvmeAccepted s 0 0 e 0x08 ∧ (nvmeOf (taken s 0 0 e) 0).aers.contains (cdw e 10 / 65536) = true ∧ qId e = 0) ∧
    (let e := desc [(0, 9), (40, 1), (44, 7)]
     NvmeAccepted nvm 0 0 e 0x09 ∧ featureBad (cdw e 10 % 256) (cdw e 11) = 0 ∧ cdw e 10 / 2 ^ 31 = 0 ∧ cdw e 10 % 256 ≠ 7) ∧
    (let e := desc [(0, 10), (40, 11)]
     NvmeAccepted nvm 0 0 e 0x0A ∧ features.contains (cdw e 10 % 256) = true ∧ cdw e 10 / 256 % 8 = 0) ∧
    (let s := { nvm with nvme := [(0, { ctl with aens := [5] })] }
     NvmeAccepted s 0 0 (desc [(0, 12)]) 0x0C ∧ (nvmeOf (taken s 0 0 (desc [(0, 12)])) 0).aens = 5 :: []) ∧
    (let s := { nvm with nvme := [(0, { ctl with aers := [1, 2, 3, 4, 5, 6, 7] })] }
     NvmeAccepted s 0 0 (desc [(0, 12)]) 0x0C ∧ (nvmeOf (taken s 0 0 (desc [(0, 12)])) 0).aens = [] ∧
       (nvmeOf (taken s 0 0 (desc [(0, 12)])) 0).aers.length < 8) := by
  and_intros <;> decide +kernel

theorem witness_NvmeManagementCommands_namespaces :
    (let e := desc [(0, 0x0D), (24, 0x1000)]
     let s := withHost nvm 0x1000 (bytesOf 16 [(0, 1), (8, 1)])
     let b := bytesIn (taken s 0 0 e) e 4096
     NvmeAccepted s 0 0 e 0x0D ∧ cdw e 10 % 16 = 0 ∧ cdw e 11 / 2 ^ 24 = 0 ∧ isOk (dataIn (taken s 0 0 e) e 4096) = true ∧ leAt b 0 8 ≠ 0 ∧
       leAt b 29 1 = 0 ∧ leAt b 30 1 % 2 = 0 ∧ leAt b 8 8 = leAt b 0 8 ∧ leAt b 26 1 = 0 ∧
       poolUsed (taken s 0 0 e) + 4096 * leAt b 0 8 ≤ userPool ∧ freeNsid (taken s 0 0 e) = some 2) ∧
    (let e := desc [(0, 0x0D), (4, 256), (40, 1)]
     NvmeAccepted nvm 0 0 e 0x0D ∧ cdw e 10 % 16 = 1 ∧ 1 ≤ sqNsid e ∧ sqNsid e ≤ 256 ∧ (nsOf (taken nvm 0 0 e) (sqNsid e)).isSome = true) ∧
    (let e := desc [(0, 0x15), (4, 256), (24, 0x1000)]
     let s := withHost nvm 0x1000 (bytesOf 4 [(0, 1), (2, 32)])
     NvmeAccepted s 0 0 e 0x15 ∧ 1 ≤ sqNsid e ∧ sqNsid e ≤ 256 ∧ nsOf (taken s 0 0 e) (sqNsid e) = some { ns1 with ctrl := none } ∧
       isOk (dataIn (taken s 0 0 e) e 4096) = true ∧ cdw e 10 % 16 = 0 ∧ ctrlsNamed (bytesIn (taken s 0 0 e) e 4096) = .ok [32]) ∧
    (let e := desc [(0, 0x15), (4, 1), (24, 0x1000), (40, 1)]
     let s := withHost nvm 0x1000 (bytesOf 4 [(0, 1), (2, 0)])
     NvmeAccepted s 0 0 e 0x15 ∧ 1 ≤ sqNsid e ∧ sqNsid e ≤ 256 ∧ nsOf (taken s 0 0 e) (sqNsid e) = some ns1 ∧
       isOk (dataIn (taken s 0 0 e) e 4096) = true ∧ cdw e 10 % 16 = 1 ∧ ctrlsNamed (bytesIn (taken s 0 0 e) e 4096) = .ok [0] ∧
       ([0] : List Nat).all (fun m => ns1.ctrl = some m) = true) := by
  and_intros <;> decide +kernel

theorem witness_NvmeManagementCommands_firmware :
    (let e := desc [(0, 0x11), (24, 0x1000), (40, 1023), (44, 2096128)]
     NvmeAccepted nvm 0 0 e 0x11 ∧ 4 * (cdw e 10 + 1) % 4096 = 0 ∧ 4 * cdw e 11 % 4096 = 0 ∧ 4 * cdw e 11 + 4 * (cdw e 10 + 1) ≤ 8388608 ∧
       4 * (cdw e 10 + 1) ≤ 262144 ∧ isOk (dataIn (taken nvm 0 0 e) e 4096) = true) ∧
    (let e := desc [(0, 0x10), (40, 17)]
     let S := taken nvm 0 0 e
     NvmeAccepted nvm 0 0 e 0x10 ∧ S.sec.commit = none ∧ cdw e 10 % 8 = 1 ∧ cdw e 10 / 8 % 8 = 2 ∧ slotSound S 1 = true ∧
       (slotOf S 1).activation ≠ none) := by
  and_intros <;> decide +kernel

theorem witness_FormatAndSanitize :
    (∀ ses : Fin 3, let e := desc [(0, 0x80), (4, 256), (41, 2 * ses.val)]
     NvmeAccepted nvm 0 0 e 0x80 ∧ 1 ≤ sqNsid e ∧ sqNsid e ≤ 256 ∧ nsOf (taken nvm 0 0 e) (sqNsid e) = some { ns1 with ctrl := none } ∧
       cdw e 10 % 16 = 0 ∧ cdw e 10 / 16 % 32 = 0 ∧ (taken nvm 0 0 e).mediaReadOnly = false ∧ cdw e 10 / 512 % 8 = ses.val) ∧
    (∀ a : Fin 3, let e := desc [(0, 0x84), (40, 2 ^ a.val)]
     NvmeAccepted nvm 0 0 e 0x84 ∧ (taken nvm 0 0 e).sanitize.running = false ∧ cdw e 10 / 512 % 2 = 0 ∧ cdw e 10 % 8 = 2 ^ a.val ∧
       (taken nvm 0 0 e).mediaReadOnly = false) := by
  and_intros <;> decide +kernel

theorem witness_NvmeReadsOfSectors :
    (NvmeAccepted nvm 0 1 (desc [(0, 0), (4, 0xFFFFFFFF)]) 0x00 ∧ sqNsid (desc [(0, 0), (4, 0xFFFFFFFF)]) = 0xFFFFFFFF) ∧
    nsNamed (taken nvm 0 1 (desc [(0, 0), (4, 1)])) 0 (sqNsid (desc [(0, 0), (4, 1)])) = .ok ns1 ∧
    (let e := desc [(0, 2), (4, 1), (24, 0x1000), (40, 7)]
     let s := taken nvm 0 1 e
     (ioSectors e).find? (sectorBad s (sqNsid e)) = none ∧ NvmeAccepted nvm 0 1 e 0x02 ∧ ioRange s 0 e maxBlocks = .ok ns1 ∧
       delivers (countRead512 (nvmeCount s 0 0x0C (4096 * (ioSectors e).length)) 0 (ioSectors e).length) e 4096 = true) ∧
    (let e := desc [(0, 5), (4, 1), (24, 0x1000), (40, 7)]
     let s := taken nvm 0 1 e
     (ioSectors e).find? (sectorBad s (sqNsid e)) = none ∧ NvmeAccepted nvm 0 1 e 0x05 ∧ ioRange s 0 e maxBlocks = .ok ns1 ∧
       bytesIn s e 4096 = (ioSectors e).flatMap (sectorBytes s (sqNsid e)) ∧ isOk (dataIn s e (4096 * (ioSectors e).length)) = true) ∧
    (let e := desc [(0, 5), (4, 1), (24, 0x1000), (40, 7)]
     let s := withHost nvm 0x1000 [1]
     let S := taken s 0 1 e
     (ioSectors e).find? (sectorBad S (sqNsid e)) = none ∧ NvmeAccepted s 0 1 e 0x05 ∧ ioRange S 0 e maxBlocks = .ok ns1 ∧
       (bytesIn S e 4096).headD 0 ≠ ((ioSectors e).flatMap (sectorBytes S (sqNsid e))).headD 0 ∧
       isOk (dataIn S e (4096 * (ioSectors e).length)) = true) ∧
    (let e := desc [(0, 12), (4, 1), (40, 0), (48, 7)]
     let s := taken nvm 0 1 e
     (ioSectors e).find? (sectorBad s (sqNsid e)) = none ∧ NvmeAccepted nvm 0 1 e 0x0C ∧ ioRange s 0 e 65536 = .ok ns1) := by
  and_intros <;> decide +kernel

theorem witness_NvmeChangesOfSectors :
    (let e := desc [(0, 1), (4, 1), (24, 0x1000), (40, 7)]
     let s := taken nvm 0 1 e
     s.mediaReadOnly = false ∧ NvmeAccepted nvm 0 1 e 0x01 ∧ ioRange s 0 e maxBlocks = .ok ns1 ∧ isOk (dataIn s e (4096 * ioBlocks e)) = true) ∧
    (∀ deac : Fin 2, let e := desc [(0, 8), (4, 1), (48, 7 + 2 ^ 25 * deac.val)]
     NvmeAccepted nvm 0 1 e 0x08 ∧ ioRange (taken nvm 0 1 e) 0 e 65536 = .ok ns1 ∧ cdw e 12 / 2 ^ 25 % 2 = deac.val) ∧
    (let e := desc [(0, 9), (4, 1), (24, 0x1000), (44, 4)]
     let s := withHost nvm 0x1000 (bytesOf 16 [(4, 8)])
     NvmeAccepted s 0 1 e 0x09 ∧ nsNamed (taken s 0 1 e) 0 (sqNsid e) = .ok ns1 ∧ isOk (dataIn (taken s 0 1 e) e (16 * (cdw e 10 % 256 + 1))) = true ∧
       rangesOk ns1 (dsmRanges (bytesIn (taken s 0 1 e) e (16 * (cdw e 10 % 256 + 1))) (cdw e 10 % 256 + 1)) = true ∧ cdw e 11 / 4 % 2 = 1) ∧
    (let e := desc [(0, 0x81), (4, 1), (24, 0x1000), (40, 256)]
     let s := withHost nvm 0x1000 (bytesOf 16 [(4, 8)])
     NvmeAccepted s 0 1 e 0x81 ∧ nsNamed (taken s 0 1 e) 0 (sqNsid e) = .ok ns1 ∧ isOk (dataIn (taken s 0 1 e) e (16 * (cdw e 10 % 256 + 1))) = true ∧
       rangesOk ns1 (dsmRanges (bytesIn (taken s 0 1 e) e (16 * (cdw e 10 % 256 + 1))) (cdw e 10 % 256 + 1)) = true ∧ cdw e 10 < 512 ∧
       (List.range 5).any (fun x => cdw e (11 + x) ≠ 0) = false) := by
  and_intros <;> decide +kernel

/-! ### The object dictionary -/

/-- An open session of source 7 on transport 2 whose last request had counter 4. -/
def sess : Session := ⟨2, 7, 100, 4, 0, [1, 2], false, 0, 0, 0, 0, [], 0, none, [], [9], 0⟩

/-- A module at full service with that session under number 16. -/
def dict : State := { up with sessions := [(16, sess)] }

/-- A request of the session: service, alive counter, index, subindex, type, offset, data. -/
def req (svc alive ix sb ty off : Nat) (data : List Byte) : OdReq := ⟨2, 7, pdu svc 0 0 16 alive ix sb ty off data⟩

/-- The bytes an entry's fetch gives. -/
def fetchedBytes (s : State) (r : OdReq) (e : OdEntry) : List Byte := (odFetch s (rqSession r.pdu) e (rqIndex r.pdu) (rqSub r.pdu)).2.1

/-- The entries the witnesses use: a 32-bit saved scalar, a string, the valve curve. -/
def entS : OdEntry := (odFind 0x3580 3).getD (odRo 0 0 0 0 0 0)
def entB : OdEntry := (odFind 0x1000 3).getD (odRo 0 0 0 0 0 0)
def entD : OdEntry := (odFind 0x7200 1).getD (odRo 0 0 0 0 0 0)

theorem witness_SessionsOpenAndClose :
    (let r : OdReq := ⟨0, 7, pdu 1 0 0 0 0 0 0 0 0 (leBytes 4 60000)⟩
     OdHeard up r 1 ∧ periodOk (leNat (rqData r.pdu)) = true ∧ sessionNumber (bump (odDrainAll up) 0xA500 1 1) = some 1) ∧
    OdTaken dict (req 10 5 0 0 0 0 []) 10 sess := by
  and_intros <;> decide +kernel

theorem witness_DictionaryReads :
    (let r := req 2 5 0x3580 3 0 0 []
     OdTaken dict r 2 sess ∧ readBar (rqIndex r.pdu) (rqSub r.pdu) = 0 ∧ odEntry r = some entS ∧ odIsBytes entS.ty = false ∧
       (odFetch (odAccepted dict r sess) (rqSession r.pdu) entS (rqIndex r.pdu) (rqSub r.pdu)).1 = 0) ∧
    (let r := req 2 5 0x1000 3 0 0 []
     OdTaken dict r 2 sess ∧ odEntry r = some entB ∧ odIsBytes entB.ty = true ∧
       0 < (fetchedBytes (odAccepted dict r sess) r entB).length) ∧
    (let r := req 5 5 0x1000 3 0 0 []
     OdTaken dict r 5 sess ∧ readBar (rqIndex r.pdu) (rqSub r.pdu) = 0 ∧ odEntry r = some entB ∧ odIsBytes entB.ty = true ∧
       (odFetch (odAccepted dict r sess) (rqSession r.pdu) entB (rqIndex r.pdu) (rqSub r.pdu)).1 = 0 ∧
       frozenValue (odAccepted dict r sess) (rqSession r.pdu) (rqKey r.pdu) (rqOffset r.pdu) = none ∧
       rqOffset r.pdu < (fetchedBytes (odAccepted dict r sess) r entB).length) := by
  and_intros <;> decide +kernel

theorem witness_DictionaryWrites :
    (let r := req 3 5 0x3580 3 4 0 (leBytes 4 1048576)
     OdTaken dict r 3 sess ∧ odEntry r = some entS ∧ writeBar (odAccepted dict r sess) (rqSession r.pdu) 2 (rqIndex r.pdu) (rqSub r.pdu) = 0 ∧
       valueBar (odAccepted dict r sess) entS (rqIndex r.pdu) (rqSub r.pdu) (rqType r.pdu) (rqData r.pdu) = 0) ∧
    (let r := req 4 5 0x3580 3 4 0 (leBytes 4 1024 ++ leBytes 4 1)
     OdTaken dict r 4 sess ∧ odEntry r = some entS ∧ writeBar (odAccepted dict r sess) (rqSession r.pdu) 2 (rqIndex r.pdu) (rqSub r.pdu) = 0 ∧
       entS.acc ≠ 1 ∧ odIsBytes entS.ty = false ∧ rqType r.pdu = entS.ty ∧ (rqData r.pdu).length = 2 * odTyLen entS.ty ∧
       (rqData r.pdu).take (odTyLen entS.ty) = leBytes (odTyLen entS.ty) (odScalar (odAccepted dict r sess) (rqSession r.pdu) (rqIndex r.pdu) (rqSub r.pdu)) ∧
       valueBar (odAccepted dict r sess) entS (rqIndex r.pdu) (rqSub r.pdu) (rqType r.pdu) ((rqData r.pdu).drop (odTyLen entS.ty)) = 0) ∧
    (let r := req 6 5 0x7200 1 0x0C 20 [1, 2]
     OdTaken dict r 6 sess ∧ odEntry r = some entD ∧ writeBar (odAccepted dict r sess) (rqSession r.pdu) 2 (rqIndex r.pdu) (rqSub r.pdu) = 0 ∧
       segmentBar (odAccepted dict r sess) (rqSession r.pdu) r.pdu entD = 0 ∧ rqFlags r.pdu % 2 = 0) := by
  and_intros <;> decide +kernel

/-- A session with one notification resent four times. -/
def sessN : Session := { sess with unacked := [⟨65535, [], 4⟩] }

theorem witness_Notifications :
    OdTaken dict (req 7 5 0 0 0 0 (leBytes 8 1)) 7 sess ∧ OdSession dict (req 9 5 0 0 0 0 []) 9 sess ∧
    (let s := { up with sessions := [(16, sessN)] }
     alive s = true ∧ s.reeveUp = true ∧ mapGet? s.sessions ((15 : Fin 16).val + 1) = some sessN ∧
       sessN.unacked.find? (fun y => y.seq = (65535 : W16).toNat) = some ⟨65535, [], 4⟩ ∧ (⟨65535, [], 4⟩ : Notify).resends < 5) := by
  and_intros <;> decide +kernel

theorem witness_DictionaryEvents :
    alive dict = true ∧ dict.reeveUp = true ∧ mapGet? dict.sessions ((15 : Fin 16).val + 1) = some sess ∧ sess.period ≠ 0 ∧ odUp dict = true ∧
    dict.dictConflict = false ∧ dict.crofts = [] := by
  and_intros <;> decide +kernel

/-- A repeat of the last request, with the session that holds its check. -/
def again : OdReq := req 3 4 0x3580 3 4 0 (leBytes 4 1)
def sessR : Session := { sess with check := rqCheck again.pdu }

theorem witness_AliveCounterGuardsASession :
    (let s := { up with sessions := [(16, sessR)] }
     s.odWaiting = [] ∧ OdSession s again 3 sessR ∧ rqAlive again.pdu ≠ (sessR.counter + 1) % 65536 ∧ rqAlive again.pdu = sessR.counter ∧
       rqCheck again.pdu = sessR.check ∧ sessR.inProgress = false) ∧
    (let r := req 3 6 0x3580 3 4 0 (leBytes 4 1)
     OdSession dict r 3 sess ∧ rqAlive r.pdu ≠ (sess.counter + 1) % 65536 ∧ rqAlive r.pdu ≠ sess.counter) := by
  and_intros <;> decide +kernel

theorem witness_SaveKeepsTheNewerCopy :
    odUp up = true ∧ up.dictConflict = false ∧ up.dictA.valid = true ∧ up.dictB.valid = true ∧ up.odWaiting = [] ∧ up.dictB.seq ≤ up.dictA.seq ∧
    (let s := { up with dictB := dictNew 2 }
     odUp s = true ∧ s.dictA.valid = true ∧ s.dictB.valid = true ∧ s.dictA.seq < s.dictB.seq) := by
  and_intros <;> decide +kernel

theorem witness_AuthorisationAndAttestation :
    odUp dict = true ∧ mapGet? dict.sessions ((15 : Fin 16).val + 1) = some sess ∧ sess.attNonce ≠ [] ∧ (List.replicate 32 (0 : Byte)).length = 32 ∧
    dict.dictConflict = false ∧ portItemOk 1 4 = true ∧ portItemOk 0 1 = true := by
  and_intros <;> decide +kernel

/-! ### Crofts, HBM, clusters, the plant -/

theorem witness_CroftCommands_create :
    let s := odPut (odPut (odPut { up with crofts := [(0, { croft0 with share := 90 })] } 0x301F 2 (2 ^ 63)) 0x301F 3 0xFFFFFF) 0x301F 4 10
    powered s = true ∧ s.reeveUp = true ∧ croft? s 31 = none ∧ enginesFree s 31 (stagedMask s 31) = true ∧
      mapValid (stagedMask s 31) (stagedMap s 31) = true ∧ otherShares s 31 + stagedShare s 31 ≤ 100 ∧
      (parkArea (stagedMask s 31) (stagedMap s 31) ≤ quota s 31 2 ∨ otherT1 s 31 + parkArea (stagedMask s 31) (stagedMap s 31) ≤ t1Available) := by
  and_intros <;> decide +kernel

/-- Croft 0 with a step running. -/
def croftV : Croft := { croft0 with run := some (run1 (qstep .program (some tkt)) []) }

/-- A module with a croft and the staged definition of one engine and one cluster for it, its T1 quota 512 MiB. -/
def staged0 (k : Croft) : State := odPut (odPut (odPut (work k) 0x3000 2 1) 0x3000 3 0) 0x4100 2 (2 ^ 29)

/-- The conditions of an apply. -/
abbrev Applies (k : Croft) : Prop :=
  let s := staged0 k
  powered s = true ∧ s.reeveUp = true ∧ croft? s 0 = some k ∧ enginesFree s 0 (stagedMask s 0) = true ∧
    mapValid (stagedMask s 0) (stagedMap s 0) = true ∧ otherShares s 0 + stagedShare s 0 ≤ 100 ∧
    t1Taken s 0 k - k.park + parkArea (stagedMask s 0) (stagedMap s 0) ≤ quota s 0 2

theorem witness_CroftCommands_apply : Applies croft0 ∧ croft0.run = none ∧ Applies croftV ∧ croftV.run ≠ none := by
  and_intros <;> decide +kernel

theorem witness_CroftCommands_remove :
    openJobs { croft0 with jobs := [(1, job1)] } ≠ [] ∧ openJobs croft0 = [] ∧ storeEmptyNow croft0.store = true ∧
    (∀ x ∈ (work croft0).namespaces, x.2.owner ≠ 0) ∧ croft0.run = none ∧ croftV.run = some (run1 (qstep .program (some tkt)) []) ∧
    croft? up 0 = none := by
  and_intros <;> decide +kernel

/-- A stack whose scrub runs, and one whose channel 31 has had 5 corrected words this hour. -/
def scrubbing : Stack := { stackNew with scrub := ⟨1, 0, 64, 0, [], []⟩ }
def noisy : Stack := { stackNew with corrected := [(31, (0, 1000000))] }

theorem witness_HbmAndClusterCommands_scrub :
    (let s := odPut (odPut up 0x5207 1 (stackBytes - 32)) 0x5207 2 32
     powered s = true ∧ s.reeveUp = true ∧ scrubMayStart s 7 = true) ∧
    (let s := odPut (odPut up 0x5207 1 (stackBytes - 32)) 0x5207 2 64
     (stackOf s 7).scrub.state ≠ 1 ∧ stackBytes < odGet s 0x5207 1 + odGet s 0x5207 2) ∧
    (stackOf { up with hbm := [(7, scrubbing)] } 7).scrub.state = 1 ∧
    (let s := odPut up 0x5208 2 1
     s.power.stage = 3 ∧ odGet s 0x5208 2 ≠ 0 ∧ (stackOf s 7).scrub.state ≠ 1) ∧
    (let s := { up with hbm := [(7, noisy)] }
     mapGet? (stackOf s 7).corrected 31 = some (clock s / 3600000000000, 1000000) ∧ odGet s 0x5208 3 < 1000000 ∧
       mapGet (stackOf s 7).rated 31 0 ≠ clock s / 3600000000000 + 1) := by
  and_intros <;> decide +kernel

theorem witness_HbmAndClusterCommands_channels :
    (let h := stackOf up 7
     let part := hotPart [31] [80000001] 0 [0]
     h.hotSet.2.1 * stackMoved h part < 256 * onChannel h part 31 ∧ h.hotSet.2.2.1 * 80000000 * h.hotSet.1 < 100 * onChannel h part 31 ∧
       hotHeld up h 31 = false ∧ h.hotSet.1 ≠ 11 ∧ 100 * onChannel h part 30 ≤ h.hotSet.2.2.1 * 80000000 * h.hotSet.1) ∧
    xLt (x32 (odGet up 0x4020 5)) (x32 (0x437A0000 : W32).toNat) = true ∧
    xLt (x32 (odGet up 0x4020 5)) (x32 (0 : W32).toNat) = false ∧ xLt (xAdd (x32 (odGet up 0x4020 5)) (.num (-3) 0)) (x32 (0 : W32).toNat) = false ∧
    (let s := odPut { up with power := { up.power with gated := [] } } 0x6320 1 1
     s.power.stage = 3 ∧ odGet s 0x6320 1 ≠ 0 ∧ inputOn s 4 = false ∧ (stackOf s 7).scrub.state ≠ 1 ∧ clusterWork s 7 = false ∧
       keptAwake s 7 = false ∧ 7 ∉ s.power.gated) ∧
    7 ∈ up.power.gated := by
  and_intros <;> decide +kernel

/-- The plant with a leak stop, and the leak input active. -/
def leaky : State := { up with plant := { plantReset with leakStop := true }, inputs := [(1, ⟨true, false, false⟩)] }

/-- Coolant and bank at 25 degrees, valve and bank ready for a re-learn. -/
def mild : State := { up with plant := { plantReset with temps := [(21, 0x41C80000), (22, 0x41C80000)] } }

theorem witness_PlantCommands :
    odUp up = true ∧ up.sec.recovery = false ∧ up.plant.leakStop = false ∧ leaky.plant.leakStop = true ∧ leaking leaky = true ∧
    (odUp mild = true ∧ mild.plant.relearnState ≠ 1 ∧ valveRelearnOk mild = true ∧ powered mild = true ∧ mild.plant.bank < 2) ∧
    valveRelearnOk { mild with plant := { mild.plant with temps := [(22, 0x42480000)] } } = false ∧
    odGet (odPut mild 0x7500 3 24) 0x7500 3 ≠ 0 ∧
    (let s := { mild with plant := { mild.plant with bank := 4 } }
     powered s = true ∧ s.plant.bank = 4 ∧ bankCauseHolds s = false) ∧
    (let s := { mild with plant := { mild.plant with relearn := 1, relearnState := 1 } }
     s.plant.relearnState = 1 ∧ s.plant.relearn = 1 ∧
       curveOk (([0, 1000, 2000, 3000, 4000, 5000, 6000, 7000, 8000, 9000, 10000] : List W16).map (·.toNat)) = true) ∧
    (let s := { mild with plant := { mild.plant with relearn := 2, relearnState := 1 } }
     s.plant.relearnState = 1 ∧ s.plant.relearn = 2 ∧ xvFinite (x32 (0x40A00000 : W32).toNat) = true ∧ xvFinite (x32 (0x43480000 : W32).toNat) = true ∧
       (1 : Rat) / 2 ≤ f32Rat (0x40A00000 : W32).toNat ∧ f32Rat (0x40A00000 : W32).toNat ≤ 5 ∧ 1 ≤ f32Rat (0x43480000 : W32).toNat ∧
       f32Rat (0x43480000 : W32).toNat ≤ 200) := by
  and_intros <;> decide +kernel

theorem witness_PlantEvents :
    alive up = true ∧ up.reeveUp = true ∧ 1 ≤ up.power.stage ∧ posGap (9900 : W16).toNat up.plant.target ≤ 100 ∧
    up.plant.valveFault = false ∧ 500 < posGap (9499 : W16).toNat up.plant.target ∧ ((23 : Fin 24).val ≠ 21 ∧ 23 ∉ up.plant.faulted) ∧
    (xvFinite (x32 (0x41840000 : W32).toNat) = true ∧ f32Rat (0x41840000 : W32).toNat ≤ (33 : Rat) / 2) ∧ up.plant.bank ≠ 4 ∧ up.plant.bank = 0 ∧
    (let s := { up with reeveUp := false }
     alive s = true ∧ s.reeveUp = false ∧ s.plant.leakStop = false) := by
  and_intros <;> decide +kernel

theorem witness_PlantEvents_commands :
    (alive mild = true ∧ mild.reeveUp = true ∧ 1 ≤ mild.power.stage ∧ mild.power.phase = 1 ∧ mild.sec.recovery = false ∧
      ¬(mild.plant.leakStop = true ∧ leaking mild = true) ∧ mild.plant.relearnState ≠ 1 ∧ (∀ p ∈ mild.crofts, p.2.run = none) ∧
      sensorBad mild 22 = false ∧ 15 ≤ tempOf mild 22 ∧ tempOf mild 22 ≤ 45 ∧ mild.plant.bank < 2) ∧
    odGet (odPut mild 0x7500 3 24) 0x7500 3 ≠ 0 ∧
    (let s := { mild with plant := { mild.plant with bank := 4 } }
     s.power.phase = 1 ∧ s.plant.relearnState ≠ 1 ∧ s.plant.bank = 4 ∧ bankCauseHolds s = false) ∧
    (let s := { mild with plant := { mild.plant with relearn := 2, relearnState := 1, bank := 3 } }
     s.plant.relearnState = 1 ∧ s.plant.relearn = 2 ∧ s.plant.bank = 3) := by
  and_intros <;> decide +kernel

/-! ### Firmware, authorisation -/

/-- A signed header of a kind with a body of `n` bytes and that digest: both keys and both signatures are the neutral point with scalar 0, which the Ed448 equation admits of any message. -/
def signedHdr (kind n digest : Nat) : List Byte :=
  bytesOf 16 [(0, 0x49465744), (4, 1), (6, kind), (12, n)] ++ List.replicate 32 0 ++ bytesOf 16 [(0, if kind = 4 then 0 else 1), (2, if kind = 4 then 0 else 2)] ++
  leBytes 64 digest ++ (1 : Byte) :: List.replicate 56 0 ++ (1 : Byte) :: List.replicate 70 0 ++ (1 : Byte) :: List.replicate 127 0 ++
  (1 : Byte) :: List.replicate 127 0

/-- The digest of no bytes, of the neutral key, and of the record's body: from a SHAKE256 of its own (not the model's). -/
def dgEmpty : Nat := 0xbec4b7b3ac2e294086b49a47491c82fcf692b5679d0105cb00f2c0d8ddc45dd72f76d56e64270cb5821bb862ea52cd3f24eb3e74eb3f3b23138da80b2bddb946
def dgRoot : Nat := 0x2a49fcc74e74c7e38318a4ab87d387db9a834131b955407fda70fd6b0390917cbd7a989f4c391ff1ad6fd0a0b6c59049040191e64c422d4ddc7421435aad012d
def dgBody : Nat := 0xdb27f4552eb4c43bcf5227c84737f1b72b98d2f51b23efeede9d8d1ae4f3f9db1c7c5d2918fd6c728ec754becb911e1034d6cc771ddd8d13b09e5f30abf4d95d

/-- The body of a record: scope 7 for an hour, for the nonce of 32 fives. -/
def grantBody : List Byte := List.replicate 8 0 ++ List.replicate 32 5 ++ leBytes 4 7 ++ leBytes 4 3600 ++ List.replicate 16 0

/-- The three images of a package. -/
def fwImage (kind : Nat) : List Byte := signedHdr kind 0 dgEmpty

/-- A module whose fuses hold the neutral key, with the package staged on controller 0. -/
def fused : State := { up with
  fuse := { fusesReset with rootDigest := leBytes 64 dgRoot }
  nvme := [(0, { nvmeReset with staging := cellsOf 0 0 (fwImage 1 ++ fwImage 2 ++ fwImage 3) })] }

theorem staged_fused : stagedBytes fused 0 = fun o n => sub (fwImage 1 ++ fwImage 2 ++ fwImage 3) o n := by
  funext o n
  exact memGetL_cellsOf _ o n

theorem package_fused : packageImages (stagedBytes fused 0) = [fwImage 1, fwImage 2, fwImage 3] := by
  rw [staged_fused]
  decide +kernel

/-- The neutral key and the signature of scalar 0. -/
def nKey : List Byte := (1 : Byte) :: List.replicate 56 0
def nSig : List Byte := (1 : Byte) :: List.replicate 113 0

theorem edMul_zero (n : Nat) (p : EdPoint) : edMul n 0 p = edZero := by
  induction n generalizing p with
  | zero => rfl
  | succ n ih => simp [edMul, ih]

theorem edAdd_neutral : edAdd edZero edZero = edZero := by decide +kernel

theorem edMul_neutral (n k : Nat) : edMul n k edZero = edZero := by
  induction n generalizing k with
  | zero => rfl
  | succ n ih =>
    have e : edMul (n + 1) k edZero = (if k % 2 = 1 then edAdd (edMul n (k / 2) (edAdd edZero edZero)) edZero
      else edMul n (k / 2) (edAdd edZero edZero)) := rfl
    rw [e, edAdd_neutral, ih, edAdd_neutral]
    exact ite_self _

theorem neutral_same : edSame edZero (edAdd edZero edZero) = true := by decide +kernel

/-- A key and a signature that name the neutral point and the scalar 0 verify any message. -/
theorem verifies_of (pub msg sig : List Byte) (h1 : edDecode pub = some edZero) (h2 : edDecode (sub sig 0 57) = some edZero)
    (h3 : leAt sig 57 57 = 0) (h4 : decide (0 < edL) = true) : edVerify pub msg sig = true := by
  unfold edVerify
  rw [h1, h2]
  simp only [h3, h4, Nat.mul_zero, edMul_zero, edMul_neutral, neutral_same, Bool.and_self]

theorem neutral_verifies (msg : List Byte) : edVerify nKey msg nSig = true :=
  verifies_of nKey msg nSig (by decide +kernel) (by decide +kernel) (by decide +kernel) (by decide +kernel)

theorem test_shake_root : shake256 64 nKey = leBytes 64 dgRoot := by decide +kernel

theorem test_shake_empty : shake256 64 [] = leBytes 64 dgEmpty := by decide +kernel

theorem test_shake_body : shake256 64 grantBody = leBytes 64 dgBody := by decide +kernel

/-- An image whose header is sound, whose keys and signatures are the neutral ones and whose body has the digest it names passes every check. -/
theorem signed_sound (s : State) (b : List Byte) (kind : Nat) (hr : s.fuse.rootDigest = leBytes 64 dgRoot) (hv : s.fuse.revoked = [])
    (hc : s.fuse.counters = []) (h1 : headerOk b kind = true) (h2 : sub b 128 57 = nKey) (h3 : sub b 185 57 = nKey) (h4 : sub b 256 114 = nSig)
    (h5 : sub b 384 114 = nSig) (h6 : (b.drop 512).length = leAt b 12 4) (h7 : shake256 64 (b.drop 512) = sub b 64 64)
    (hl : 512 ≤ b.length ∧ b.length ≤ reeveLimit) : imageFails s b kind = 0 := by
  have e1 : ¬ b.length < 512 := by omega
  have e2 : ¬ reeveLimit < b.length := by omega
  simp [imageFails, h1, h2, h3, h4, h5, h6, h7, hr, hv, e1, e2, test_shake_root, neutral_verifies, counterOf, hc, mapGet]

theorem image_sound_1 : imageFails fused (fwImage 1) 1 = 0 := by
  refine signed_sound fused (fwImage 1) 1 rfl rfl rfl ?_ ?_ ?_ ?_ ?_ ?_ ?_ ?_
  case refine_7 => rw [show (fwImage 1).drop 512 = [] by decide +kernel, test_shake_empty]; decide +kernel
  all_goals decide +kernel

theorem image_sound_2 : imageFails fused (fwImage 2) 2 = 0 := by
  refine signed_sound fused (fwImage 2) 2 rfl rfl rfl ?_ ?_ ?_ ?_ ?_ ?_ ?_ ?_
  case refine_7 => rw [show (fwImage 2).drop 512 = [] by decide +kernel, test_shake_empty]; decide +kernel
  all_goals decide +kernel

theorem image_sound_3 : imageFails fused (fwImage 3) 3 = 0 := by
  refine signed_sound fused (fwImage 3) 3 rfl rfl rfl ?_ ?_ ?_ ?_ ?_ ?_ ?_ ?_
  case refine_7 => rw [show (fwImage 3).drop 512 = [] by decide +kernel, test_shake_empty]; decide +kernel
  all_goals decide +kernel

theorem package_sound (s : State) (a b c : List Byte) (h1 : imageFails s a 1 = 0) (h2 : imageFails s b 2 = 0) (h3 : imageFails s c 3 = 0)
    (hl : ([a, b, c].map (fun b => (leAt b 48 2, leAt b 50 2))) = [(1, 2), (1, 2), (1, 2)]) (hr : slotLevels s s.sec.running = (1, 2)) :
    packageFails s [a, b, c] = none := by
  simp [packageFails, h1, h2, h3, hr] at hl ⊢
  simp [hl]

theorem witness_FirmwareAndRestart_replace :
    powered fused = true ∧ fused.reeveUp = true ∧ 1 ≤ fused.power.stage ∧ fused.sec.recovery = false ∧ fused.sec.commit = none ∧
    (0 : Fin 34).val < 33 ∧ ((2 : Nat) = 1 ∨ (2 : Nat) = 2) ∧ 2 ≠ fused.sec.running ∧
    packageFails fused (packageImages (stagedBytes fused (0 : Fin 34).val)) = none := by
  refine ⟨by decide +kernel, by decide +kernel, by decide +kernel, by decide +kernel, by decide +kernel, by decide, by decide, by decide +kernel, ?_⟩
  show packageFails fused (packageImages (stagedBytes fused 0)) = none
  rw [package_fused]
  exact package_sound fused _ _ _ image_sound_1 image_sound_2 image_sound_3 (by decide +kernel) (by decide +kernel)

/-- A commit to slot 2 whose record is written next. -/
def commitJob : FwJob := { path := 0, slot := 2, activate := false, imgs := [fwImage 1], stage := 2, reply := none, restart := false }
def committing : State := { up with sec := { up.sec with commit := some commitJob } }

theorem witness_FirmwareAndRestart_rest :
    ((32 : Fin 34).val < 33 ∧ packageFails up (packageImages (stagedBytes up (32 : Fin 34).val)) = some (1, 1) ∧ 2 ≠ up.sec.running) ∧
    1 = up.sec.running ∧
    (slotSound up 1 = true ∧ (slotOf up 1).activation ≠ none) ∧ odGet (odPut up 0x8011 1 1) 0x8011 1 = 1 ∧ odGet up 0x8011 1 ≠ 1 ∧
    (restartRefused up = false ∧ up.sec.commit = none) ∧
    (powered committing = true ∧ committing.reeveUp = true ∧ restartRefused committing = false ∧
      committing.sec.commit = some commitJob ∧ commitJob.stage = 2) ∧
    { up with sanitize := ⟨true, 2, false, 0⟩ }.sanitize.running = true ∧ ((2 : Fin 6).val = 2 ∧ (5 : Fin 6).val = 5) := by
  and_intros <;> decide +kernel

/-- A session that has read the nonce, and a record that grants it scope 7 for an hour. -/
def sessA : Session := { sess with authNonce := List.replicate 32 5 }
def grant : List Byte := signedHdr 4 64 dgBody ++ grantBody

theorem witness_AuthorisationAndAttestation_record :
    let s := { fused with sessions := [(16, sessA)] }
    odUp s = true ∧ mapGet? s.sessions ((15 : Fin 16).val + 1) = some sessA ∧ recordOk s sessA grant = true := by
  have h : imageFails { fused with sessions := [(16, sessA)] } grant 4 = 0 := by
    refine signed_sound _ grant 4 rfl rfl rfl ?_ ?_ ?_ ?_ ?_ ?_ ?_ ?_
    case refine_7 => rw [show grant.drop 512 = grantBody by decide +kernel, test_shake_body]; decide +kernel
    all_goals decide +kernel
  refine ⟨by decide +kernel, by decide +kernel, ?_⟩
  simp only [recordOk, h]
  decide +kernel

/-! ### SPDM and MCTP -/

/-- A module at full service whose SPDM responder of mailbox 0 is in a phase. -/
def spdmAt (n : Nat) : State := { up with sec := { up.sec with spdm := [(0, ⟨n, [], [], []⟩)] } }

/-- An SPDM 1.2 request of `n` bytes with the given values. -/
def spdmReq (n code : Nat) (l : List (Nat × Nat)) : List Byte := bytesOf n ([(0, 0x12), (1, code)] ++ l)

theorem witness_SpdmRequests :
    SpdmHeard up (bytesOf 4 [(0, 0x10), (1, 0x84)]) 0x84 ∧
    (SpdmHeard (spdmAt 1) (spdmReq 20 0xE1 []) 0xE1 ∧ leAt (spdmReq 20 0xE1 []) 0 1 = 0x12 ∧ (spdmOf (spdmAt 1) 0).phase = 1) ∧
    (let m := spdmReq 32 0xE3 [(9, 0x08), (12, 0x20)]
     SpdmHeard (spdmAt 2) m 0xE3 ∧ leAt m 0 1 = 0x12 ∧ (spdmOf (spdmAt 2) 0).phase = 2 ∧ leAt m 8 4 / 2 ^ 11 % 2 = 1 ∧ leAt m 12 4 / 2 ^ 5 % 2 = 1) ∧
    (leAt (spdmReq 4 0x81 []) 0 1 = 0x12 ∧ (spdmOf (spdmAt 3) 0).phase = 3 ∧ SpdmHeard (spdmAt 3) (spdmReq 4 0x81 []) 0x81) ∧
    (let m := spdmReq 8 0x82 []
     leAt m 0 1 = 0x12 ∧ SpdmHeard (spdmAt 3) m 0x82 ∧ leAt m 2 1 % 16 = 0 ∧ leAt m 4 2 < spdmChain.length) ∧
    (let m := spdmReq 36 0x83 []
     leAt m 0 1 = 0x12 ∧ SpdmHeard (spdmAt 3) m 0x83 ∧ leAt m 2 1 = 0 ∧ 36 ≤ m.length ∧ (leAt m 3 1 ≤ 1 ∨ leAt m 3 1 = 0xFF)) ∧
    (let m := spdmReq 36 0x83 [(3, 0xFF)]
     leAt m 0 1 = 0x12 ∧ SpdmHeard (spdmAt 3) m 0x83 ∧ leAt m 2 1 = 0 ∧ 36 ≤ m.length ∧ (leAt m 3 1 ≤ 1 ∨ leAt m 3 1 = 0xFF)) ∧
    (let m := spdmReq 4 0xE0 []
     leAt m 0 1 = 0x12 ∧ SpdmHeard (spdmAt 3) m 0xE0 ∧ leAt m 2 1 % 2 = 0 ∧ leAt m 3 1 = 0) ∧
    (let m := spdmReq 4 0x81 []
     leAt m 0 1 = 0x12 ∧ (spdmOf (spdmAt 2) 0).phase ≠ 3 ∧ SpdmHeard (spdmAt 2) m 0x81) := by
  and_intros <;> decide +kernel

theorem witness_MctpControlCommands :
    (let m : List Byte := [0, 0x80, 1, 0, 8]
     MctpHeard up 1 m 1 ∧ 5 ≤ m.length ∧ leAt m 3 1 % 4 ≤ 1 ∧ 8 ≤ leAt m 4 1 ∧ leAt m 4 1 ≠ 0xFF) ∧
    (let m : List Byte := [0, 0x80, 1, 1, 0xFE]
     MctpHeard up 0 m 1 ∧ 5 ≤ m.length ∧ leAt m 3 1 % 4 ≤ 1 ∧ 8 ≤ leAt m 4 1 ∧ leAt m 4 1 ≠ 0xFF) ∧
    (let m : List Byte := [0, 0x80, 1, 0, 0xFF]
     MctpHeard up 1 m 1 ∧ 5 ≤ m.length ∧ leAt m 4 1 = 0xFF) ∧
    MctpHeard up 0 [0, 0x9F, 2] 2 ∧ (MctpHeard up 1 [0, 0x80, 4, 0xFF] 4 ∧ leAt [0, 0x80, 4, 0xFF] 3 1 = 0xFF) ∧
    MctpHeard up 1 [0, 0x80, 5] 5 ∧ (MctpHeard up 1 [0, 0x80, 6, 0] 6 ∧ leAt [0, 0x80, 6, 0] 3 1 = 0) ∧
    (alive up = true ∧ up.reeveUp = true ∧ (127 : Fin 128).val ≠ 0 ∧ mapGet up.eids 2 0 = 0) ∧
    (let s := { up with eids := [(2, 9)] }
     alive s = true ∧ s.reeveUp = true ∧ mapGet s.eids 2 0 ≠ 0) := by
  and_intros <;> decide +kernel

/-! ### Inputs, power, the staged start -/

theorem witness_InputsAndSupply :
    (powered up = true ∧ inputBad up 0 = false ∧ inputBad up 3 = false) ∧
    (let s := { up with inputs := [(0, ⟨false, true, false⟩)] }
     powered s = true ∧ inputBad s 0 = true) ∧
    ((2 : Fin 6).val = 2 ∧ (4 : Fin 6).val = 4) ∧
    { up with power := { up.power with phase := 2 } }.power.phase = 2 ∧ up.power.phase ≠ 2 := by
  and_intros <;> decide +kernel

theorem witness_StartAndOperatingPoints :
    (let s := { State.reset with power := { powerReset with phase := 0 } }
     s.power.enable = true ∧ s.power.phase = 0) ∧
    { State.reset with power := { powerReset with enable := false } }.power.enable = false ∧
    (powered State.reset = true ∧ State.reset.power.stage = 0 ∧ State.reset.sec.recovery = false) ∧
    (let s := { State.reset with power := { powerReset with stage := 1 } }
     powered s = true ∧ s.power.stage = 1 ∧ s.dictConflict = false ∧ s.sec.recovery = false ∧ s.power.stage < 3) ∧
    (let s := { State.reset with power := { powerReset with stage := 1 }, dictConflict := true }
     powered s = true ∧ s.power.stage = 1 ∧ s.dictConflict = true) ∧
    (let s := { State.reset with power := { powerReset with stage := 2 } }
     powered s = true ∧ s.power.stage = 2 ∧ 1 ≤ s.power.stage ∧ s.power.stage < 3) ∧
    (powered up = true ∧ overLimit up (0x7F7FFFFF : W32).toNat = true ∧ up.power.windowsOver = 0) ∧
    (let s := { up with power := { up.power with windowsOver := 1 } }
     powered s = true ∧ overLimit s (0x7F7FFFFF : W32).toNat = true ∧ 1 ≤ s.power.windowsOver) ∧
    (let s := { up with power := { up.power with throttled := [7] } }
     powered s = true ∧ (7 : Fin 8).val ∈ s.power.throttled) ∧
    up.power.droop = false := by
  and_intros <;> decide +kernel

/-! ### The Reeve's registers -/

/-- The code flash in a state of its lock. -/
def flashAt (lock : Nat) : State := { up with flash := { flashReset with lock := lock } }

/-- The code flash that runs a command on the sector of an address. -/
def flashRun (cmd addr : Nat) (b : Memory) : State :=
  { up with flash := { flashReset with lock := 6, fcmd := cmd, faddr := addr, fstat := 1, bytes := b } }

theorem witness_ReeveRegisters :
    alive up = true ∧ (up.reeveUp = true ∧ up.watchdog.half = false ∧ (0x5A5A : W32).toNat % 65536 = 0x5A5A) ∧
    (let s := { up with watchdog := { watchdogReset with half := true } }
     s.watchdog.half = true ∧ (0xA5A5 : W32).toNat % 65536 = 0xA5A5 ∧ watchdogWindow s ≤ unitsSince s) ∧
    (let s := { up with watchdog := { watchdogReset with half := true, ctl := 64 + 1024 } }
     s.watchdog.half = true ∧ (0xA5A5 : W32).toNat % 65536 = 0xA5A5 ∧ unitsSince s < watchdogWindow s) ∧
    (up.flash.fstat % 2 = 0 ∧ up.flash.fstat / 4 % 2 = 0 ∧ up.flash.lock = 0 ∧ up.flash.lock < 2) ∧
    ((flashAt 1).flash.fstat / 4 % 2 = 0 ∧ (flashAt 1).flash.lock = 1 ∧ (0 : W32).toNat ≠ 0xC3D2E1F0) ∧
    ((flashAt 2).flash.lock = 2 ∧ 1 ≤ (1 : W32).toNat % 16 ∧ (3 : W32).toNat % 16 ≤ 3) ∧
    (let s := { up with flash := { flashReset with lock := 5, faddr := 786440 } }
     s.flash.lock = 5 ∧ sectorProt s (sectorOf s.flash.faddr) = false ∧ wordErased s s.flash.faddr = true) ∧
    (let s := { up with flash := { flashReset with lock := 5, fprot := 1 } }
     s.flash.fstat % 2 = 0 ∧ s.flash.lock = 5 ∧ sectorProt s (sectorOf s.flash.faddr) = true) ∧
    (let s := { up with flash := { flashReset with lock := 3, fcmd := 2 } }
     s.flash.lock = 3 ∧ sectorProt s (sectorOf ((0x1BFFF8 : W32).toNat % 2 ^ 21)) = false ∧ s.flash.fcmd = 2) ∧
    (let s := { up with flash := { flashReset with lock := 3, fcmd := 3 } }
     s.flash.lock = 3 ∧ sectorProt s (sectorOf ((0 : W32).toNat % 2 ^ 21)) = false ∧ s.flash.fcmd = 3) ∧
    ((flashRun 1 8 []).flash.fstat % 2 = 1 ∧ (flashRun 1 8 []).flash.fcmd = 1) ∧ (flashRun 2 8 []).flash.fcmd = 2 ∧
    ((1 : W32).toNat % 4 = 1 ∧ (2 : W32).toNat % 8 = 2 ∧
      (0x000F0001 : W32).toNat % 65536 = (mapGet (unitOf up 2).slots ((0x000F0001 : W32).toNat / 65536 % 16) 0 + 1) % 65536) := by
  and_intros <;> decide +kernel

theorem witness_FlashBlankChecks :
    (let s := { up with flash := { flashReset with lock := 5, faddr := 786440, bytes := [(786447, 0)] } }
     alive s = true ∧ s.flash.fstat % 2 = 0 ∧ s.flash.lock = 5 ∧ sectorProt s (sectorOf s.flash.faddr) = false ∧ wordErased s s.flash.faddr = false) ∧
    (let s := flashRun 2 786432 [(851967, 0), (851968, 0)]
     alive s = true ∧ s.flash.fstat % 2 = 1 ∧ s.flash.fcmd = 2 ∧ 851967 / 65536 = sectorOf s.flash.faddr ∧ 851968 / 65536 ≠ sectorOf s.flash.faddr ∧ 851968 < 2 ^ 21) ∧
    (let s := flashRun 3 786432 [(851967, 0)]
     s.flash.fstat % 2 = 1 ∧ s.flash.fcmd = 3 ∧ (851960 % 8 = 0 ∧ 851960 < 2 ^ 21 ∧ 851960 / 65536 = sectorOf s.flash.faddr ∧ wordErased s 851960 = false)) := by
  and_intros <;> decide +kernel

/-- A blank check of a sector with nothing programmed, beside a programmed one. -/
theorem witness_FlashBlankChecks_erased :
    let s := flashRun 3 786432 [(851968, 0)]
    alive s = true ∧ s.flash.fstat % 2 = 1 ∧ s.flash.fcmd = 3 ∧ s.flash.fstat / 64 % 2 = 0 ∧ sectorOpaque s (sectorOf s.flash.faddr) = false ∧
      (∀ x ∈ s.flash.bytes, x.1 / 65536 ≠ sectorOf s.flash.faddr) ∧ (∀ a ∈ s.flash.ones, sectorOf a ≠ sectorOf s.flash.faddr) := by
  refine ⟨by decide, by decide, by decide, by decide, by decide +kernel, ?_, ?_⟩ <;> decide

/-! ### Flash media -/

/-- A block of a state. -/
def blk (st : BlkState) (reads q : Nat) : Block := ⟨st, .nsData, 0, q, 0, reads, 0, 0, 0, 0, 0, []⟩

/-- A module whose package 47 has one touched block, the last. -/
def media (b : Block) : State := { up with packages := [(47, { packageNew with blocks := [(41459, b)] })] }

theorem witness_MediaCommands :
    (let s := media (blk .full 0 100000)
     powered s = true ∧ blockExists 41459 = true ∧ (blockAt (packageOf s 47) 41459).st = .full ∧ (packageOf s 47).conflict = false ∧ gleanerVictim (packageOf s 47) = some 41459 ∧
       leastWorn ((fullBlocks (packageOf s 47)).map (fun b => (blockWear b.2, b.1))) = some (1000000, 41459) ∧ wearSpread s (packageOf s 47) = true ∧
       (blockAt (packageOf s 47) 41459).reads < disturbLimit s (blockAt (packageOf s 47) 41459)) ∧
    (let s := media (blk .full (10 ^ 9) 0)
     (blockAt (packageOf s 47) 41459).st = .full ∧ disturbLimit s (blockAt (packageOf s 47) 41459) ≤ (blockAt (packageOf s 47) 41459).reads) ∧
    (let s := media (blk .erasePending 0 0)
     blockExists 41459 = true ∧ (blockAt (packageOf s 47) 41459).st = .erasePending ∧
       ((packageOf s 47).blocks.any (fun y => dieOf y.1 = (11 : Fin 12).val && y.2.st = .erasePending)) = true ∧
       mapGet (packageOf s 47).suspends (11 : Fin 12).val 0 < 16) ∧
    (blockAt (packageOf (media (blk .victim 0 0)) 47) 41459).st = .victim ∧
    (blockAt (packageOf (media (blk .suspect 0 0)) 47) 41459).st = .suspect ∧
    (blockAt (packageOf (media (blk .opened 0 0)) 47) 41459).st = .opened ∧
    (let s := { up with packages := [(0, { packageNew with dirty := [5] })] }
     (packageOf s 0).dirty.contains 5 = true ∧ (packageOf s 0).conflict = false ∧
       (placeRef (packageOf s 0) .mapPages (.mapPage 5) s.bell.count).isSome = true) ∧
    (let f : Nat × Block := (9, ⟨.full, .metadata, 0, 0, 0, 0, 0, 0, 0, 0, 0, []⟩)
     let s := { up with packages := [(0, { packageNew with blocks := [f] })] }
     fullMetadata (packageOf s 0) = some f ∧ (openOf (packageOf s 0) .metadata s.bell.count).isSome = true) ∧
    (let s := { up with sanitize := ⟨true, 1, false, 0⟩ }
     powered s = true ∧ s.sanitize.running = true) ∧ up.sanitize.running = false := by
  and_intros <;> decide +kernel

/-! ### Kamlin and Bell -/

/-- A module at full service at Kamlin address 9 with port 7 in the given record. -/
def ported (x : Port) : State := { up with kamlinAddr := 9, ports := [(7, x)] }

/-- A port trained at address 9, in a state. -/
def portIn (n : Nat) : Port := { portStart true with state := n, addr := 9 }

/-- A flit kept for replay. -/
def kept : TxFlit := ⟨0, []⟩

/-- A frame-data flit with sequence 0, its body zeros, and its check. -/
def flit0 : List Byte := [0, 0x10] ++ List.replicate 1270 0 ++ [0x79, 0x95, 0x1E, 0x75, 0x4A, 0x26, 0x00, 0x68]

theorem witness_KamlinLinks :
    (powered (ported (portIn 2)) = true ∧ (portOf (ported (portIn 2)) 7).state = 2 ∧ flitOk [] = false ∧ (portIn 2).asked = false) ∧
    (let x := { portIn 2 with asked := true }
     x.state = 2 ∧ x.asked = true ∧ leAt [1, 0] 0 2 % 4096 ≠ x.rxSeq ∧ flitOk [1, 0] = false ∧ leAt [0, 0] 0 2 % 4096 = x.rxSeq) ∧
    (flitOk flit0 = true ∧ bitOf (BitVec.ofNat 16 (leAt flit0 2 2)) 12 = false ∧ leAt flit0 1 1 / 16 = 1 ∧
      leAt flit0 0 2 % 4096 = (portOf (ported (portIn 2)) 7).rxSeq) ∧
    (let x := { portIn 2 with ackSeq := 4090, replay := List.replicate 10 kept }
     x.state = 2 ∧ ((4 : Fin 4096).val + 4096 - x.ackSeq) % 4096 ≤ x.replay.length ∧ x.replay.length < ((5 : Fin 4096).val + 4096 - x.ackSeq) % 4096) ∧
    ((portOf (ported { portIn 2 with replay := [kept] }) 7).replay ≠ [] ∧ (portOf (ported { portIn 2 with replay := [kept] }) 7).state = 2 ∧
      (portIn 2).replay = []) ∧
    ((portOf (ported { portIn 2 with awaiting := [(5, 1, 0)] }) 7).awaiting ≠ [] ∧ (portOf (ported { portIn 2 with awaiting := [(5, 1, 0)] }) 7).state = 2 ∧
      (portIn 2).awaiting = []) ∧
    (portOf (ported (portIn 3)) 7).state = 3 ∧
    (let s := odPut (ported (portIn 1)) 0x9027 1 1
     powered s = true ∧ (portOf s 7).state = 1 ∧ portEnabled s 7 = true ∧ odGet s 0x9027 2 ≤ 4 ∧ (3 : Byte).toNat ≠ ownAddress s ∧
       reached (putPort { s with kamlinAddr := ownAddress s } 7 { portIn 1 with addr := ownAddress s }) 7 (3 : Byte).toNat = false) ∧
    (portIn 3).state = 3 ∧
    (let s := odPut (ported (portIn 4)) 0x9027 1 1
     (portOf s 7).state = 4 ∧ portEnabled s 7 = true) ∧
    ({ portIn 2 with owed := [(8, 1)] }.owed.all (fun o => o.2 = 0) = false ∧ (portIn 2).owed.all (fun o => o.2 = 0) = true) := by
  and_intros <;> decide +kernel

/-- A group record of two ranks: this module's croft 0 is rank 0, croft 2 of the module at address 3 is rank 1; tag 5. -/
def group2 : List Byte := bytesOf 64 [(6, 2), (8, 0), (16, 5), (32, 9), (34, 3), (35, 2)]

/-- A module whose croft 0 runs a step of a job of that group. -/
def grouped : State :=
  { ported (portIn 2) with crofts := [(0, croftT { job1 with group := some group2 } (some (run1 (qstep .program (some tkt)) [(0, ve0)])))] }

/-- A frame of a type for the module at address 9, from croft 2 of the module at address 3, of that step. -/
def frm (type cls : Nat) (params payload : List Byte) : List Byte :=
  let r := run1 (qstep .program (some tkt)) []
  mkFrame type cls 9 3 2 5 r.number r.step.attempt true params payload []

/-- Whether a frame of a type with an empty payload belongs to the running step and is taken in. -/
def frameNow (type : Nat) : Bool :=
  (match frameJob grouped (frm type 0 [] []) with
    | some (c, j, q) => q = 1 && (match croft? grouped c with
      | some k => frameTurn k j (frm type 0 [] []) = .now
      | none => false)
    | none => false) && decide (FrameTaken grouped 7 (frm type 0 [] []) type)

/-- Whether a link management frame that names address 3 is taken in on port 7, in conflict, and ends the conflict. -/
def conflicting (s : State) : Bool :=
  decide (FrameTaken s 7 (frm 0x13 8 [3] []) 0x13) && decide (leAt (frm 0x13 8 [3] []) 32 1 ≠ (portOf s 7).addr) && decide ((portOf s 7).state = 5) &&
  !reached s 7 (leAt (frm 0x13 8 [3] []) 32 1)

theorem witness_KamlinFrames :
    frameNow 1 = true ∧ frameNow 2 = true ∧ frameNow 3 = true ∧ frameNow 4 = true ∧ frameNow 5 = true ∧
    (let s := { grouped with exports := [(6, ⟨0, 0, 1, 0, true, [(3, 2)], []⟩)] }
     let y : PeerExport := ⟨0, 0, 1, 0, true, [(3, 2)], []⟩
     let b := frm 6 0 (paramBlock [6, 3, 1]) []
     let w := frm 8 0 (paramBlock [6, 3]) [1]
     mapGet? s.exports (frParam b 0) = some y ∧ bindingOf s y.croft y.bset y.index = some buf ∧ FrameTaken s 7 b 6 ∧ exportOpen y b false = true ∧
       frParam b 1 + frParam b 2 ≤ buf.count ∧ mapGet? s.exports (frParam w 0) = some y ∧ FrameTaken s 7 w 8 ∧ exportOpen y w true = true ∧
       frParam w 1 < buf.count) ∧
    (let s := { grouped with exports := [(6, ⟨0, 0, 1, 0, false, [(3, 2)], []⟩)] }
     let y : PeerExport := ⟨0, 0, 1, 0, false, [(3, 2)], []⟩
     let w := frm 8 0 (paramBlock [6, 3]) [1]
     mapGet? s.exports (frParam w 0) = some y ∧ bindingOf s y.croft y.bset y.index = some buf ∧ FrameTaken s 7 w 8 ∧ exportOpen y w true = false) ∧
    (let s := { grouped with crofts := [(0, { croft0 with tpAsked := [⟨6 + 256 * 3, 3, 5, 0, 0⟩] })] }
     let b := frm 7 0 (paramBlock [6, 3]) []
     FrameTaken s 7 b 7 ∧ (∃ k ∈ s.crofts, ∃ a ∈ k.2.tpAsked, a.home = frParam b 0 + 256 * frSrc b ∧ a.body = frParam b 1 ∧ a.tag = frTag b ∧
       a.step = frStep b ∧ a.attempt = frAttempt b)) ∧
    (let r := { run1 (qstep .program (some tkt)) [(0, ve0)] with orResult := some false, tpWait := 1 }
     let s := { grouped with crofts := [(0, croftT { job1 with group := some group2 } (some r))] }
     let b := frm 9 0 (paramBlock [6, 1]) []
     FrameTaken s 7 b 9 ∧ doneCroft s b = some 0 ∧ (stepEnv s 0).isSome = true) ∧
    (let b := frm 0x0A 0 [] []
     FrameTaken grouped 7 b 0x0A ∧ (tagJob grouped (frTag b)).isSome = true ∧ (tagJob grouped (frTag b)).any (fun p => p.2.group = some group2) = true) ∧
    (let b := frm 0x0A 0 [] []
     FrameTaken (ported (portIn 2)) 7 b 0x0A ∧ tagJob (ported (portIn 2)) (frTag b) = none) ∧
    (let j := { job1 with group := some group2 }
     powered grouped = true ∧ jobOf grouped 0 1 = some j ∧ j.group ≠ none ∧ groupReady j = false ∧ j.faulted = false) ∧
    FrameTaken grouped 7 (frm 0x10 8 [] []) 0x10 ∧ FrameTaken grouped 7 (frm 0x11 8 [] []) 0x11 ∧
    (FrameTaken grouped 7 (frm 0x13 8 [3] []) 0x13 ∧ leAt (frm 0x13 8 [3] []) 32 1 ≠ (portOf grouped 7).addr ∧ (portOf grouped 7).state = 2) ∧
    conflicting (odPut { grouped with ports := [(7, portIn 5)] } 0x9027 1 1) = true ∧
    conflicting { grouped with ports := [(6, { portIn 2 with neighbour := 3 }), (7, portIn 5)] } = false ∧
    (let b := mkFrame 1 6 8 3 2 5 0 0 true [] [] []
     powered grouped = true ∧ (portOf grouped 7).state = 2 ∧ frameOk b = true ∧ frDst b ≠ (portOf grouped 7).addr ∧ frType b < 0x12 ∧ frHop b ≠ 7 ∧
       isControl (frType b) = false ∧ routePort grouped (frDst b) = none ∧ routePort { grouped with doms := [(odKey 0x9200 1, List.replicate 17 7)] } (frDst b) = some 7) ∧
    (let b := mkFrame 1 7 8 3 2 5 0 0 true [] [] []
     frameOk b = true ∧ frDst b ≠ (portOf grouped 7).addr ∧ frType b < 0x12 ∧ frHop b = 7) ∧
    frameOk [] = false := by
  and_intros <;> decide +kernel

/-- A locked module whose port 7 has been offered the master it follows. -/
def locked : State := { ported { portIn 2 with master := some ⟨5, 7, 2, 3⟩ } with
  bell := { bellStart with mPrio := 5, mSerial := 7, mHops := 3, mAddr := 3, state := 2, pps := some 0, count := 99999999 } }

/-- An exchange on port 7 with a neighbour `n` hops from master 7. -/
def bellX (n : Byte) (retried : Bool) : BellX := ⟨0, 0, 0, 0, 0, n, 2, 5, 7, 3, retried⟩

theorem witness_BellCommands :
    (let x := bellX 2 false
     let t := hearMaster (bellRequest locked 7 x) 7 ⟨x.priority.toNat, x.serial.toNat, x.hops.toNat, x.address.toNat⟩
     powered locked = true ∧ 1 ≤ locked.power.stage ∧ (portOf locked 7).state = 2 ∧ x.retried = false ∧ odGet t 0x9100 1 ≠ 0 ∧ bellMaster t = false ∧
       x.hops ≠ 0xFF ∧ x.hops.toNat < t.bell.mHops ∧ x.serial.toNat = t.bell.mSerial ∧ bellMaster locked = false ∧ bellState locked = 2 ∧
       inputBad locked 2 = false ∧ locked.bell.pps = some 0 ∧ locked.bell.count < 0 + 100000000) ∧
    (bellX 2 true).retried = true ∧
    (FrameTaken grouped 7 (frm 0x12 8 [] []) 0x12 ∧ leAt (frm 0x12 8 [] []) 32 1 = 0) ∧
    (FrameTaken grouped 7 (frm 0x12 8 [1] []) 0x12 ∧ leAt (frm 0x12 8 [1] []) 32 1 ≠ 0) ∧
    ({ locked with bell := { bellStart with state := 3 } }.bell.state = 3 ∧ offers { locked with bell := { bellStart with state := 3 } } ≠ []) ∧
    (let s := { up with bell := { bellStart with state := 3 } }
     s.bell.state = 3 ∧ offers s = []) ∧
    (up.bell.pps = none ∧ inputBad up 2 = false ∧ 1 ≤ up.power.stage) ∧
    (let s := { up with bell := { bellStart with pps := some 0, count := 1000100001 } }
     powered s = true ∧ s.bell.pps = some 0 ∧ 0 + 1000100000 < s.bell.count) := by
  and_intros <;> decide +kernel

/-! ### Encodings read back -/

theorem witness_PdusAndFramesReadBack :
    (255 < 256 ∧ 65535 < 65536 ∧ 2 ^ 32 - 1 < 2 ^ 32 ∧ (List.replicate 65535 (0 : Byte)).length < 65536 ∧ 4 ≠ 5) ∧
    (((1 ≤ 0x0A ∧ 0x0A ≤ 0x0A ∧ 7 < 8) ∨ (0x10 ≤ 0x0A ∧ 0x0A ≤ 0x13 ∧ 7 = 8)) ∧ ((1 ≤ 0x13 ∧ 0x13 ≤ 0x0A ∧ 8 < 8) ∨ (0x10 ≤ 0x13 ∧ 0x13 ≤ 0x13 ∧ 8 = 8)) ∧
      (List.replicate 32 (0 : Byte)).length = 32 ∧ (List.replicate 32800 (0 : Byte)).length ≤ 32 * 1025 ∧
      (∀ u ∈ [0, 1024], 32 * u < (List.replicate 32800 (0 : Byte)).length)) := by
  refine ⟨⟨by decide, by decide, by decide, ?_, by decide⟩, by decide, by decide, ?_, ?_, ?_⟩
  · rw [List.length_replicate]; decide
  · rw [List.length_replicate]
  · rw [List.length_replicate]
  · rw [List.length_replicate]; decide

/-! ### Reset and fuses -/

theorem witness_WhatPowerOnLeaves : (odFind 0x7100 1).isSome = true := by decide +kernel

theorem witness_FusesNeverCleared : step State.reset = .next State.reset ∧ ∀ n : Nat, counterOf State.reset n ≤ 64 :=
  ⟨rfl, fun _ => Nat.zero_le 64⟩

/-! ### A least program image -/

/-- The header before the digest: one step; step table and semaphore declarations at 256, streams at 3,328. -/
def imgHead : List Byte := bytesOf 88 [(0, 0x49505744), (4, 1), (6, 2), (8, 3344), (16, 1), (32, 256), (72, 256), (80, 3328)]

/-- A step table entry's stream: at the streams' start, one word. -/
def imgStream : List Byte := bytesOf 12 [(8, 1)]

/-- The step table: 256 streams that are one and the same. -/
def imgSteps256 : List Byte := (List.replicate 256 imgStream).flatten

/-- The STEP word. -/
def imgWord : List Byte := bytesOf 16 [(0, 3)]

/-- What follows the digest. -/
def imgRest : List Byte := List.replicate 104 0 ++ (imgSteps256 ++ imgWord)

/-- The digest of what comes before and after a digest field, the field zero. -/
def digestOf (a b : List Byte) : List Byte := shake256 64 (a ++ List.replicate 64 0 ++ b)

/-- The digest of the image with its digest field zero. -/
def imgDigest : List Byte := digestOf imgHead imgRest

/-- The image: one step whose streams are all the one STEP word. -/
@[irreducible] def imgLeast : List Byte := imgHead ++ (imgDigest ++ imgRest)

theorem keccakRound_length (a : List Nat) (rc : Nat) : (keccakRound a rc).length = 25 := rfl

theorem keccakF_length (a : List Nat) : (keccakF a).length = 25 := keccakRound_length _ _

theorem absorbAll_length (n : Nat) (a : List Nat) (bs : List Byte) (h : a.length = 25) : (absorbAll a bs n).length = 25 := by
  induction n generalizing a bs with
  | zero => exact h
  | succ n ih => exact ih _ _ (keccakF_length _)

theorem leBytes_length (n x : Nat) : (leBytes n x).length = n := by
  induction n generalizing x with
  | zero => rfl
  | succ n ih => simp [leBytes, ih]

theorem shake256_length (m : List Byte) : (shake256 64 m).length = 64 := by
  unfold shake256
  simp only [List.length_take, squeeze, List.append_nil, List.length_flatMap, leBytes_length]
  generalize hx : absorbAll _ _ _ = x
  have h : x.length = 25 := by rw [← hx]; exact absorbAll_length _ _ _ (by simp)
  simp [h, Function.const_def]

theorem imgDigest_length : imgDigest.length = 64 := shake256_length _

theorem imgHead_length : imgHead.length = 88 := by decide +kernel

theorem imgSteps256_length : imgSteps256.length = 3072 := by
  rw [imgSteps256, List.length_flatten, List.map_replicate, List.sum_replicate]
  decide +kernel

theorem imgRest_length : imgRest.length = 3192 := by
  rw [imgRest, List.length_append, List.length_append, imgSteps256_length, List.length_replicate]; rfl

theorem imgLeast_length : imgLeast.length = 3344 := by
  rw [imgLeast, List.length_append, List.length_append, imgHead_length, imgDigest_length, imgRest_length]

/-- The whole of a list. -/
theorem sub_whole (b : List Byte) (n : Nat) (h : b.length = n) : sub b 0 n = b := by subst h; simp [sub]

/-- A byte range of a repeated list that lies in one copy. -/
theorem sub_replicate (e : List Byte) (n i j k : Nat) (hi : i < n) (hk : j + k ≤ e.length) :
    sub (List.replicate n e).flatten (e.length * i + j) k = sub e j k := by
  induction n generalizing i with
  | zero => omega
  | succ n ih =>
    rw [List.replicate_succ, List.flatten_cons]
    cases i with
    | zero => rw [Nat.mul_zero, Nat.zero_add, sub_append_left _ _ _ _ hk]
    | succ i =>
      rw [sub_append_right _ _ _ _ (by rw [Nat.mul_succ]; omega), Nat.mul_succ]
      rw [show e.length * i + e.length + j - e.length = e.length * i + j from by omega]
      exact ih i (by omega)

/-- The image as memory. -/
abbrev imgMem : Memory := cellsOf 0 0 imgLeast

theorem imgMem_head (a k : Nat) (h : a + k ≤ 88) : memLe imgMem a k = leNat (sub imgHead a k) := by
  rw [memLe, memGetL_cellsOf, imgLeast, sub_append_left _ _ _ _ (by rw [imgHead_length]; exact h)]

theorem imgMem_rest (a k : Nat) : memGetL 0 imgMem (152 + a) k = sub imgRest a k := by
  rw [memGetL_cellsOf, imgLeast, sub_append_right _ _ _ _ (by rw [imgHead_length]; omega), imgHead_length,
    sub_append_right _ _ _ _ (by rw [imgDigest_length]; omega), imgDigest_length]
  congr 1; omega

theorem imgMem_tab (i : Nat) (h : i < 7) : imgTab imgMem i = [256, 0, 0, 0, 0, 256, 3328].getD i 0 := by
  rw [imgTab, imgMem_head _ _ (by omega)]
  exact (by decide +kernel : ∀ i, i < 7 → leNat (sub imgHead (32 + 8 * i) 8) = [256, 0, 0, 0, 0, 256, 3328].getD i 0) i h

/-- A read within the step table. -/
theorem imgMem_steps (i j k : Nat) (hi : i < 256) (hk : j + k ≤ 12) : memLe imgMem (256 + 12 * i + j) k = leNat (sub imgStream j k) := by
  rw [memLe, show 256 + 12 * i + j = 152 + (104 + (12 * i + j)) from by omega, imgMem_rest, imgRest,
    sub_append_right _ _ _ _ (by rw [List.length_replicate]; omega), List.length_replicate,
    show 104 + (12 * i + j) - 104 = 12 * i + j from by omega,
    sub_append_left _ _ _ _ (by rw [imgSteps256_length]; omega), imgSteps256]
  exact congrArg leNat (sub_replicate imgStream 256 i j k hi hk)

theorem streamAt_of (im : Memory) (t s o n v q : Nat) (h0 : imgTab im 0 = t) (h6 : imgTab im 6 = s) (h1 : memLe im (t + 12 * (4 * v + q) + 0) 8 = o)
    (h2 : memLe im (t + 12 * (4 * v + q) + 8) 4 = n) : streamAt im 0 v q = (s + 16 * o, n) := by
  rw [Nat.add_zero] at h1
  simp only [streamAt, h0, h6, Nat.mul_zero, Nat.add_zero, h1, h2]

theorem imgMem_stream (v q : Nat) (hv : v < 64) (hq : q < 4) : streamAt imgMem 0 v q = (3328 + 16 * 0, 1) :=
  streamAt_of imgMem 256 3328 0 1 v q (imgMem_tab 0 (by omega)) (imgMem_tab 6 (by omega))
    ((imgMem_steps (4 * v + q) 0 8 (by omega) (by omega)).trans (by decide +kernel))
    ((imgMem_steps (4 * v + q) 8 4 (by omega) (by omega)).trans (by decide +kernel))

theorem streamWords_of (im : Memory) (p w v q : Nat) (h1 : streamAt im 0 v q = (p + 16 * 0, 1)) (h2 : memLe im p 16 = w) :
    streamWords im 0 v q = [BitVec.ofNat 128 w] := by
  simp [streamWords, h1, h2, List.range_one]

theorem imgMem_words (v q : Nat) (hv : v < 64) (hq : q < 4) : streamWords imgMem 0 v q = [BitVec.ofNat 128 3] := by
  have h : memLe imgMem 3328 16 = 3 := by
    rw [memLe, show 3328 = 152 + 3176 from rfl, imgMem_rest, imgRest, sub_append_right _ _ _ _ (by rw [List.length_replicate]; omega),
      List.length_replicate, sub_append_right _ _ _ _ (by rw [imgSteps256_length]), imgSteps256_length]
    decide +kernel
  exact streamWords_of imgMem 3328 3 v q (imgMem_stream v q hv hq) h

theorem imgSteps256_small (i : Nat) : leNat (sub imgSteps256 i 1) < 64 := by
  have h : ∀ b ∈ imgSteps256, b.toNat < 2 := by
    intro b hb
    obtain ⟨l, hl, hb⟩ := List.mem_flatten.mp hb
    rw [List.eq_of_mem_replicate hl] at hb
    exact (by decide +kernel : ∀ b ∈ imgStream, b.toNat < 2) b hb
  have e : sub imgSteps256 i 1 = [(imgSteps256[i]?).getD 0] := by
    apply List.ext_getElem?
    intro k
    cases k with
    | zero => rw [sub_getElem _ _ _ _ (by omega)]; rfl
    | succ k => rw [List.getElem?_eq_none (by rw [sub_length]; omega)]; rfl
  rw [e]
  cases hx : imgSteps256[i]? with
  | none => decide
  | some b =>
    have := h b (List.mem_of_getElem? hx)
    show b.toNat + 256 * 0 < 64
    omega

theorem semAt_of (im : Memory) (t v i n : Nat) (h0 : imgTab im 5 = t) (h1 : memLe im (t + 32 * v + i) 1 = n) : semAt im v i = n := by
  rw [semAt, h0, h1]

theorem imgMem_sems (i : Nat) (h : i < 2048) : semAt imgMem (i / 32) (i % 32) < 64 := by
  have h1 : memLe imgMem (256 + 32 * (i / 32) + i % 32) 1 = leNat (sub imgSteps256 i 1) := by
    rw [memLe, show 256 + 32 * (i / 32) + i % 32 = 152 + (104 + i) from by omega, imgMem_rest, imgRest,
      sub_append_right _ _ _ _ (by rw [List.length_replicate]; omega), List.length_replicate, Nat.add_sub_cancel_left,
      sub_append_left _ _ _ _ (by rw [imgSteps256_length]; omega)]
  rw [semAt_of imgMem 256 _ _ _ (imgMem_tab 5 (by omega)) h1]
  exact imgSteps256_small i

/-- The header check of an image with one step, no other table but the streams and the semaphores. -/
theorem hdrOk_of (im : Memory) (hs : imgSteps im = 1) (h0 : memLe im 152 104 = 0) (hr : imgRegions im = 0) (hf : imgFspecs im = 0) (ho : imgOspecs im = 0)
    (hm : imgMasks im = 0) (t0 : imgTab im 0 = 256) (t1 : imgTab im 1 = 0) (t2 : imgTab im 2 = 0) (t3 : imgTab im 3 = 0) (t4 : imgTab im 4 = 0)
    (t5 : imgTab im 5 = 256) (t6 : imgTab im 6 = 3328) (m0 : memLe im 0 4 = 0x49505744) (m4 : memLe im 4 2 = 1) (m8 : memLe im 8 8 = 3344)
    (m25 : memLe im 25 1 = 0) (m26 : memLe im 26 6 = 0) (hst : ∀ v q, v < 64 → q < 4 → streamAt im 0 v q = (3328 + 16 * 0, 1)) :
    hdrOk im 3344 = true := by
  have he : (List.range 1).all (fun e => (List.range 256).all (fun i =>
      let p := streamAt im e (i / 4) (i % 4)
      decide (p.1 + 16 * p.2 ≤ 3344))) = true := by
    simp only [List.all_eq_true, List.mem_range, decide_eq_true_eq]
    intro e he i hi
    obtain rfl : e = 0 := by omega
    rw [hst _ _ (by omega) (by omega)]
    decide
  unfold hdrOk
  simp only [hs, h0, hr, hf, ho, hm, t0, t1, t2, t3, t4, t5, t6, m0, m4, m8, m25, m26]
  rw [he]
  rfl

/-- A field of the header. -/
theorem imgMem_field (a k n : Nat) (h : a + k ≤ 88) (hn : leNat (sub imgHead a k) = n) : memLe imgMem a k = n := (imgMem_head a k h).trans hn

theorem imgMem_steps1 : imgSteps imgMem = 1 := imgMem_field 16 2 1 (by omega) (by decide +kernel)
theorem imgMem_regions0 : imgRegions imgMem = 0 := imgMem_field 18 2 0 (by omega) (by decide +kernel)
theorem imgMem_fspecs0 : imgFspecs imgMem = 0 := imgMem_field 20 2 0 (by omega) (by decide +kernel)
theorem imgMem_ospecs0 : imgOspecs imgMem = 0 := imgMem_field 22 2 0 (by omega) (by decide +kernel)
theorem imgMem_masks0 : imgMasks imgMem = 0 := imgMem_field 24 1 0 (by omega) (by decide +kernel)
theorem imgMem_level2 : imgLevel imgMem = 2 := imgMem_field 6 2 2 (by omega) (by decide +kernel)

theorem imgMem_zeros : memLe imgMem 152 104 = 0 := by
  have h : memGetL 0 imgMem (152 + 0) 104 = List.replicate 104 0 := by
    rw [imgMem_rest, imgRest, sub_append_left _ _ _ _ (by rw [List.length_replicate]), sub_whole _ _ List.length_replicate]
  exact (congrArg leNat h).trans (by decide +kernel)

theorem imgLeast_hdrOk : hdrOk imgMem 3344 = true :=
  hdrOk_of imgMem imgMem_steps1 imgMem_zeros imgMem_regions0 imgMem_fspecs0 imgMem_ospecs0 imgMem_masks0 (imgMem_tab 0 (by omega)) (imgMem_tab 1 (by omega))
    (imgMem_tab 2 (by omega)) (imgMem_tab 3 (by omega)) (imgMem_tab 4 (by omega)) (imgMem_tab 5 (by omega)) (imgMem_tab 6 (by omega))
    (imgMem_field 0 4 _ (by omega) (by decide +kernel)) (imgMem_field 4 2 _ (by omega) (by decide +kernel)) (imgMem_field 8 8 _ (by omega) (by decide +kernel))
    (imgMem_field 25 1 _ (by omega) (by decide +kernel)) (imgMem_field 26 6 _ (by omega) (by decide +kernel)) imgMem_stream

theorem digestOk_of (im : Memory) (a d b : List Byte) (n m : Nat) (hm : n - 152 = m) (h1 : memGetL 0 im 0 88 = a) (h2 : memGetL 0 im 88 64 = d)
    (h3 : memGetL 0 im 152 m = b) (hd : d = digestOf a b) : digestOk im n = true := by
  unfold digestOf at hd
  unfold digestOk
  simp only [hm, h1, h2, h3, ← hd, decide_true]

theorem imgLeast_digestOk : digestOk imgMem 3344 = true := by
  have h1 : memGetL 0 imgMem 0 88 = imgHead := by
    rw [memGetL_cellsOf, imgLeast, sub_append_left _ _ _ _ (by rw [imgHead_length]), sub_whole _ _ imgHead_length]
  have h2 : memGetL 0 imgMem 88 64 = imgDigest := by
    rw [memGetL_cellsOf, imgLeast, sub_append_right _ _ _ _ (by rw [imgHead_length]), imgHead_length, Nat.sub_self,
      sub_append_left _ _ _ _ (by rw [imgDigest_length]), sub_whole _ _ imgDigest_length]
  have h3 : memGetL 0 imgMem (152 + 0) 3192 = imgRest := by rw [imgMem_rest, sub_whole _ _ imgRest_length]
  exact digestOk_of imgMem imgHead imgDigest imgRest 3344 3192 rfl h1 h2 h3 rfl

theorem tablesOk_of (im : Memory) (hr : imgRegions im = 0) (hf : imgFspecs im = 0) (ho : imgOspecs im = 0)
    (h : ∀ i, i < 2048 → semAt im (i / 32) (i % 32) < 64) : tablesOk im = true := by
  have h4 : (List.range 2048).all (fun i => decide (semAt im (i / 32) (i % 32) < 64)) = true := by
    simp only [List.all_eq_true, List.mem_range, decide_eq_true_eq]
    exact h
  unfold tablesOk
  rw [hr, hf, ho, h4]
  rfl

theorem imgLeast_tablesOk : tablesOk imgMem = true := tablesOk_of imgMem imgMem_regions0 imgMem_fspecs0 imgMem_ospecs0 imgMem_sems

/-- The four streams of a virtual engine that only steps. -/
def stepOnly : List (List IWord) := List.replicate 4 [BitVec.ofNat 128 3]

/-- The ordering check of those streams before and after its one barrier. -/
def sim0 : LSim := ⟨stepOnly, [0, 0, 0, 0], List.replicate 4 [0, 0, 0, 0], [], [], 0, []⟩
def sim1 : LSim :=
  ⟨[[], [], [], []], [1, 1, 1, 1], List.replicate 4 [1, 1, 1, 1], [], [], 1, [3, 2, 1, 0].map (fun q => ⟨q, 0, 0, [0, 0, 0, 0], []⟩)⟩

theorem sim0_queue (im : Memory) (v : Nat) (sh : List (List (List (Nat × Nat × Bool)))) : (List.range 4).findSome? (simQueue im v sh sim0) = none := rfl
theorem sim1_queue (im : Memory) (v : Nat) (sh : List (List (List (Nat × Nat × Bool)))) : (List.range 4).findSome? (simQueue im v sh sim1) = none := rfl
theorem sim0_barrier (im : Memory) (v : Nat) : simBarrier im v sim0 = some sim1 := rfl
theorem sim1_barrier (im : Memory) (v : Nat) : simBarrier im v sim1 = none := rfl

theorem simOf_stepOnly (im : Memory) (v : Nat) : simOf im v stepOnly = sim1 := by
  have h : simOf im v stepOnly = simAll im v (streamUses im stepOnly) 5 sim0 := rfl
  rw [h]
  simp only [simAll, sim0_queue, sim0_barrier, sim1_queue, sim1_barrier]

theorem entryReason_of (im : Memory) (h : ∀ v q, v < 64 → q < 4 → streamWords im 0 v q = [BitVec.ofNat 128 3]) : entryReason im 0 = none := by
  have h0 : (List.range 64).map (fun v => (List.range 4).map (streamWords im 0 v)) = List.replicate 64 stepOnly := by
    apply List.ext_getElem (by simp)
    intro v h1 h2
    simp only [List.length_map, List.length_range] at h1
    simp only [List.getElem_map, List.getElem_range, List.getElem_replicate]
    show [_, _, _, _] = stepOnly
    rw [h v 0 h1 (by omega), h v 1 h1 (by omega), h v 2 h1 (by omega), h v 3 h1 (by omega)]
    rfl
  have hz : ∀ p ∈ (List.replicate 64 stepOnly).zipIdx, p.1 = stepOnly := fun p hp =>
    List.eq_of_mem_replicate (List.fst_mem_of_mem_zipIdx hp)
  have hsim : (List.replicate 64 stepOnly).zipIdx.map (fun p => simOf im p.2 p.1) = List.replicate 64 (sim1) := by
    apply List.ext_getElem (by simp)
    intro v h1 h2
    simp only [List.getElem_map, List.getElem_replicate, List.getElem_zipIdx]
    exact simOf_stepOnly im _
  unfold entryReason
  simp only [h0, hsim]
  have c1 : (List.replicate 64 stepOnly).all (fun ws => ws.zipIdx.all (fun p => p.1.all (wordOk im p.2))) = true := by
    rw [List.all_replicate]; rfl
  have c7 : (List.replicate 64 stepOnly).all (fun ws => tensorsOk im (ws.getD 3 [])) = true := by
    rw [List.all_replicate]; rfl
  have c2 : (List.replicate 64 stepOnly).all shapeOk = true := by decide +kernel
  have c3 : (List.replicate 64 stepOnly).zipIdx.all (fun p => p.1.zipIdx.all (fun x => x.1.all (scopeOk im p.2 x.2))) = true := by
    rw [List.all_eq_true]
    intro p hp
    rw [hz p hp]
    rfl
  have c4 : (List.replicate 64 sim1).all (fun s => s.rest.all (·.isEmpty)) = true := by decide +kernel
  have c5 : (List.replicate 64 sim1).all (fun s => orderedOk s.nodes) = true := by decide +kernel
  have c6 : allArrivals im (List.replicate 64 stepOnly) = [] := by
    have h : (List.replicate 64 stepOnly).zipIdx.flatMap
        (fun p => p.1.flatMap (fun l => (wordSlices l).flatMap (fun x => arrivalsOf im p.2 x.1 x.2))) = [] := by
      rw [List.flatMap_eq_nil_iff]
      intro p hp
      rw [hz p hp]
      rfl
    rw [allArrivals, h, List.mergeSort_nil]
  rw [c1, c2, c3, c4, c5, c6, c7]
  simp

theorem imageReason_of (im : Memory) (n : Nat) (h1 : hdrOk im n = true) (h2 : digestOk im n = true) (h3 : imgLevel im = 2)
    (h4 : tablesOk im = true) (h5 : imgSteps im = 1) (h6 : entryReason im 0 = none) : imageReason im n = none := by
  have h8 : ([0].filterMap (entryReason im)).min? = none := by
    rw [List.filterMap_cons_none h6, List.filterMap_nil]; rfl
  unfold imageReason
  rw [h1, h2, h3, h4, h5, List.range_one, h8]
  decide +kernel

theorem loadReason_of (s : State) (im : Memory) (n : Nat) (h : imageReason im n = none) (h3 : imgLevel im = 2) (c : Nat) (h7 : levelAllowed s c 2 = true) :
    loadReason s c im n = none := by
  unfold loadReason
  rw [h, h3]
  simp only [h7, if_true]

theorem witness_AdminObjectCommands_load :
    let s := withHost (odPut (work croft0) 0x4100 2 (2 ^ 29)) 0 imgLeast
    let d := desc [(0, 0x88), (24, 3344)]
    AdminAccepted s 0 d 0x88 16 3 ∧ croft? s (adCroft d) = some croft0 ∧ hostRead (fetched s 0 adminRing d) (bytesAt d 16 8) (bytesAt d 24 8) = some imgLeast ∧
      loadReason (fetched s 0 adminRing d) (adCroft d) (cellsOf 0 0 imgLeast) (bytesAt d 24 8) = none ∧
      t1Room (fetched s 0 adminRing d) (adCroft d) croft0 ((bytesAt d 24 8 + 32767) / 32768 * 32768) = true := by
  have hn : bytesAt (desc [(0, 0x88), (24, 3344)]) 24 8 = 3344 := by decide +kernel
  have ha : bytesAt (desc [(0, 0x88), (24, 3344)]) 16 8 = 0 := by decide +kernel
  refine ⟨by decide +kernel, by decide +kernel, ?_, ?_, by decide +kernel⟩
  · rw [hn, ha]
    have h : memGetL 0 (cellsOf 0 0 imgLeast) 0 3344 = imgLeast := by rw [memGetL_cellsOf, sub_whole _ _ imgLeast_length]
    exact congrArg some h
  · rw [hn]
    exact loadReason_of _ imgMem 3344 (imageReason_of imgMem 3344 imgLeast_hdrOk imgLeast_digestOk imgMem_level2 imgLeast_tablesOk imgMem_steps1
      (entryReason_of imgMem imgMem_words)) imgMem_level2 _ (by decide +kernel)

/-! ### Values from outside the model -/

/-- The samples of set TV-CVT-E4M3-1 (04, conversion vectors): code, saturated, step-overflow. -/
theorem test_samples_e4m3 :
    let c (b opt : Nat) : Nat × Bool × Bool := let r := convert 4 opt (x32 b) none; (r.bits, r.sat, r.ovf)
    c 0x3F800000 0 = (0x38, false, false) ∧ c 0x3F880000 0 = (0x38, false, false) ∧ c 0x3F980000 0 = (0x3A, false, false) ∧
    c 0x3A800000 0 = (0x00, false, false) ∧ c 0x3AC00000 0 = (0x01, false, false) ∧ c 0x80000000 0 = (0x80, false, false) ∧
    c 0x43E80000 2 = (0x7E, false, false) ∧ c 0x43E88000 2 = (0x7F, false, true) ∧ c 0x43FA0000 0 = (0x7E, true, false) ∧
    c 0x7F800000 0 = (0x7E, true, false) ∧ c 0x7FC00000 0 = (0x7F, false, false) ∧ c 0x7F800000 2 = (0x7F, false, false) := by decide +kernel

/-- The samples of set TV-CVT-BF16-1. -/
theorem test_samples_bf16 :
    (convert 2 0 (x32 0x3F808000) none).bits = 0x3F80 ∧ (convert 2 0 (x32 0x3F818000) none).bits = 0x3F82 ∧
    (convert 2 0 (x32 0x7F7FFFFF) none).bits = 0x7F80 ∧ (convert 2 0 (x32 0x7F7FFFFF) none).ovf = true := by decide +kernel

/-- SHA3-512 of the empty message (FIPS 202); SHAKE256 of it is `test_shake_empty`. -/
theorem test_sha3_empty : leNat (sha3 []) = 0x26cd1d2886857501e3d3b6959d1900f558c53a2c40e9e3114cf9f5f13a12b215a6805c47c1dcd1e05958e24f1682c9976e755a18dc67b5c8c59a3aa2cc739fa6 := by decide +kernel

/-- SHAKE256 of a message of one whole block. -/
theorem test_shake256_block : leNat (shake256 16 (List.replicate 136 0x61)) = 0x46ed1e84ef69c7c82f6a1f0085acc8f := by decide +kernel

/-- The cyclic checks of "123456789", the published check values of CRC-32C and CRC-64. -/
theorem test_cyclic_checks :
    crc32c [0x31, 0x32, 0x33, 0x34, 0x35, 0x36, 0x37, 0x38, 0x39] = 0xE3069283 ∧
    crc64 [0x31, 0x32, 0x33, 0x34, 0x35, 0x36, 0x37, 0x38, 0x39] = 0x6C40DF5F0B497347 := by decide +kernel

/-- Examples of FIPS 197: the S-box at 53 (5.1.1), and MixColumns of the first column of round 1 (appendix B). -/
theorem test_aes_parts :
    aesSub 0x53 = 0xED ∧ (mixColumns [0xD4, 0xBF, 0x5D, 0x30, 0, 0, 0, 0, 0, 0, 0, 0, 0, 0, 0, 0]).take 4 = [0x04, 0x66, 0x81, 0xE5] := by decide +kernel

end Sys2Proof.Tests
end

section
/-! PROOFS of the matrix arrays: what an instruction that its queue takes does, an array read after one is replaced, and SWAP (R28). -/

namespace Sys2Proof.Machine

open Sys2Proof.Claims

/-! ### An instruction that its queue takes (R112, R119, R122) -/

/-- None of the refusals and waits of `engIssue` meets a word that its queue takes: an operation that takes effect is the state's. -/
theorem engIssue_of_taken {s t : State} {c v q op : Nat} {w : IWord} {e : EngEnv} {run : EngEnv → EngOut} {fl : EngFlags}
    (h : Taken s c v q op w e) (hrun : run (waited e w) = .done t fl) (after : State → State) :
    engIssue s c v q op w run after = after (effected t c w fl e) := by
  obtain ⟨henv, hopen, hnext, hop, hqueue, hrsv, hhdr, hwait⟩ := h
  have hmet : (bitOf w 8 && decide (veSem e.ve (fld w 13 9) = 0)) = false := by simpa using hwait
  unfold waited at hrun
  have hmember : q ∈ opQueues op := by simpa using hqueue
  simp [engIssue, henv, hopen, hnext, hop, hmember, hrsv, hhdr, hmet, hrun, effected]

/-- An operation on the instruction's own virtual engine that neither waits nor faults replaces that engine and puts the word in flight. -/
theorem engPure_of_taken {s : State} {c v q op : Nat} {w : IWord} {e : EngEnv} {f : EngEnv → EngRes} {ve : VEngine} {fl : EngFlags}
    (h : Taken s c v q op w e) (hf : f (waited e w) = .done ve fl) :
    engPure s c v q op w f = inFlight (setVe s c v ve) c v q w fl e := by
  have hrun : pureOp s c v (f (waited e w)) = .done (setVe s c v ve) fl := by rw [hf]; rfl
  unfold engPure engPlain inFlight
  exact engIssue_of_taken (run := fun x => pureOp s c v (f x)) h hrun _

/-! ### Arrays of a virtual engine -/

@[simp] theorem veArray_veSetArray_self (ve : VEngine) (i : Nat) (a : ArrayState) : veArray (veSetArray ve i a) i = a := by
  simp [veArray, veSetArray]

@[simp] theorem veArray_veSetArray_of_ne (ve : VEngine) (a : ArrayState) {i j : Nat} (h : j ≠ i) :
    veArray (veSetArray ve i a) j = veArray ve j := by
  simp [veArray, veSetArray, h]

/-! ### SWAP (R28) -/

/-- An array with its shadow copied to its active registers, side state with it, and the shadow's load used (R28, R30). -/
def swapArray (a : ArrayState) : ArrayState := { a with active := a.shadow, actSide := a.shSide, unused := false }

@[simp] theorem swapArray_active (a : ArrayState) : (swapArray a).active = a.shadow := rfl
@[simp] theorem swapArray_actSide (a : ArrayState) : (swapArray a).actSide = a.shSide := rfl
@[simp] theorem swapArray_shadow (a : ArrayState) : (swapArray a).shadow = a.shadow := rfl
@[simp] theorem swapArray_shSide (a : ArrayState) : (swapArray a).shSide = a.shSide := rfl

/-- SWAP takes effect exactly where no shadow load of its array is in flight, and then swaps that array alone. -/
theorem doSwap_eq_done_iff (ve ve' : VEngine) (w : IWord) (fl : EngFlags) :
    doSwap ve w = .done ve' fl ↔
      anyInA ve (fun u => fld u 7 0 = 0x20 && fld u 52 50 = fld w 34 32) = false ∧
        ve' = veSetArray ve (fld w 34 32) (swapArray (veArray ve (fld w 34 32))) ∧ fl = noFlags := by
  unfold doSwap swapArray
  dsimp only
  split
  case isTrue hload => simp [hload]
  case isFalse hload =>
    rw [Bool.not_eq_true] at hload
    rw [EngRes.done.injEq, and_iff_right hload]
    exact and_congr eq_comm eq_comm

theorem exec_swap (c : Fin 32) (v : Fin 64) (w : IWord) (s : State) :
    exec (.swap c v w) s = .next (engPure s c v 1 0x21 w (fun e => doSwap e.ve w)) := rfl

/-- Settles O4: the array the SWAP leaves is `swapArray` of the one it found, whose active side a further SWAP takes from the same shadow. -/
theorem swapCopiesShadowToActive : Obligations.SwapCopiesShadowToActive := by
  unfold Obligations.SwapCopiesShadowToActive
  intro c v w s e htaken hload
  have hswap := (doSwap_eq_done_iff _ _ w noFlags).2 ⟨hload, rfl, rfl⟩
  refine ⟨_, by rw [exec_swap, engPure_of_taken (f := fun x => doSwap x.ve w) htaken hswap], ?_⟩
  refine ⟨by simp, by simp, by simp, by simp, fun n hn => veArray_veSetArray_of_ne _ _ hn, ?_⟩
  intro x ve2 fl hx hagain
  obtain ⟨-, rfl, -⟩ := (doSwap_eq_done_iff _ _ _ _).1 hagain
  simp [hx]

end Sys2Proof.Machine
end

section
/-! PROOFS of the code flash: a sector of the memory cleared, what an operation's end leaves of FSTAT, erased double words and sectors, and the blank checks (R408 to R410). -/

namespace Sys2Proof.Machine

open Sys2Proof.Claims

/-! ### A sector of the code flash cleared -/

/-- Reading after a range is cleared. -/
theorem memGet_memClear (d : Byte) (m : Memory) (a n x : Nat) :
    memGet d (memClear m a n) x = if x < a ∨ a + n ≤ x then memGet d m x else d := by
  unfold memGet memClear
  rw [lookup_filter (α := Byte) m (fun y => decide (y < a) || decide (a + n ≤ y))]
  by_cases h : x < a ∨ a + n ≤ x <;> simp [h]

/-- Clearing the 64 KiB of a sector is clearing every address of that sector and no other. -/
theorem memGet_memClear_sector (d : Byte) (m : Memory) (n x : Nat) :
    memGet d (memClear m (65536 * n) 65536) x = if x / 65536 = n then d else memGet d m x := by
  have hout : (x < 65536 * n ∨ 65536 * n + 65536 ≤ x) ↔ ¬ x / 65536 = n := by omega
  simp only [memGet_memClear, hout, ite_not]

@[simp] theorem activationLost_flash (s : State) (n : Nat) : (activationLost s n).flash = s.flash := by
  simp only [activationLost]
  split_ifs <;> rfl

/-- What an erase leaves of the bytes, whichever record the sector held beside them (R409). -/
@[simp] theorem sectorErase_bytes (s : State) (n : Nat) :
    (sectorErase s n).flash.bytes = memClear s.flash.bytes (65536 * n) 65536 := by
  rw [sectorErase, activationLost_flash]
  split_ifs <;> rfl

/-! ### Bits of FSTAT (R408) -/

theorem fsHas_two_pow (s : State) (k : Nat) : fsHas s (2 ^ k) = s.flash.fstat.testBit k := by
  rw [fsHas, Nat.testBit_eq_decide_div_mod_eq]

theorem fsHas_blankFail (s : State) : fsHas s fsBlankFail = s.flash.fstat.testBit 6 := fsHas_two_pow s 6

theorem fsHas_busy (s : State) : fsHas s fsBusy = s.flash.fstat.testBit 0 := fsHas_two_pow s 0

/-- DONE set and BUSY, which was set, cleared: the bits above both stay. -/
theorem testBit_done_sub_busy {x k : Nat} (hbusy : x.testBit 0 = true) (hk : 2 ≤ k) :
    ((x ||| fsDone) - fsBusy).testBit k = x.testBit k := by
  have hdone : (x ||| fsDone).testBit k = x.testBit k := by
    rw [Nat.testBit_or, show fsDone = 2 ^ 1 from rfl, Nat.testBit_two_pow_of_ne (by omega), Bool.or_false]
  have hodd : (x ||| fsDone) % 2 = 1 := by
    refine of_decide_eq_true ?_
    rw [← Nat.testBit_zero, Nat.testBit_or, hbusy, Bool.true_or]
  obtain ⟨j, rfl⟩ : ∃ j, k = j + 1 := ⟨k - 1, by omega⟩
  rw [← hdone, Nat.testBit_succ, Nat.testBit_succ, show ((x ||| fsDone) - fsBusy) / 2 = (x ||| fsDone) / 2 by unfold fsBusy; omega]

/-! ### Erased double words and sectors (R409) -/

/-- Every double word of an erased sector is erased. -/
theorem wordErased_of_sectorErased {s : State} {a : Nat} (halign : a % 8 = 0) (hrange : a < 2 ^ 21)
    (h : sectorErased s (sectorOf a) = true) : wordErased s a = true := by
  simp only [sectorErased, Bool.and_eq_true, Bool.not_eq_true', Bool.or_eq_true, List.any_eq_false, decide_eq_true_eq] at h
  obtain ⟨⟨hopaque, hbytes⟩, hones⟩ := h
  have hread : ∀ i < 8, memGet 0xFF s.flash.bytes (a + i) = 0xFF := by
    intro i hi
    have hnone : s.flash.bytes.lookup (a + i) = none := by
      refine lookup_none_of_not_mem (α := Byte) _ _ fun c hc hca => hbytes c hc ?_
      unfold sectorOf
      omega
    rw [memGet, hnone, Option.getD_none]
  have hword : (memGetL 0xFF s.flash.bytes a 8).all (· = 0xFF) = true := by
    simpa [memGetL] using hread
  have hnot : (!s.flash.ones.contains a || Config.onesErased) = true := by
    rcases hones with hnone | hopen
    · have : a ∉ s.flash.ones := fun ha => hnone a ha rfl
      simp [this]
    · simp [hopen]
  simp only [wordErased, hopaque, hword, hnot, Bool.not_false, Bool.and_self]

/-- A sector in which no byte and no double word of ones has been programmed is erased. -/
theorem sectorErased_of_untouched {s : State} {n : Nat} (hopaque : sectorOpaque s n = false)
    (hbytes : ∀ c ∈ s.flash.bytes, c.1 / 65536 ≠ n) (hones : ∀ a ∈ s.flash.ones, sectorOf a ≠ n) : sectorErased s n = true := by
  have hb : s.flash.bytes.any (fun c => c.1 / 65536 = n) = false := by simpa [List.any_eq_false] using hbytes
  have ho : s.flash.ones.any (fun a => sectorOf a = n) = false := by simpa [List.any_eq_false] using hones
  simp [sectorErased, hopaque, hb, ho]

/-! ### A program refused, and the end of an erase and of a blank check (R408 to R410) -/

/-- The write of FDATA1 over a double word that is not erased: POU set, the flash locked, the bytes kept. -/
theorem flashHigh_of_not_erased {s : State} {v : Nat} (hidle : fsHas s fsBusy = false) (hlock : s.flash.lock = 5)
    (hprot : sectorProt s (sectorOf s.flash.faddr) = false) (hword : wordErased s s.flash.faddr = false) :
    flashHigh s v = { s with flash := { s.flash with dhi := v, lock := 0, fstat := s.flash.fstat ||| fsPou } } := by
  simp [flashHigh, hidle, hlock, hprot, hword, flashRefuse, flashLock, fsSet]

theorem flashEffect_of_erase {s : State} (h : s.flash.fcmd = 2) : flashEffect s = sectorErase s (sectorOf s.flash.faddr) := by
  simp [flashEffect, h]

theorem flashEffect_of_blankCheck {s : State} (h : s.flash.fcmd = 3) :
    flashEffect s = if sectorErased s (sectorOf s.flash.faddr) then s else fsSet s fsBlankFail := by
  simp [flashEffect, h]

theorem flashFinish_bytes_of_busy {s : State} (hbusy : fsHas s fsBusy = true) :
    (flashFinish s).flash.bytes = (flashEffect s).flash.bytes := by
  simp [flashFinish, hbusy, flashLock]

theorem flashFinish_fstat_of_busy {s : State} (hbusy : fsHas s fsBusy = true) :
    (flashFinish s).flash.fstat = ((flashEffect s).flash.fstat ||| fsDone) - fsBusy := by
  simp [flashFinish, hbusy, flashLock]

/-- BLANKFAIL after a blank check: raised over a sector that is not erased, and kept where it was set before. -/
theorem fsHas_blankFail_flashFinish {s : State} (hbusy : fsHas s fsBusy = true) (hcmd : s.flash.fcmd = 3) :
    fsHas (flashFinish s) fsBlankFail = (fsHas s fsBlankFail || !sectorErased s (sectorOf s.flash.faddr)) := by
  have hbit0 : s.flash.fstat.testBit 0 = true := by rw [← fsHas_busy, hbusy]
  simp only [fsHas_blankFail, flashFinish_fstat_of_busy hbusy, flashEffect_of_blankCheck hcmd]
  cases hsector : sectorErased s (sectorOf s.flash.faddr)
  case true => simpa using testBit_done_sub_busy hbit0 (by decide : 2 ≤ 6)
  case false =>
    have hset : (s.flash.fstat ||| fsBlankFail).testBit 0 = true := by rw [Nat.testBit_or, hbit0, Bool.true_or]
    have hraised : (s.flash.fstat ||| fsBlankFail).testBit 6 = true := by
      rw [Nat.testBit_or, show fsBlankFail = 2 ^ 6 from rfl, Nat.testBit_two_pow_self, Bool.or_true]
    simpa [fsSet, hraised] using testBit_done_sub_busy hset (by decide : 2 ≤ 6)

/-! ### The instructions -/

theorem exec_flashProgram_of_alive {s : State} (h : alive s = true) (v : W32) :
    exec (.flashProgram v) s = .next (flashHigh s v.toNat) := by
  show execFlashProgram v s = _
  rw [execFlashProgram, if_pos h]

theorem exec_flashOperationDone_of_alive {s : State} (h : alive s = true) :
    exec .flashOperationDone s = .next (flashFinish s) := by
  show execFlashOperationDone s = _
  rw [execFlashOperationDone, if_pos h]

/-- Settles O56: an erase clears the addresses of its sector alone, and BLANKFAIL after a blank check follows whether the sector is erased, which it is not where one double word of it is not. -/
theorem flashBlankChecks : Obligations.FlashBlankChecks := by
  unfold Obligations.FlashBlankChecks
  intro s halive
  have hbusyBit : s.flash.fstat % 2 = 1 → fsHas s fsBusy = true := fun h => by simp [fsHas, fsBusy, h]
  refine ⟨?_, ?_, ?_⟩
  · intro v hidle hlock hprot hword
    have hnotBusy : fsHas s fsBusy = false := by simp [fsHas, fsBusy, hidle]
    rw [exec_flashProgram_of_alive halive, flashHigh_of_not_erased hnotBusy hlock hprot hword]
    rfl
  · intro hbusy hcmd
    refine ⟨_, exec_flashOperationDone_of_alive halive, fun a _ => ?_⟩
    rw [flashFinish_bytes_of_busy (hbusyBit hbusy), flashEffect_of_erase hcmd, sectorErase_bytes, memGet_memClear_sector]
  · intro hbusy hcmd
    have hfail := fsHas_blankFail_flashFinish (hbusyBit hbusy) hcmd
    refine ⟨_, exec_flashOperationDone_of_alive halive, ?_, ?_⟩
    · rintro ⟨a, halign, hrange, hsector, hword⟩
      have hsame : sectorOf s.flash.faddr = sectorOf a := by
        unfold sectorOf at hsector ⊢
        omega
      have hnot : sectorErased s (sectorOf a) = false := by
        rw [Bool.eq_false_iff] at hword ⊢
        exact mt (wordErased_of_sectorErased halign hrange) hword
      show fsHas (flashFinish s) fsBlankFail = true
      rw [hfail, hsame, hnot, Bool.not_false, Bool.or_true]
    · intro hclear hopaque hbytes hones
      have hbefore : fsHas s fsBlankFail = false := by simp [fsHas, fsBlankFail, hclear]
      show fsHas (flashFinish s) fsBlankFail = false
      rw [hfail, hbefore, sectorErased_of_untouched hopaque hbytes hones]
      rfl

end Sys2Proof.Machine
end

section
/-! PROOFS of the encodings: a Bell frame whose byte 7 of the parameter block is set breaks the layout of R303. -/

namespace Sys2Proof.Machine

/-! ### Encodings read back (R291, R303) -/

/-- A Bell frame with no payload whose parameter block is all ones: its reserved byte 39 is not 0 (R303). -/
def bellFrameReserved : List Byte := mkFrame 0x12 8 0 0 0 0 0 0 false (List.replicate 32 1) [] []

theorem frType_bellFrameReserved : frType bellFrameReserved = 0x12 := by decide

theorem leAt_bellFrameReserved : leAt bellFrameReserved 39 1 = 1 := by decide

/-- A Bell frame whose byte 39 is set is refused by every port (R303). -/
theorem frameOk_of_bell_reserved {b : List Byte} (htype : frType b = 0x12) (hbyte : leAt b 39 1 ≠ 0) : frameOk b = false := by
  simp [frameOk, htype, hbyte]

/-- Refutes O60: a Bell frame (type 0x12) built with a parameter block whose byte 7 is not 0 has byte 39 set, which the layout it demands of others holds to be 0 (R303). -/
theorem not_pdusAndFramesReadBack : ¬ Obligations.PdusAndFramesReadBack := by
  unfold Obligations.PdusAndFramesReadBack
  rintro ⟨-, hframe⟩
  have hok : frameOk bellFrameReserved = true :=
    (hframe 0x12 8 0 0 0 0 0 0 false (List.replicate 32 1) [] [] (.inr ⟨by decide, by decide, rfl⟩) (by decide) (by decide) (by decide)
      (by decide) (by decide) (by decide) (by decide) (by decide) (by simp)).1
  have hbad : frameOk bellFrameReserved = false :=
    frameOk_of_bell_reserved frType_bellFrameReserved (by rw [leAt_bellFrameReserved]; decide)
  rw [hbad] at hok
  exact Bool.false_ne_true hok

end Sys2Proof.Machine
end

section
/-! PROOFS of the fuse block: every operation but the advance of the anti-rollback counters leaves it as it is (R449, R450). -/

set_option linter.all false

namespace Sys2Proof.Machine

/-! ### Choices and loops -/

/-- A choice between states, read at the fuse block. -/
@[simp] theorem fuse_ite (c : Prop) [Decidable c] (a b : State) : (if c then a else b).fuse = if c then a.fuse else b.fuse :=
  apply_ite State.fuse c a b

/-- A loop keeps the fuse block where each of its steps does. -/
@[simp] theorem fuse_foldl {α : Type} {f : State → α → State} (h : ∀ s x, (f s x).fuse = s.fuse) (l : List α) (s : State) :
    (l.foldl f s).fuse = s.fuse := by
  induction l generalizing s with
  | nil => rfl
  | cons x l ih => rw [List.foldl_cons, ih, h]

/-- The same for a loop that carries a value beside the state. -/
@[simp] theorem fuse_foldl_snd {α β : Type} {f : β × State → α → β × State} (h : ∀ p x, (f p x).2.fuse = p.2.fuse) (l : List α)
    (p : β × State) : (l.foldl f p).2.fuse = p.2.fuse := by
  induction l generalizing p with
  | nil => rfl
  | cons x l ih => rw [List.foldl_cons, ih, h]

/-- The same for a loop that carries two values beside the state. -/
@[simp] theorem fuse_foldl_snd_snd {α β γ : Type} {f : β × γ × State → α → β × γ × State} (h : ∀ p x, (f p x).2.2.fuse = p.2.2.fuse)
    (l : List α) (p : β × γ × State) : (l.foldl f p).2.2.fuse = p.2.2.fuse := by
  induction l generalizing p with
  | nil => rfl
  | cons x l ih => rw [List.foldl_cons, ih, h]

/-! ### Outcomes of engine operations -/

/-- The state an operation of an engine leaves, whichever way it ends. -/
def outState : EngOut → State
  | .stall s => s
  | .fault s _ _ => s
  | .done s _ => s

@[simp] theorem outState_stall (s : State) : outState (.stall s) = s := rfl
@[simp] theorem outState_fault (s : State) (code d : Nat) : outState (.fault s code d) = s := rfl
@[simp] theorem outState_done (s : State) (fl : EngFlags) : outState (.done s fl) = s := rfl

@[simp] theorem outState_ite (c : Prop) [Decidable c] (a b : EngOut) : outState (if c then a else b) = if c then outState a else outState b :=
  apply_ite outState c a b

/-- The state a read of a region leaves: the one it found where it is refused. -/
def gotState (s : State) : Got → State
  | .wait t => t
  | .bad _ => s
  | .ok _ t => t

@[simp] theorem gotState_wait (s t : State) : gotState s (.wait t) = t := rfl
@[simp] theorem gotState_bad (s : State) (code : Nat) : gotState s (.bad code) = s := rfl
@[simp] theorem gotState_ok (s t : State) (shs : List Sheaf) : gotState s (.ok shs t) = t := rfl

theorem gotState_fuse_of_ite {s : State} {p : Prop} [Decidable p] {a b g : Got} (h : (if p then a else b) = g)
    (ha : (gotState s a).fuse = s.fuse) (hb : (gotState s b).fuse = s.fuse) : (gotState s g).fuse = s.fuse := by
  subst h
  split <;> assumption

@[simp] theorem gotState_ite (s : State) (c : Prop) [Decidable c] (a b : Got) :
    gotState s (if c then a else b) = if c then gotState s a else gotState s b :=
  apply_ite (gotState s) c a b

theorem inr_of_ite {p : Prop} [Decidable p] {n : Nat} {s t : State} (h : (if p then .inl n else .inr s : Nat ⊕ State) = .inr t) : s = t := by
  split at h <;> cases h
  rfl

/-! ### Ops -/

@[simp] theorem bumpMax_fuse (s : State) (i : Nat) (sub : Nat) (v : Nat) : (bumpMax s i sub v).fuse = s.fuse := by simp [bumpMax]
@[simp] theorem freshBytes_fuse (n : Nat) (s : State) : (freshBytes n s).2.fuse = s.fuse := by
  induction n generalizing s with
  | zero => rfl
  | succ n ih => simp [freshBytes, ih]
@[simp] theorem notifyOne_fuse (s : State) (sid : Nat) (n : Session) (entry : List Byte) : (notifyOne s sid n entry).fuse = s.fuse := by simp [notifyOne]
@[simp] theorem notify_fuse (s : State) (cls : Nat) (croft : Nat) (entry : List Byte) : (notify s cls croft entry).fuse = s.fuse := by simp [notify]
@[simp] theorem logEvent_fuse (s : State) (cls : Nat) (sev : Nat) (unit : Nat) (place : Nat) (subplace : Nat) (symbol : Nat) (addr : Nat) (detail : List Byte) : (logEvent s cls sev unit place subplace symbol addr detail).fuse = s.fuse := by simp [logEvent]
@[simp] theorem moduleEvent_fuse (s : State) (cls : Nat) (detail : List Byte) : (moduleEvent s cls detail).fuse = s.fuse := by simp [moduleEvent]
@[simp] theorem eringWrite_fuse (s : State) (c : Nat) (k : Croft) (e : ERing) (entry : List Byte) : (eringWrite s c k e entry).fuse = s.fuse := rfl
@[simp] theorem croftEvent_fuse (s : State) (c : Nat) (cls : Nat) (body : List Byte) : (croftEvent s c cls body).fuse = s.fuse := by unfold croftEvent; dsimp only; (repeat' split) <;> simp
@[simp] theorem overflowEvent_fuse (s : State) (c : Nat) : (overflowEvent s c).fuse = s.fuse := by unfold overflowEvent; (repeat' split) <;> simp
@[simp] theorem errorEvent_fuse (s : State) (croft : Option Nat) (cls : Nat) (sev : Nat) (unit : Nat) (place : Nat) (subplace : Nat) (symbol : Nat) (addr : Nat) (detail : List Byte) : (errorEvent s croft cls sev unit place subplace symbol addr detail).fuse = s.fuse := by unfold errorEvent; split <;> simp
@[simp] theorem cringAppend_fuse (s : State) (f : Nat) (n : Nat) (place : Nat → List Byte) : (cringAppend s f n place).fuse = s.fuse := by unfold cringAppend; dsimp only; split <;> simp
@[simp] theorem cringSignal_fuse (s : State) (f : Nat) (n : Nat) (ioc : Bool) : (cringSignal s f n ioc).fuse = s.fuse := by unfold cringSignal; dsimp only; split <;> simp
@[simp] theorem ticketDone_fuse (s : State) (t : Ticket) (comp : Nat) : (ticketDone s t comp).fuse = s.fuse := rfl
@[simp] theorem postOnly_fuse (s : State) (t : Ticket) (status : Nat) (flags : Nat) (detail : Nat) (result : Nat) (result2 : Nat) (ext : Option (List Byte)) : (postOnly s t status flags detail result result2 ext).fuse = s.fuse := by unfold postOnly; dsimp only; (repeat' split) <;> simp
@[simp] theorem idleComps_fuse (s : State) (f : Nat) : (idleComps s f).fuse = s.fuse := by simp [idleComps]
@[simp] theorem ringDrained_fuse (s : State) (f : Nat) (ring : Nat) : (ringDrained s f ring).fuse = s.fuse := by unfold ringDrained; dsimp only; (repeat' split) <;> simp
@[simp] theorem complete_fuse (s : State) (t : Ticket) (status : Nat) (flags : Nat) (detail : Nat) (result : Nat) (result2 : Nat) (ext : Option (List Byte)) : (complete s t status flags detail result result2 ext).fuse = s.fuse := by simp [complete]
@[simp] theorem done_fuse (s : State) (t : Ticket) (status : Nat) : (done s t status).fuse = s.fuse := by simp [done]
@[simp] theorem doneResult_fuse (s : State) (t : Ticket) (result : Nat) : (doneResult s t result).fuse = s.fuse := by simp [doneResult]
@[simp] theorem ringError_fuse (s : State) (f : Nat) (c : Nat) (n : Nat) (kind : Nat) : (ringError s f c n kind).fuse = s.fuse := by simp [ringError]
@[simp] theorem takeTicket_fuse (s : State) (f : Nat) (ring : Nat) (d : Desc) : (takeTicket s f ring d).2.fuse = s.fuse := by unfold takeTicket; dsimp only; split <;> simp
theorem withDescriptor_fuse {effect : State → Nat → Ticket → State} (h : ∀ s c t, (effect s c t).fuse = s.fuse) (s : State) (f : Fin 33)
    (ring : Nat) (d : Desc) (op minStage notReady : Nat) : (withDescriptor s f ring d op minStage notReady effect).fuse = s.fuse := by
  simp [withDescriptor, h]

/-! ### Clusters -/

@[simp] theorem wakeCluster_fuse (s : State) (n : Nat) : (wakeCluster s n).fuse = s.fuse := by simp [wakeCluster]
@[simp] theorem wakeCroft_fuse (s : State) (c : Nat) : (wakeCroft s c).fuse = s.fuse := by unfold wakeCroft; split <;> simp
@[simp] theorem wakeKept_fuse (s : State) : (wakeKept s).fuse = s.fuse := by simp [wakeKept]
@[simp] theorem gateCluster_fuse (s : State) (n : Nat) : (gateCluster s n).fuse = s.fuse := rfl

/-! ### Ramp -/

@[simp] theorem rampRows_fuse (s : State) (e : Nat) (a : Nat) : (rampRows s e a).fuse = s.fuse := by simp [rampRows]
@[simp] theorem rampDry_fuse (s : State) (e : Nat) (a : Nat) : (rampDry s e a).fuse = s.fuse := by simp [rampDry]

/-! ### Tiers -/

@[simp] theorem allocFrame_fuse (s : State) (c : Nat) (strong : Bool) (want : Nat) : (allocFrame s c strong want).2.fuse = s.fuse := by simp [allocFrame]
@[simp] theorem freeFrame_fuse (s : State) (fr : Nat) : (freeFrame s fr).fuse = s.fuse := rfl
@[simp] theorem freeFrames_fuse (s : State) (l : List Nat) : (freeFrames s l).fuse = s.fuse := rfl
@[simp] theorem wordEvents_fuse (s : State) (croft : Option Nat) (st : Nat) (w : Nat) (strong : Bool) (d : Decoded) : (wordEvents s croft st w strong d).fuse = s.fuse := by simp [wordEvents]
@[simp] theorem stackAccess_fuse (s : State) (st : Nat) : (stackAccess s st).fuse = s.fuse := rfl
@[simp] theorem putPattern_fuse (s : State) (st : Nat) (w : Nat) (e : BitVec 288) : (putPattern s st w e).fuse = s.fuse := rfl
@[simp] theorem readFrame_fuse (s : State) (croft : Option Nat) (fr : Nat) (sh : Sheaf) : (readFrame s croft fr sh).2.2.fuse = s.fuse := by
  unfold readFrame
  exact (fuse_foldl_snd_snd (fun p x => by simp) ..).trans (by simp)
@[simp] theorem hbmMoved_fuse (s : State) (c : Nat) (st : Nat) (n : Nat) : (hbmMoved s c st n).fuse = s.fuse := by simp [hbmMoved]
@[simp] theorem flashRead_fuse (s : State) (c : Nat) (cls : Nat) : (flashRead s c cls).fuse = s.fuse := rfl
@[simp] theorem enterCheck_fuse (s : State) (c : Nat) (sh : Sheaf) : (enterCheck s c sh).2.fuse = s.fuse := by unfold enterCheck; split <;> simp
@[simp] theorem clearT0_fuse (s : State) (c : Nat) (key : List Nat) : (clearT0 s c key).fuse = s.fuse := rfl
@[simp] theorem dropCopy_fuse (s : State) (c : Nat) (y : Copy) : (dropCopy s c y).fuse = s.fuse := by unfold dropCopy; split <;> simp
@[simp] theorem evictFor_fuse (names : AlmRec → Copy → Bool) (pos : Int) (c : Nat) (p : Option Nat) (n : Nat) (s : State) :
    (evictFor names pos c p n s).fuse = s.fuse := by
  induction n generalizing s with
  | zero => rfl
  | succ n ih => unfold evictFor; (repeat' split) <;> simp [ih]

/-! ### Sram -/

@[simp] theorem sramEvent_fuse (c : Nat) (memory : Nat) (s : State) : (sramEvent c memory s).fuse = s.fuse := by simp [sramEvent]
@[simp] theorem sramNote_fuse (s : State) (c : Nat) (memory : Nat) (soft : Nat) (hard : Nat) : (sramNote s c memory soft hard).fuse = s.fuse := by simp [sramNote]
@[simp] theorem sramLog_fuse (s : State) (c : Nat) (im : Memory) (ve : VEngine) (w : IWord) : (sramLog s c im ve w).fuse = s.fuse := by simp [sramLog]
@[simp] theorem readT0_fuse (s : State) (c : Nat) (key : List Nat) (sh : Sheaf) : (readT0 s c key sh).2.fuse = s.fuse := by unfold readT0; dsimp only; (repeat' split) <;> simp

/-! ### KamTx -/

@[simp] theorem oweFor_fuse (s : State) (p : Nat) (cls : Nat) (cost : Nat) : (oweFor s p cls cost).fuse = s.fuse := rfl
@[simp] theorem oweCredits_fuse (s : State) (p : Nat) (b : List Byte) : (oweCredits s p b).fuse = s.fuse := rfl
@[simp] theorem leaveInbound_fuse (s : State) (fr : TxFrame) : (leaveInbound s fr).fuse = s.fuse := by unfold leaveInbound; split <;> simp
@[simp] theorem sendOne_fuse (s : State) (p : Nat) (fr : TxFrame) : (sendOne s p fr).fuse = s.fuse := by simp [sendOne]
@[simp] theorem pumpLoop_fuse (p n : Nat) (acc : List (List Byte)) (s : State) : (pumpLoop p n acc s).2.fuse = s.fuse := by
  induction n generalizing acc s with
  | zero => rfl
  | succ n ih => unfold pumpLoop; dsimp only; (repeat' split) <;> simp [ih]
@[simp] theorem sendFlits_fuse (s : State) (p seq : Nat) (l : List TxFlit) : (sendFlits s p seq l).fuse = s.fuse := by
  unfold sendFlits
  dsimp only
  rw [fuse_foldl (fun s f => transmit_fuse ..), bump_fuse]
@[simp] theorem sendBurst_fuse (s : State) (p : Nat) (l : List (List Byte)) : (sendBurst s p l).fuse = s.fuse := by simp [sendBurst]
@[simp] theorem pump_fuse (s : State) (p : Nat) : (pump s p).fuse = s.fuse := by simp [pump]
@[simp] theorem queueOn_fuse (s : State) (p : Nat) (fr : TxFrame) : (queueOn s p fr).fuse = s.fuse := by simp [queueOn]
@[simp] theorem sendOn_fuse (s : State) (fr : TxFrame) : (sendOn s fr).fuse = s.fuse := by unfold sendOn; split <;> simp
@[simp] theorem sendFrameTo_fuse (s : State) (dst : Nat) (croft : Nat) (b : List Byte) : (sendFrameTo s dst croft b).fuse = s.fuse := by unfold sendFrameTo; split <;> simp
@[simp] theorem sendOnPort_fuse (s : State) (p : Nat) (croft : Nat) (b : List Byte) : (sendOnPort s p croft b).fuse = s.fuse := by simp [sendOnPort]
@[simp] theorem reroute_fuse (s : State) : (reroute s).fuse = s.fuse := by simp [reroute]
@[simp] theorem sendCredits_fuse (s : State) (p : Nat) (tag : Nat) (step : Nat) (attempt : Nat) : (sendCredits s p tag step attempt).fuse = s.fuse := by simp [sendCredits]
@[simp] theorem discardFrame_fuse (s : State) (p : Nat) (b : List Byte) : (discardFrame s p b).fuse = s.fuse := rfl
@[simp] theorem routingEvent_fuse (s : State) (p : Nat) (b : List Byte) : (routingEvent s p b).fuse = s.fuse := by simp [routingEvent]
@[simp] theorem dropPassing_fuse (s : State) (src : Nat) (tag : Nat) (step : Nat) (attempt : Nat) : (dropPassing s src tag step attempt).fuse = s.fuse := by simp [dropPassing]
@[simp] theorem forwardFrame_fuse (s : State) (p : Nat) (b : List Byte) : (forwardFrame s p b).fuse = s.fuse := by simp [forwardFrame]
theorem withFrame_fuse {effect : State → State} (h : ∀ s, (effect s).fuse = s.fuse) (s : State) (p : Nat) (b : List Byte) (type : Nat) :
    (withFrame s p b type effect).fuse = s.fuse := by
  simp [withFrame, h]

/-! ### FlashBlocks -/

@[simp] theorem appendRecord_fuse (id : Nat) (s : State) (n : Nat) : (appendRecord id s n).fuse = s.fuse := by unfold appendRecord; dsimp only; split <;> simp
@[simp] theorem appendRecords_fuse (s : State) (id : Nat) : (appendRecords s id).fuse = s.fuse := by simp [appendRecords]

/-! ### NvmeCq -/

@[simp] theorem nvmeComplete_fuse (s : State) (t : NTicket) (dw0 : Nat) (status : Nat) : (nvmeComplete s t dw0 status).fuse = s.fuse := by unfold nvmeComplete; dsimp only; (repeat' split) <;> simp
@[simp] theorem nvmeEvent_fuse (s : State) (k : Nat) (bit : Nat) (dw0 : Nat) : (nvmeEvent s k bit dw0).fuse = s.fuse := by unfold nvmeEvent; dsimp only; (repeat' split) <;> simp

/-! ### MediaOps -/

@[simp] theorem newOp_fuse (s : State) (croft : Nat) (t : Option Ticket) (n : Option NTicket) (detail : Nat) (result : Nat) : (newOp s croft t n detail result).2.fuse = s.fuse := rfl
@[simp] theorem modOp_fuse (s : State) (id : Nat) (f : StoreOp → StoreOp) : (modOp s id f).fuse = s.fuse := rfl
@[simp] theorem addProg_fuse (s : State) (p : Nat) (refs : List BackRef) (kind : BlkKind) (op : Nat) (size : Nat) (zero : Bool) (data : List (Nat × Nat × List Byte)) : (addProg s p refs kind op size zero data).fuse = s.fuse := by simp [addProg]
@[simp] theorem opFinish_fuse (s : State) (id : Nat) : (opFinish s id).fuse = s.fuse := by unfold opFinish; dsimp only; (repeat' split) <;> simp
@[simp] theorem opProgress_fuse (s : State) (id : Nat) : (opProgress s id).fuse = s.fuse := by simp [opProgress]

/-! ### StoreOps -/

@[simp] theorem placeNew_fuse (s : State) (c : Nat) (cls : Nat) (want : Nat) (g : Segment) : (placeNew s c cls want g).2.fuse = s.fuse := by simp [placeNew]
@[simp] theorem progSegment_fuse (op : Nat) (s : State) (serial : Nat) : (progSegment op s serial).fuse = s.fuse := by unfold progSegment; split <;> simp
@[simp] theorem addSegment_fuse (s : State) (c : Nat) (cls : Nat) (want : Nat) (g : Segment) (op : Nat) : (addSegment s c cls want g op).2.fuse = s.fuse := by simp [addSegment]
theorem placeNews_fuse {c want : Nat} {l : List Segment} {s : State} {r : List Nat × State} (h : placeNews c want l s = some r) :
    r.2.fuse = s.fuse := by
  induction l generalizing s r with
  | nil => cases h; rfl
  | cons g l ih =>
    unfold placeNews at h
    split at h <;> [cases h; skip]
    split at h <;> [cases h; skip]
    obtain ⟨x, hx, rfl⟩ := Option.map_eq_some_iff.mp h
    simp [ih hx]
theorem addSegments_fuse {c want op : Nat} {l : List (Option Segment)} {s : State} {r : List Nat × State}
    (h : addSegments c want op l s = some r) : r.2.fuse = s.fuse := by
  induction l generalizing s r with
  | nil => cases h; rfl
  | cons g l ih =>
    cases g with
    | none =>
      obtain ⟨x, hx, rfl⟩ := Option.map_eq_some_iff.mp h
      show x.2.fuse = s.fuse
      exact ih hx
    | some g =>
      unfold addSegments at h
      split at h <;> [cases h; skip]
      split at h <;> [cases h; skip]
      obtain ⟨x, hx, rfl⟩ := Option.map_eq_some_iff.mp h
      simp [ih hx]
@[simp] theorem setOpen_fuse (s : State) (c : Nat) (key : Nat) (o : Option Obj) : (setOpen s c key o).fuse = s.fuse := rfl
@[simp] theorem setObj_fuse (s : State) (c : Nat) (key : Nat) (o : Obj) : (setObj s c key o).fuse = s.fuse := rfl
@[simp] theorem dropRefs_fuse (s : State) (l : List BackRef) : (dropRefs s l).fuse = s.fuse := by simp [dropRefs]
@[simp] theorem freeSegments_fuse (s : State) (c : Nat) : (freeSegments s c).fuse = s.fuse := by unfold freeSegments; split <;> simp
@[simp] theorem spillWrite_fuse (s : State) (old : Nat) (cls : Nat) : (spillWrite s old cls).2.fuse = s.fuse := by simp [spillWrite]
@[simp] theorem recordTable_fuse (s : State) (c : Nat) : (recordTable s c).fuse = s.fuse := by simp [recordTable]

/-! ### VSet -/

theorem rebuildSegs_fuse {c key op epoch : Nat} {o : Obj} {m : FMap Sheaf} {n : Nat} {s : State} {r : List Nat × State}
    (h : rebuildSegs c key op epoch o m n s = some r) : r.2.fuse = s.fuse := by
  induction n generalizing r with
  | zero => cases h; rfl
  | succ n ih =>
    unfold rebuildSegs at h
    split at h <;> [cases h; skip]
    next l s1 hl =>
    have hs1 : s1.fuse = s.fuse := ih hl
    dsimp only at h
    split_ifs at h
    · cases h; exact hs1
    · cases h; exact hs1
    · obtain ⟨x, hx, rfl⟩ := Option.map_eq_some_iff.mp h
      exact (addSegments_fuse hx).trans hs1
theorem rebuildSet_fuse {s : State} {c key op : Nat} {o : Obj} {m : FMap Sheaf} {hw : Nat} {r : Obj × State}
    (h : rebuildSet s c key op o m hw = some r) : r.2.fuse = s.fuse := by
  obtain ⟨x, hx, rfl⟩ := Option.map_eq_some_iff.mp h
  exact rebuildSegs_fuse hx

/-! ### JobOps -/

@[simp] theorem identitySign_fuse (s : State) (msg : List Byte) : (identitySign s msg).2.fuse = s.fuse := rfl
@[simp] theorem releaseJobPins_fuse (s : State) (c : Nat) (job : Nat) : (releaseJobPins s c job).fuse = s.fuse := rfl
@[simp] theorem removeBSet_fuse (s : State) (c : Nat) (h : Nat) : (removeBSet s c h).fuse = s.fuse := by unfold removeBSet; (repeat' split) <;> simp
@[simp] theorem dropOrphans_fuse (s : State) (c : Nat) : (dropOrphans s c).fuse = s.fuse := by unfold dropOrphans; split <;> simp
@[simp] theorem doneAll_fuse (s : State) (l : List Ticket) (status : Nat) : (doneAll s l status).fuse = s.fuse := by simp [doneAll]
@[simp] theorem dropHold_fuse (s : State) (j : Job) : (dropHold s j).fuse = s.fuse := by unfold dropHold; split <;> simp
@[simp] theorem endJob_fuse (s : State) (c : Nat) (id : Nat) (status : Nat) : (endJob s c id status).fuse = s.fuse := by unfold endJob; dsimp only; (repeat' split) <;> simp
@[simp] theorem endJobDone_fuse (s : State) (c : Nat) (id : Nat) : (endJobDone s c id).fuse = s.fuse := by simp [endJobDone]
@[simp] theorem faultJob_fuse (s : State) (c : Nat) (id : Nat) : (faultJob s c id).fuse = s.fuse := by unfold faultJob; split <;> simp

/-! ### OdOps -/

@[simp] theorem odAnswer_fuse (s : State) (sid : Nat) (hdr : List Byte) (status : Nat) (flags : Nat) (ty : Nat) (data : List Byte) : (odAnswer s sid hdr status flags ty data).fuse = s.fuse := by unfold odAnswer; split <;> simp
@[simp] theorem odPark_fuse (s : State) (sid : Nat) (key : Nat) (croft : Option Nat) (saved : Bool) (hdr : List Byte) (data : List Byte) : (odPark s sid key croft saved hdr data).fuse = s.fuse := rfl
@[simp] theorem odRelease_fuse (s : State) (p : Parked) : (odRelease s p).fuse = s.fuse := by unfold odRelease; split <;> simp
@[simp] theorem odEffectDone_fuse (s : State) (key : Nat) : (odEffectDone s key).fuse = s.fuse := by simp [odEffectDone]
@[simp] theorem odCroftDone_fuse (s : State) (c : Nat) : (odCroftDone s c).fuse = s.fuse := by simp [odCroftDone]
@[simp] theorem odSave_fuse (s : State) : (odSave s).fuse = s.fuse := by simp [odSave]
@[simp] theorem spillSheaf_fuse (c : Nat) (p : Binding × State) (x : (Nat × Nat) × Nat) : (spillSheaf c p x).2.fuse = p.2.fuse := by
  simp [spillSheaf]
@[simp] theorem spillBinding_fuse (s : State) (c h i : Nat) (b : Binding) (two three : Nat) : (spillBinding s c h i b two three).fuse = s.fuse := by
  simp [spillBinding]
@[simp] theorem spillOnce_fuse (s : State) (c : Nat) (need : Nat) : (spillOnce s c need).fuse = s.fuse := by unfold spillOnce; dsimp only; (repeat' split) <;> simp
@[simp] theorem spillT1_fuse (c n : Nat) (s : State) : (spillT1 c n s).fuse = s.fuse := by
  induction n generalizing s with
  | zero => rfl
  | succ n ih => simp [spillT1, ih]
@[simp] theorem shedCopies_fuse (names : AlmRec → Copy → Bool) (c n : Nat) (s : State) : (shedCopies names c n s).fuse = s.fuse := by
  induction n generalizing s with
  | zero => rfl
  | succ n ih => unfold shedCopies; (repeat' split) <;> simp [ih]
@[simp] theorem t0ToT1_fuse (s : State) (c : Nat) (h : Nat) (i : Nat) (b : Binding) (start : Nat) : (t0ToT1 s c h i b start).fuse = s.fuse := by unfold t0ToT1; split <;> simp
@[simp] theorem shedT0_fuse (names : AlmRec → Copy → Bool) (c p n : Nat) (s : State) : (shedT0 names c p n s).fuse = s.fuse := by
  induction n generalizing s with
  | zero => rfl
  | succ n ih => unfold shedT0; (repeat' split) <;> simp [ih]
@[simp] theorem restoreQuotas_fuse (s : State) (c : Nat) : (restoreQuotas s c).fuse = s.fuse := by unfold restoreQuotas; dsimp only; (repeat' split) <;> simp
@[simp] theorem entryApply_fuse (s : State) (key : Nat) (value : Nat) : (entryApply s key value).fuse = s.fuse := by simp [entryApply]

/-! ### Almanac -/

@[simp] theorem ldalmEffect_fuse (s : State) (c : Nat) (d : Desc) (t : Ticket) : (ldalmEffect s c d t).fuse = s.fuse := by unfold ldalmEffect; (repeat' split) <;> simp
@[simp] theorem sendTpRead_fuse (s : State) (c : Nat) (x : TpAsk) : (sendTpRead s c x).fuse = s.fuse := by simp [sendTpRead]
@[simp] theorem askPeer_fuse (s : State) (c : Nat) (j : Job) (home : Nat) (n : Nat) : (askPeer s c j home n).fuse = s.fuse := by unfold askPeer; split <;> simp
@[simp] theorem renewAsks_fuse (s : State) (c : Nat) (id : Nat) (step : Nat) (attempt : Nat) : (renewAsks s c id step attempt).fuse = s.fuse := by unfold renewAsks; split <;> simp
@[simp] theorem issueSheaf_fuse (s : State) (c : Nat) (j : Job) (r : AlmRec) (ix : Nat) (next : Bool) (b : Binding) (n : Nat) : (issueSheaf s c j r ix next b n).fuse = s.fuse := by unfold issueSheaf; dsimp only; (repeat' split) <;> simp
@[simp] theorem issueRecord_fuse (s : State) (c : Nat) (j : Job) (a : Almanac) (ix : Nat) (next : Bool) : (issueRecord s c j a ix next).fuse = s.fuse := by unfold issueRecord; (repeat' split) <;> simp
@[simp] theorem letGo_fuse (s : State) (c : Nat) (job : Nat) (tag : Nat) (release : Nat) (y : Copy) : (letGo s c job tag release y).fuse = s.fuse := by simp [letGo]
@[simp] theorem releaseRecord_fuse (s : State) (c : Nat) (job : Nat) (ix : Nat) (release : Nat) : (releaseRecord s c job ix release).fuse = s.fuse := by unfold releaseRecord; split <;> simp
@[simp] theorem almAdvance_fuse (s : State) (c : Nat) : (almAdvance s c).fuse = s.fuse := by unfold almAdvance; dsimp only; (repeat' split) <;> simp
@[simp] theorem releaseStepPins_fuse (s : State) (c : Nat) (job : Nat) (recs : List AlmRec) : (releaseStepPins s c job recs).fuse = s.fuse := by unfold releaseStepPins; split <;> simp
@[simp] theorem countRead_fuse (s : State) (c : Nat) (p : Promo) : (countRead s c p).fuse = s.fuse := by unfold countRead; (repeat' split) <;> simp
theorem placeCopy_fuse {s t : State} {c : Nat} {p : Promo} {sh : Sheaf} {pins jobPins : List Nat}
    (h : placeCopy s c p sh pins jobPins = some t) : t.fuse = s.fuse := by
  unfold placeCopy at h
  split at h <;> [cases h; skip]
  dsimp only at h
  split at h <;> [cases h; skip]
  split at h <;> [cases h; skip]
  cases h
  split <;> simp
@[simp] theorem endStalls_fuse (s : State) (c : Nat) : (endStalls s c).fuse = s.fuse := by unfold endStalls; dsimp only; (repeat' split) <;> simp
@[simp] theorem noteLate_fuse (s : State) (c : Nat) (l : Nat) : (noteLate s c l).fuse = s.fuse := by unfold noteLate; dsimp only; (repeat' split) <;> simp
@[simp] theorem promoArrive_fuse (s : State) (c i : Nat) : (promoArrive s c i).fuse = s.fuse := by
  unfold promoArrive
  split <;> [rfl; skip]
  split <;> [rfl; skip]
  dsimp only
  split <;> [rfl; skip]
  split
  · simp
  · split <;> [rfl; skip]
    next hplace => simp [placeCopy_fuse hplace]

/-! ### CroftOps -/

@[simp] theorem croftStatus_fuse (s : State) (c : Nat) (v : Nat) : (croftStatus s c v).fuse = s.fuse := rfl
@[simp] theorem resetCounters_fuse (s : State) (c : Nat) : (resetCounters s c).fuse = s.fuse := rfl
@[simp] theorem croftCreate_fuse (s : State) (c : Nat) : (croftCreate s c).fuse = s.fuse := by unfold croftCreate; dsimp only; (repeat' split) <;> simp
@[simp] theorem applyNow_fuse (s : State) (c : Nat) (mask : W64) (map : W32) (share : Nat) : (applyNow s c mask map share).fuse = s.fuse := by simp [applyNow]
@[simp] theorem croftApply_fuse (s : State) (c : Nat) : (croftApply s c).fuse = s.fuse := by unfold croftApply; split <;> simp
@[simp] theorem croftGone_fuse (s : State) (c : Nat) (k : Croft) : (croftGone s c k).fuse = s.fuse := by simp [croftGone]
@[simp] theorem croftRemove_fuse (s : State) (c : Nat) : (croftRemove s c).fuse = s.fuse := by unfold croftRemove; split <;> simp
@[simp] theorem purgeJob_fuse (c : Nat) (s : State) (id : Nat) : (purgeJob c s id).fuse = s.fuse := by simp [purgeJob]
@[simp] theorem purgeJobs_fuse (s : State) (c : Nat) : (purgeJobs s c).fuse = s.fuse := by unfold purgeJobs; split <;> simp
@[simp] theorem dropStoreWork_fuse (s : State) (c : Nat) : (dropStoreWork s c).fuse = s.fuse := by unfold dropStoreWork; split <;> simp
@[simp] theorem purgeNow_fuse (s : State) (c : Nat) : (purgeNow s c).fuse = s.fuse := by unfold purgeNow; dsimp only; split <;> simp
@[simp] theorem croftPurge_fuse (s : State) (c : Nat) : (croftPurge s c).fuse = s.fuse := by unfold croftPurge; dsimp only; (repeat' split) <;> simp

/-! ### DeallocOps -/

@[simp] theorem deallocEnd_fuse (s : State) (x : Dealloc) (status : Nat) : (deallocEnd s x status).fuse = s.fuse := by unfold deallocEnd; dsimp only; (repeat' split) <;> simp
@[simp] theorem deallocCheck_fuse (s : State) : (deallocCheck s).fuse = s.fuse := by simp [deallocCheck]
@[simp] theorem dropDoomed_fuse (s : State) (c : Nat) : (dropDoomed s c).fuse = s.fuse := by unfold dropDoomed; split <;> simp
@[simp] theorem doomCopies_fuse (s : State) (c : Nat) (serials : List Nat) : (doomCopies s c serials).fuse = s.fuse := by unfold doomCopies; split <;> simp

/-! ### Blocks -/

@[simp] theorem evacuateIn_fuse (s : State) (p : Nat) (n : Nat) (counter : Nat) (st : BlkState) (doom : Nat) : (evacuateIn s p n counter st doom).fuse = s.fuse := rfl
@[simp] theorem deallocErased_fuse (s : State) (p : Nat) (n : Nat) : (deallocErased s p n).fuse = s.fuse := rfl
@[simp] theorem deallocStuck_fuse (s : State) (p : Nat) (n : Nat) : (deallocStuck s p n).fuse = s.fuse := rfl
@[simp] theorem flashEvent_fuse (s : State) (croft : Option Nat) (cls : Nat) (sev : Nat) (p : Nat) (n : Nat) (page : Nat) (detail : List Byte) : (flashEvent s croft cls sev p n page detail).fuse = s.fuse := by simp [flashEvent]
@[simp] theorem smartNotice_fuse (s : State) (bit : Nat) (info : Nat) : (smartNotice s bit info).fuse = s.fuse := by simp [smartNotice]
@[simp] theorem mediaToReadOnly_fuse (s : State) (cause : Nat) : (mediaToReadOnly s cause).fuse = s.fuse := by simp [mediaToReadOnly]
@[simp] theorem mediaCheck_fuse (before : State) (s : State) : (mediaCheck before s).fuse = s.fuse := by simp [mediaCheck]
@[simp] theorem retireBlock_fuse (s : State) (p : Nat) (n : Nat) (reason : Nat) : (retireBlock s p n reason).fuse = s.fuse := by simp [retireBlock]
@[simp] theorem reclaim_fuse (s : State) (p : Nat) (n : Nat) : (reclaim s p n).fuse = s.fuse := by simp [reclaim]
@[simp] theorem countSlots_fuse (s : State) (counter : Nat) (n : Nat) : (countSlots s counter n).fuse = s.fuse := by simp [countSlots]
@[simp] theorem relocate_fuse (s : State) (p : Nat) (n : Nat) : (relocate s p n).fuse = s.fuse := by simp [relocate]
@[simp] theorem rebuildReserve_fuse (s : State) (p : Nat) : (rebuildReserve s p).fuse = s.fuse := by simp [rebuildReserve]
@[simp] theorem eraseBlock_fuse (s : State) (p : Nat) (n : Nat) : (eraseBlock s p n).fuse = s.fuse := by simp [eraseBlock]
@[simp] theorem deallocErase_fuse (s : State) (seq : Nat) (p : Nat) (n : Nat) : (deallocErase s seq p n).fuse = s.fuse := by simp [deallocErase]

/-! ### FlashData -/

@[simp] theorem publishOne_fuse (zero : Bool) (s : State) (d : Nat × Nat × List Byte) : (publishOne zero s d).fuse = s.fuse := rfl
@[simp] theorem programEnd_fuse (s : State) (p i : Nat) : (programEnd s p i).fuse = s.fuse := by
  unfold programEnd
  dsimp only
  split <;> [rfl; skip]
  split <;> [rfl; skip]
  simp [fuse_foldl (publishOne_fuse _)]
@[simp] theorem countPageRead_fuse (s : State) (level : Nat) : (countPageRead s level).fuse = s.fuse := rfl
@[simp] theorem poisonPlace_fuse (page : Nat) (s : State) (r : BackRef) : (poisonPlace page s r).fuse = s.fuse := by unfold poisonPlace; split <;> simp
@[simp] theorem pageUncorrectable_fuse (s : State) (p : Nat) (n : Nat) (page : Nat) : (pageUncorrectable s p n page).fuse = s.fuse := by simp [pageUncorrectable]
@[simp] theorem pageRead_fuse (s : State) (p : Nat) (n : Nat) (page : Nat) (level : Nat) : (pageRead s p n page level).fuse = s.fuse := by unfold pageRead; split <;> simp

/-! ### DeallocRun -/

@[simp] theorem fencePrograms_fuse (d : Dealloc) (p n : Nat) (s : State) : (fencePrograms d p n s).fuse = s.fuse := by
  induction n generalizing s with
  | zero => rfl
  | succ n ih => unfold fencePrograms; split <;> simp [ih]
@[simp] theorem fence_fuse (s : State) (d : Dealloc) : (fence s d).fuse = s.fuse := by simp [fence]
@[simp] theorem unmapRefs_fuse (s : State) (d : Dealloc) : (unmapRefs s d).fuse = s.fuse := rfl
@[simp] theorem deallocStart_fuse (s : State) (d : Dealloc) : (deallocStart s d).fuse = s.fuse := by unfold deallocStart; dsimp only; (repeat' split) <;> simp
@[simp] theorem deallocSegments_fuse (s : State) (c : Nat) (t : Ticket) (d : Desc) (gone : List Nat) : (deallocSegments s c t d gone).fuse = s.fuse := by simp [deallocSegments]
@[simp] theorem runDeallocs_fuse (s : State) (c : Nat) : (runDeallocs s c).fuse = s.fuse := by unfold runDeallocs; split <;> simp

/-! ### CommitOps -/

@[simp] theorem publishCompacted_fuse (s : State) (c op : Nat) : (publishCompacted s c op).2.fuse = s.fuse := by
  unfold publishCompacted
  split <;> [rfl; skip]
  refine fuse_foldl_snd (fun p e => ?_) ..
  split <;> [rfl; skip]
  split <;> [rfl; skip]
  dsimp only
  split <;> [rfl; skip]
  next hset => simp [rebuildSet_fuse hset]
@[simp] theorem acceptCommit_fuse (s : State) (c : Nat) (retain : Bool) (t : Option Ticket) (hold : Option (HoldReq × List Byte)) : (acceptCommit s c retain t hold).fuse = s.fuse := by simp [acceptCommit]
@[simp] theorem holdProceed_fuse (s : State) (c id : Nat) (h : HoldReq) : (holdProceed s c id h).fuse = s.fuse := by
  unfold holdProceed
  split
  · dsimp only
    split <;> [simp; skip]
    split
    · simp
    · next hseg => simp [addSegments_fuse hseg]
  · simp
@[simp] theorem holdDurable_fuse (s : State) (c : Nat) (e : Nat) (m : FMap Obj) (h : HoldReq) (part : List Byte) : (holdDurable s c e m h part).fuse = s.fuse := by unfold holdDurable; dsimp only; (repeat' split) <;> simp
@[simp] theorem refuseCommit_fuse (s : State) (c : Nat) (m : Commit) (status : Nat) (key : Nat) (index : Nat) : (refuseCommit s c m status key index).fuse = s.fuse := by unfold refuseCommit; dsimp only; (repeat' split) <;> simp
@[simp] theorem durableCommit_fuse (s : State) (c : Nat) (k : Croft) (m : Commit) : (durableCommit s c k m).fuse = s.fuse := by unfold durableCommit; dsimp only; (repeat' split) <;> simp
@[simp] theorem sealedCommit_fuse (s : State) (c : Nat) : (sealedCommit s c).fuse = s.fuse := by unfold sealedCommit; (repeat' split) <;> simp

/-! ### StoreCmds -/

theorem withStore_fuse {effect : State → Nat → Ticket → Croft → State} (h : ∀ s c t k, (effect s c t k).fuse = s.fuse) (s : State)
    (f : Fin 33) (ring : Nat) (d : Desc) (op minStage uses flags : Nat) : (withStore s f ring d op minStage uses flags effect).fuse = s.fuse := by
  refine withDescriptor_fuse (fun s c t => ?_) ..
  split <;> simp [h]
theorem withStoreChange_fuse {effect : State → Nat → Ticket → Croft → State} (h : ∀ s c t k, (effect s c t k).fuse = s.fuse) (s : State)
    (f : Fin 33) (ring : Nat) (d : Desc) (op uses flags : Nat) : (withStoreChange s f ring d op uses flags effect).fuse = s.fuse :=
  withStore_fuse (fun s c t k => by simp [h]) ..
@[simp] theorem writeSegments_fuse (s : State) (c : Nat) (t : Ticket) (k : Croft) (d : Desc) (b : List Byte) :
    (writeSegments s c t k d b).fuse = s.fuse := by
  unfold writeSegments
  dsimp only
  iterate 5 (split <;> [simp; skip])
  split
  · simp
  · next hseg => simp [addSegments_fuse hseg]
@[simp] theorem readBindingFrames_fuse (s : State) (c : Nat) (b : Binding) (first count : Nat) :
    (readBindingFrames s c b first count).2.fuse = s.fuse := by
  unfold readBindingFrames
  exact (fuse_foldl_snd (fun p x => by simp) ..).trans (fuse_foldl (fun s x => by simp) ..)
@[simp] theorem persistRun_fuse (s : State) (c : Nat) (w : PersistWait) : (persistRun s c w).fuse = s.fuse := by unfold persistRun; dsimp only; (repeat' split) <;> simp
@[simp] theorem persistEffect_fuse (d : Desc) (s : State) (c : Nat) (t : Ticket) (k : Croft) : (persistEffect d s c t k).fuse = s.fuse := by
  unfold persistEffect
  split <;> [simp; skip]
  dsimp only
  iterate 3 (split <;> [simp; skip])
  split
  · simp
  · next hnew => simp [placeNews_fuse hnew]
@[simp] theorem readCounted_fuse (s : State) (c : Nat) (n : Nat) (l : List (Nat × Segment)) : (readCounted s c n l).fuse = s.fuse := by simp [readCounted]
@[simp] theorem writeBodies_fuse (a : Nat) (l : List (Option (List Byte))) (s : State) : (writeBodies a l s).fuse = s.fuse := by
  induction l generalizing a s with
  | nil => rfl
  | cons b l ih => cases b <;> simp [writeBodies, ih]
@[simp] theorem readPlain_fuse (s : State) (c : Nat) (t : Ticket) (d : Desc) (e : Nat) (o : Obj) : (readPlain s c t d e o).fuse = s.fuse := by unfold readPlain; dsimp only; (repeat' split) <;> simp
@[simp] theorem readRaw_fuse (s : State) (c : Nat) (t : Ticket) (d : Desc) (e : Nat) (o : Obj) : (readRaw s c t d e o).fuse = s.fuse := by unfold readRaw; dsimp only; (repeat' split) <;> simp
@[simp] theorem truncateObj_fuse (s : State) (c : Nat) (t : Ticket) (key : Nat) (o : Option Obj) : (truncateObj s c t key o).fuse = s.fuse := by simp [truncateObj]
@[simp] theorem updateSet_fuse (s : State) (c : Nat) (t : Ticket) (d : Desc) (o : Obj) (b : List Byte) :
    (updateSet s c t d o b).fuse = s.fuse := by
  unfold updateSet
  dsimp only
  split <;> [simp; skip]
  split
  · simp
  · next hset => simp [rebuildSet_fuse hset]
@[simp] theorem createSet_fuse (s : State) (c : Nat) (t : Ticket) (k : Croft) (key a : Nat) (b : List Byte) :
    (createSet s c t k key a b).fuse = s.fuse := by
  unfold createSet
  dsimp only
  iterate 3 (split <;> [simp; skip])
  split <;> [simp; skip]
  split
  · simp
  · next hset => simp [rebuildSet_fuse hset]
@[simp] theorem holdJob_fuse (s : State) (c : Nat) (k : Croft) (t : Ticket) (d : Desc) (keys : List Nat) : (holdJob s c k t d keys).fuse = s.fuse := by unfold holdJob; split <;> simp

/-! ### Boundary -/

@[simp] theorem deferredApply_fuse (s : State) (c : Nat) (x3 : Deferred) : (deferredApply s c x3).fuse = s.fuse := by unfold deferredApply; split <;> simp
@[simp] theorem runDeferred_fuse (s : State) (c : Nat) : (runDeferred s c).fuse = s.fuse := by unfold runDeferred; split <;> simp
@[simp] theorem runPersists_fuse (s : State) (c : Nat) : (runPersists s c).fuse = s.fuse := by unfold runPersists; split <;> simp
@[simp] theorem runHolds_fuse (s : State) (c : Nat) : (runHolds s c).fuse = s.fuse := by
  unfold runHolds
  split <;> [rfl; skip]
  refine fuse_foldl (fun s j => ?_) ..
  split <;> simp
@[simp] theorem runCloses_fuse (s : State) (c : Nat) : (runCloses s c).fuse = s.fuse := by unfold runCloses; split <;> simp
@[simp] theorem boundary_fuse (s : State) (c : Nat) : (boundary s c).fuse = s.fuse := by unfold boundary; split <;> simp

/-! ### Ready -/

@[simp] theorem markReady_fuse (s : State) (c : Nat) : (markReady s c).fuse = s.fuse := by unfold markReady; dsimp only; (repeat' split) <;> simp

/-! ### StepEnd -/

@[simp] theorem rampLeave_fuse (s : State) (r : RunStep) : (rampLeave s r).fuse = s.fuse := by
  unfold rampLeave
  refine fuse_foldl (fun s x => fuse_foldl (fun s f => ?_) ..) ..
  split <;> simp
@[simp] theorem leaveEngines_fuse (s : State) (c : Nat) (k : Croft) (r : RunStep) : (leaveEngines s c k r).fuse = s.fuse := by unfold leaveEngines; split <;> simp
@[simp] theorem afterStep_fuse (s : State) (c : Nat) : (afterStep s c).fuse = s.fuse := by simp [afterStep]
@[simp] theorem faultTickets_fuse (s : State) (q : QStep) (number : Nat) (rec_ : List Byte) : (faultTickets s q number rec_).fuse = s.fuse := by simp [faultTickets]
@[simp] theorem faultStep_fuse (s : State) (c : Nat) (code : Nat) (queue : Nat) (ve : Nat) (offset : Nat) (detail : Nat) : (faultStep s c code queue ve offset detail).fuse = s.fuse := by unfold faultStep; split <;> simp
@[simp] theorem toPeers_fuse (s : State) (c : Nat) (g : List Byte) (type : Nat) (step : Nat) (attempt : Nat) (params : List Byte) (payload : List Byte) : (toPeers s c g type step attempt params payload).fuse = s.fuse := by simp [toPeers]
@[simp] theorem dropQueued_fuse (s : State) (c : Nat) (tag : Nat) (step : Nat) (attempt : Nat) : (dropQueued s c tag step attempt).fuse = s.fuse := rfl
@[simp] theorem sendCancels_fuse (s : State) (c : Nat) (g : List Byte) (number : Nat) (attempt : Nat) : (sendCancels s c g number attempt).fuse = s.fuse := by simp [sendCancels]
@[simp] theorem attemptsOut_fuse (s : State) (c : Nat) (k : Croft) (id : Nat) (number : Nat) (q : QStep) : (attemptsOut s c k id number q).fuse = s.fuse := by simp [attemptsOut]
@[simp] theorem raiseAttempt_fuse (s : State) (c : Nat) (id : Nat) (i : Nat) (attempt : Nat) : (raiseAttempt s c id i attempt).fuse = s.fuse := by unfold raiseAttempt; (repeat' split) <;> simp
@[simp] theorem abortStep_fuse (counted : Bool) (s : State) (c : Nat) : (abortStep counted s c).fuse = s.fuse := by unfold abortStep; dsimp only; (repeat' split) <;> simp
@[simp] theorem abortOwn_fuse (counted : Bool) (s : State) (c : Nat) : (abortOwn counted s c).fuse = s.fuse := by unfold abortOwn; (repeat' split) <;> simp

/-! ### EngCtl -/

@[simp] theorem pureOp_fuse (s : State) (c v : Nat) (r : EngRes) : (outState (pureOp s c v r)).fuse = s.fuse := by
  cases r <;> simp [pureOp]
@[simp] theorem bumpConv_fuse (c : Nat) (s : State) (p : Nat × Nat) : (bumpConv c s p).fuse = s.fuse := by simp [bumpConv]
@[simp] theorem applyFlags_fuse (s : State) (c : Nat) (fl : EngFlags) : (applyFlags s c fl).fuse = s.fuse := by simp [applyFlags]
@[simp] theorem signalSem_fuse (s : State) (c : Nat) (v : Nat) (i : Nat) (queue : Nat) (offset : Nat) : (signalSem s c v i queue offset).fuse = s.fuse := by unfold signalSem; (repeat' split) <;> simp
@[simp] theorem headerSignal_fuse (s : State) (c : Nat) (v : Nat) (q : Nat) (w : IWord) (off : Nat) : (headerSignal s c v q w off).fuse = s.fuse := by simp [headerSignal]
@[simp] theorem passGate_fuse (s : State) (c v : Nat) (ve : VEngine) : (passGate s c v ve).fuse = s.fuse := by
  unfold passGate
  rw [almAdvance_fuse]
  refine (fuse_foldl (fun s q => ?_) ..).trans (setVe_fuse ..)
  split <;> simp
@[simp] theorem switchVe_fuse (s : State) (c : Nat) (v : Nat) (u : Nat) (a : VEngine) (b : VEngine) : (switchVe s c v u a b).fuse = s.fuse := by simp [switchVe]
theorem settleOne_fuse {s t : State} {c : Nat} (h : settleOne s c = some t) : t.fuse = s.fuse := by
  unfold settleOne at h
  split at h <;> [cases h; skip]
  split at h <;> [cases h; skip]
  dsimp only at h
  split at h
  · cases h; simp
  split at h
  · cases h; simp
  split at h
  · cases h; simp
  split at h
  · cases h; simp
  · cases h
@[simp] theorem settleN_fuse (c n : Nat) (s : State) : (settleN c n s).fuse = s.fuse := by
  induction n generalizing s with
  | zero => rfl
  | succ n ih =>
    unfold settleN
    split
    · next hone => rw [ih, settleOne_fuse hone]
    · simp
@[simp] theorem settle_fuse (s : State) (c : Nat) : (settle s c).fuse = s.fuse := by unfold settle; split <;> simp
theorem engIssue_fuse {s : State} {run : EngEnv → EngOut} {after : State → State} (hrun : ∀ e, (outState (run e)).fuse = s.fuse)
    (hafter : ∀ t, (after t).fuse = t.fuse) (c v q op : Nat) (w : IWord) : (engIssue s c v q op w run after).fuse = s.fuse := by
  unfold engIssue
  split <;> [rfl; skip]
  next e henv =>
  dsimp only
  iterate 4 (split <;> [simp; skip])
  split <;> [simp; skip]
  split <;> [simp; skip]
  have h := hrun { e with ve := takeWait (sramMet e.im e.ve w) w }
  split
  · next hout => rw [hout] at h; simpa using h
  · next hout => rw [hout] at h; simpa using h
  · next hout => rw [hout] at h; simpa [hafter] using h
theorem engPlain_fuse {s : State} {run : EngEnv → EngOut} (hrun : ∀ e, (outState (run e)).fuse = s.fuse) (c v q op : Nat) (w : IWord) :
    (engPlain s c v q op w run).fuse = s.fuse :=
  engIssue_fuse hrun (fun t => modVe_fuse ..) ..
@[simp] theorem engPure_fuse (s : State) (c v q op : Nat) (w : IWord) (f : EngEnv → EngRes) : (engPure s c v q op w f).fuse = s.fuse :=
  engPlain_fuse (fun e => pureOp_fuse ..) ..
@[simp] theorem doSignal_fuse (s : State) (c v : Nat) (w : IWord) (e : EngEnv) : (outState (doSignal s c v w e)).fuse = s.fuse := by
  unfold doSignal
  dsimp only
  split <;> [rfl; skip]
  split <;> [rfl; skip]
  simp
@[simp] theorem doGate_fuse (s : State) (c v q : Nat) (w : IWord) (e : EngEnv) : (outState (doGate s c v q w e)).fuse = s.fuse := by
  simp [doGate]
@[simp] theorem doStep_fuse (s : State) (c v q : Nat) (w : IWord) (e : EngEnv) : (outState (doStep s c v q w e)).fuse = s.fuse := rfl
@[simp] theorem instrComplete_fuse (s : State) (c : Nat) (v : Nat) (q : Nat) (i : Nat) : (instrComplete s c v q i).fuse = s.fuse := by unfold instrComplete; dsimp only; (repeat' split) <;> simp

/-! ### EngExec -/

@[simp] theorem macRows_fuse (s t : State) (c : Fin 32) (v : Fin 64) (w : IWord) : (macRows s t c v w).fuse = t.fuse := by
  unfold macRows; split <;> simp
@[simp] theorem doPsumStep_fuse (s : State) (c v : Nat) (w : IWord) (e : EngEnv) : (outState (doPsumStep s c v w e)).fuse = s.fuse := by
  simp [doPsumStep]
@[simp] theorem doSelect_fuse (s : State) (c v : Nat) (w : IWord) (e : EngEnv) : (outState (doSelect s c v w e)).fuse = s.fuse := by
  unfold doSelect
  dsimp only
  split <;> [rfl; skip]
  split <;> [rfl; skip]
  split <;> [rfl; skip]
  simp

/-! ### EngFetch -/

@[simp] theorem askFor_fuse (s : State) (c : Nat) (j : Job) (tiers : Nat) (b : Binding) (n : Nat) : (askFor s c j tiers b n).fuse = s.fuse := by unfold askFor; split <;> simp
@[simp] theorem countPoison_fuse (s : State) (fr : Nat) (sh : Sheaf) : (countPoison s fr sh).fuse = s.fuse := by simp [countPoison]
@[simp] theorem readBuffer_fuse (s : State) (c : Nat) (h : Nat) (i : Nat) (b : Binding) (n : Nat) : (readBuffer s c h i b n).2.fuse = s.fuse := by unfold readBuffer; dsimp only; (repeat' split) <;> simp
@[simp] theorem repairCopy_fuse (s : State) (c : Nat) (fr : Nat) (y : Copy) : (repairCopy s c fr y).2.fuse = s.fuse := by unfold repairCopy; dsimp only; (repeat' split) <;> simp
@[simp] theorem readCopy_fuse (s : State) (c : Nat) (y : Copy) : (readCopy s c y).2.fuse = s.fuse := by unfold readCopy; dsimp only; (repeat' split) <;> simp
@[simp] theorem readSource_fuse (s : State) (c : Nat) (h : Nat) (i : Nat) (b : Binding) (n : Nat) (src : SrcAt) : (readSource s c h i b n src).2.fuse = s.fuse := by unfold readSource; dsimp only; (repeat' split) <;> simp
theorem readRegion_fuse {s : State} {c v : Nat} {e : EngEnv} {region first count : Nat} {g : Got}
    (h : readRegion s c v e region first count = g) : (gotState s g).fuse = s.fuse := by
  subst h
  unfold readRegion
  split <;> [rfl; skip]
  dsimp only
  split <;> [rfl; skip]
  simp
@[simp] theorem fetchWrite_fuse (s : State) (c v a0 first : Nat) (e : EngEnv) (fs : FSpec) (cbs : FMap Sheaf) (om : Option OutMap)
    (shs : List Sheaf) : (outState (fetchWrite s c v a0 first e fs cbs om shs)).fuse = s.fuse := rfl
@[simp] theorem doFetch_fuse (s : State) (c v : Nat) (w : IWord) (e : EngEnv) : (outState (doFetch s c v w e)).fuse = s.fuse := by
  unfold doFetch
  dsimp only
  iterate 2 (split <;> [rfl; skip])
  split
  · rfl
  · next hshs => exact readRegion_fuse hshs
  next s1 hshs =>
  have h1 : s1.fuse = s.fuse := readRegion_fuse hshs
  split <;> [exact h1; skip]
  split
  · exact h1
  · next hmap => exact (gotState_fuse_of_ite hmap (readRegion_fuse rfl) rfl).trans h1
  next s2 hmap =>
  have h2 : s2.fuse = s.fuse := (gotState_fuse_of_ite hmap (readRegion_fuse rfl) rfl).trans h1
  split <;> [exact h2; skip]
  split
  · exact h2
  · next hcb => exact (gotState_fuse_of_ite hcb rfl (readRegion_fuse rfl)).trans h2
  · next hcb => exact (gotState_fuse_of_ite hcb rfl (readRegion_fuse rfl)).trans h2
theorem specChans_fuse {s : State} {c v : Nat} {e : EngEnv} {o : OSpec} {g : Got} (h : specChans s c v e o = g) :
    (gotState s g).fuse = s.fuse :=
  gotState_fuse_of_ite h (readRegion_fuse rfl) rfl
@[simp] theorem withSpec_fuse (s : State) (c v : Nat) (e : EngEnv) (ix : Nat) (f : List Byte → List Nat → EngRes) :
    (outState (withSpec s c v e ix f)).fuse = s.fuse := by
  unfold withSpec
  split <;> [rfl; skip]
  dsimp only
  split
  · rfl
  · next hgot => exact specChans_fuse hgot
  · next hgot =>
    have hs1 := specChans_fuse hgot
    rw [gotState_ok] at hs1
    split
    · simp [hs1]
    · split <;> simp [hs1]

/-! ### EngStore -/

@[simp] theorem doStore_fuse (s : State) (c v : Nat) (w : IWord) (e : EngEnv) : (outState (doStore s c v w e)).fuse = s.fuse := by
  unfold doStore
  dsimp only
  iterate 2 (split <;> [rfl; skip])
  split <;> [rfl; skip]
  iterate 3 (split <;> [rfl; skip])
  rfl
@[simp] theorem deliverBytes_fuse (s : State) (c : Nat) (u : Nat) (a : Nat) (bs : List Byte) (marks : List Nat) : (deliverBytes s c u a bs marks).fuse = s.fuse := rfl
@[simp] theorem arriveSem_fuse (s : State) (c : Nat) (u : Nat) (sem : Nat) : (arriveSem s c u sem).fuse = s.fuse := by simp [arriveSem]
@[simp] theorem toRank_fuse (s : State) (c : Nat) (g : List Byte) (number : Nat) (attempt : Nat) (rank : Nat) (type : Nat) (last : Bool) (params : List Byte) (payload : List Byte) (marks : List Nat) : (toRank s c g number attempt rank type last params payload marks).fuse = s.fuse := by simp [toRank]
@[simp] theorem sendRemote_fuse (s : State) (c : Nat) (e : EngEnv) (g : List Byte) (w : IWord) : (sendRemote s c e g w).fuse = s.fuse := by simp [sendRemote]
@[simp] theorem doSend_fuse (s : State) (c v : Nat) (w : IWord) (e : EngEnv) : (outState (doSend s c v w e)).fuse = s.fuse := by
  unfold doSend
  dsimp only
  iterate 2 (split <;> [rfl; skip])
  split
  · split <;> [rfl; skip]
    simp
  · simp
@[simp] theorem rdDeliver_fuse (s : State) (c : Nat) (w : IWord) (recv : List Nat) (xs : List RElem) : (rdDeliver s c w recv xs).fuse = s.fuse := by simp [rdDeliver]
@[simp] theorem rdSendTo_fuse (s : State) (c : Nat) (e : EngEnv) (g : List Byte) (w : IWord) (rank : Nat) (type : Nat) (level : Nat) (xs : List RElem) : (rdSendTo s c e g w rank type level xs).fuse = s.fuse := by simp [rdSendTo]
@[simp] theorem putReduction_fuse (s : State) (c : Nat) (x : Reduction) : (putReduction s c x).fuse = s.fuse := rfl
@[simp] theorem rdProgress_fuse (s : State) (c : Nat) (e : EngEnv) (x : Reduction) : (rdProgress s c e x).fuse = s.fuse := by unfold rdProgress; dsimp only; (repeat' split) <;> simp
@[simp] theorem rdPartial_fuse (s : State) (c v : Nat) (w : IWord) (e : EngEnv) (x : Reduction) :
    (outState (rdPartial s c v w e x)).fuse = s.fuse := by
  simp [rdPartial]
@[simp] theorem doReduce_fuse (s : State) (c v : Nat) (w : IWord) (e : EngEnv) : (outState (doReduce s c v w e)).fuse = s.fuse := by
  simp [doReduce]
@[simp] theorem doTally_fuse (s : State) (c v : Nat) (w : IWord) (e : EngEnv) : (outState (doTally s c v w e)).fuse = s.fuse := by
  simp [doTally]

/-! ### StepPublish -/

@[simp] theorem clearFrame_fuse (s : State) (fr : Nat) : (clearFrame s fr).fuse = s.fuse := rfl
@[simp] theorem putBind_fuse (s : State) (c : Nat) (h : Nat) (i : Nat) (b : Binding) : (putBind s c h i b).fuse = s.fuse := rfl
@[simp] theorem putBufSheaf_fuse (s : State) (c : Nat) (h : Nat) (i : Nat) (n : Nat) (sh : Sheaf) : (putBufSheaf s c h i n sh).fuse = s.fuse := by unfold putBufSheaf; dsimp only; (repeat' split) <;> simp
@[simp] theorem bufWrite_fuse (s : State) (c h i off : Nat) (bs : List Byte) : (bufWrite s c h i off bs).fuse = s.fuse := by
  unfold bufWrite
  split <;> [rfl; skip]
  refine fuse_foldl (fun s x => ?_) ..
  dsimp only
  split <;> simp
@[simp] theorem sendImages_fuse (s : State) (c : Nat) (e : EngEnv) (b : List Byte) : (sendImages s c e b).fuse = s.fuse := by
  unfold sendImages
  refine fuse_foldl (fun s g => fuse_foldl (fun s l => ?_) ..) ..
  split <;> [rfl; skip]
  exact fuse_foldl (fun s i => toRank_fuse ..) ..
@[simp] theorem countOffers_fuse (s : State) (c : Nat) (dups : Nat) (own : List WList) : (countOffers s c dups own).fuse = s.fuse := by simp [countOffers]
@[simp] theorem publishList_fuse (s : State) (c : Nat) (e : EngEnv) (x : SelGroup × Nat × WList) : (publishList s c e x).fuse = s.fuse := by simp [publishList]
@[simp] theorem tpListSheaf_fuse (bind : Nat) (n : Nat) (tag : BitVec 256) (ps : List (Nat × Nat × List Byte)) (s : State) : (tpListSheaf bind n tag ps s).2.fuse = s.fuse := by simp [tpListSheaf]
@[simp] theorem tpLists_fuse (s : State) (c : Nat) (e : EngEnv) (ls : List (SelGroup × Nat × WList)) : (tpLists s c e ls).2.fuse = s.fuse := by unfold tpLists; (repeat' split) <;> simp
@[simp] theorem publishLists_fuse (s : State) (c : Nat) (e : EngEnv) (dups : Nat) (ls : List (SelGroup × Nat × WList)) : (publishLists s c e dups ls).fuse = s.fuse := by simp [publishLists]
@[simp] theorem trainStep_fuse (s : State) (c : Nat) (j : Job) (ovf : Bool) : (trainStep s c j ovf).fuse = s.fuse := by unfold trainStep; split <;> simp
@[simp] theorem writeTally_fuse (s : State) (c : Nat) (e : EngEnv) (ovf : Bool) (skip : Bool) : (writeTally s c e ovf skip).fuse = s.fuse := by simp [writeTally]
@[simp] theorem sendTpWrite_fuse (s : State) (c : Nat) (j : Job) (r : RunStep) (x : Staged) : (sendTpWrite s c j r x).fuse = s.fuse := by unfold sendTpWrite; split <;> simp
@[simp] theorem publishStore_fuse (s : State) (c : Nat) (e : EngEnv) (x : Staged) : (publishStore s c e x).fuse = s.fuse := by unfold publishStore; split <;> simp
@[simp] theorem publishStep_fuse (s : State) (c : Nat) (e : EngEnv) (ovf : Bool) (ls : List (SelGroup × Nat × WList)) : (publishStep s c e ovf ls).fuse = s.fuse := by simp [publishStep]
@[simp] theorem completeReq_fuse (s : State) (c : Nat) (j : Job) (r : RunStep) (ovf : Bool) (x : Nat × ServReq) : (completeReq s c j r ovf x).fuse = s.fuse := by unfold completeReq; split <;> simp
@[simp] theorem completeStep_fuse (s : State) (c : Nat) (j : Job) (r : RunStep) (ovf : Bool) : (completeStep s c j r ovf).fuse = s.fuse := by unfold completeStep; split <;> simp
@[simp] theorem keepResult_fuse (s : State) (x : OrDone) : (keepResult s x).fuse = s.fuse := rfl
@[simp] theorem finishStep_fuse (s : State) (c : Nat) (k : Croft) (j : Job) (r : RunStep) (ovf : Bool) : (finishStep s c k j r ovf).fuse = s.fuse := by simp [finishStep]
@[simp] theorem sendDown_fuse (s : State) (c : Nat) (e : EngEnv) (g : List Byte) (ovf : Bool) : (sendDown s c e g ovf).fuse = s.fuse := by simp [sendDown]
@[simp] theorem decideStep_fuse (s : State) (c : Nat) (e : EngEnv) (ovf : Bool) (ls : List (SelGroup × Nat × WList)) : (decideStep s c e ovf ls).fuse = s.fuse := by unfold decideStep; dsimp only; split <;> simp
@[simp] theorem passEnd_fuse (s : State) (c : Nat) : (passEnd s c).fuse = s.fuse := by unfold passEnd; (repeat' split) <;> simp
@[simp] theorem holdResult_fuse (s : State) (c : Nat) (e : EngEnv) (g : List Byte) (ovf : Bool) : (holdResult s c e g ovf).fuse = s.fuse := by simp [holdResult]
@[simp] theorem closeProgress_fuse (s : State) (c : Nat) (e : EngEnv) (ls : List (SelGroup × Nat × WList)) : (closeProgress s c e ls).fuse = s.fuse := by unfold closeProgress; dsimp only; (repeat' split) <;> simp
@[simp] theorem imagesOut_fuse (s : State) (c : Nat) (e : EngEnv) : (imagesOut s c e).fuse = s.fuse := by unfold imagesOut; split <;> simp
@[simp] theorem endProgress_fuse (s : State) (c : Nat) : (endProgress s c).fuse = s.fuse := by unfold endProgress; (repeat' split) <;> simp
@[simp] theorem resultArrives_fuse (s : State) (c : Nat) (ovf : Bool) : (resultArrives s c ovf).fuse = s.fuse := by unfold resultArrives; (repeat' split) <;> simp

/-! ### StepFrames -/

@[simp] theorem sendArrives_fuse (s : State) (c : Nat) (b : List Byte) : (sendArrives s c b).fuse = s.fuse := by unfold sendArrives; split <;> simp
@[simp] theorem partialArrives_fuse (s : State) (c : Nat) (b : List Byte) : (partialArrives s c b).fuse = s.fuse := by unfold partialArrives; split <;> simp
@[simp] theorem rdResultArrives_fuse (s : State) (c : Nat) (b : List Byte) : (rdResultArrives s c b).fuse = s.fuse := by unfold rdResultArrives; dsimp only; (repeat' split) <;> simp
@[simp] theorem stepEndArrives_fuse (s : State) (c : Nat) (q : Nat) (b : List Byte) : (stepEndArrives s c q b).fuse = s.fuse := by unfold stepEndArrives; dsimp only; (repeat' split) <;> simp
@[simp] theorem imageArrives_fuse (s : State) (c : Nat) (q : Nat) (b : List Byte) : (imageArrives s c q b).fuse = s.fuse := by simp [imageArrives]
@[simp] theorem frameEffect_fuse (s : State) (c : Nat) (q : Nat) (b : List Byte) : (frameEffect s c q b).fuse = s.fuse := by unfold frameEffect; split <;> simp
@[simp] theorem acceptFrame_fuse (s : State) (p : Nat) (c : Nat) (q : Nat) (b : List Byte) : (acceptFrame s p c q b).fuse = s.fuse := by simp [acceptFrame]
@[simp] theorem resendResult_fuse (s : State) (b : List Byte) : (resendResult s b).fuse = s.fuse := by unfold resendResult; split <;> simp
@[simp] theorem holdFrame_fuse (s : State) (p : Nat) (b : List Byte) : (holdFrame s p b).fuse = s.fuse := rfl
@[simp] theorem stepFrame_fuse (s : State) (p : Nat) (b : List Byte) : (stepFrame s p b).fuse = s.fuse := by unfold stepFrame; (repeat' split) <;> simp
@[simp] theorem takeHeld_fuse (s : State) (c : Nat) : (takeHeld s c).fuse = s.fuse := by
  unfold takeHeld
  refine fuse_foldl (fun s p => fuse_foldl (fun s b => ?_) ..) ..
  split <;> [skip; rfl]
  split <;> [rfl; skip]
  split <;> simp

/-! ### JobOpen -/

@[simp] theorem checkJob_fuse (s : State) (c : Nat) (j : Job) (g : List Byte) (b : List Byte) : (checkJob s c j g b).fuse = s.fuse := by unfold checkJob; dsimp only; split <;> simp
@[simp] theorem checkFrame_fuse (s : State) (p : Nat) (b : List Byte) : (checkFrame s p b).fuse = s.fuse := by unfold checkFrame; (repeat' split) <;> simp
@[simp] theorem takeChecks_fuse (s : State) (tag : Nat) : (takeChecks s tag).fuse = s.fuse := by
  unfold takeChecks
  exact fuse_foldl (fun s p => fuse_foldl (fun s b => by simp) ..) ..
@[simp] theorem openWith_fuse (s : State) (c : Nat) (k : Croft) (t : Ticket) (im : Memory) (b : BSet) (r : OpenReq) (train : Option (List Byte)) : (openWith s c k t im b r train).fuse = s.fuse := by unfold openWith; split <;> simp
@[simp] theorem openJobReq_fuse (s : State) (c : Nat) (t : Ticket) (r : OpenReq) : (openJobReq s c t r).fuse = s.fuse := by unfold openJobReq; dsimp only; (repeat' split) <;> simp
@[simp] theorem openDesc_fuse (s : State) (c : Nat) (t : Ticket) (d : Desc) : (openDesc s c t d).fuse = s.fuse := by unfold openDesc; dsimp only; (repeat' split) <;> simp
@[simp] theorem resumeBlock_fuse (s : State) (c : Nat) (k : Croft) (t : Ticket) (d : Desc) (h : List Byte) (b : List Byte) (g : Option (List Byte)) : (resumeBlock s c k t d h b g).fuse = s.fuse := by unfold resumeBlock; dsimp only; (repeat' split) <;> simp

/-! ### Jobs -/

@[simp] theorem launchRefused_fuse (s : State) (t : Ticket) (status : Nat) : (launchRefused s t status).fuse = s.fuse := by simp [launchRefused]
@[simp] theorem launchReached_fuse (s : State) (c : Nat) (id : Nat) : (launchReached s c id).fuse = s.fuse := by unfold launchReached; dsimp only; (repeat' split) <;> simp
@[simp] theorem queueStep_fuse (s : State) (c : Nat) (id : Nat) (q : QStep) : (queueStep s c id q).fuse = s.fuse := by simp [queueStep]
@[simp] theorem acceptStep_fuse (s : State) (c : Nat) (j : Job) (d : Desc) (t : Ticket) : (acceptStep s c j d t).fuse = s.fuse := by unfold acceptStep; dsimp only; split <;> simp
@[simp] theorem formBatch_fuse (s : State) (c : Nat) (id : Nat) : (formBatch s c id).fuse = s.fuse := by unfold formBatch; split <;> simp
@[simp] theorem batchNow_fuse (c id n : Nat) (s : State) : (batchNow c id n s).fuse = s.fuse := by
  induction n generalizing s with
  | zero => rfl
  | succ n ih => unfold batchNow; split <;> simp [ih]
@[simp] theorem acceptRequest_fuse (s : State) (c : Nat) (j : Job) (d : Desc) (t : Ticket) : (acceptRequest s c j d t).fuse = s.fuse := by unfold acceptRequest; dsimp only; (repeat' split) <;> simp
@[simp] theorem closeOne_fuse (s : State) (c : Nat) (j : Job) (t : Ticket) : (closeOne s c j t).fuse = s.fuse := by simp [closeOne]
@[simp] theorem dropHeld_fuse (s : State) (tag step attempt : Nat) : (dropHeld s tag step attempt).fuse = s.fuse := by
  unfold dropHeld
  exact fuse_foldl (fun s p => fuse_foldl (fun s b => by simp) ..) ..
@[simp] theorem cancelEffect_fuse (s : State) (p : Nat) (c : Nat) (j : Job) (b : List Byte) : (cancelEffect s p c j b).fuse = s.fuse := by unfold cancelEffect; dsimp only; (repeat' split) <;> simp
@[simp] theorem cancelFrame_fuse (s : State) (p : Nat) (b : List Byte) : (cancelFrame s p b).fuse = s.fuse := by unfold cancelFrame; dsimp only; split <;> simp
@[simp] theorem takeCancels_fuse (s : State) (c id : Nat) : (takeCancels s c id).fuse = s.fuse := by
  unfold takeCancels
  refine fuse_foldl (fun s p => fuse_foldl (fun s b => ?_) ..) ..
  split <;> [skip; rfl]
  split <;> [rfl; skip]
  split <;> simp

/-! ### SearchOps -/

@[simp] theorem ownJob_fuse (s : State) (c : Nat) (kind : Nat) (prio : Nat) : (ownJob s c kind prio).2.fuse = s.fuse := by unfold ownJob; split <;> simp
@[simp] theorem batchFails_fuse (s : State) (t : Ticket) (b : List Byte) (out : Nat) (len : Nat) (status : Nat) (epoch : Nat) (detail : Nat) : (batchFails s t b out len status epoch detail).fuse = s.fuse := by simp [batchFails]
@[simp] theorem queueBatch_fuse (s : State) (c : Nat) (t : Ticket) (r : SearchReq) : (queueBatch s c t r).fuse = s.fuse := by simp [queueBatch]
@[simp] theorem acceptBatch_fuse (s : State) (c : Nat) (k : Croft) (t : Ticket) (b0 : List Byte) (out : Nat) (len : Nat) : (acceptBatch s c k t b0 out len).fuse = s.fuse := by unfold acceptBatch; dsimp only; (repeat' split) <;> simp
@[simp] theorem idsRead_fuse (s : State) (n : SCount) : (idsRead s n).2.fuse = s.fuse := rfl
@[simp] theorem batchBytes_fuse (s : State) (c : Nat) : (batchBytes s c).fuse = s.fuse := by simp [batchBytes]
@[simp] theorem batchCounters_fuse (s : State) (c : Nat) (done : Bool) (n : SCount) (ids : Nat) : (batchCounters s c done n ids).fuse = s.fuse := by simp [batchCounters]
@[simp] theorem listCounters_fuse (s : State) (c : Nat) (written : Bool) (r : SResult) : (listCounters s c written r).fuse = s.fuse := by simp [listCounters]
@[simp] theorem endBatch_fuse (s : State) (c : Nat) (k : Croft) (run : RunStep) (r : SearchReq) (t : Ticket) : (endBatch s c k run r t).fuse = s.fuse := by unfold endBatch; split <;> simp
@[simp] theorem takeContext_fuse (s : State) (c : Nat) (m : Nat) : (takeContext s c m).fuse = s.fuse := by unfold takeContext; (repeat' split) <;> simp
@[simp] theorem giveContexts_fuse (s : State) : (giveContexts s).fuse = s.fuse := by simp [giveContexts]
@[simp] theorem readsReturned_fuse (s : State) (c : Nat) (m : Nat) : (readsReturned s c m).fuse = s.fuse := by unfold readsReturned; dsimp only; (repeat' split) <;> simp
@[simp] theorem queueCompaction_fuse (s : State) (c : Nat) (key : Nat) (o : Obj) (t : Option Ticket) : (queueCompaction s c key o t).fuse = s.fuse := by simp [queueCompaction]
@[simp] theorem compactSet_fuse (s : State) (c : Nat) (number : Nat) (t : Ticket) : (compactSet s c number t).fuse = s.fuse := by unfold compactSet; (repeat' split) <;> simp
@[simp] theorem compactionTrigger_fuse (s : State) (c : Nat) (number : Nat) : (compactionTrigger s c number).fuse = s.fuse := by unfold compactionTrigger; dsimp only; (repeat' split) <;> simp
@[simp] theorem compactReads_fuse (s : State) (c : Nat) (o : Obj) : (compactReads s c o).fuse = s.fuse := by
  unfold compactReads
  refine fuse_foldl (fun s x => ?_) ..
  split <;> simp
@[simp] theorem endCompaction_fuse (s : State) (c : Nat) (k : Croft) (run : RunStep) (key : Nat) (o : Obj) :
    (endCompaction s c k run key o).fuse = s.fuse := by
  unfold endCompaction
  dsimp only
  split
  · split <;> simp
  · next hset => simp [rebuildSet_fuse hset]
@[simp] theorem builtinEnd_fuse (s : State) (c : Nat) : (builtinEnd s c).fuse = s.fuse := by unfold builtinEnd; (repeat' split) <;> simp

/-! ### Sched -/

@[simp] theorem copyRows_fuse (s : State) (c : Nat) (j : Job) (q : QStep) : (copyRows s c j q).fuse = s.fuse := by
  unfold copyRows
  refine fuse_foldl (fun s x => ?_) ..
  split <;> simp
@[simp] theorem startSignals_fuse (s : State) (c : Nat) : (startSignals s c).fuse = s.fuse := by
  unfold startSignals
  split <;> [rfl; skip]
  refine fuse_foldl (fun s x => fuse_foldl (fun s q => ?_) ..) ..
  split <;> simp
@[simp] theorem startProgram_fuse (s : State) (c : Nat) (k : Croft) (j : Job) (q : QStep) : (startProgram s c k j q).fuse = s.fuse := by unfold startProgram; dsimp only; (repeat' split) <;> simp
@[simp] theorem startBuiltin_fuse (s : State) (c : Nat) (k : Croft) (j : Job) (q : QStep) : (startBuiltin s c k j q).fuse = s.fuse := by unfold startBuiltin; split <;> simp
@[simp] theorem dropMissed_fuse (s : State) (c : Nat) (j : Job) (q : QStep) : (dropMissed s c j q).fuse = s.fuse := by unfold dropMissed; split <;> simp
@[simp] theorem stepStart_fuse (s : State) (c : Nat) : (stepStart s c).fuse = s.fuse := by unfold stepStart; dsimp only; (repeat' split) <;> simp
@[simp] theorem batchStepEnd_fuse (s : State) (c : Nat) : (batchStepEnd s c).fuse = s.fuse := by unfold batchStepEnd; split <;> simp

/-! ### Admin -/

theorem withAdmin_fuse {effect : State → Nat → Ticket → State} (h : ∀ s c t, (effect s c t).fuse = s.fuse) (s : State) (f : Fin 33)
    (d : Desc) (op used minStage : Nat) : (withAdmin s f d op used minStage effect).fuse = s.fuse := by
  simp [withAdmin, h]
theorem withAdminCroft_fuse {effect : State → Nat → Ticket → Croft → State} (h : ∀ s c t k, (effect s c t k).fuse = s.fuse) (s : State)
    (f : Fin 33) (d : Desc) (op used minStage : Nat) : (withAdminCroft s f d op used minStage effect).fuse = s.fuse := by
  refine withAdmin_fuse (fun s c t => ?_) ..
  split <;> simp [h]
@[simp] theorem makeWRing_fuse (s : State) (f : Nat) (c : Nat) (t : Ticket) (d : Desc) : (makeWRing s f c t d).fuse = s.fuse := by simp [makeWRing]
@[simp] theorem removeWRing_fuse (s : State) (f : Nat) (n : Nat) (t : Ticket) : (removeWRing s f n t).fuse = s.fuse := by unfold removeWRing; dsimp only; (repeat' split) <;> simp
@[simp] theorem makeCRing_fuse (s : State) (f : Nat) (t : Ticket) (d : Desc) : (makeCRing s f t d).fuse = s.fuse := by simp [makeCRing]
@[simp] theorem removeCRing_fuse (s : State) (f : Nat) (n : Nat) (t : Ticket) : (removeCRing s f n t).fuse = s.fuse := by simp [removeCRing]
@[simp] theorem setEventRing_fuse (s : State) (f : Nat) (c : Nat) (t : Ticket) (k : Croft) (d : Desc) : (setEventRing s f c t k d).fuse = s.fuse := by simp [setEventRing]
@[simp] theorem loadImage_fuse (s : State) (c : Nat) (t : Ticket) (k : Croft) (a : Nat) (n : Nat) : (loadImage s c t k a n).fuse = s.fuse := by unfold loadImage; dsimp only; (repeat' split) <;> simp
@[simp] theorem removeImage_fuse (s : State) (c : Nat) (t : Ticket) (k : Croft) (h : Nat) : (removeImage s c t k h).fuse = s.fuse := by simp [removeImage]
@[simp] theorem addBinding_fuse (s : State) (c : Nat) (h : Nat) (b : Binding) : (addBinding s c h b).fuse = s.fuse := rfl
@[simp] theorem bindFrames_fuse (s : State) (c : Nat) (k : Croft) (b : Binding) (lo : Nat) (hi : Nat) : (bindFrames s c k b lo hi).2.fuse = s.fuse := by unfold bindFrames; (repeat' split) <;> simp
theorem bindBuffer_fuse {s t : State} {c h : Nat} {k : Croft} {b : Binding} (hb : bindBuffer s c h k b = .inr t) : t.fuse = s.fuse := by
  obtain rfl := inr_of_ite hb
  simp
theorem bindEntry_fuse {s t : State} {c h : Nat} {e : List Byte} (hb : bindEntry s c h e = .inr t) : t.fuse = s.fuse := by
  unfold bindEntry at hb
  split at hb <;> [cases hb; skip]
  dsimp only at hb
  split at hb <;> [cases hb; skip]
  split at hb <;> [exact bindBuffer_fuse hb; skip]
  split at hb
  · split at hb <;> [cases hb; skip]
    split at hb <;> [cases hb; skip]
    split at hb <;> cases hb
    simp
  · split at hb <;> cases hb
    simp
theorem bindAll_fuse {c h : Nat} {l : List (List Byte)} {s t : State} (hb : bindAll c h l s = .inr t) : t.fuse = s.fuse := by
  induction l generalizing s with
  | nil => cases hb; rfl
  | cons e l ih =>
    unfold bindAll at hb
    split at hb <;> [cases hb; skip]
    next hone => rw [ih hb, bindEntry_fuse hone]
@[simp] theorem makeBinding_fuse (s : State) (c : Nat) (t : Ticket) (k : Croft) (d : Desc) : (makeBinding s c t k d).fuse = s.fuse := by
  unfold makeBinding
  dsimp only
  split <;> [simp; skip]
  split <;> [simp; skip]
  split
  · simp
  · next hall => simp [bindAll_fuse hall]
@[simp] theorem removeBinding_fuse (s : State) (c : Nat) (t : Ticket) (k : Croft) (h : Nat) : (removeBinding s c t k h).fuse = s.fuse := by simp [removeBinding]
@[simp] theorem makeExport_fuse (s : State) (c : Nat) (t : Ticket) (k : Croft) (d : Desc) : (makeExport s c t k d).fuse = s.fuse := by unfold makeExport; dsimp only; split <;> simp
@[simp] theorem dropExport_fuse (s : State) (n : Nat) : (dropExport s n).fuse = s.fuse := rfl
@[simp] theorem removeExport_fuse (s : State) (c : Nat) (t : Ticket) (n : Nat) : (removeExport s c t n).fuse = s.fuse := by unfold removeExport; split <;> simp

/-! ### BellElect -/

@[simp] theorem followNone_fuse (s : State) : (followNone s).fuse = s.fuse := rfl
@[simp] theorem follow_fuse (s : State) (x : Master) : (follow s x).fuse = s.fuse := by simp [follow]
@[simp] theorem elect_fuse (s : State) : (elect s).fuse = s.fuse := by unfold elect; (repeat' split) <;> simp
@[simp] theorem hearMaster_fuse (s : State) (p : Nat) (m : Master) : (hearMaster s p m).fuse = s.fuse := by simp [hearMaster]

/-! ### Kamlin -/

@[simp] theorem raiseNext_fuse (s : State) (c : Nat) (k : Croft) (id : Nat) : (raiseNext s c k id).fuse = s.fuse := by unfold raiseNext; (repeat' split) <;> simp
@[simp] theorem recoverJob_fuse (s : State) (c : Nat) (id : Nat) : (recoverJob s c id).fuse = s.fuse := by unfold recoverJob; split <;> simp
@[simp] theorem recoverSteps_fuse (s : State) (jobs : List (Nat × Nat)) : (recoverSteps s jobs).fuse = s.fuse := by simp [recoverSteps]
@[simp] theorem passEnds_fuse (s : State) : (passEnds s).fuse = s.fuse := by simp [passEnds]
@[simp] theorem portLost_fuse (s : State) (p : Nat) (state : Nat) : (portLost s p state).fuse = s.fuse := by simp [portLost]
@[simp] theorem linkRecovery_fuse (s : State) (p : Nat) : (linkRecovery s p).fuse = s.fuse := by simp [linkRecovery]
@[simp] theorem resendStep_fuse (s : State) (c : Nat) : (resendStep s c).fuse = s.fuse := by unfold resendStep; (repeat' split) <;> simp
@[simp] theorem reissueReads_fuse (s : State) (p : Nat) (c : Nat) : (reissueReads s p c).fuse = s.fuse := by unfold reissueReads; split <;> simp
@[simp] theorem routeBack_fuse (s : State) (p : Nat) : (routeBack s p).fuse = s.fuse := by simp [routeBack]
@[simp] theorem portTrouble_fuse (s : State) (p : Nat) (state : Nat) : (portTrouble s p state).fuse = s.fuse := by simp [portTrouble]
@[simp] theorem linkDone_fuse (s : State) (p : Nat) (good : Nat) (neighbour : Nat) : (linkDone s p good neighbour).fuse = s.fuse := by simp [linkDone]
@[simp] theorem trained_fuse (s : State) (p : Nat) (good : Nat) (neighbour : Nat) : (trained s p good neighbour).fuse = s.fuse := by simp [trained]
@[simp] theorem retrain_fuse (s : State) (p : Nat) : (retrain s p).fuse = s.fuse := by simp [retrain]
@[simp] theorem askReplay_fuse (s : State) (p : Nat) : (askReplay s p).fuse = s.fuse := by simp [askReplay]
@[simp] theorem acknowledge_fuse (s : State) (p : Nat) (seq : Nat) : (acknowledge s p seq).fuse = s.fuse := by unfold acknowledge; split <;> simp
@[simp] theorem replayFrom_fuse (s : State) (p : Nat) (seq : Nat) : (replayFrom s p seq).fuse = s.fuse := by unfold replayFrom; split <;> simp
@[simp] theorem dataFlit_fuse (s : State) (p : Nat) (seq : Nat) : (dataFlit s p seq).fuse = s.fuse := by simp [dataFlit]
@[simp] theorem badFlit_fuse (s : State) (p : Nat) (seq : Nat) : (badFlit s p seq).fuse = s.fuse := by simp [badFlit]
@[simp] theorem receiveFlit_fuse (s : State) (p : Nat) (b : List Byte) (decoded : Bool) (symbols : Nat) : (receiveFlit s p b decoded symbols).fuse = s.fuse := by simp [receiveFlit]
@[simp] theorem creditsBack_fuse (s : State) (p : Nat) (b : List Byte) : (creditsBack s p b).fuse = s.fuse := by simp [creditsBack]
@[simp] theorem linkManage_fuse (s : State) (p : Nat) (b : List Byte) : (linkManage s p b).fuse = s.fuse := by simp [linkManage]
@[simp] theorem noteBound_fuse (s : State) (n : Nat) (b : List Byte) : (noteBound s n b).fuse = s.fuse := rfl
@[simp] theorem answerRead_fuse (s : State) (x : PeerExport) (b : List Byte) (n : Nat) : (answerRead s x b n).fuse = s.fuse := by unfold answerRead; split <;> simp
@[simp] theorem tpReadFrame_fuse (s : State) (p : Nat) (b : List Byte) : (tpReadFrame s p b).fuse = s.fuse := by unfold tpReadFrame; split <;> simp
@[simp] theorem tpDataFrame_fuse (s : State) (p : Nat) (b : List Byte) : (tpDataFrame s p b).fuse = s.fuse := by simp [tpDataFrame]
@[simp] theorem tpWriteFrame_fuse (s : State) (p : Nat) (b : List Byte) : (tpWriteFrame s p b).fuse = s.fuse := by unfold tpWriteFrame; split <;> simp
@[simp] theorem tpDoneFrame_fuse (s : State) (p : Nat) (b : List Byte) : (tpDoneFrame s p b).fuse = s.fuse := by unfold tpDoneFrame; dsimp only; (repeat' split) <;> simp

/-! ### Pcie -/

@[simp] theorem tailDoorbell_fuse (s : State) (f : Nat) (n : Nat) (v : Nat) : (tailDoorbell s f n v).fuse = s.fuse := by unfold tailDoorbell; dsimp only; split <;> simp
@[simp] theorem compDoorbell_fuse (s : State) (f : Nat) (n : Nat) (v : Nat) : (compDoorbell s f n v).fuse = s.fuse := by unfold compDoorbell; dsimp only; split <;> simp
@[simp] theorem eventDoorbell_fuse (s : State) (f : Nat) (c : Nat) (v : Nat) : (eventDoorbell s f c v).fuse = s.fuse := by unfold eventDoorbell; (repeat' split) <;> simp
@[simp] theorem enableFn_fuse (s : State) (f : Nat) : (enableFn s f).fuse = s.fuse := by unfold enableFn; dsimp only; (repeat' split) <;> simp
@[simp] theorem closeJobsOf_fuse (s : State) (f : Nat) (c : Nat) : (closeJobsOf s f c).fuse = s.fuse := by unfold closeJobsOf; split <;> simp
@[simp] theorem dropFunction_fuse (s : State) (f : Nat) : (dropFunction s f).fuse = s.fuse := by simp [dropFunction]
@[simp] theorem resetPf1_fuse (s : State) (f : Nat) : (resetPf1 s f).fuse = s.fuse := by simp [resetPf1]
@[simp] theorem resetNvme_fuse (s : State) (k : Nat) : (resetNvme s k).fuse = s.fuse := rfl
@[simp] theorem flrOne_fuse (s : State) (k : Nat) : (flrOne s k).fuse = s.fuse := rfl
@[simp] theorem flrNvme_fuse (s : State) (k : Nat) : (flrNvme s k).fuse = s.fuse := by
  unfold flrNvme
  split
  · exact fuse_foldl (fun s x => flrOne_fuse ..) ..
  · simp
@[simp] theorem resetAllPf1_fuse (s : State) : (resetAllPf1 s).fuse = s.fuse := by simp [resetAllPf1]
@[simp] theorem resetPort_fuse (s : State) (port : Nat) : (resetPort s port).fuse = s.fuse := by simp [resetPort]
@[simp] theorem barWord_fuse (s : State) (f : Nat) (offset : Nat) (v : Nat) : (barWord s f offset v).fuse = s.fuse := by simp [barWord]
@[simp] theorem barWrite_fuse (s : State) (f : Nat) (offset : Nat) (width : Nat) (v : Nat) : (barWrite s f offset width v).fuse = s.fuse := by simp [barWrite]
@[simp] theorem unmaskVector_fuse (s : State) (f : Nat) (v : Nat) : (unmaskVector s f v).fuse = s.fuse := by simp [unmaskVector]
@[simp] theorem msixWord_fuse (s : State) (f : Nat) (offset : Nat) (v : Nat) : (msixWord s f offset v).fuse = s.fuse := by simp [msixWord]
@[simp] theorem msixWrite_fuse (s : State) (f : Nat) (offset : Nat) (width : Nat) (v : Nat) : (msixWrite s f offset width v).fuse = s.fuse := by simp [msixWrite]
@[simp] theorem nvmeRegWrite_fuse (s : State) (k : Nat) (offset : Nat) (width : Nat) (v : Nat) : (nvmeRegWrite s k offset width v).fuse = s.fuse := by simp [nvmeRegWrite]

/-! ### NvmeCmd -/

@[simp] theorem nvmeDone_fuse (s : State) (t : NTicket) (dw0 : Nat) : (nvmeDone s t dw0).fuse = s.fuse := by simp [nvmeDone]
@[simp] theorem nvmeFail_fuse (s : State) (t : NTicket) (st : Nat) : (nvmeFail s t st).fuse = s.fuse := by simp [nvmeFail]
@[simp] theorem nvmeMediaFail_fuse (s : State) (t : NTicket) (st : Nat) (lba : Nat) (nsid : Nat) : (nvmeMediaFail s t st lba nsid).fuse = s.fuse := by simp [nvmeMediaFail]
@[simp] theorem nvmeTicket_fuse (s : State) (k : Nat) (q : Nat) (e : Desc) : (nvmeTicket s k q e).2.fuse = s.fuse := by unfold nvmeTicket; dsimp only; split <;> simp
theorem withNvme_fuse {effect : State → NTicket → State} (h : ∀ s t, (effect s t).fuse = s.fuse) (s : State) (k : Fin 33) (q : Nat)
    (e : Desc) (op : Nat) : (withNvme s k q e op effect).fuse = s.fuse := by
  simp [withNvme, h]
theorem withIo_fuse {effect : State → NTicket → State} (h : ∀ s t, (effect s t).fuse = s.fuse) (s : State) (k : Fin 33) (q : Nat)
    (e : Desc) (op : Nat) : (withIo s k q e op effect).fuse = s.fuse := by
  simp [withIo, withNvme_fuse h]
@[simp] theorem writePieces_fuse (s : State) (l : List (Nat × Nat)) (b : List Byte) : (writePieces s l b).fuse = s.fuse := by
  induction l generalizing s b with
  | nil => rfl
  | cons p l ih => simp [writePieces, ih]
@[simp] theorem dataOut_fuse (s : State) (t : NTicket) (e : Desc) (b : List Byte) (dw0 : Nat) : (dataOut s t e b dw0).fuse = s.fuse := by unfold dataOut; split <;> simp

/-! ### Hbm -/

@[simp] theorem putHeld_fuse (s : State) (sh : Sheaf) (x3 : Holder) : (putHeld s sh x3).fuse = s.fuse := by unfold putHeld; split <;> simp
@[simp] theorem scanWord_fuse (st : Nat) (p : Scan × State) (w : Nat) : (scanWord st p w).2.fuse = p.2.fuse := by
  unfold scanWord
  split <;> [rfl; skip]
  dsimp only
  split
  · split
    · rw [repairCopy_fuse, putPattern_fuse, wordEvents_fuse]
    · rw [fuse_ite, putHeld_fuse, ite_self, putPattern_fuse, wordEvents_fuse]
  · rw [fuse_ite, putStack_fuse, ite_self, putPattern_fuse, wordEvents_fuse]
@[simp] theorem scanRange_fuse (s : State) (st lo n : Nat) : (scanRange s st lo n).2.fuse = s.fuse := by
  unfold scanRange
  exact (fuse_foldl_snd (fun p w => scanWord_fuse ..) ..).trans (stackAccess_fuse ..)
@[simp] theorem scrubStart_fuse (s : State) (st : Nat) : (scrubStart s st).fuse = s.fuse := by simp [scrubStart]
@[simp] theorem scrubFinish_fuse (s : State) (st : Nat) (words : Nat) (flags : Nat) (state : Nat) : (scrubFinish s st words flags state).fuse = s.fuse := by simp [scrubFinish]
@[simp] theorem scrubHalt_fuse (s : State) (st : Nat) (flags : Nat) : (scrubHalt s st flags).fuse = s.fuse := by simp [scrubHalt]
@[simp] theorem raiseHot_fuse (h : Stack) (x : HotPart) (st : Nat) (s : State) (ch : Nat) : (raiseHot h x st s ch).fuse = s.fuse := by simp [raiseHot]

/-! ### PowerBase -/

@[simp] theorem modeCheck_fuse (s : State) : (modeCheck s).fuse = s.fuse := by simp [modeCheck]
@[simp] theorem energyCheck_fuse (before : State) (s : State) : (energyCheck before s).fuse = s.fuse := by simp [energyCheck]
@[simp] theorem relearnEnd_fuse (s : State) (state : Nat) : (relearnEnd s state).fuse = s.fuse := by simp [relearnEnd]
@[simp] theorem bankAfterFail_fuse (s : State) : (bankAfterFail s).fuse = s.fuse := by simp [bankAfterFail]
@[simp] theorem relearnAbort_fuse (s : State) : (relearnAbort s).fuse = s.fuse := by simp [relearnAbort]
@[simp] theorem flushCommits_fuse (c n : Nat) (s : State) : (flushCommits c n s).fuse = s.fuse := by
  induction n generalizing s with
  | zero => rfl
  | succ n ih => simp [flushCommits, ih]
@[simp] theorem abortAll_fuse (s : State) : (abortAll s).fuse = s.fuse := by simp [abortAll]
@[simp] theorem flushBegin_fuse (s : State) (cause : Nat) : (flushBegin s cause).fuse = s.fuse := by simp [flushBegin]
@[simp] theorem flushStart_fuse (s : State) (cause : Nat) : (flushStart s cause).fuse = s.fuse := by simp [flushStart]

/-! ### Firmware -/

@[simp] theorem imageRefused_fuse (s : State) (kind : Nat) (check : Nat) : (imageRefused s kind check).fuse = s.fuse := by simp [imageRefused]
@[simp] theorem bankRefused_fuse (s : State) (n : Nat) : (bankRefused s n).fuse = s.fuse := by simp [bankRefused]
@[simp] theorem bootRom_fuse (s : State) (other : Bool) : (bootRom s other).fuse = s.fuse := by simp [bootRom]
@[simp] theorem eraseBank_fuse (s : State) (n : Nat) : (eraseBank s n).fuse = s.fuse := rfl
@[simp] theorem programBank_fuse (s : State) (n : Nat) (img : List Byte) : (programBank s n img).fuse = s.fuse := rfl
@[simp] theorem activateSlot_fuse (s : State) (n : Nat) : (activateSlot s n).fuse = s.fuse := rfl
@[simp] theorem commitResult_fuse (r : Nat × State) : (commitResult r).fuse = r.2.fuse := rfl
@[simp] theorem commitDone_fuse (s : State) (path : Nat) (reply : Option NTicket) (st : Nat) : (commitDone s path reply st).fuse = s.fuse := by
  cases reply <;> simp [commitDone]
@[simp] theorem commitAdvance_fuse (s : State) : (commitAdvance s).fuse = s.fuse := by unfold commitAdvance; split <;> simp
@[simp] theorem commitFinish_fuse (s : State) : (commitFinish s).fuse = s.fuse := by simp [commitFinish]
@[simp] theorem commitLost_fuse (s : State) : (commitLost s).fuse = s.fuse := by unfold commitLost; split <;> simp
@[simp] theorem commitStart_fuse (s : State) (path : Nat) (slot : Nat) (activate : Bool) (imgs : List (List Byte)) (reply : Option NTicket) : (commitStart s path slot activate imgs reply).fuse = s.fuse := rfl
@[simp] theorem commitOn_fuse (s0 : State) (path : Nat) (slot : Nat) (action : Nat) (reply : Option NTicket) : (commitOn s0 path slot action reply).fuse = s0.fuse := by unfold commitOn; dsimp only; (repeat' split) <;> simp
@[simp] theorem recoveryCommit_fuse (s : State) : (recoveryCommit s).fuse = s.fuse := by simp [recoveryCommit]
@[simp] theorem fixMeasurements_fuse (s : State) : (fixMeasurements s).fuse = s.fuse := rfl

/-! ### Media -/

@[simp] theorem inconsistentRead_fuse (s : State) (p : Nat) (n : Nat) (page : Nat) : (inconsistentRead s p n page).fuse = s.fuse := by simp [inconsistentRead]
@[simp] theorem patrolBlock_fuse (s : State) (p : Nat) (n : Nat) (page : Nat) (level : Nat) : (patrolBlock s p n page level).fuse = s.fuse := by simp [patrolBlock]
@[simp] theorem programFail_fuse (s : State) (p : Nat) (n : Nat) : (programFail s p n).fuse = s.fuse := rfl
@[simp] theorem suspectBlock_fuse (s : State) (p : Nat) (n : Nat) : (suspectBlock s p n).fuse = s.fuse := by simp [suspectBlock]
@[simp] theorem readSuspend_fuse (s : State) (p : Nat) (die : Nat) : (readSuspend s p die).fuse = s.fuse := by simp [readSuspend]
@[simp] theorem sanitizeBlock_fuse (s : State) (e : Nat × Nat) : (sanitizeBlock s e).fuse = s.fuse := by simp [sanitizeBlock]
@[simp] theorem unmapAll_fuse (s : State) : (unmapAll s).fuse = s.fuse := rfl
@[simp] theorem newNsKey_fuse (s : State) (nsid : Nat) : (newNsKey s nsid).fuse = s.fuse := by unfold newNsKey; split <;> simp
@[simp] theorem supersede_fuse (s : State) : (supersede s).fuse = s.fuse := by simp [supersede]
@[simp] theorem sanitizeEnd_fuse (s : State) (failed : Bool) : (sanitizeEnd s failed).fuse = s.fuse := by simp [sanitizeEnd]

/-! ### PowerStart -/

@[simp] theorem flushProg_fuse (s : State) (p : Nat) (i : Nat) : (flushProg s p i).fuse = s.fuse := by simp [flushProg]
@[simp] theorem flushProgs_fuse (n : Nat) (s : State) : (flushProgs n s).fuse = s.fuse := by
  induction n generalizing s with
  | zero => rfl
  | succ n ih => unfold flushProgs; split <;> simp [ih]
@[simp] theorem loseRef_fuse (s : State) (r : BackRef) : (loseRef s r).fuse = s.fuse := by unfold loseRef; split <;> simp
@[simp] theorem loseProgs_fuse (s : State) : (loseProgs s).fuse = s.fuse := by simp [loseProgs]
@[simp] theorem reeveLost_fuse (s0 : State) : (reeveLost s0).fuse = s0.fuse := by simp [reeveLost]
@[simp] theorem volatileLost_fuse (s : State) (reeve : Bool) : (volatileLost s reeve).fuse = s.fuse := by simp [volatileLost]
@[simp] theorem beginStart_fuse (s : State) : (beginStart s).fuse = s.fuse := rfl
@[simp] theorem restartStage2_fuse (s : State) : (restartStage2 s).fuse = s.fuse := rfl
@[simp] theorem restartCheck_fuse (s : State) : (restartCheck s).fuse = s.fuse := by simp [restartCheck]
@[simp] theorem stopped_fuse (s : State) : (stopped s).fuse = s.fuse := by simp [stopped]
@[simp] theorem flushFinish_fuse (s : State) : (flushFinish s).fuse = s.fuse := by simp [flushFinish]
@[simp] theorem flushCut_fuse (s : State) : (flushCut s).fuse = s.fuse := by simp [flushCut]
@[simp] theorem rewriteEvents_fuse (s : State) (croft : Option Nat) (kind : Nat) (place : Nat) (id : Nat) (seq : Nat) (places : List Nat) : (rewriteEvents s croft kind place id seq places).fuse = s.fuse := by simp [rewriteEvents]
@[simp] theorem conflictEvent_fuse (s : State) (croft : Option Nat) (kind : Nat) (place : Nat) (seq : Nat) : (conflictEvent s croft kind place seq).fuse = s.fuse := by simp [conflictEvent]
@[simp] theorem headsChosen_fuse (s : State) (p : Nat) : (headsChosen s p).fuse = s.fuse := by unfold headsChosen; dsimp only; split <;> simp
@[simp] theorem tableChosen_fuse (s : State) (c : Nat) : (tableChosen s c).fuse = s.fuse := by unfold tableChosen; dsimp only; (repeat' split) <;> simp
@[simp] theorem dictChosen_fuse (s : State) : (dictChosen s).fuse = s.fuse := by simp [dictChosen]
@[simp] theorem stageReached_fuse (s : State) (n : Nat) : (stageReached s n).fuse = s.fuse := by simp [stageReached]
@[simp] theorem macStart_fuse (s : State) : (macStart s).fuse = s.fuse := rfl
@[simp] theorem kamlinStart_fuse (s : State) : (kamlinStart s).fuse = s.fuse := rfl
@[simp] theorem reachStage1_fuse (s : State) : (reachStage1 s).fuse = s.fuse := by simp [reachStage1]
@[simp] theorem stallEvent_fuse (s : State) (part : Nat) (index : Nat) : (stallEvent s part index).fuse = s.fuse := by simp [stallEvent]
@[simp] theorem reachStage2_fuse (s : State) : (reachStage2 s).fuse = s.fuse := by simp [reachStage2]
/-- Erasing one block after another, said by the state the loop ends in: the kernel compares these states without unfolding the erase. -/
theorem eraseBlocks_fuse (s : State) (p : Nat) (l : List Nat) : (l.foldl (fun s n => eraseBlock s p n) s).fuse = s.fuse := by
  have h : ∀ (l : List Nat) (s t : State), l.foldl (fun s n => eraseBlock s p n) s = t → t.fuse = s.fuse := by
    intro l
    induction l with
    | nil => rintro s t rfl; rfl
    | cons n l ih => exact fun s t ht => (ih (eraseBlock s p n) t ht).trans (eraseBlock_fuse s p n)
  exact h l s _ rfl
@[simp] theorem recoverBlocks_fuse (s : State) (p : Nat) : (recoverBlocks s p).fuse = s.fuse := by
  unfold recoverBlocks
  dsimp only
  split <;> [rfl; skip]
  rw [fuse_foldl (fun s b => evacuateIn_fuse ..), eraseBlocks_fuse, putPackage_fuse]
@[simp] theorem refillReserve_fuse (p n : Nat) (s : State) : (refillReserve p n s).fuse = s.fuse := by
  induction n generalizing s with
  | zero => rfl
  | succ n ih => simp [refillReserve, ih]
@[simp] theorem croftRestored_fuse (s : State) (c : Nat) : (croftRestored s c).fuse = s.fuse := by unfold croftRestored; split <;> simp
@[simp] theorem orphanSpills_fuse (s : State) : (orphanSpills s).fuse = s.fuse := by simp [orphanSpills]

/-! ### PowerRows -/

@[simp] theorem inputAssert_fuse (s : State) (i : Nat) : (inputAssert s i).fuse = s.fuse := by simp [inputAssert]
@[simp] theorem inputRelease_fuse (s : State) (i : Nat) : (inputRelease s i).fuse = s.fuse := rfl
@[simp] theorem leakStop_fuse (s : State) : (leakStop s).fuse = s.fuse := by simp [leakStop]
@[simp] theorem perstAssert_fuse (s : State) : (perstAssert s).fuse = s.fuse := by simp [perstAssert]
@[simp] theorem perstRelease.beginLinks_fuse (s : State) : (perstRelease.beginLinks s).fuse = s.fuse := by simp [perstRelease.beginLinks]
@[simp] theorem perstRelease_fuse (s : State) : (perstRelease s).fuse = s.fuse := by simp [perstRelease]
@[simp] theorem safeAction_fuse (s : State) (i : Nat) (chatter : Bool) : (safeAction s i chatter).fuse = s.fuse := by simp [safeAction]
@[simp] theorem inputLatch_fuse (s : State) (i : Nat) (chatter : Bool) : (inputLatch s i chatter).fuse = s.fuse := by simp [inputLatch]
@[simp] theorem faultCleared_fuse (s : State) (i : Nat) : (faultCleared s i).fuse = s.fuse := by simp [faultCleared]
@[simp] theorem restartNow_fuse (s : State) : (restartNow s).fuse = s.fuse := by unfold restartNow; split <;> simp
@[simp] theorem lowerClocks_fuse (s : State) : (lowerClocks s).fuse = s.fuse := rfl
@[simp] theorem raiseClocks_fuse (s : State) : (raiseClocks s).fuse = s.fuse := rfl
@[simp] theorem powerDown_fuse (s : State) (watts : W32) : (powerDown s watts).fuse = s.fuse := by simp [powerDown]
@[simp] theorem powerUp_fuse (s : State) : (powerUp s).fuse = s.fuse := rfl
@[simp] theorem powerJudge_fuse (s : State) (watts : W32) : (powerJudge s watts).fuse = s.fuse := by simp [powerJudge]

/-! ### Plant -/

@[simp] theorem bankFault_fuse (s : State) (cause : Nat) : (bankFault s cause).fuse = s.fuse := by simp [bankFault]
@[simp] theorem sensorFault_fuse (s : State) (j : Nat) : (sensorFault s j).fuse = s.fuse := by simp [sensorFault]
@[simp] theorem takeReading_fuse (s : State) (p : W32 × Nat) : (takeReading s p).fuse = s.fuse := by simp [takeReading]
@[simp] theorem takeReadings_fuse (s : State) (raw : List W32) : (takeReadings s raw).fuse = s.fuse := by simp [takeReadings]
@[simp] theorem valveDemand_fuse (s : State) (u : ℚ) (acc : ℚ) : (valveDemand s u acc).fuse = s.fuse := rfl
@[simp] theorem valveTo_fuse (s : State) (target : Nat) : (valveTo s target).fuse = s.fuse := rfl
@[simp] theorem valveLoop_fuse (s : State) : (valveLoop s).fuse = s.fuse := by simp [valveLoop]
@[simp] theorem retarget_fuse (s : State) : (retarget s).fuse = s.fuse := by simp [retarget]
@[simp] theorem valveFaulted_fuse (s : State) (pos : Nat) : (valveFaulted s pos).fuse = s.fuse := by simp [valveFaulted]
@[simp] theorem clearStop_fuse (s : State) : (clearStop s).fuse = s.fuse := by simp [clearStop]
@[simp] theorem relearnRefused_fuse (s : State) (proc : Nat) : (relearnRefused s proc).fuse = s.fuse := by simp [relearnRefused]
@[simp] theorem relearnValve_fuse (s : State) : (relearnValve s).fuse = s.fuse := by simp [relearnValve]
@[simp] theorem relearnBankRun_fuse (s : State) (clearing : Bool) : (relearnBankRun s clearing).fuse = s.fuse := by simp [relearnBankRun]
@[simp] theorem relearnBank_fuse (s : State) : (relearnBank s).fuse = s.fuse := by simp [relearnBank]
@[simp] theorem clearBankFault_fuse (s : State) : (clearBankFault s).fuse = s.fuse := by simp [clearBankFault]
@[simp] theorem bankLearnt_fuse (s : State) (farads : W32) (milliohms : W32) : (bankLearnt s farads milliohms).fuse = s.fuse := by simp [bankLearnt]
@[simp] theorem bankResult_fuse (s : State) (farads : W32) (milliohms : W32) : (bankResult s farads milliohms).fuse = s.fuse := by simp [bankResult]
@[simp] theorem valveResult_fuse (s : State) (l : List Nat) : (valveResult s l).fuse = s.fuse := by simp [valveResult]

/-! ### Reeve -/

@[simp] theorem reeveRestart_fuse (s : State) (cause : Nat) (slot : Nat) : (reeveRestart s cause slot).fuse = s.fuse := by simp [reeveRestart]
@[simp] theorem watchdogKey_fuse (s : State) (v : Nat) : (watchdogKey s v).fuse = s.fuse := by simp [watchdogKey]
@[simp] theorem watchdogCtl_fuse (s : State) (v : Nat) : (watchdogCtl s v).fuse = s.fuse := by simp [watchdogCtl]
@[simp] theorem fsSet_fuse (s : State) (b : Nat) : (fsSet s b).fuse = s.fuse := rfl
@[simp] theorem flashLock_fuse (s : State) : (flashLock s).fuse = s.fuse := rfl
@[simp] theorem flashRefuse_fuse (s : State) (b : Nat) : (flashRefuse s b).fuse = s.fuse := rfl
@[simp] theorem flashStart_fuse (s : State) : (flashStart s).fuse = s.fuse := rfl
@[simp] theorem flashCommand_fuse (s : State) (a : Nat) : (flashCommand s a).fuse = s.fuse := by simp [flashCommand]
@[simp] theorem flashKey_fuse (s : State) (v : Nat) : (flashKey s v).fuse = s.fuse := by simp [flashKey]
@[simp] theorem keyBroken_fuse (s : State) : (keyBroken s).fuse = s.fuse := by simp [keyBroken]
@[simp] theorem flashCmd_fuse (s : State) (v : Nat) : (flashCmd s v).fuse = s.fuse := by simp [flashCmd]
@[simp] theorem flashAddr_fuse (s : State) (v : Nat) : (flashAddr s v).fuse = s.fuse := by simp [flashAddr]
@[simp] theorem flashLow_fuse (s : State) (v : Nat) : (flashLow s v).fuse = s.fuse := by simp [flashLow]
@[simp] theorem flashHigh_fuse (s : State) (v : Nat) : (flashHigh s v).fuse = s.fuse := by simp [flashHigh]
@[simp] theorem activationLost_fuse (s : State) (n : Nat) : (activationLost s n).fuse = s.fuse := by simp [activationLost]
@[simp] theorem sectorErase_fuse (s : State) (n : Nat) : (sectorErase s n).fuse = s.fuse := by simp [sectorErase]
@[simp] theorem flashEffect_fuse (s : State) : (flashEffect s).fuse = s.fuse := by simp [flashEffect]
@[simp] theorem flashFinish_fuse (s : State) : (flashFinish s).fuse = s.fuse := by simp [flashFinish]
@[simp] theorem cvFinish_fuse (s : State) (n : Nat) : (cvFinish s n).fuse = s.fuse := by simp [cvFinish]
@[simp] theorem cvControl_fuse (s : State) (n : Nat) (v : Nat) : (cvControl s n v).fuse = s.fuse := by simp [cvControl]
@[simp] theorem cvFeed_fuse (s : State) (n : Nat) (k : Nat) (v : Nat) : (cvFeed s n k v).fuse = s.fuse := rfl
@[simp] theorem cvAlive_fuse (s : State) (n : Nat) (v : Nat) : (cvAlive s n v).fuse = s.fuse := by simp [cvAlive]
@[simp] theorem flashStatWrite_fuse (s : State) (v : Nat) : (flashStatWrite s v).fuse = s.fuse := by simp [flashStatWrite]
@[simp] theorem flashCtlWrite_fuse (s : State) (v : Nat) : (flashCtlWrite s v).fuse = s.fuse := by simp [flashCtlWrite]
@[simp] theorem flashProtWrite_fuse (s : State) (v : Nat) : (flashProtWrite s v).fuse = s.fuse := by simp [flashProtWrite]
@[simp] theorem flashRegister_fuse (s : State) (offset : Nat) (v : Nat) : (flashRegister s offset v).fuse = s.fuse := by simp [flashRegister]
@[simp] theorem unitRegister_fuse (s : State) (n : Nat) (offset : Nat) (width : Nat) (v : Nat) : (unitRegister s n offset width v).fuse = s.fuse := by simp [unitRegister]
@[simp] theorem watchdogRegister_fuse (s : State) (offset : Nat) (v : Nat) : (watchdogRegister s offset v).fuse = s.fuse := by simp [watchdogRegister]
@[simp] theorem reeveWrite_fuse (s : State) (offset : Nat) (width : Nat) (v : Nat) : (reeveWrite s offset width v).fuse = s.fuse := by simp [reeveWrite]

/-! ### OdLive -/

@[simp] theorem attReport_fuse (s : State) (nonce : List Byte) : (attReport s nonce).2.fuse = s.fuse := rfl
@[simp] theorem reportFor_fuse (s : State) (sid : Nat) : (reportFor s sid).2.2.fuse = s.fuse := by unfold reportFor; (repeat' split) <;> simp
@[simp] theorem nonceFor_fuse (s : State) (sid : Nat) : (nonceFor s sid).2.2.fuse = s.fuse := freshBytes_fuse 32 s
@[simp] theorem odBytes_fuse (s : State) (sid : Nat) (i : Nat) (sub : Nat) : (odBytes s sid i sub).2.2.fuse = s.fuse := by unfold odBytes; (repeat' split) <;> simp
@[simp] theorem odFetch_fuse (s : State) (sid : Nat) (e : OdEntry) (i : Nat) (sub : Nat) : (odFetch s sid e i sub).2.2.fuse = s.fuse := by unfold odFetch; (repeat' split) <;> simp

/-! ### DictWrite -/

@[simp] theorem dictResult_fuse (s : State) (v : Nat) : (dictResult s v).fuse = s.fuse := rfl
@[simp] theorem spareCheck_fuse (before : State) (s : State) : (spareCheck before s).fuse = s.fuse := by simp [spareCheck]
@[simp] theorem defaultsRestored_fuse (s : State) : (defaultsRestored s).fuse = s.fuse := by simp [defaultsRestored]
@[simp] theorem entryEffect_fuse (before : State) (s : State) (i : Nat) (sub : Nat) : (entryEffect before s i sub).fuse = s.fuse := by simp [entryEffect]
@[simp] theorem entrySet_fuse (s : State) (i : Nat) (sub : Nat) (v : Nat) : (entrySet s i sub v).fuse = s.fuse := by simp [entrySet]
@[simp] theorem writeDeferred_fuse (s : State) (sid : Nat) (hdr : List Byte) (i sub v : Nat) (found : List Byte) (l : List Nat) :
    (writeDeferred s sid hdr i sub v found l).fuse = s.fuse := by
  unfold writeDeferred
  dsimp only
  rw [odPark_fuse, fuse_foldl (fun s c => modCroft_fuse ..)]
@[simp] theorem valueWrite_fuse (s : State) (sid : Nat) (hdr : List Byte) (e : OdEntry) (i : Nat) (sub : Nat) (v : Nat) (found : List Byte) : (valueWrite s sid hdr e i sub v found).fuse = s.fuse := by simp [valueWrite]
@[simp] theorem croftCommand_fuse (s : State) (c : Nat) (v : Nat) : (croftCommand s c v).fuse = s.fuse := by simp [croftCommand]
@[simp] theorem gated_fuse (ok : Bool) (s t : State) : (gated ok s t).2.fuse = if ok then t.fuse else s.fuse := by
  cases ok <;> rfl
@[simp] theorem commitByte_fuse (s : State) (v : Nat) : (commitByte s v).2.fuse = s.fuse := by
  unfold commitByte
  split <;> simp
@[simp] theorem bankClear_fuse (s : State) : (bankClear s).2.fuse = s.fuse := by simp [bankClear]
@[simp] theorem croftCommandWrite_fuse (s : State) (sid : Nat) (hdr : List Byte) (c : Nat) (v : Nat) : (croftCommandWrite s sid hdr c v).fuse = s.fuse := by simp [croftCommandWrite]
@[simp] theorem dictCommandWrite_fuse (s : State) (sid : Nat) (hdr : List Byte) (v : Nat) : (dictCommandWrite s sid hdr v).fuse = s.fuse := by simp [dictCommandWrite]
@[simp] theorem restartWrite_fuse (s : State) (sid : Nat) (hdr : List Byte) : (restartWrite s sid hdr).fuse = s.fuse := by simp [restartWrite]
@[simp] theorem commitWrite_fuse (s : State) (sid : Nat) (hdr : List Byte) (v : Nat) : (commitWrite s sid hdr v).fuse = s.fuse := by simp [commitWrite]
@[simp] theorem recordWrite_fuse (s : State) (sid : Nat) (b : List Byte) : (recordWrite s sid b).2.fuse = s.fuse := by unfold recordWrite; (repeat' split) <;> simp
@[simp] theorem nonceWrite_fuse (s : State) (sid : Nat) (b : List Byte) : (nonceWrite s sid b).fuse = s.fuse := rfl
@[simp] theorem tableWrite_fuse (s : State) (i : Nat) (b : List Byte) : (tableWrite s i b).fuse = s.fuse := by simp [tableWrite]
@[simp] theorem bytesWrite_fuse (s : State) (sid : Nat) (hdr : List Byte) (e : OdEntry) (i : Nat) (b : List Byte) : (bytesWrite s sid hdr e i b).fuse = s.fuse := by simp [bytesWrite]

/-! ### Dict -/

@[simp] theorem odRefuse_fuse (s : State) (t : Nat) (b : List Byte) (status : Nat) : (odRefuse s t b status).fuse = s.fuse := rfl
@[simp] theorem odDiscard_fuse (s : State) : (odDiscard s).fuse = s.fuse := rfl
@[simp] theorem sessionGone_fuse (s : State) (sid : Nat) : (sessionGone s sid).fuse = s.fuse := rfl
@[simp] theorem odOpenRun_fuse (s : State) (t : Nat) (src : Nat) (b : List Byte) : (odOpenRun s t src b).fuse = s.fuse := by unfold odOpenRun; dsimp only; (repeat' split) <;> simp
@[simp] theorem segmentAnswer_fuse (s : State) (sid : Nat) (b : List Byte) (ty : Nat) (off : Nat) (n : Nat) (v : List Byte) : (segmentAnswer s sid b ty off n v).fuse = s.fuse := by simp [segmentAnswer]
@[simp] theorem odSegment_fuse (s : State) (sid : Nat) (b : List Byte) (e : OdEntry) (off : Nat) (n : Nat) : (odSegment s sid b e off n).fuse = s.fuse := by unfold odSegment; split <;> simp
@[simp] theorem odReadRun_fuse (s : State) (sid : Nat) (b : List Byte) : (odReadRun s sid b).fuse = s.fuse := by unfold odReadRun; split <;> simp
@[simp] theorem odReadSegmentRun_fuse (s : State) (sid : Nat) (b : List Byte) : (odReadSegmentRun s sid b).fuse = s.fuse := by unfold odReadSegmentRun; split <;> simp
@[simp] theorem finalSegment_fuse (s : State) (sid : Nat) (b : List Byte) (e : OdEntry) (g : Staging) : (finalSegment s sid b e g).fuse = s.fuse := by simp [finalSegment]
@[simp] theorem placeSegment_fuse (s : State) (sid : Nat) (b : List Byte) (e : OdEntry) : (placeSegment s sid b e).fuse = s.fuse := by simp [placeSegment]
@[simp] theorem odWriteSegmentRun_fuse (s : State) (sid : Nat) (t : Nat) (b : List Byte) : (odWriteSegmentRun s sid t b).fuse = s.fuse := by unfold odWriteSegmentRun; split <;> simp
@[simp] theorem odSubscribeRun_fuse (s : State) (sid : Nat) (b : List Byte) : (odSubscribeRun s sid b).fuse = s.fuse := by simp [odSubscribeRun]
@[simp] theorem notifyOverflow_fuse (s : State) (sid : Nat) : (notifyOverflow s sid).fuse = s.fuse := by unfold notifyOverflow; split <;> simp
@[simp] theorem notifyDrop_fuse (s : State) (sid : Nat) (seq : Nat) : (notifyDrop s sid seq).fuse = s.fuse := by simp [notifyDrop]
@[simp] theorem odCloseRun_fuse (s : State) (sid : Nat) (b : List Byte) : (odCloseRun s sid b).fuse = s.fuse := by simp [odCloseRun]
@[simp] theorem odAccept_fuse (s : State) (sid : Nat) (n : Session) (b : List Byte) : (odAccept s sid n b).fuse = s.fuse := by simp [odAccept]
@[simp] theorem odAckRun_fuse (s : State) (sid : Nat) (b : List Byte) : (odAckRun s sid b).fuse = s.fuse := by simp [odAckRun]
@[simp] theorem notifyAgain_fuse (s : State) (sid : Nat) (n : Session) (x : Notify) : (notifyAgain s sid n x).fuse = s.fuse := by simp [notifyAgain]

/-! ### Auth -/

@[simp] theorem readWhole_fuse (sid key : Nat) (r : Nat × List Byte × State) : (readWhole sid key r).fuse = r.2.2.fuse := by
  simp [readWhole]

/-! ### BellOps -/

@[simp] theorem stepBell_fuse (s : State) (d : Int) : (stepBell s d).fuse = s.fuse := rfl
@[simp] theorem acquire_fuse (s : State) (e : Int) : (acquire s e).fuse = s.fuse := by simp [acquire]
@[simp] theorem takeExchange_fuse (s : State) (e : Int) : (takeExchange s e).fuse = s.fuse := by simp [takeExchange]
@[simp] theorem bellRequest_fuse (s : State) (p : Nat) (x : BellX) : (bellRequest s p x).fuse = s.fuse := by simp [bellRequest]
@[simp] theorem bellExchange_fuse (s : State) (p : Nat) (x : BellX) : (bellExchange s p x).fuse = s.fuse := by simp [bellExchange]
@[simp] theorem bellResponse_fuse (s : State) (p : Nat) (b : List Byte) : (bellResponse s p b).fuse = s.fuse := by simp [bellResponse]
@[simp] theorem bellFrame_fuse (s : State) (p : Nat) (b : List Byte) : (bellFrame s p b).fuse = s.fuse := by simp [bellFrame]
@[simp] theorem ppsEdge_fuse (s : State) : (ppsEdge s).fuse = s.fuse := by unfold ppsEdge; split <;> simp

/-! ### Spdm -/

@[simp] theorem spdmSend_fuse (s : State) (f : Nat) (x : Spdm) (b : List Byte) : (spdmSend s f x b).fuse = s.fuse := rfl
@[simp] theorem spdmError_fuse (s : State) (f : Nat) (code : Nat) (data : Nat) : (spdmError s f code data).fuse = s.fuse := rfl
@[simp] theorem spdmGetVersion_fuse (s : State) (f : Nat) (m : List Byte) : (spdmGetVersion s f m).fuse = s.fuse := rfl
@[simp] theorem spdmGetCapabilities_fuse (s : State) (f : Nat) (m : List Byte) : (spdmGetCapabilities s f m).fuse = s.fuse := by simp [spdmGetCapabilities]
@[simp] theorem spdmAlgorithms_fuse (s : State) (f : Nat) (m : List Byte) : (spdmAlgorithms s f m).fuse = s.fuse := by simp [spdmAlgorithms]
@[simp] theorem spdmDigests_fuse (s : State) (f : Nat) (m : List Byte) : (spdmDigests s f m).fuse = s.fuse := rfl
@[simp] theorem spdmCertificate_fuse (s : State) (f : Nat) (m : List Byte) : (spdmCertificate s f m).fuse = s.fuse := by simp [spdmCertificate]
@[simp] theorem spdmChallenge_fuse (s : State) (f : Nat) (m : List Byte) : (spdmChallenge s f m).fuse = s.fuse := by simp [spdmChallenge]
@[simp] theorem spdmMeasurements_fuse (s : State) (f : Nat) (m : List Byte) : (spdmMeasurements s f m).fuse = s.fuse := by simp [spdmMeasurements]
@[simp] theorem spdmAfter_fuse (s : State) (f : Nat) (m : List Byte) (go : State) (h : go.fuse = s.fuse) :
    (spdmAfter s f m go).fuse = s.fuse := by
  simp [spdmAfter, h]

/-! ### Mctp -/

@[simp] theorem mctpAnswer_fuse (s : State) (b : Nat) (m : List Byte) (cc : Nat) (data : List Byte) : (mctpAnswer s b m cc data).fuse = s.fuse := rfl
@[simp] theorem mctpSetEid_fuse (s : State) (b : Nat) (m : List Byte) : (mctpSetEid s b m).fuse = s.fuse := by simp [mctpSetEid]
@[simp] theorem mctpGetEid_fuse (s : State) (b : Nat) (m : List Byte) : (mctpGetEid s b m).fuse = s.fuse := rfl
@[simp] theorem mctpVersions_fuse (s : State) (b : Nat) (m : List Byte) : (mctpVersions s b m).fuse = s.fuse := by simp [mctpVersions]
@[simp] theorem mctpTypes_fuse (s : State) (b : Nat) (m : List Byte) : (mctpTypes s b m).fuse = s.fuse := rfl
@[simp] theorem mctpVendor_fuse (s : State) (b : Nat) (m : List Byte) : (mctpVendor s b m).fuse = s.fuse := by simp [mctpVendor]

/-! ### NvmeIo -/

@[simp] theorem nvmeCount_fuse (s : State) (k : Nat) (item : Nat) (n : Nat) : (nvmeCount s k item n).fuse = s.fuse := by unfold nvmeCount; split <;> simp
@[simp] theorem countRead512_fuse (s : State) (k : Nat) (n : Nat) : (countRead512 s k n).fuse = s.fuse := rfl
@[simp] theorem countWrite512_fuse (s : State) (k : Nat) (n : Nat) : (countWrite512 s k n).fuse = s.fuse := rfl
@[simp] theorem readSectors_fuse (s : State) (k : Nat) (t : NTicket) (e : Desc) : (readSectors s k t e).fuse = s.fuse := by unfold readSectors; dsimp only; (repeat' split) <;> simp
@[simp] theorem countCompare_fuse (s : State) (k : Nat) (n : Nat) : (countCompare s k n).fuse = s.fuse := by simp [countCompare]
@[simp] theorem compareSectors_fuse (s : State) (k : Nat) (t : NTicket) (e : Desc) : (compareSectors s k t e).fuse = s.fuse := by unfold compareSectors; dsimp only; (repeat' split) <;> simp
@[simp] theorem verifySectors_fuse (s : State) (k : Nat) (t : NTicket) (e : Desc) : (verifySectors s k t e).fuse = s.fuse := by unfold verifySectors; dsimp only; (repeat' split) <;> simp
@[simp] theorem flushNs_fuse (s : State) (k : Nat) (t : NTicket) (e : Desc) : (flushNs s k t e).fuse = s.fuse := by unfold flushNs; (repeat' split) <;> simp
@[simp] theorem sectorPrograms_fuse (s : State) (nsid : Nat) (op : Nat) (zero : Bool) (data : List (Nat × List Byte)) : (sectorPrograms s nsid op zero data).fuse = s.fuse := by simp [sectorPrograms]
@[simp] theorem changeSectors_fuse (s : State) (t : NTicket) (nsid : Nat) (zero : Bool) (data : List (Nat × List Byte)) : (changeSectors s t nsid zero data).fuse = s.fuse := by simp [changeSectors]
@[simp] theorem countHostBytes_fuse (s : State) (n : Nat) : (countHostBytes s n).fuse = s.fuse := rfl
@[simp] theorem writeSectors_fuse (s : State) (k : Nat) (t : NTicket) (e : Desc) : (writeSectors s k t e).fuse = s.fuse := by unfold writeSectors; dsimp only; (repeat' split) <;> simp
@[simp] theorem deallocateSectors_fuse (s : State) (t : NTicket) (nsid : Nat) (l : List Nat) : (deallocateSectors s t nsid l).fuse = s.fuse := by simp [deallocateSectors]
@[simp] theorem zeroSectors_fuse (s : State) (k : Nat) (t : NTicket) (e : Desc) : (zeroSectors s k t e).fuse = s.fuse := by
  unfold zeroSectors
  split <;> [exact nvmeFail_fuse ..; skip]
  rw [fuse_ite, fuse_ite, nvmeFail_fuse, deallocateSectors_fuse, changeSectors_fuse, countHostBytes_fuse, ite_self, ite_self]
@[simp] theorem datasetManagement_fuse (s : State) (k : Nat) (t : NTicket) (e : Desc) : (datasetManagement s k t e).fuse = s.fuse := by unfold datasetManagement; dsimp only; (repeat' split) <;> simp
@[simp] theorem deallocSectors_fuse (s : State) (k : Nat) (nsid : Nat) (l : List Nat) (early : Bool) (format : Bool) (t : NTicket) : (deallocSectors s k nsid l early format t).fuse = s.fuse := by simp [deallocSectors]
@[simp] theorem secureDealloc_fuse (s : State) (k : Nat) (t : NTicket) (e : Desc) : (secureDealloc s k t e).fuse = s.fuse := by unfold secureDealloc; dsimp only; (repeat' split) <;> simp
@[simp] theorem secdealloc_fuse (s : State) (c : Nat) (t : Ticket) (k : Croft) (d : Desc) : (secdealloc s c t k d).fuse = s.fuse := by simp [secdealloc]
@[simp] theorem eraseRest_fuse (s : State) (x : Dealloc) : (eraseRest s x).fuse = s.fuse := by simp [eraseRest]

/-! ### NvmePages -/

@[simp] theorem logRead_fuse (s : State) (k : Nat) (id : Nat) : (logRead s k id).fuse = s.fuse := rfl

/-! ### NvmeAdmin -/

@[simp] theorem enableNvme_fuse (s : State) (k : Nat) : (enableNvme s k).fuse = s.fuse := by simp [enableNvme]
@[simp] theorem clearNvme_fuse (s : State) (k : Nat) : (clearNvme s k).fuse = s.fuse := rfl
@[simp] theorem dropQueueWork_fuse (s : State) (k : Nat) (q : Nat) : (dropQueueWork s k q).fuse = s.fuse := rfl
@[simp] theorem nsCreate_fuse (s : State) (t : NTicket) (size : Nat) : (nsCreate s t size).fuse = s.fuse := by unfold nsCreate; split <;> simp
@[simp] theorem nsGone_fuse (s : State) (nsid : Nat) : (nsGone s nsid).fuse = s.fuse := by unfold nsGone; split <;> simp
@[simp] theorem nsManage_fuse (s : State) (t : NTicket) (e : Desc) : (nsManage s t e).fuse = s.fuse := by unfold nsManage; dsimp only; (repeat' split) <;> simp
@[simp] theorem nsAttach_fuse (s : State) (nsid : Nat) (n : Namespace) (k : Nat) : (nsAttach s nsid n k).fuse = s.fuse := rfl
@[simp] theorem nsAttachment_fuse (s : State) (t : NTicket) (e : Desc) : (nsAttachment s t e).fuse = s.fuse := by unfold nsAttachment; dsimp only; (repeat' split) <;> simp
@[simp] theorem fwDownload_fuse (s : State) (k : Nat) (t : NTicket) (e : Desc) : (fwDownload s k t e).fuse = s.fuse := by unfold fwDownload; dsimp only; (repeat' split) <;> simp
@[simp] theorem wipeNs_fuse (s : State) (nsid : Nat) (n : Namespace) : (wipeNs s nsid n).fuse = s.fuse := by simp [wipeNs]
@[simp] theorem formatNs_fuse (s : State) (k : Nat) (t : NTicket) (e : Desc) : (formatNs s k t e).fuse = s.fuse := by unfold formatNs; dsimp only; (repeat' split) <;> simp
@[simp] theorem intendErase_fuse (s : State) (b : Nat × Nat) : (intendErase s b).fuse = s.fuse := rfl
@[simp] theorem sanitizeStart_fuse (s : State) (action : Nat) : (sanitizeStart s action).fuse = s.fuse := by
  simp [sanitizeStart, fuse_foldl intendErase_fuse]
@[simp] theorem sanitizeCmd_fuse (s : State) (t : NTicket) (e : Desc) : (sanitizeCmd s t e).fuse = s.fuse := by simp [sanitizeCmd]

/-! ### Tick -/

@[simp] theorem holdWrites_fuse (s : State) : (holdWrites s).fuse = s.fuse := by simp [holdWrites]

end Sys2Proof.Machine
end

section
/-! PROOFS of the fuse block: every command but those that advance the anti-rollback counters leaves it as it is (R449, R450). -/

set_option linter.all false

namespace Sys2Proof.Machine

/-! ### Commands -/

/-- A meaning that leaves the fuse block as it is. -/
def KeepsFuse (s : State) (o : Out) : Prop := ∀ t, o = .next t → t.fuse = s.fuse

@[simp] theorem keepsFuse_next {s t : State} : KeepsFuse s (.next t) ↔ t.fuse = s.fuse :=
  ⟨fun h => h t rfl, fun h u hu => by cases hu; exact h⟩

@[simp] theorem onSession_fuse (se : Fin 16) (s : State) (f : Nat → State) (h : ∀ sid, (f sid).fuse = s.fuse) : KeepsFuse s (onSession se s f) := by
  simp [onSession, h]

@[simp] theorem spdmRow_fuse (code : Nat) (f : Fin 2) (m : List Byte) (s go : State) (h : go.fuse = s.fuse) : KeepsFuse s (spdmRow code f m s go) := by
  simp [spdmRow, h]

@[simp] theorem mctpRow_fuse (code : Nat) (b : Fin 2) (m : List Byte) (s go : State) (h : go.fuse = s.fuse) : KeepsFuse s (mctpRow code b m s go) := by
  simp [mctpRow, h]

@[simp] theorem execClusterGate_fuse (n : Fin 8) (s : State) : KeepsFuse s (execClusterGate n s) := by simp [execClusterGate]
@[simp] theorem execClusterWake_fuse (n : Fin 8) (s : State) : KeepsFuse s (execClusterWake n s) := by simp [execClusterWake]
@[simp] theorem execArrayIdleTimeout_fuse (e : Fin 64) (a : Fin 8) (s : State) : KeepsFuse s (execArrayIdleTimeout e a s) := by simp [execArrayIdleTimeout]
@[simp] theorem execRampPhaseEnd_fuse (e : Fin 64) (a : Fin 8) (s : State) : KeepsFuse s (execRampPhaseEnd e a s) := by unfold execRampPhaseEnd; split <;> simp
@[simp] theorem execBallastPhaseEnd_fuse (e : Fin 64) (a : Fin 8) (s : State) : KeepsFuse s (execBallastPhaseEnd e a s) := by unfold execBallastPhaseEnd; split <;> simp
@[simp] theorem execRampUpStart_fuse (n : Fin 8) (s : State) : KeepsFuse s (execRampUpStart n s) := by unfold execRampUpStart; dsimp only; split <;> simp
@[simp] theorem execCroftCreate_fuse (c : Fin 32) (s : State) : KeepsFuse s (execCroftCreate c s) := by simp [execCroftCreate]
@[simp] theorem execCroftApply_fuse (c : Fin 32) (s : State) : KeepsFuse s (execCroftApply c s) := by simp [execCroftApply]
@[simp] theorem execCroftRemove_fuse (c : Fin 32) (s : State) : KeepsFuse s (execCroftRemove c s) := by simp [execCroftRemove]
@[simp] theorem execCroftRemoveAndPurge_fuse (c : Fin 32) (s : State) : KeepsFuse s (execCroftRemoveAndPurge c s) := by simp [execCroftRemoveAndPurge]
@[simp] theorem execWrite_fuse (f : Fin 33) (ring : Nat) (d : Desc) (s : State) : KeepsFuse s (execWrite f ring d s) := keepsFuse_next.2 (withStoreChange_fuse (fun s c t k => by (repeat' split) <;> simp) ..)
@[simp] theorem execPersist_fuse (f : Fin 33) (ring : Nat) (d : Desc) (s : State) : KeepsFuse s (execPersist f ring d s) := keepsFuse_next.2 (withStoreChange_fuse (fun s c t k => by simp) ..)
@[simp] theorem execRead_fuse (f : Fin 33) (ring : Nat) (d : Desc) (s : State) : KeepsFuse s (execRead f ring d s) := keepsFuse_next.2 (withStore_fuse (fun s c t k => by (repeat' split) <;> simp) ..)
@[simp] theorem execManifest_fuse (f : Fin 33) (ring : Nat) (d : Desc) (s : State) : KeepsFuse s (execManifest f ring d s) := keepsFuse_next.2 (withStore_fuse (fun s c t k => by split <;> simp) ..)
@[simp] theorem execTruncate_fuse (f : Fin 33) (ring : Nat) (d : Desc) (s : State) : KeepsFuse s (execTruncate f ring d s) := keepsFuse_next.2 (withStoreChange_fuse (fun s c t k => by split <;> simp) ..)
@[simp] theorem execUpdate_fuse (f : Fin 33) (ring : Nat) (d : Desc) (s : State) : KeepsFuse s (execUpdate f ring d s) := keepsFuse_next.2 (withStoreChange_fuse (fun s c t k => by (repeat' split) <;> simp) ..)
@[simp] theorem execCopy_fuse (f : Fin 33) (ring : Nat) (d : Desc) (s : State) : KeepsFuse s (execCopy f ring d s) := keepsFuse_next.2 (withStoreChange_fuse (fun s c t k => by split <;> simp) ..)
@[simp] theorem execDiscard_fuse (f : Fin 33) (ring : Nat) (d : Desc) (s : State) : KeepsFuse s (execDiscard f ring d s) := keepsFuse_next.2 (withStoreChange_fuse (fun s c t k => by simp) ..)
@[simp] theorem execSetcreate_fuse (f : Fin 33) (ring : Nat) (d : Desc) (s : State) : KeepsFuse s (execSetcreate f ring d s) := keepsFuse_next.2 (withDescriptor_fuse (fun s c t => by (repeat' split) <;> simp) ..)
@[simp] theorem execCommit_fuse (f : Fin 33) (ring : Nat) (d : Desc) (s : State) : KeepsFuse s (execCommit f ring d s) := keepsFuse_next.2 (withStore_fuse (fun s c t k => by simp) ..)
@[simp] theorem execCommitSealed_fuse (c : Fin 32) (s : State) : KeepsFuse s (execCommitSealed c s) := by simp [execCommitSealed]
@[simp] theorem execRollback_fuse (f : Fin 33) (ring : Nat) (d : Desc) (s : State) : KeepsFuse s (execRollback f ring d s) := keepsFuse_next.2 (withStoreChange_fuse (fun s c t k => by split <;> simp) ..)
@[simp] theorem execSnapshot_fuse (f : Fin 33) (ring : Nat) (d : Desc) (s : State) : KeepsFuse s (execSnapshot f ring d s) := keepsFuse_next.2 (withStoreChange_fuse (fun s c t k => by split <;> simp) ..)
@[simp] theorem execRelease_fuse (f : Fin 33) (ring : Nat) (d : Desc) (s : State) : KeepsFuse s (execRelease f ring d s) := keepsFuse_next.2 (withStoreChange_fuse (fun s c t k => by split <;> simp) ..)
@[simp] theorem execUnhold_fuse (f : Fin 33) (ring : Nat) (d : Desc) (s : State) : KeepsFuse s (execUnhold f ring d s) := keepsFuse_next.2 (withStoreChange_fuse (fun s c t k => by split <;> simp) ..)
@[simp] theorem execHold_fuse (f : Fin 33) (ring : Nat) (d : Desc) (s : State) : KeepsFuse s (execHold f ring d s) := keepsFuse_next.2 (withStore_fuse (fun s c t k => by (repeat' split) <;> simp) ..)
@[simp] theorem execNop_fuse (c : Fin 32) (v : Fin 64) (q : Fin 4) (w : IWord) (s : State) : KeepsFuse s (execNop c v q w s) := by simp [execNop]
@[simp] theorem execSignal_fuse (c : Fin 32) (v : Fin 64) (q : Fin 4) (w : IWord) (s : State) : KeepsFuse s (execSignal c v q w s) := by simpa [execSignal] using engPlain_fuse (fun e => doSignal_fuse ..) ..
@[simp] theorem execGate_fuse (c : Fin 32) (v : Fin 64) (q : Fin 4) (w : IWord) (s : State) : KeepsFuse s (execGate c v q w s) := by simpa [execGate] using engIssue_fuse (fun e => doGate_fuse ..) (fun t => by simp) ..
@[simp] theorem execStep_fuse (c : Fin 32) (v : Fin 64) (q : Fin 4) (w : IWord) (s : State) : KeepsFuse s (execStep c v q w s) := by simpa [execStep] using engIssue_fuse (fun e => doStep_fuse ..) (fun t => by simp) ..
@[simp] theorem execInstructionComplete_fuse (c : Fin 32) (v : Fin 64) (q : Fin 4) (i : Nat) (s : State) : KeepsFuse s (execInstructionComplete c v q i s) := by simp [execInstructionComplete]
@[simp] theorem execPromotionComplete_fuse (c : Fin 32) (i : Nat) (s : State) : KeepsFuse s (execPromotionComplete c i s) := by simp [execPromotionComplete]
@[simp] theorem execLdsh_fuse (c : Fin 32) (v : Fin 64) (w : IWord) (s : State) : KeepsFuse s (execLdsh c v w s) := by simp [execLdsh]
@[simp] theorem execSwap_fuse (c : Fin 32) (v : Fin 64) (w : IWord) (s : State) : KeepsFuse s (execSwap c v w s) := by simp [execSwap]
@[simp] theorem execMac_fuse (c : Fin 32) (v : Fin 64) (w : IWord) (s : State) : KeepsFuse s (execMac c v w s) := by simp [execMac]
@[simp] theorem execTload_fuse (c : Fin 32) (v : Fin 64) (w : IWord) (s : State) : KeepsFuse s (execTload c v w s) := by simp [execTload]
@[simp] theorem execPreload_fuse (c : Fin 32) (v : Fin 64) (w : IWord) (s : State) : KeepsFuse s (execPreload c v w s) := by simp [execPreload]
@[simp] theorem execTag_fuse (c : Fin 32) (v : Fin 64) (w : IWord) (s : State) : KeepsFuse s (execTag c v w s) := by simp [execTag]
@[simp] theorem execVop_fuse (c : Fin 32) (v : Fin 64) (w : IWord) (s : State) : KeepsFuse s (execVop c v w s) := by simp [execVop]
@[simp] theorem execVfn_fuse (c : Fin 32) (v : Fin 64) (w : IWord) (s : State) : KeepsFuse s (execVfn c v w s) := by simp [execVfn]
@[simp] theorem execVred_fuse (c : Fin 32) (v : Fin 64) (w : IWord) (s : State) : KeepsFuse s (execVred c v w s) := by simp [execVred]
@[simp] theorem execVcvt_fuse (c : Fin 32) (v : Fin 64) (w : IWord) (s : State) : KeepsFuse s (execVcvt c v w s) := by simp [execVcvt]
@[simp] theorem execVupd_fuse (c : Fin 32) (v : Fin 64) (w : IWord) (s : State) : KeepsFuse s (execVupd c v w s) := by simp [execVupd]
@[simp] theorem execVpos_fuse (c : Fin 32) (v : Fin 64) (w : IWord) (s : State) : KeepsFuse s (execVpos c v w s) := by simp [execVpos]
@[simp] theorem execWpos_fuse (c : Fin 32) (v : Fin 64) (w : IWord) (s : State) : KeepsFuse s (execWpos c v w s) := by simp [execWpos]
@[simp] theorem execPsum_fuse (c : Fin 32) (v : Fin 64) (w : IWord) (s : State) : KeepsFuse s (execPsum c v w s) := keepsFuse_next.2 (engPlain_fuse (fun e => doPsumStep_fuse ..) ..)
@[simp] theorem execSelect_fuse (c : Fin 32) (v : Fin 64) (w : IWord) (s : State) : KeepsFuse s (execSelect c v w s) := keepsFuse_next.2 (engPlain_fuse (fun e => doSelect_fuse ..) ..)
@[simp] theorem execFetch_fuse (c : Fin 32) (v : Fin 64) (w : IWord) (s : State) : KeepsFuse s (execFetch c v w s) := keepsFuse_next.2 (engPlain_fuse (fun e => doFetch_fuse ..) ..)
@[simp] theorem execDrain_fuse (c : Fin 32) (v : Fin 64) (w : IWord) (s : State) : KeepsFuse s (execDrain c v w s) := keepsFuse_next.2 (engPlain_fuse (fun e => by simp) ..)
@[simp] theorem execWcvt_fuse (c : Fin 32) (v : Fin 64) (w : IWord) (s : State) : KeepsFuse s (execWcvt c v w s) := keepsFuse_next.2 (engPlain_fuse (fun e => by simp) ..)
@[simp] theorem execStore_fuse (c : Fin 32) (v : Fin 64) (w : IWord) (s : State) : KeepsFuse s (execStore c v w s) := keepsFuse_next.2 (engPlain_fuse (fun e => doStore_fuse ..) ..)
@[simp] theorem execSend_fuse (c : Fin 32) (v : Fin 64) (w : IWord) (s : State) : KeepsFuse s (execSend c v w s) := by simpa [execSend] using engPlain_fuse (fun e => doSend_fuse ..) ..
@[simp] theorem execReduce_fuse (c : Fin 32) (v : Fin 64) (w : IWord) (s : State) : KeepsFuse s (execReduce c v w s) := by simpa [execReduce] using engPlain_fuse (fun e => doReduce_fuse ..) ..
@[simp] theorem execTally_fuse (c : Fin 32) (v : Fin 64) (w : IWord) (s : State) : KeepsFuse s (execTally c v w s) := keepsFuse_next.2 (engPlain_fuse (fun e => doTally_fuse ..) ..)
@[simp] theorem execSendFrame_fuse (p : Fin 8) (frame : List Byte) (s : State) : KeepsFuse s (execSendFrame p frame s) := keepsFuse_next.2 (withFrame_fuse (fun s => by simp) ..)
@[simp] theorem execReductionPartial_fuse (p : Fin 8) (frame : List Byte) (s : State) : KeepsFuse s (execReductionPartial p frame s) := keepsFuse_next.2 (withFrame_fuse (fun s => by simp) ..)
@[simp] theorem execReductionResult_fuse (p : Fin 8) (frame : List Byte) (s : State) : KeepsFuse s (execReductionResult p frame s) := keepsFuse_next.2 (withFrame_fuse (fun s => by simp) ..)
@[simp] theorem execStepEndFrame_fuse (p : Fin 8) (frame : List Byte) (s : State) : KeepsFuse s (execStepEndFrame p frame s) := keepsFuse_next.2 (withFrame_fuse (fun s => by simp) ..)
@[simp] theorem execListImageFrame_fuse (p : Fin 8) (frame : List Byte) (s : State) : KeepsFuse s (execListImageFrame p frame s) := keepsFuse_next.2 (withFrame_fuse (fun s => by simp) ..)
@[simp] theorem execGroupCheck_fuse (p : Fin 8) (frame : List Byte) (s : State) : KeepsFuse s (execGroupCheck p frame s) := keepsFuse_next.2 (withFrame_fuse (fun s => by simp) ..)
@[simp] theorem execGroupCheckTimeout_fuse (c : Fin 32) (job : Nat) (s : State) : KeepsFuse s (execGroupCheckTimeout c job s) := by unfold execGroupCheckTimeout; (repeat' split) <;> simp
@[simp] theorem execOpenJob_fuse (f : Fin 33) (ring : Nat) (d : Desc) (s : State) : KeepsFuse s (execOpenJob f ring d s) := keepsFuse_next.2 (withDescriptor_fuse (fun s c t => by simp) ..)
@[simp] theorem execResume_fuse (f : Fin 33) (ring : Nat) (d : Desc) (s : State) : KeepsFuse s (execResume f ring d s) := keepsFuse_next.2 (withStore_fuse (fun s c t k => by dsimp only; (repeat' split) <;> simp) ..)
@[simp] theorem execLaunchCountReached_fuse (c : Fin 32) (job : Nat) (s : State) : KeepsFuse s (execLaunchCountReached c job s) := by simp [execLaunchCountReached]
@[simp] theorem execStepDescriptor_fuse (f : Fin 33) (ring : Nat) (d : Desc) (s : State) : KeepsFuse s (execStepDescriptor f ring d s) := keepsFuse_next.2 (withDescriptor_fuse (fun s c t => by dsimp only; (repeat' split) <;> simp) ..)
@[simp] theorem execBatchWaitExpiry_fuse (c : Fin 32) (job : Nat) (s : State) : KeepsFuse s (execBatchWaitExpiry c job s) := by simp [execBatchWaitExpiry]
@[simp] theorem execRequest_fuse (f : Fin 33) (ring : Nat) (d : Desc) (s : State) : KeepsFuse s (execRequest f ring d s) := keepsFuse_next.2 (withDescriptor_fuse (fun s c t => by (repeat' split) <;> simp) ..)
@[simp] theorem execCloseJob_fuse (f : Fin 33) (ring : Nat) (d : Desc) (s : State) : KeepsFuse s (execCloseJob f ring d s) := keepsFuse_next.2 (withDescriptor_fuse (fun s c t => by (repeat' split) <;> simp) ..)
@[simp] theorem execCancel_fuse (p : Fin 8) (frame : List Byte) (s : State) : KeepsFuse s (execCancel p frame s) := keepsFuse_next.2 (withFrame_fuse (fun s => by simp) ..)
@[simp] theorem execSearch_fuse (f : Fin 33) (ring : Nat) (d : Desc) (s : State) : KeepsFuse s (execSearch f ring d s) := keepsFuse_next.2 (withDescriptor_fuse (fun s c t => by (repeat' split) <;> simp) ..)
@[simp] theorem execDroverReadsReturned_fuse (c : Fin 32) (m : Nat) (s : State) : KeepsFuse s (execDroverReadsReturned c m s) := by simp [execDroverReadsReturned]
@[simp] theorem execCompact_fuse (f : Fin 33) (ring : Nat) (d : Desc) (s : State) : KeepsFuse s (execCompact f ring d s) := keepsFuse_next.2 (withDescriptor_fuse (fun s c t => by simp) ..)
@[simp] theorem execCompactionTrigger_fuse (c : Fin 32) (set : Nat) (s : State) : KeepsFuse s (execCompactionTrigger c set s) := by simp [execCompactionTrigger]
@[simp] theorem execStepStart_fuse (c : Fin 32) (s : State) : KeepsFuse s (execStepStart c s) := by simp [execStepStart]
@[simp] theorem execBatchStepEnd_fuse (c : Fin 32) (s : State) : KeepsFuse s (execBatchStepEnd c s) := by simp [execBatchStepEnd]
@[simp] theorem execStepTimeLimit_fuse (c : Fin 32) (s : State) : KeepsFuse s (execStepTimeLimit c s) := by unfold execStepTimeLimit; split <;> simp
@[simp] theorem execPreemptionDeadline_fuse (c : Fin 32) (s : State) : KeepsFuse s (execPreemptionDeadline c s) := by unfold execPreemptionDeadline; split <;> simp
@[simp] theorem execMkwr_fuse (f : Fin 33) (d : Desc) (s : State) : KeepsFuse s (execMkwr f d s) := keepsFuse_next.2 (withAdmin_fuse (fun s c t => by simp) ..)
@[simp] theorem execRmwr_fuse (f : Fin 33) (d : Desc) (s : State) : KeepsFuse s (execRmwr f d s) := keepsFuse_next.2 (withAdmin_fuse (fun s c t => by simp) ..)
@[simp] theorem execMkcr_fuse (f : Fin 33) (d : Desc) (s : State) : KeepsFuse s (execMkcr f d s) := keepsFuse_next.2 (withAdmin_fuse (fun s c t => by simp) ..)
@[simp] theorem execRmcr_fuse (f : Fin 33) (d : Desc) (s : State) : KeepsFuse s (execRmcr f d s) := keepsFuse_next.2 (withAdmin_fuse (fun s c t => by simp) ..)
@[simp] theorem execSetev_fuse (f : Fin 33) (d : Desc) (s : State) : KeepsFuse s (execSetev f d s) := keepsFuse_next.2 (withAdminCroft_fuse (fun s c t k => by simp) ..)
@[simp] theorem execLdimg_fuse (f : Fin 33) (d : Desc) (s : State) : KeepsFuse s (execLdimg f d s) := keepsFuse_next.2 (withAdminCroft_fuse (fun s c t k => by simp) ..)
@[simp] theorem execRmimg_fuse (f : Fin 33) (d : Desc) (s : State) : KeepsFuse s (execRmimg f d s) := keepsFuse_next.2 (withAdminCroft_fuse (fun s c t k => by simp) ..)
@[simp] theorem execLdalm_fuse (f : Fin 33) (d : Desc) (s : State) : KeepsFuse s (execLdalm f d s) := keepsFuse_next.2 (withAdminCroft_fuse (fun s c t k => by simp) ..)
@[simp] theorem execMkbnd_fuse (f : Fin 33) (d : Desc) (s : State) : KeepsFuse s (execMkbnd f d s) := keepsFuse_next.2 (withAdminCroft_fuse (fun s c t k => by simp) ..)
@[simp] theorem execRmbnd_fuse (f : Fin 33) (d : Desc) (s : State) : KeepsFuse s (execRmbnd f d s) := keepsFuse_next.2 (withAdminCroft_fuse (fun s c t k => by simp) ..)
@[simp] theorem execExportSet_fuse (f : Fin 33) (d : Desc) (s : State) : KeepsFuse s (execExportSet f d s) := keepsFuse_next.2 (withAdminCroft_fuse (fun s c t k => by simp) ..)
@[simp] theorem execUnexportSet_fuse (f : Fin 33) (d : Desc) (s : State) : KeepsFuse s (execUnexportSet f d s) := keepsFuse_next.2 (withAdminCroft_fuse (fun s c t k => by simp) ..)
@[simp] theorem execTrainingComplete_fuse (p : Fin 8) (good : Fin 16) (neighbour : Byte) (s : State) : KeepsFuse s (execTrainingComplete p good neighbour s) := by simp [execTrainingComplete]
@[simp] theorem execRecoveryComplete_fuse (p : Fin 8) (good : Fin 16) (neighbour : Byte) (s : State) : KeepsFuse s (execRecoveryComplete p good neighbour s) := by simp [execRecoveryComplete]
@[simp] theorem execTrainingFailTimeout_fuse (p : Fin 8) (s : State) : KeepsFuse s (execTrainingFailTimeout p s) := by simp [execTrainingFailTimeout]
@[simp] theorem execDownRetryTimeout_fuse (p : Fin 8) (s : State) : KeepsFuse s (execDownRetryTimeout p s) := by simp [execDownRetryTimeout]
@[simp] theorem execFlitReceive_fuse (p : Fin 8) (flit : List Byte) (decoded : Bool) (symbols : Nat) (s : State) : KeepsFuse s (execFlitReceive p flit decoded symbols s) := by simp [execFlitReceive]
@[simp] theorem execRetryRequest_fuse (p : Fin 8) (seq : Fin 4096) (s : State) : KeepsFuse s (execRetryRequest p seq s) := by simp [execRetryRequest]
@[simp] theorem execAckTimeout_fuse (p : Fin 8) (s : State) : KeepsFuse s (execAckTimeout p s) := by simp [execAckTimeout]
@[simp] theorem execCreditReturnTimeout_fuse (p : Fin 8) (s : State) : KeepsFuse s (execCreditReturnTimeout p s) := by simp [execCreditReturnTimeout]
@[simp] theorem execCreditReturnSend_fuse (p : Fin 8) (s : State) : KeepsFuse s (execCreditReturnSend p s) := by simp [execCreditReturnSend]
@[simp] theorem execCreditReturn_fuse (p : Fin 8) (frame : List Byte) (s : State) : KeepsFuse s (execCreditReturn p frame s) := keepsFuse_next.2 (withFrame_fuse (fun s => by simp) ..)
@[simp] theorem execLinkManagement_fuse (p : Fin 8) (frame : List Byte) (s : State) : KeepsFuse s (execLinkManagement p frame s) := keepsFuse_next.2 (withFrame_fuse (fun s => by simp) ..)
@[simp] theorem execFrameForward_fuse (p : Fin 8) (frame : List Byte) (s : State) : KeepsFuse s (execFrameForward p frame s) := by simp [execFrameForward]
@[simp] theorem execTpRead_fuse (p : Fin 8) (frame : List Byte) (s : State) : KeepsFuse s (execTpRead p frame s) := keepsFuse_next.2 (withFrame_fuse (fun s => by simp) ..)
@[simp] theorem execTpData_fuse (p : Fin 8) (frame : List Byte) (s : State) : KeepsFuse s (execTpData p frame s) := keepsFuse_next.2 (withFrame_fuse (fun s => by simp) ..)
@[simp] theorem execTpWrite_fuse (p : Fin 8) (frame : List Byte) (s : State) : KeepsFuse s (execTpWrite p frame s) := keepsFuse_next.2 (withFrame_fuse (fun s => by simp) ..)
@[simp] theorem execTpWriteDone_fuse (p : Fin 8) (frame : List Byte) (s : State) : KeepsFuse s (execTpWriteDone p frame s) := keepsFuse_next.2 (withFrame_fuse (fun s => by simp) ..)
@[simp] theorem execWorkRingTailDoorbell_fuse (f : Fin 33) (n : Nat) (v : W32) (s : State) : KeepsFuse s (execWorkRingTailDoorbell f n v s) := by simp [execWorkRingTailDoorbell]
@[simp] theorem execCompletionRingHeadDoorbell_fuse (f : Fin 33) (n : Nat) (v : W32) (s : State) : KeepsFuse s (execCompletionRingHeadDoorbell f n v s) := by simp [execCompletionRingHeadDoorbell]
@[simp] theorem execEventRingHeadDoorbell_fuse (f : Fin 33) (c : Fin 32) (v : W32) (s : State) : KeepsFuse s (execEventRingHeadDoorbell f c v s) := by simp [execEventRingHeadDoorbell]
@[simp] theorem execCtrlEnSet_fuse (f : Fin 33) (s : State) : KeepsFuse s (execCtrlEnSet f s) := by simp [execCtrlEnSet]
@[simp] theorem execCtrlEnClear_fuse (f : Fin 33) (s : State) : KeepsFuse s (execCtrlEnClear f s) := by simp [execCtrlEnClear]
@[simp] theorem execPf1Flr_fuse (f : Fin 33) (s : State) : KeepsFuse s (execPf1Flr f s) := by simp [execPf1Flr]
@[simp] theorem execPf0Flr_fuse (k : Fin 33) (s : State) : KeepsFuse s (execPf0Flr k s) := by simp [execPf0Flr]
@[simp] theorem execHotReset_fuse (port : Fin 2) (s : State) : KeepsFuse s (execHotReset port s) := by simp [execHotReset]
@[simp] theorem execMsixUnmask_fuse (f : Fin 33) (vector : Nat) (s : State) : KeepsFuse s (execMsixUnmask f vector s) := by simp [execMsixUnmask]
@[simp] theorem execInterruptTimeThreshold_fuse (f : Fin 33) (r : RingRef) (s : State) : KeepsFuse s (execInterruptTimeThreshold f r s) := by
  cases r with
  | completion n => simp only [execInterruptTimeThreshold, keepsFuse_next]; split <;> simp
  | event n => simp [execInterruptTimeThreshold]
@[simp] theorem execScrubStart_fuse (st : Fin 8) (s : State) : KeepsFuse s (execScrubStart st s) := by simp [execScrubStart]
@[simp] theorem execScrubStop_fuse (st : Fin 8) (s : State) : KeepsFuse s (execScrubStop st s) := by simp [execScrubStop]
@[simp] theorem execScrubEnd_fuse (st : Fin 8) (s : State) : KeepsFuse s (execScrubEnd st s) := by simp [execScrubEnd]
@[simp] theorem execPatrolScrub_fuse (st : Fin 8) (s : State) : KeepsFuse s (execPatrolScrub st s) := by simp [execPatrolScrub]
@[simp] theorem execCorrectedRateThreshold_fuse (st : Fin 8) (ch : Fin 32) (s : State) : KeepsFuse s (execCorrectedRateThreshold st ch s) := by unfold execCorrectedRateThreshold; dsimp only; split <;> simp
@[simp] theorem execHbmTemperatureReading_fuse (st : Fin 8) (ch : Fin 32) (t : W32) (s : State) : KeepsFuse s (execHbmTemperatureReading st ch t s) := by simp [execHbmTemperatureReading]
@[simp] theorem execHbmSelfRefreshEntry_fuse (st : Fin 8) (s : State) : KeepsFuse s (execHbmSelfRefreshEntry st s) := by simp [execHbmSelfRefreshEntry]
@[simp] theorem execFirmwareReplace_fuse (path : Fin 34) (slot : Nat) (s : State) : KeepsFuse s (execFirmwareReplace path slot s) := by simp [execFirmwareReplace]
@[simp] theorem execFirmwareReplaceActivate_fuse (path : Fin 34) (slot : Nat) (s : State) : KeepsFuse s (execFirmwareReplaceActivate path slot s) := by simp [execFirmwareReplaceActivate]
@[simp] theorem execFirmwareActivate_fuse (path : Fin 34) (slot : Nat) (s : State) : KeepsFuse s (execFirmwareActivate path slot s) := by simp [execFirmwareActivate]
@[simp] theorem execNandProgramComplete_fuse (p : Fin 48) (i : Nat) (s : State) : KeepsFuse s (execNandProgramComplete p i s) := by simp [execNandProgramComplete]
@[simp] theorem execPageReadComplete_fuse (p : Fin 48) (blk page : Nat) (level : Fin 5) (s : State) : KeepsFuse s (execPageReadComplete p blk page level s) := by simp [execPageReadComplete]
@[simp] theorem execGleanerCollect_fuse (p : Fin 48) (s : State) : KeepsFuse s (execGleanerCollect p s) := by unfold execGleanerCollect; split <;> simp
@[simp] theorem execRelocation_fuse (p : Fin 48) (i : Nat) (s : State) : KeepsFuse s (execRelocation p i s) := by simp [execRelocation]
@[simp] theorem execBlockErase_fuse (p : Fin 48) (blk : Nat) (s : State) : KeepsFuse s (execBlockErase p blk s) := by simp [execBlockErase]
@[simp] theorem execWearLevel_fuse (p : Fin 48) (s : State) : KeepsFuse s (execWearLevel p s) := by unfold execWearLevel; dsimp only; split <;> simp
@[simp] theorem execDisturbRefresh_fuse (p : Fin 48) (blk : Nat) (s : State) : KeepsFuse s (execDisturbRefresh p blk s) := by simp [execDisturbRefresh]
@[simp] theorem execRetentionRefresh_fuse (p : Fin 48) (blk : Nat) (s : State) : KeepsFuse s (execRetentionRefresh p blk s) := by simp [execRetentionRefresh]
@[simp] theorem execPatrolRead_fuse (p : Fin 48) (blk page : Nat) (level : Fin 5) (s : State) : KeepsFuse s (execPatrolRead p blk page level s) := by simp [execPatrolRead]
@[simp] theorem execMapPageWriteback_fuse (p : Fin 48) (page : Nat) (s : State) : KeepsFuse s (execMapPageWriteback p page s) := by
  simp only [execMapPageWriteback, keepsFuse_next]; (repeat' split) <;> simp
@[simp] theorem execMetadataRollover_fuse (p : Fin 48) (s : State) : KeepsFuse s (execMetadataRollover p s) := by
  simp only [execMetadataRollover, keepsFuse_next]; (repeat' split) <;> simp
@[simp] theorem execProgramFail_fuse (p : Fin 48) (blk : Nat) (s : State) : KeepsFuse s (execProgramFail p blk s) := by simp [execProgramFail]
@[simp] theorem execEraseFail_fuse (p : Fin 48) (blk : Nat) (blank : Bool) (s : State) : KeepsFuse s (execEraseFail p blk blank s) := by simp [execEraseFail]
@[simp] theorem execSuspectBlock_fuse (p : Fin 48) (blk : Nat) (s : State) : KeepsFuse s (execSuspectBlock p blk s) := by simp [execSuspectBlock]
@[simp] theorem execReadSuspend_fuse (p : Fin 48) (die : Fin 12) (s : State) : KeepsFuse s (execReadSuspend p die s) := by simp [execReadSuspend]
@[simp] theorem execSanitizeComplete_fuse (failed : Bool) (s : State) : KeepsFuse s (execSanitizeComplete failed s) := by simp [execSanitizeComplete]
@[simp] theorem execPowerOn_fuse (slotId : Fin 64) (s : State) : KeepsFuse s (execPowerOn slotId s) := by simp [execPowerOn]
@[simp] theorem execStage1Reached_fuse (ms : W32) (s : State) : KeepsFuse s (execStage1Reached ms s) := by simp [execStage1Reached]
@[simp] theorem execStage2Reached_fuse (ms : W32) (s : State) : KeepsFuse s (execStage2Reached ms s) := by simp [execStage2Reached]
@[simp] theorem execStartStalled_fuse (part : Fin 4) (index : Byte) (s : State) : KeepsFuse s (execStartStalled part index s) := by simp [execStartStalled]
@[simp] theorem execFlushComplete_fuse (s : State) : KeepsFuse s (execFlushComplete s) := by simp [execFlushComplete]
@[simp] theorem execFlushPowerLoss_fuse (s : State) : KeepsFuse s (execFlushPowerLoss s) := by simp [execFlushPowerLoss]
@[simp] theorem execPwrfailNAssert_fuse (s : State) : KeepsFuse s (execPwrfailNAssert s) := by simp [execPwrfailNAssert]
@[simp] theorem execPwrfailNRelease_fuse (s : State) : KeepsFuse s (execPwrfailNRelease s) := by simp [execPwrfailNRelease]
@[simp] theorem execLeakNAssert_fuse (s : State) : KeepsFuse s (execLeakNAssert s) := by simp [execLeakNAssert]
@[simp] theorem execLeakNRelease_fuse (s : State) : KeepsFuse s (execLeakNRelease s) := by simp [execLeakNRelease]
@[simp] theorem execPerstNAssert_fuse (s : State) : KeepsFuse s (execPerstNAssert s) := by simp [execPerstNAssert]
@[simp] theorem execPerstNRelease_fuse (s : State) : KeepsFuse s (execPerstNRelease s) := by simp [execPerstNRelease]
@[simp] theorem execWakeNAssert_fuse (s : State) : KeepsFuse s (execWakeNAssert s) := by simp [execWakeNAssert]
@[simp] theorem execWakeNRelease_fuse (s : State) : KeepsFuse s (execWakeNRelease s) := by simp [execWakeNRelease]
@[simp] theorem execInputFault_fuse (i : Fin 6) (chatter : Bool) (s : State) : KeepsFuse s (execInputFault i chatter s) := by simp [execInputFault]
@[simp] theorem execClearFault_fuse (i : Fin 6) (s : State) : KeepsFuse s (execClearFault i s) := by simp [execClearFault]
@[simp] theorem execEnableMate_fuse (s : State) : KeepsFuse s (execEnableMate s) := by simp [execEnableMate]
@[simp] theorem execEnableBreak_fuse (s : State) : KeepsFuse s (execEnableBreak s) := by simp [execEnableBreak]
@[simp] theorem execInputUndervoltage_fuse (s : State) : KeepsFuse s (execInputUndervoltage s) := by simp [execInputUndervoltage]
@[simp] theorem execInputOvervoltage_fuse (volts : W32) (s : State) : KeepsFuse s (execInputOvervoltage volts s) := by simp [execInputOvervoltage]
@[simp] theorem execModuleRestart_fuse (s : State) : KeepsFuse s (execModuleRestart s) := by simp [execModuleRestart]
@[simp] theorem execPowerLimitWindow_fuse (watts : W32) (s : State) : KeepsFuse s (execPowerLimitWindow watts s) := by simp [execPowerLimitWindow]
@[simp] theorem execCoreRailSettled_fuse (s : State) : KeepsFuse s (execCoreRailSettled s) := by simp [execCoreRailSettled]
@[simp] theorem execDieThrottle_fuse (n : Fin 8) (s : State) : KeepsFuse s (execDieThrottle n s) := by simp [execDieThrottle]
@[simp] theorem execDieThrottleEnd_fuse (n : Fin 8) (s : State) : KeepsFuse s (execDieThrottleEnd n s) := by simp [execDieThrottleEnd]
@[simp] theorem execCoreRailDroop_fuse (s : State) : KeepsFuse s (execCoreRailDroop s) := by simp [execCoreRailDroop]
@[simp] theorem execDroopEnd_fuse (s : State) : KeepsFuse s (execDroopEnd s) := by simp [execDroopEnd]
@[simp] theorem execBankEnergyUpdate_fuse (volts : W32) (s : State) : KeepsFuse s (execBankEnergyUpdate volts s) := by simp [execBankEnergyUpdate]
@[simp] theorem execBankFault_fuse (cause : Fin 4) (s : State) : KeepsFuse s (execBankFault cause s) := by simp [execBankFault]
@[simp] theorem execBankChargeTargetReached_fuse (s : State) : KeepsFuse s (execBankChargeTargetReached s) := by simp [execBankChargeTargetReached]
@[simp] theorem execSensorFault_fuse (j : Fin 24) (s : State) : KeepsFuse s (execSensorFault j s) := by simp [execSensorFault]
@[simp] theorem execPlantLoop_fuse (raw : List W32) (pos : W16) (s : State) : KeepsFuse s (execPlantLoop raw pos s) := by simp [execPlantLoop]
@[simp] theorem execValveSettled_fuse (pos : W16) (s : State) : KeepsFuse s (execValveSettled pos s) := by simp [execValveSettled]
@[simp] theorem execValveFault_fuse (pos : W16) (s : State) : KeepsFuse s (execValveFault pos s) := by simp [execValveFault]
@[simp] theorem execPlantTakeoverTimeout_fuse (s : State) : KeepsFuse s (execPlantTakeoverTimeout s) := by simp [execPlantTakeoverTimeout]
@[simp] theorem execArm_fuse (s : State) : KeepsFuse s (execArm s) := by simp [execArm]
@[simp] theorem execClearPlantStop_fuse (s : State) : KeepsFuse s (execClearPlantStop s) := by simp [execClearPlantStop]
@[simp] theorem execRelearnValveCurve_fuse (s : State) : KeepsFuse s (execRelearnValveCurve s) := by simp [execRelearnValveCurve]
@[simp] theorem execRelearnBank_fuse (s : State) : KeepsFuse s (execRelearnBank s) := by simp [execRelearnBank]
@[simp] theorem execBankRelearnInterval_fuse (s : State) : KeepsFuse s (execBankRelearnInterval s) := by simp [execBankRelearnInterval]
@[simp] theorem execClearBankFault_fuse (s : State) : KeepsFuse s (execClearBankFault s) := by simp [execClearBankFault]
@[simp] theorem execRelearnComplete_fuse (r : Relearn) (s : State) : KeepsFuse s (execRelearnComplete r s) := by unfold execRelearnComplete; (repeat' split) <;> simp
@[simp] theorem execReeveRestart_fuse (cause : Fin 3) (slotId : Fin 64) (s : State) : KeepsFuse s (execReeveRestart cause slotId s) := by simp [execReeveRestart]
@[simp] theorem execWatchdogService_fuse (v : W32) (s : State) : KeepsFuse s (execWatchdogService v s) := by simp [execWatchdogService]
@[simp] theorem execWatchdogTimeout_fuse (s : State) : KeepsFuse s (execWatchdogTimeout s) := by simp [execWatchdogTimeout]
@[simp] theorem execFkey_fuse (v : W32) (s : State) : KeepsFuse s (execFkey v s) := by simp [execFkey]
@[simp] theorem execFcmdWrite_fuse (v : W32) (s : State) : KeepsFuse s (execFcmdWrite v s) := by simp [execFcmdWrite]
@[simp] theorem execFlashProgram_fuse (v : W32) (s : State) : KeepsFuse s (execFlashProgram v s) := by simp [execFlashProgram]
@[simp] theorem execFlashErase_fuse (v : W32) (s : State) : KeepsFuse s (execFlashErase v s) := by simp [execFlashErase]
@[simp] theorem execFlashBlankCheck_fuse (v : W32) (s : State) : KeepsFuse s (execFlashBlankCheck v s) := by simp [execFlashBlankCheck]
@[simp] theorem execFlashOperationDone_fuse (s : State) : KeepsFuse s (execFlashOperationDone s) := by simp [execFlashOperationDone]
@[simp] theorem execCvctlInit_fuse (n : Fin 3) (v : W32) (s : State) : KeepsFuse s (execCvctlInit n v s) := by simp [execCvctlInit]
@[simp] theorem execCvctlFin_fuse (n : Fin 3) (v : W32) (s : State) : KeepsFuse s (execCvctlFin n v s) := by simp [execCvctlFin]
@[simp] theorem execCvdata_fuse (n : Fin 3) (width : Fin 3) (v : W32) (s : State) : KeepsFuse s (execCvdata n width v s) := by simp [execCvdata]
@[simp] theorem execCvalive_fuse (n : Fin 3) (v : W32) (s : State) : KeepsFuse s (execCvalive n v s) := by simp [execCvalive]
@[simp] theorem execRegisterWrite_fuse (b : RegBus) (offset width : Nat) (v : W64) (s : State) : KeepsFuse s (execRegisterWrite b offset width v s) := by unfold execRegisterWrite; split <;> simp
@[simp] theorem execNotifyResend_fuse (se : Fin 16) (seq : W16) (s : State) : KeepsFuse s (execNotifyResend se seq s) := by unfold execNotifyResend; (repeat' split) <;> simp
@[simp] theorem execSessionSupervisionExpiry_fuse (se : Fin 16) (s : State) : KeepsFuse s (execSessionSupervisionExpiry se s) := by unfold execSessionSupervisionExpiry; split <;> simp
@[simp] theorem execStagingBufferTimeout_fuse (s : State) : KeepsFuse s (execStagingBufferTimeout s) := by simp [execStagingBufferTimeout]
@[simp] theorem execAuthorisationNonceRead_fuse (se : Fin 16) (s : State) : KeepsFuse s (execAuthorisationNonceRead se s) := by simp [execAuthorisationNonceRead]
@[simp] theorem execAuthorisationRecord_fuse (se : Fin 16) (b : List Byte) (s : State) : KeepsFuse s (execAuthorisationRecord se b s) := by simp [execAuthorisationRecord]
@[simp] theorem execAuthorisationExpiry_fuse (se : Fin 16) (s : State) : KeepsFuse s (execAuthorisationExpiry se s) := by simp [execAuthorisationExpiry]
@[simp] theorem execAttestationNonce_fuse (se : Fin 16) (b : List Byte) (s : State) : KeepsFuse s (execAttestationNonce se b s) := by simp [execAttestationNonce]
@[simp] theorem execAttestationReport_fuse (se : Fin 16) (s : State) : KeepsFuse s (execAttestationReport se s) := by simp [execAttestationReport]
@[simp] theorem execKamlinPortConfig_fuse (p : Fin 8) (item : Fin 3) (v : Byte) (s : State) : KeepsFuse s (execKamlinPortConfig p item v s) := by simp [execKamlinPortConfig]
@[simp] theorem execBellExchange_fuse (p : Fin 8) (x : BellX) (s : State) : KeepsFuse s (execBellExchange p x s) := by simp [execBellExchange]
@[simp] theorem execBell_fuse (p : Fin 8) (frame : List Byte) (s : State) : KeepsFuse s (execBell p frame s) := keepsFuse_next.2 (withFrame_fuse (fun s => by simp) ..)
@[simp] theorem execHoldoverEntry_fuse (s : State) : KeepsFuse s (execHoldoverEntry s) := by simp [execHoldoverEntry]
@[simp] theorem execHoldoverLimit_fuse (s : State) : KeepsFuse s (execHoldoverLimit s) := by simp [execHoldoverLimit]
@[simp] theorem execBellPpsEdge_fuse (s : State) : KeepsFuse s (execBellPpsEdge s) := by simp [execBellPpsEdge]
@[simp] theorem execGetVersion_fuse (f : Fin 2) (m : List Byte) (s : State) : KeepsFuse s (execGetVersion f m s) := spdmRow_fuse _ _ _ _ _ (spdmGetVersion_fuse ..)
@[simp] theorem execGetCapabilities_fuse (f : Fin 2) (m : List Byte) (s : State) : KeepsFuse s (execGetCapabilities f m s) := by simp [execGetCapabilities]
@[simp] theorem execNegotiateAlgorithms_fuse (f : Fin 2) (m : List Byte) (s : State) : KeepsFuse s (execNegotiateAlgorithms f m s) := by simp [execNegotiateAlgorithms]
@[simp] theorem execGetDigests_fuse (f : Fin 2) (m : List Byte) (s : State) : KeepsFuse s (execGetDigests f m s) := spdmRow_fuse _ _ _ _ _ (spdmAfter_fuse _ _ _ _ (spdmDigests_fuse ..))
@[simp] theorem execGetCertificate_fuse (f : Fin 2) (m : List Byte) (s : State) : KeepsFuse s (execGetCertificate f m s) := by simp [execGetCertificate]
@[simp] theorem execChallenge_fuse (f : Fin 2) (m : List Byte) (s : State) : KeepsFuse s (execChallenge f m s) := by simp [execChallenge]
@[simp] theorem execGetMeasurements_fuse (f : Fin 2) (m : List Byte) (s : State) : KeepsFuse s (execGetMeasurements f m s) := by simp [execGetMeasurements]
@[simp] theorem execSetEndpointId_fuse (b : Fin 2) (m : List Byte) (s : State) : KeepsFuse s (execSetEndpointId b m s) := by simp [execSetEndpointId]
@[simp] theorem execGetEndpointId_fuse (b : Fin 2) (m : List Byte) (s : State) : KeepsFuse s (execGetEndpointId b m s) := mctpRow_fuse _ _ _ _ _ (mctpGetEid_fuse ..)
@[simp] theorem execGetMctpVersionSupport_fuse (b : Fin 2) (m : List Byte) (s : State) : KeepsFuse s (execGetMctpVersionSupport b m s) := by simp [execGetMctpVersionSupport]
@[simp] theorem execGetMessageTypeSupport_fuse (b : Fin 2) (m : List Byte) (s : State) : KeepsFuse s (execGetMessageTypeSupport b m s) := mctpRow_fuse _ _ _ _ _ (mctpTypes_fuse ..)
@[simp] theorem execGetVendorDefinedMessageSupport_fuse (b : Fin 2) (m : List Byte) (s : State) : KeepsFuse s (execGetVendorDefinedMessageSupport b m s) := by simp [execGetVendorDefinedMessageSupport]
@[simp] theorem execEntdaa_fuse (a : Fin 128) (s : State) : KeepsFuse s (execEntdaa a s) := by simp [execEntdaa]
@[simp] theorem execNvmeRead_fuse (k : Fin 33) (q : Nat) (e : Desc) (s : State) : KeepsFuse s (execNvmeRead k q e s) := keepsFuse_next.2 (withIo_fuse (fun s t => by simp) ..)
@[simp] theorem execCompare_fuse (k : Fin 33) (q : Nat) (e : Desc) (s : State) : KeepsFuse s (execCompare k q e s) := keepsFuse_next.2 (withIo_fuse (fun s t => by simp) ..)
@[simp] theorem execVerify_fuse (k : Fin 33) (q : Nat) (e : Desc) (s : State) : KeepsFuse s (execVerify k q e s) := keepsFuse_next.2 (withIo_fuse (fun s t => by simp) ..)
@[simp] theorem execFlush_fuse (k : Fin 33) (q : Nat) (e : Desc) (s : State) : KeepsFuse s (execFlush k q e s) := keepsFuse_next.2 (withIo_fuse (fun s t => by simp) ..)
@[simp] theorem execNvmeWrite_fuse (k : Fin 33) (q : Nat) (e : Desc) (s : State) : KeepsFuse s (execNvmeWrite k q e s) := keepsFuse_next.2 (withIo_fuse (fun s t => by simp) ..)
@[simp] theorem execWriteZeroes_fuse (k : Fin 33) (q : Nat) (e : Desc) (s : State) : KeepsFuse s (execWriteZeroes k q e s) := keepsFuse_next.2 (withIo_fuse (fun s t => by simp) ..)
@[simp] theorem execDatasetManagement_fuse (k : Fin 33) (q : Nat) (e : Desc) (s : State) : KeepsFuse s (execDatasetManagement k q e s) := keepsFuse_next.2 (withIo_fuse (fun s t => by simp) ..)
@[simp] theorem execSecureDeallocation_fuse (k : Fin 33) (q : Nat) (e : Desc) (s : State) : KeepsFuse s (execSecureDeallocation k q e s) := keepsFuse_next.2 (withIo_fuse (fun s t => by simp) ..)
@[simp] theorem execSecdealloc_fuse (f : Fin 33) (ring : Nat) (d : Desc) (s : State) : KeepsFuse s (execSecdealloc f ring d s) := keepsFuse_next.2 (withDescriptor_fuse (fun s c t => by split <;> simp) ..)
@[simp] theorem execSecdeallocEraseDone_fuse (seq : Nat) (s : State) : KeepsFuse s (execSecdeallocEraseDone seq s) := by unfold execSecdeallocEraseDone; split <;> simp
@[simp] theorem execIdentify_fuse (k : Fin 33) (e : Desc) (s : State) : KeepsFuse s (execIdentify k e s) := keepsFuse_next.2 (withNvme_fuse (fun s t => by split <;> simp) ..)
@[simp] theorem execGetLogPage_fuse (k : Fin 33) (e : Desc) (s : State) : KeepsFuse s (execGetLogPage k e s) := keepsFuse_next.2 (withNvme_fuse (fun s t => by dsimp only; (repeat' split) <;> simp) ..)
@[simp] theorem execSetFeatures_fuse (k : Fin 33) (e : Desc) (s : State) : KeepsFuse s (execSetFeatures k e s) := keepsFuse_next.2 (withNvme_fuse (fun s t => by simp) ..)
@[simp] theorem execGetFeatures_fuse (k : Fin 33) (e : Desc) (s : State) : KeepsFuse s (execGetFeatures k e s) := keepsFuse_next.2 (withNvme_fuse (fun s t => by simp) ..)
@[simp] theorem execCcEnSet_fuse (k : Fin 33) (s : State) : KeepsFuse s (execCcEnSet k s) := by simp [execCcEnSet]
@[simp] theorem execCcEnClear_fuse (k : Fin 33) (s : State) : KeepsFuse s (execCcEnClear k s) := by simp [execCcEnClear]
@[simp] theorem execCreateIoCompletionQueue_fuse (k : Fin 33) (e : Desc) (s : State) : KeepsFuse s (execCreateIoCompletionQueue k e s) := keepsFuse_next.2 (withNvme_fuse (fun s t => by simp) ..)
@[simp] theorem execCreateIoSubmissionQueue_fuse (k : Fin 33) (e : Desc) (s : State) : KeepsFuse s (execCreateIoSubmissionQueue k e s) := keepsFuse_next.2 (withNvme_fuse (fun s t => by simp) ..)
@[simp] theorem execDeleteIoSubmissionQueue_fuse (k : Fin 33) (e : Desc) (s : State) : KeepsFuse s (execDeleteIoSubmissionQueue k e s) := keepsFuse_next.2 (withNvme_fuse (fun s t => by simp) ..)
@[simp] theorem execDeleteIoCompletionQueue_fuse (k : Fin 33) (e : Desc) (s : State) : KeepsFuse s (execDeleteIoCompletionQueue k e s) := keepsFuse_next.2 (withNvme_fuse (fun s t => by simp) ..)
@[simp] theorem execAbortCmd_fuse (k : Fin 33) (e : Desc) (s : State) : KeepsFuse s (execAbortCmd k e s) := keepsFuse_next.2 (withNvme_fuse (fun s t => by simp) ..)
@[simp] theorem execAsynchronousEventRequest_fuse (k : Fin 33) (e : Desc) (s : State) : KeepsFuse s (execAsynchronousEventRequest k e s) := keepsFuse_next.2 (withNvme_fuse (fun s t => by dsimp only; (repeat' split) <;> simp) ..)
@[simp] theorem execNamespaceManagement_fuse (k : Fin 33) (e : Desc) (s : State) : KeepsFuse s (execNamespaceManagement k e s) := keepsFuse_next.2 (withNvme_fuse (fun s t => by simp) ..)
@[simp] theorem execNamespaceAttachment_fuse (k : Fin 33) (e : Desc) (s : State) : KeepsFuse s (execNamespaceAttachment k e s) := keepsFuse_next.2 (withNvme_fuse (fun s t => by simp) ..)
@[simp] theorem execFirmwareImageDownload_fuse (k : Fin 33) (e : Desc) (s : State) : KeepsFuse s (execFirmwareImageDownload k e s) := keepsFuse_next.2 (withNvme_fuse (fun s t => by simp) ..)
@[simp] theorem execFirmwareCommit_fuse (k : Fin 33) (e : Desc) (s : State) : KeepsFuse s (execFirmwareCommit k e s) := keepsFuse_next.2 (withNvme_fuse (fun s t => by simp) ..)
@[simp] theorem execFormatNvm_fuse (k : Fin 33) (e : Desc) (s : State) : KeepsFuse s (execFormatNvm k e s) := keepsFuse_next.2 (withNvme_fuse (fun s t => by simp) ..)
@[simp] theorem execSanitize_fuse (k : Fin 33) (e : Desc) (s : State) : KeepsFuse s (execSanitize k e s) := keepsFuse_next.2 (withNvme_fuse (fun s t => by simp) ..)
@[simp] theorem execHotChannelWindow_fuse (st : Fin 8) (ch : List (Fin 32)) (bytes : List Nat) (own ms : Nat) (c : List (Fin 32)) (s : State) :
    KeepsFuse s (execHotChannelWindow st ch bytes own ms c s) := by
  simp [execHotChannelWindow, fuse_foldl fun s ch => raiseHot_fuse (stackOf s st.val) (hotPart _ bytes own c) st.val s ch]

end Sys2Proof.Machine
end

section
/-! PROOFS of the fuse block: what the advance of the anti-rollback counters writes, and that no step writes more (R449, R450). -/

set_option linter.all false

namespace Sys2Proof.Machine

/-! ### Advance of the anti-rollback counters (R450) -/

/-- The second block of fuses is the first with anti-rollback counters raised, none of them past 64. -/
structure FuseLe (f g : Fuses) : Prop where
  rootDigest : g.rootDigest = f.rootDigest
  revoked : g.revoked = f.revoked
  seed : g.seed = f.seed
  grade : g.grade = f.grade
  fused : g.fused = f.fused
  counters : ∀ n, mapGet f.counters n 0 ≤ mapGet g.counters n 0
  bound : (∀ n, mapGet f.counters n 0 ≤ 64) → ∀ n, mapGet g.counters n 0 ≤ 64

theorem FuseLe.refl (f : Fuses) : FuseLe f f := ⟨rfl, rfl, rfl, rfl, rfl, fun _ => le_rfl, id⟩

theorem FuseLe.trans {f g h : Fuses} (hfg : FuseLe f g) (hgh : FuseLe g h) : FuseLe f h :=
  ⟨hgh.rootDigest.trans hfg.rootDigest, hgh.revoked.trans hfg.revoked, hgh.seed.trans hfg.seed, hgh.grade.trans hfg.grade,
    hgh.fused.trans hfg.fused, fun n => (hfg.counters n).trans (hgh.counters n), hgh.bound ∘ hfg.bound⟩

/-- `t` is reached from `s` by operations that raise at most anti-rollback counters. -/
def Raises (s t : State) : Prop := FuseLe s.fuse t.fuse

theorem Raises.of_eq {s t : State} (h : t.fuse = s.fuse) : Raises s t := by
  unfold Raises
  rw [h]
  exact FuseLe.refl _

theorem Raises.trans {s t u : State} (hst : Raises s t) (htu : Raises t u) : Raises s u := FuseLe.trans hst htu

theorem Raises.congr {s s' t t' : State} (h : Raises s t) (hs : s.fuse = s'.fuse) (ht : t'.fuse = t.fuse) : Raises s' t' := by
  unfold Raises at *
  rwa [ht, ← hs]

theorem Raises.ite {c : Prop} [Decidable c] {s t u : State} (ht : Raises s t) (hu : Raises s u) : Raises s (if c then t else u) := by
  split
  · exact ht
  · exact hu

/-- A slot's security version is at most 64, the width of a counter in fuses. -/
theorem slotSvn_le (s : State) (n kind : Nat) : slotSvn s n kind ≤ 64 := by
  unfold slotSvn
  split <;> omega

theorem raises_raiseCounter (s : State) (kind : Nat) : Raises s (raiseCounter s kind) := by
  unfold raiseCounter
  dsimp only
  split
  case isFalse => exact .of_eq rfl
  case isTrue hlt =>
    have hle := slotSvn_le s s.sec.running kind
    refine Raises.congr (s := s) (t := { s with fuse := { s.fuse with counters := mapSet s.fuse.counters (kind - 1) (slotSvn s s.sec.running kind) } })
      ⟨rfl, rfl, rfl, rfl, rfl, fun n => ?_, fun hb n => ?_⟩ rfl (moduleEvent_fuse ..)
    · dsimp only
      rw [mapGet_mapSet]
      split
      · subst n
        exact hlt.le
      · exact le_rfl
    · dsimp only
      rw [mapGet_mapSet]
      split
      · exact hle
      · exact hb n

theorem raises_raiseCounters (s : State) : Raises s (raiseCounters s) :=
  ((raises_raiseCounter ..).trans (raises_raiseCounter ..)).trans (raises_raiseCounter ..)

theorem raises_advanceNow (s : State) : Raises s (advanceNow s) := .ite (raises_raiseCounters s) (.of_eq rfl)

theorem raises_reachStage3 (s : State) : Raises s (reachStage3 s) := by
  unfold reachStage3
  refine Raises.congr (.ite (raises_raiseCounters _) (.of_eq rfl)) ?_ (by rw [modeCheck_fuse, deallocCheck_fuse])
  simp

/-! ### Requests of the dictionary -/

theorem raises_gated {b : Bool} {s t : State} (h : Raises s t) : Raises s (gated b s t).2 := by
  unfold gated
  split
  · exact h
  · exact .of_eq rfl

theorem plainCommand_fuse_of_ne {i : Nat} (h : i ≠ 0x8011) (s : State) (sub v : Nat) : (plainCommand s i sub v).2.fuse = s.fuse := by
  unfold plainCommand
  rw [if_neg h]
  split_ifs <;> simp [bankClear_fuse]

theorem plainCommand_advanceNow (s : State) (sub v : Nat) :
    plainCommand s 0x8011 sub v = gated (odGet s 0x8011 1 = 1) s (advanceNow s) := by
  simp [plainCommand, within]

theorem raises_plainCommand (s : State) (i sub v : Nat) : Raises s (plainCommand s i sub v).2 := by
  by_cases h : i = 0x8011
  case pos =>
    rw [h, plainCommand_advanceNow]
    exact raises_gated (raises_advanceNow s)
  case neg => exact .of_eq (plainCommand_fuse_of_ne h s sub v)

theorem raises_commandWrite (s : State) (sid : Nat) (hdr : List Byte) (e : OdEntry) (i sub v : Nat) : Raises s (commandWrite s sid hdr e i sub v) :=
  .ite (.of_eq (croftCommandWrite_fuse ..)) <| .ite (.of_eq (dictCommandWrite_fuse ..)) <| .ite (.of_eq (restartWrite_fuse ..)) <|
    .ite (.of_eq (commitWrite_fuse ..)) ((raises_plainCommand s i sub v).trans (.of_eq (odAnswer_fuse ..)))

theorem raises_scalarWrite (s : State) (sid : Nat) (hdr : List Byte) (e : OdEntry) (i sub v : Nat) (found : List Byte) :
    Raises s (scalarWrite s sid hdr e i sub v found) :=
  .ite (raises_commandWrite ..) (.of_eq (valueWrite_fuse ..))

theorem raises_odWriteRun (s : State) (sid t : Nat) (b : List Byte) : Raises s (odWriteRun s sid t b) := by
  unfold odWriteRun
  split
  · exact .ite (.of_eq (odAnswer_fuse ..)) (raises_scalarWrite ..)
  · exact .of_eq (odAnswer_fuse ..)

theorem raises_compareRun (s : State) (sid : Nat) (b : List Byte) (e : OdEntry) : Raises s (compareRun s sid b e) :=
  .ite (.of_eq (odAnswer_fuse ..)) <| .ite (.of_eq (odAnswer_fuse ..)) <| .ite (.of_eq (odAnswer_fuse ..)) <|
    .ite (.of_eq (odAnswer_fuse ..)) (raises_scalarWrite ..)

theorem raises_odCompareRun (s : State) (sid t : Nat) (b : List Byte) : Raises s (odCompareRun s sid t b) := by
  unfold odCompareRun
  split
  · exact raises_compareRun ..
  · exact .of_eq (odAnswer_fuse ..)

theorem raises_odService (s : State) (sid t : Nat) (b : List Byte) : Raises s (odService s sid t b) := by
  unfold odService
  split
  · exact .of_eq (odReadRun_fuse ..)
  · exact raises_odWriteRun ..
  · exact raises_odCompareRun ..
  · exact .of_eq (odReadSegmentRun_fuse ..)
  · exact .of_eq (odWriteSegmentRun_fuse ..)
  · exact .of_eq (odSubscribeRun_fuse ..)
  · exact .of_eq (odCloseRun_fuse ..)
  · exact .of_eq rfl

theorem raises_odDrain (n : Nat) (s : State) : Raises s (odDrain n s) := by
  induction n generalizing s with
  | zero => exact .of_eq rfl
  | succ n ih =>
    unfold odDrain
    split
    · exact .of_eq rfl
    next w _ =>
      refine Raises.trans (t := { s with odWaiting := s.odWaiting.erase w }) (.of_eq rfl) ?_
      dsimp only
      split
      · exact (raises_odService ..).trans (ih _)
      · exact ih _

theorem raises_odDrainAll (s : State) : Raises s (odDrainAll s) := raises_odDrain _ s

theorem raises_odTake (s : State) (sid t : Nat) (b : List Byte) : Raises s (odTake s sid t b) := .ite (.of_eq rfl) (raises_odService ..)

theorem raises_odSequence (s : State) (sid : Nat) (n : Session) (b : List Byte) : Raises s (odSequence s sid n b) := by
  unfold odSequence
  split
  case isTrue => exact Raises.trans (.of_eq (odAccept_fuse ..)) (raises_odTake ..)
  case isFalse => exact .of_eq (by dsimp only; split_ifs <;> simp)

theorem raises_odRequest (s : State) (t src : Nat) (b : List Byte) : Raises s (odRequest s t src b) := by
  unfold odRequest
  split
  case isTrue => exact .of_eq (by simp)
  case isFalse =>
    split
    · exact .of_eq (by simp)
    · refine .ite (.of_eq (by simp)) (.ite (.of_eq (by simp)) (raises_odSequence ..))

theorem raises_odMessage (s : State) (t src : Nat) (b : List Byte) : Raises s (odMessage s t src b) :=
  .ite (.of_eq (by simp)) <| .ite (.of_eq (by simp)) <| .ite (.of_eq rfl) <| .ite (.of_eq (by simp)) (raises_odRequest ..)

/-! ### Every command, and the step -/

/-- A meaning that raises at most anti-rollback counters. -/
def RaisesOnly (s : State) (o : Out) : Prop := ∀ t, o = .next t → Raises s t

theorem raisesOnly_next {s t : State} (h : Raises s t) : RaisesOnly s (.next t) := fun u hu => by cases hu; exact h

theorem KeepsFuse.raisesOnly {s : State} {o : Out} (h : KeepsFuse s o) : RaisesOnly s o := fun t ht => .of_eq (h t ht)

theorem raisesOnly_odRow (svc : Nat) (r : OdReq) (s : State) : RaisesOnly s (odRow svc r s) :=
  raisesOnly_next <| .ite (.of_eq rfl) <| .ite (.of_eq (by simp)) <| .ite (.of_eq rfl) ((raises_odDrainAll s).trans (raises_odMessage ..))

theorem raisesOnly_execAdvanceNow (s : State) : RaisesOnly s (execAdvanceNow s) := raisesOnly_next (.ite (raises_advanceNow s) (.of_eq rfl))

theorem raisesOnly_execStage3Reached (ms : W32) (s : State) : RaisesOnly s (execStage3Reached ms s) := by
  unfold execStage3Reached
  apply raisesOnly_next
  split
  · exact Raises.trans (t := { s with power := { s.power with stage3ms := ms } }) (.of_eq rfl) (raises_reachStage3 _)
  · exact .of_eq rfl

/-- A save that lets the requests it held run. -/
theorem raises_drainAll_odSave {s t : State} (h : t.fuse = s.fuse) : Raises s (odDrainAll (odSave t)) :=
  Raises.trans (.of_eq ((odSave_fuse t).trans h)) (raises_odDrainAll _)

theorem raisesOnly_execDictionarySave (s : State) : RaisesOnly s (execDictionarySave s) := raisesOnly_next (.ite (raises_drainAll_odSave rfl) (.of_eq rfl))

theorem raisesOnly_execSaveNow (s : State) : RaisesOnly s (execSaveNow s) :=
  raisesOnly_next <| .ite (.of_eq rfl) <| .ite (.of_eq (dictResult_fuse ..)) (raises_drainAll_odSave (dictResult_fuse ..))

theorem raisesOnly_execRestoreDefaults (s : State) : RaisesOnly s (execRestoreDefaults s) :=
  raisesOnly_next <| .ite (.of_eq rfl) <| .ite (.of_eq (dictResult_fuse ..))
    (raises_drainAll_odSave ((dictResult_fuse ..).trans (defaultsRestored_fuse s)))

theorem raisesOnly_exec (i : Instr) (s : State) : RaisesOnly s (exec i s) := by
  cases i with
  | advanceNow => exact raisesOnly_execAdvanceNow s
  | stage3Reached ms => exact raisesOnly_execStage3Reached ms s
  | odOpen r => exact raisesOnly_odRow 1 r s
  | odRead r => exact raisesOnly_odRow 2 r s
  | odWrite r => exact raisesOnly_odRow 3 r s
  | compareWrite r => exact raisesOnly_odRow 4 r s
  | readSegment r => exact raisesOnly_odRow 5 r s
  | writeSegment r => exact raisesOnly_odRow 6 r s
  | subscribe r => exact raisesOnly_odRow 7 r s
  | notifyAck r => exact raisesOnly_odRow 9 r s
  | odClose r => exact raisesOnly_odRow 10 r s
  | dictionarySave => exact raisesOnly_execDictionarySave s
  | saveNow => exact raisesOnly_execSaveNow s
  | restoreDefaults => exact raisesOnly_execRestoreDefaults s
  | _ => exact KeepsFuse.raisesOnly (by simp [exec])

theorem raises_tick (s : State) : Raises s (tick s) := by
  refine Raises.trans (.of_eq ?_) (raises_odDrainAll _)
  split_ifs <;> simp

/-- Settles O59: only the advance of the anti-rollback counters writes the fuse block, it raises a counter alone, and a slot's security version, which the counter takes, is at most 64. -/
theorem fusesNeverCleared : Obligations.FusesNeverCleared := by
  unfold Obligations.FusesNeverCleared
  intro s t hstep
  have hle : FuseLe s.fuse t.fuse := by
    unfold step at hstep
    split at hstep
    case h_1 =>
      cases hstep
      exact raises_tick s
    case h_2 c rest _ => exact (raisesOnly_exec c { s with pending := rest } t hstep).congr rfl rfl
  exact ⟨hle.rootDigest, hle.revoked, hle.seed, hle.grade, hle.fused, hle.counters, hle.bound⟩

end Sys2Proof.Machine
end

section
/-! PROOFS of the engine queues: a word whose wait is not met stalls its queue, and a word that is not next changes nothing (R112, R122). -/

namespace Sys2Proof.Machine

open Sys2Proof.Claims

/-! ### A word that its queue does not take (R112, R122) -/

/-- A word that comes next to its queue and whose wait is not met. -/
structure Unmet (s : State) (c v q : Nat) (w : IWord) (e : EngEnv) : Prop where
  env : engEnv s c v = some e
  opens : queueOpen e.ve q w = true
  next : nextWord e v q w = true
  reserved : rsvOk w = true
  header : headerFault e.im v q w = none
  waits : bitOf w 8 = true
  semaphore : veSem e.ve (fld w 13 9) = 0

theorem engIssue_of_unmet {s : State} {c v q op : Nat} {w : IWord} {e : EngEnv} (h : Unmet s c v q w e) (hop : wop w = op)
    (hqueue : (opQueues op).contains q = true) (run : EngEnv → EngOut) (after : State → State) :
    engIssue s c v q op w run after = setVe s c v (stallOn e.ve q w) := by
  have hmember : q ∈ opQueues op := by simpa using hqueue
  simp [engIssue, h.env, h.opens, h.next, hop, hmember, h.reserved, h.header, h.waits, h.semaphore]

theorem engPure_of_unmet {s : State} {c v q op : Nat} {w : IWord} {e : EngEnv} (h : Unmet s c v q w e) (hop : wop w = op)
    (hqueue : (opQueues op).contains q = true) (f : EngEnv → EngRes) : engPure s c v q op w f = setVe s c v (stallOn e.ve q w) := by
  unfold engPure engPlain
  exact engIssue_of_unmet h hop hqueue _ _

theorem engIssue_of_not_next {s : State} {c v q : Nat} {w : IWord} {e : EngEnv} (henv : engEnv s c v = some e)
    (hnext : nextWord e v q w = false) (op : Nat) (run : EngEnv → EngOut) (after : State → State) :
    engIssue s c v q op w run after = s := by
  simp [engIssue, henv, hnext]

theorem engPure_of_not_next {s : State} {c v q : Nat} {w : IWord} {e : EngEnv} (henv : engEnv s c v = some e)
    (hnext : nextWord e v q w = false) (op : Nat) (f : EngEnv → EngRes) : engPure s c v q op w f = s := by
  unfold engPure engPlain
  exact engIssue_of_not_next henv hnext op _ _

/-- Any queue takes a word without an engine of its own. -/
theorem opQueues_of_le {op : Nat} (hop : op ≤ 3) (q : Fin 4) : (opQueues op).contains q.val = true := by
  rw [opQueues, if_pos hop]
  revert q
  decide

/-! ### MAC (R24) -/

/-- The virtual engine an instruction finds after it is replaced is the one it is replaced by. -/
theorem engEnv_ve {s : State} {c v : Nat} {f : EngEnv} (h : engEnv s c v = some f) :
    ∃ k r, runOf s c = some (k, r) ∧ mapGet? r.ves v = some f.ve := by
  unfold engEnv at h
  split at h
  case isTrue => cases h
  case isFalse =>
    split at h
    case h_1 => cases h
    case h_2 k r hrun =>
      refine ⟨k, r, hrun, ?_⟩
      split at h
      case h_1 j ve _ hve =>
        split at h
        · split at h
          · cases h
            exact hve
          · cases h
        · cases h
      case h_2 => cases h

theorem runOf_setVe (s : State) (c v : Nat) (ve : VEngine) :
    runOf (setVe s c v ve) c = (runOf s c).map fun p =>
      ({ p.1 with run := some { p.2 with ves := mapSet p.2.ves v ve } }, { p.2 with ves := mapSet p.2.ves v ve }) := by
  unfold runOf croft?
  rw [setVe_crofts, mapGet?_mapMod, if_pos rfl]
  cases mapGet? s.crofts c with
  | none => rfl
  | some k => cases hrun : k.run <;> simp [hrun]

theorem engEnv_setVe {s : State} {c v : Nat} {ve : VEngine} {f : EngEnv} (h : engEnv (setVe s c v ve) c v = some f) : f.ve = ve := by
  obtain ⟨k, r, hrun, hve⟩ := engEnv_ve h
  rw [runOf_setVe] at hrun
  obtain ⟨p, -, hp⟩ := Option.map_eq_some_iff.1 hrun
  have hr := (Prod.mk.inj hp).2
  rw [← hr, mapGet?_mapSet, if_pos rfl] at hve
  exact (Option.some.inj hve).symm

/-- No row streams through the array where no word came into flight on the array queue. -/
theorem macRows_of_inflight_eq {s t : State} {c : Fin 32} {v : Fin 64}
    (h : ∀ e f, engEnv s c v = some e → engEnv t c v = some f → f.ve.qA.inflight = e.ve.qA.inflight) (w : IWord) : macRows s t c v w = t := by
  unfold macRows
  split
  case h_1 e f he hf => rw [h e f he hf, if_neg (lt_irrefl _)]
  case h_2 => rfl

theorem macRows_self (s : State) (c : Fin 32) (v : Fin 64) (w : IWord) : macRows s s c v w = s :=
  macRows_of_inflight_eq (fun e f he hf => by rw [he] at hf; cases hf; rfl) w

theorem macRows_stallOn {s : State} {c : Fin 32} {v : Fin 64} {e : EngEnv} (henv : engEnv s c v = some e) (w x : IWord) :
    macRows s (setVe s c v (stallOn e.ve 1 w)) c v x = setVe s c v (stallOn e.ve 1 w) := by
  refine macRows_of_inflight_eq (fun e' f he hf => ?_) x
  rw [henv] at he
  cases he
  rw [engEnv_setVe hf]
  rfl

/-! ### The instructions -/

theorem exec_mac (c : Fin 32) (v : Fin 64) (w : IWord) (s : State) :
    exec (.mac c v w) s = .next (macRows s (engPure s c v 1 0x22 w (fun e => doMac e.r.ctx e.ve w)) c v w) := rfl

/-- Settles O7: `engIssue` meets the wait before it runs the operation, and a word that is not the stream's next before it looks at its opcode. -/
theorem unmetWaitStallsTheQueue : Obligations.UnmetWaitStallsTheQueue := by
  unfold Obligations.UnmetWaitStallsTheQueue
  intro c v q w s e henv
  refine ⟨fun hopen hnext hrsv hhdr hbit hsem => ?_, fun hnext => ?_⟩
  · have h : Unmet s c v q w e := ⟨henv, hopen, hnext, hrsv, hhdr, hbit, hsem⟩
    refine ⟨fun hop => ?_, fun hop => ?_, fun hop => ?_, fun hop hq => ?_, fun hop hq => ?_, fun hop hq => ?_, fun hop hq => ?_⟩
    · exact congrArg _ (engPure_of_unmet h hop (opQueues_of_le (by decide) q) _)
    · exact congrArg _ (engIssue_of_unmet h hop (opQueues_of_le (by decide) q) _ _)
    · exact congrArg _ (engIssue_of_unmet h hop (opQueues_of_le (by decide) q) _ _)
    all_goals rw [hq] at h ⊢
    · rw [exec_mac, engPure_of_unmet h hop (by decide), macRows_stallOn henv]
    · exact congrArg _ (engPure_of_unmet h hop (by decide) _)
    · exact congrArg _ (engIssue_of_unmet h hop (by decide) _ _)
    · exact congrArg _ (engIssue_of_unmet h hop (by decide) _ _)
  · refine ⟨?_, ?_, ?_, fun hq => ?_, fun hq => ?_, fun hq => ?_, fun hq => ?_⟩
    · exact congrArg _ (engPure_of_not_next henv hnext _ _)
    · exact congrArg _ (engIssue_of_not_next henv hnext _ _ _)
    · exact congrArg _ (engIssue_of_not_next henv hnext _ _ _)
    all_goals rw [hq] at hnext
    · rw [exec_mac, engPure_of_not_next henv hnext, macRows_self]
    · exact congrArg _ (engPure_of_not_next henv hnext _ _)
    · exact congrArg _ (engIssue_of_not_next henv hnext _ _ _)
    · exact congrArg _ (engIssue_of_not_next henv hnext _ _ _)

end Sys2Proof.Machine
end

section
/-! PROOFS of the activity ramps: idle, the phases of a ramp-up and of ballast, and the grant of a ramp-up (R44 to R46). -/

namespace Sys2Proof.Machine

/-! ### The ramp of an array (R44) -/

@[simp] theorem rampOf_putRamp_self (s : State) (e a : Nat) (r : Ramp) : rampOf (putRamp s e a r) e a = r := by
  simp [rampOf, putRamp]

theorem exec_arrayIdleTimeout {s : State} {e : Fin 64} {a : Fin 8} (hpower : powered s = true) (hidle : rampOf s e.val a.val ≠ .wantsUp) :
    exec (.arrayIdleTimeout e a) s = .next (putRamp s e.val a.val .cold) := by
  show execArrayIdleTimeout e a s = _
  simp [execArrayIdleTimeout, hpower, hidle]

theorem exec_rampPhaseEnd {s : State} {e : Fin 64} {a : Fin 8} {p : Nat} (hpower : powered s = true) (hup : rampOf s e.val a.val = .up p) :
    exec (.rampPhaseEnd e a) s = .next (bump (putRamp s e.val a.val (if 7 ≤ p then .warm else .up (p + 1))) 0xA210 1
      (withheld (odGet s 0x2210 1) p - (if p = 0 then 0 else withheld (odGet s 0x2210 1) (p - 1)))) := by
  show execRampPhaseEnd e a s = _
  simp [execRampPhaseEnd, hpower, hup]

theorem exec_ballastPhaseEnd {s : State} {e : Fin 64} {a : Fin 8} {p : Nat} (hpower : powered s = true)
    (hballast : rampOf s e.val a.val = .ballast p) :
    exec (.ballastPhaseEnd e a) s = .next (putRamp s e.val a.val (if 7 ≤ p then .cold else .ballast (p + 1))) := by
  show execBallastPhaseEnd e a s = _
  simp [execBallastPhaseEnd, hpower, hballast]

/-- The state once array `j` of cluster `n` is granted its ramp-up: in phase 0, the cluster's pointer past it (R46). -/
def rampGranted (s : State) (n j : Nat) : State :=
  { putRamp s (8 * n + j / 8) (j % 8) (.up 0) with rampPtr := mapSet s.rampPtr n ((j + 1) % 64) }

theorem rampOf_rampGranted (s : State) (n j : Nat) : rampOf (rampGranted s n j) (8 * n + j / 8) (j % 8) = .up 0 :=
  rampOf_putRamp_self s _ _ _

theorem exec_rampUpStart {s : State} {n : Fin 8} {j : Nat} (hpower : powered s = true)
    (hfirst : ((List.range 64).map (fun x => (mapGet s.rampPtr n.val 0 + x) % 64)).find?
      (fun x => rampOf s (8 * n.val + x / 8) (x % 8) = .wantsUp) = some j) :
    exec (.rampUpStart n) s = .next (rampGranted s n.val j) := by
  show execRampUpStart n s = _
  unfold execRampUpStart
  dsimp only
  rw [hfirst]
  simp [hpower, rampGranted, putRamp]

/-- Settles O12: each event acts on the ramp of its own array, and the grant on the first array from the cluster's pointer that waits. -/
theorem rampsOfArrays : Obligations.RampsOfArrays := by
  unfold Obligations.RampsOfArrays
  intro e a s hpower
  refine ⟨exec_arrayIdleTimeout hpower, fun p hup => exec_rampPhaseEnd hpower hup, fun p hb => exec_ballastPhaseEnd hpower hb, fun n j hfirst => ?_⟩
  exact ⟨rampGranted s n.val j, exec_rampUpStart hpower hfirst, rampOf_rampGranted s n.val j, by simp [rampGranted], rfl⟩

end Sys2Proof.Machine
end

section
/-! PROOFS of the dictionary's requests: how a request that is heard, belongs to a session or is executed runs (R393 to R395), and the alive counter. -/

namespace Sys2Proof.Machine

open Sys2Proof.Claims

/-! ### From a request to its service -/

theorem odRow_of_heard {s : State} {r : OdReq} {svc : Nat} (h : OdHeard s r svc) (hknown : serviceKnown svc = true) :
    odRow svc r s = .next (odRequest (odDrainAll s) r.transport.val r.source.toNat r.pdu) := by
  obtain ⟨hup, hshape, hsound, hsvc, hrecovery, hfields, hlength⟩ := h
  simp [odRow, odMessage, hup, hshape, hsound, hsvc, hknown, hrecovery, hfields, hlength]

theorem odRow_of_session {s : State} {r : OdReq} {svc : Nat} {n : Session} (h : OdSession s r svc n) (hknown : serviceKnown svc = true)
    (hopen : svc ≠ 1) (hack : svc ≠ 9) : odRow svc r s = .next (odSequence (odDrainAll s) (rqSession r.pdu) n r.pdu) := by
  obtain ⟨hheard, hsession, htransport, hsource⟩ := h
  obtain ⟨-, -, -, hsvc, -⟩ := id hheard
  rw [odRow_of_heard hheard hknown]
  simp [odRequest, hsvc, hopen, hack, hsession, htransport, hsource]

theorem odRow_of_taken {s : State} {r : OdReq} {svc : Nat} {n : Session} (h : OdTaken s r svc n) (hknown : serviceKnown svc = true)
    (hopen : svc ≠ 1) (hack : svc ≠ 9) :
    odRow svc r s = .next (odService (odAccepted s r n) (rqSession r.pdu) n.transport r.pdu) := by
  obtain ⟨hsession, halive, hwait⟩ := h
  rw [odRow_of_session hsession hknown hopen hack]
  unfold odAccepted at hwait ⊢
  simp [odSequence, odTake, halive, hwait]

theorem odDrainAll_of_idle {s : State} (h : s.odWaiting = []) : odDrainAll s = s := by
  simp [odDrainAll, h, odDrain]

/-! ### The alive counter (R394) -/

@[simp] theorem cvAlive_sessions (s : State) (n v : Nat) : (cvAlive s n v).sessions = s.sessions := by
  unfold cvAlive
  dsimp only
  split_ifs <;> simp

@[simp] theorem cvAlive_sent (s : State) (n v : Nat) : (cvAlive s n v).sent = s.sent := by
  unfold cvAlive
  dsimp only
  split_ifs <;> simp

/-- The check-value unit counts in 0xA460.06 alone. -/
theorem odGet_cvAlive (s : State) (n v : Nat) {i sub : Nat} (h : odKey i sub ≠ odKey 0xA460 6) : odGet (cvAlive s n v) i sub = odGet s i sub := by
  unfold cvAlive
  dsimp only
  split_ifs
  · rfl
  · rfl
  · exact odGet_bump_ne _ _ _ _ _ _ h

theorem odKey_ne {i sub j sub' : Nat} (hsub : sub < 256) (hsub' : sub' < 256) (h : i ≠ j) : odKey i sub ≠ odKey j sub' :=
  fun heq => h ((odKey_inj hsub hsub').1 heq).1

/-- What a request out of its session's sequence leaves: the session counted, and the stored response or a refusal sent (R394). -/
theorem odSequence_of_repeat {s : State} {sid : Nat} {n : Session} {b : List Byte} (halive : rqAlive b = n.counter)
    (hne : rqAlive b ≠ (n.counter + 1) % 65536) (hcheck : rqCheck b = n.check) (hdone : n.inProgress = false) :
    odSequence s sid n b = transmit (bump (cvAlive s 0 (rqAlive b + (sid - 1) * 65536)) 0xA500 4 1) n.transport n.response := by
  unfold odSequence
  rw [if_neg hne]
  simp [halive, hcheck, hdone]

theorem odSequence_of_other {s : State} {sid : Nat} {n : Session} {b : List Byte} (hother : rqAlive b ≠ n.counter)
    (hne : rqAlive b ≠ (n.counter + 1) % 65536) :
    odSequence s sid n b = odRefuse (bump (cvAlive s 0 (rqAlive b + (sid - 1) * 65536)) 0xA500 3 1) n.transport b 9 := by
  unfold odSequence
  rw [if_neg hne]
  simp [hother]

/-- A request out of its session's sequence leaves the sessions and every entry but the counters of the sessions and the check values. -/
theorem odSequence_keeps {s : State} {sid : Nat} {n : Session} {b : List Byte} (hne : rqAlive b ≠ (n.counter + 1) % 65536) :
    (odSequence s sid n b).sessions = s.sessions ∧
      ∀ ix sub : Nat, sub < 256 → ix ≠ 0xA500 → ix ≠ 0xA460 → odGet (odSequence s sid n b) ix sub = odGet s ix sub := by
  have hcount (k : Nat) (hk : k < 256) (ix sub : Nat) (hsub : sub < 256) (h1 : ix ≠ 0xA500) (h2 : ix ≠ 0xA460) :
      odGet (bump (cvAlive s 0 (rqAlive b + (sid - 1) * 65536)) 0xA500 k 1) ix sub = odGet s ix sub := by
    rw [odGet_bump_ne _ _ _ _ _ _ (odKey_ne hsub hk h1), odGet_cvAlive _ _ _ (odKey_ne hsub (by decide) h2)]
  unfold odSequence
  rw [if_neg hne]
  dsimp only
  split_ifs
  · exact ⟨by simp, hcount 4 (by decide)⟩
  · exact ⟨by simp, hcount 4 (by decide)⟩
  · exact ⟨by simp [odRefuse], hcount 3 (by decide)⟩

/-- Settles O40: outside its sequence a request of a session reaches no service; only the stored response or a refusal goes out. -/
theorem aliveCounterGuardsASession : Obligations.AliveCounterGuardsASession := by
  unfold Obligations.AliveCounterGuardsASession
  intro r s n hidle hsession hne
  have hrow : exec (.odWrite r) s = .next (odSequence (odDrainAll s) (rqSession r.pdu) n r.pdu) :=
    odRow_of_session hsession (by decide) (by decide) (by decide)
  rw [odDrainAll_of_idle hidle] at hrow
  have hkey (k : Nat) (hk : k < 256) : odKey 0xA500 k ≠ odKey 0xA460 6 := odKey_ne hk (by decide) (by decide)
  obtain ⟨hsessions, hentries⟩ := odSequence_keeps (s := s) (sid := rqSession r.pdu) hne
  refine ⟨_, hrow, hsessions, hentries, fun halive hcheck hdone => ?_, fun hother => ?_⟩
  · rw [odSequence_of_repeat halive hne hcheck hdone]
    exact ⟨by simp, (odGet_bump_self ..).trans (by rw [odGet_cvAlive _ _ _ (hkey 4 (by decide))])⟩
  · rw [odSequence_of_other hother hne]
    exact ⟨by simp [odRefuse], (odGet_bump_self ..).trans (by rw [odGet_cvAlive _ _ _ (hkey 3 (by decide))])⟩

end Sys2Proof.Machine
end

section
/-! PROOFS of the saved dictionary: what a save writes and what the answers it releases leave unchanged (R388). -/

namespace Sys2Proof.Machine

/-! ### Answers of the dictionary leave all but the sessions and the responses -/

theorem odAnswer_only (s : State) (sid : Nat) (hdr : List Byte) (status flags ty : Nat) (data : List Byte) :
    ∃ sessions sent, odAnswer s sid hdr status flags ty data = { s with sessions := sessions, sent := sent } := by
  unfold odAnswer
  split
  · exact ⟨s.sessions, s.sent, rfl⟩
  · exact ⟨_, _, rfl⟩

theorem odRelease_only (s : State) (p : Parked) : ∃ sessions sent, odRelease s p = { s with sessions := sessions, sent := sent } := by
  unfold odRelease
  split
  · exact odAnswer_only ..
  · exact ⟨s.sessions, s.sent, rfl⟩

theorem foldl_odRelease_only (ps : List Parked) (s : State) :
    ∃ sessions sent, ps.foldl odRelease s = { s with sessions := sessions, sent := sent } := by
  induction ps generalizing s with
  | nil => exact ⟨s.sessions, s.sent, rfl⟩
  | cons p ps ih =>
    obtain ⟨_, _, hp⟩ := odRelease_only s p
    obtain ⟨sessions, sent, hps⟩ := ih (odRelease s p)
    exact ⟨sessions, sent, by rw [List.foldl_cons, hps, hp]⟩

/-! ### A save (R388) -/

/-- The copy a save writes: one past the newer copy's sequence, with the values the dictionary saves. -/
def savedCopy (s : State) : DictCopy := dictCopy (max s.dictA.seq s.dictB.seq + 1) (savedVals s) s.doms (wrappedKeys s)

theorem dictCopy_valid (seq : Nat) (vals : FMap Nat) (doms : FMap (List Byte)) (wrapped : List (List Byte)) :
    (dictCopy seq vals doms wrapped).valid = true := by
  simp [dictCopy, DictCopy.valid]

@[simp] theorem savedCopy_valid (s : State) : (savedCopy s).valid = true := dictCopy_valid ..
@[simp] theorem savedCopy_seq (s : State) : (savedCopy s).seq = max s.dictA.seq s.dictB.seq + 1 := rfl
@[simp] theorem savedCopy_vals (s : State) : (savedCopy s).vals = savedVals s := rfl

/-- The end of a save: it is counted, and the answers that waited for it go out. -/
theorem saveCounted_fields (s : State) (waiting answered : List Parked) :
    let t := answered.foldl odRelease (bump { s with savePending := false, parked := waiting } 0xA500 6 1)
    t.savePending = false ∧ t.odWaiting = s.odWaiting ∧ odGet t 0xA500 6 = odGet s 0xA500 6 + 1 ∧ t.dictA = s.dictA ∧ t.dictB = s.dictB := by
  obtain ⟨sessions, sent, hreleased⟩ := foldl_odRelease_only answered (bump { s with savePending := false, parked := waiting } 0xA500 6 1)
  dsimp only
  rw [hreleased]
  exact ⟨by simp, by simp, odGet_bump_self .., by simp, by simp⟩

/-- With two valid copies a save writes the one of the lower sequence, the second where they are equal. -/
theorem odSave_fields {s : State} (hconflict : s.dictConflict = false) (hA : s.dictA.valid = true) (hB : s.dictB.valid = true) :
    (odSave s).savePending = false ∧ (odSave s).odWaiting = s.odWaiting ∧ odGet (odSave s) 0xA500 6 = odGet s 0xA500 6 + 1 ∧
      (odSave s).dictA = (if s.dictA.seq < s.dictB.seq then savedCopy s else s.dictA) ∧
      (odSave s).dictB = (if s.dictA.seq < s.dictB.seq then s.dictB else savedCopy s) := by
  unfold odSave
  rw [if_neg (by simp [hconflict])]
  simp only [hA, hB, Bool.not_true, Bool.false_or, Bool.true_and, decide_eq_true_eq]
  by_cases hlt : s.dictA.seq < s.dictB.seq
  case pos =>
    simp only [if_pos hlt]
    exact saveCounted_fields { s with dictA := savedCopy s } _ _
  case neg =>
    simp only [if_neg hlt]
    exact saveCounted_fields { s with dictB := savedCopy s } _ _

/-- Settles O41: a save replaces the copy of the lower sequence and leaves the other one. -/
theorem saveKeepsTheNewerCopy : Obligations.SaveKeepsTheNewerCopy := by
  unfold Obligations.SaveKeepsTheNewerCopy
  intro s hup hconflict hA hB hidle
  obtain ⟨hpending, hwaiting, hcount, hcopyA, hcopyB⟩ := odSave_fields hconflict hA hB
  have hsave : exec .dictionarySave s = .next (odSave s) := by
    show execDictionarySave s = _
    rw [execDictionarySave, if_pos hup, odDrainAll_of_idle (hwaiting.trans hidle)]
  refine ⟨odSave s, hsave, hpending, hcount, fun hlt => ?_, fun hle => ?_⟩
  · rw [if_pos hlt] at hcopyA hcopyB
    exact ⟨hcopyB, by rw [hcopyA, savedCopy_seq, max_eq_right hlt.le], by rw [hcopyA, savedCopy_valid], by rw [hcopyA, savedCopy_vals]⟩
  · rw [if_neg hle.not_gt] at hcopyA hcopyB
    exact ⟨hcopyA, by rw [hcopyB, savedCopy_seq, max_eq_left hle], by rw [hcopyB, savedCopy_valid], by rw [hcopyB, savedCopy_vals]⟩

end Sys2Proof.Machine
end

section
/-! PROOFS of the crofts' commands: what creating, changing, removing and purging a croft does (R262 to R264). -/

namespace Sys2Proof.Machine

/-! ### The commands in a state that is powered and heard -/

theorem exec_croftCreate {s : State} (hpower : powered s = true) (hreeve : s.reeveUp = true) (c : Fin 32) :
    exec (.croftCreate c) s = .next (croftCreate s c.val) := by
  show execCroftCreate c s = _
  simp [execCroftCreate, hpower, hreeve]

theorem exec_croftApply {s : State} (hpower : powered s = true) (hreeve : s.reeveUp = true) (c : Fin 32) :
    exec (.croftApply c) s = .next (croftApply s c.val) := by
  show execCroftApply c s = _
  simp [execCroftApply, hpower, hreeve]

theorem exec_croftRemove {s : State} (hpower : powered s = true) (hreeve : s.reeveUp = true) (c : Fin 32) :
    exec (.croftRemove c) s = .next (croftRemove s c.val) := by
  show execCroftRemove c s = _
  simp [execCroftRemove, hpower, hreeve]

theorem exec_croftRemoveAndPurge {s : State} (hpower : powered s = true) (hreeve : s.reeveUp = true) (c : Fin 32) :
    exec (.croftRemoveAndPurge c) s = .next (croftPurge s c.val) := by
  show execCroftRemoveAndPurge c s = _
  simp [execCroftRemoveAndPurge, hpower, hreeve]

/-! ### A croft created (R262) -/

/-- Resetting a croft's counters leaves every entry that is none of them. -/
theorem odGet_resetCounters {s : State} {c i sub : Nat} (hsub : sub < 256) (h : ∀ b ∈ croftCounters, b + c ≠ i) :
    odGet (resetCounters s c) i sub = odGet s i sub := by
  have hindex : odKey i sub / 256 = i := by
    unfold odKey
    omega
  have hkept : (!croftCounters.any fun b => decide (odKey i sub / 256 = b + c)) = true := by
    simp only [hindex, Bool.not_eq_true', List.any_eq_false, decide_eq_true_eq]
    exact fun b hb heq => h b hb heq.symm
  have hlookup : (resetCounters s c).od.lookup (odKey i sub) = s.od.lookup (odKey i sub) :=
    (lookup_filter s.od (fun k => !croftCounters.any fun b => decide (k / 256 = b + c)) _).trans (if_pos hkept)
  unfold odGet
  rw [hlookup]

@[simp] theorem resetCounters_crofts (s : State) (c : Nat) : (resetCounters s c).crofts = s.crofts := rfl
@[simp] theorem resetCounters_sec (s : State) (c : Nat) : (resetCounters s c).sec = s.sec := rfl

/-- No croft counter stands among the quotas. -/
theorem quota_resetCounters (s : State) (c : Fin 32) : quota (resetCounters s c.val) c.val 2 = quota s c.val 2 := by
  refine odGet_resetCounters (by decide) fun b hb => ?_
  have hge : 0xA240 ≤ b := by
    revert b
    decide
  omega

theorem mem_setIns_self (l : List Nat) (k : Nat) : k ∈ setIns l k := by simp [setIns]

/-- The state before a croft is created, its tier-1 quota raised to its parking area where that is larger (R262). -/
def quotaRaised (s : State) (c park : Nat) : State := if quota s c 2 < park then odPut s (0x4100 + c) 2 park else s

/-- The quota raised holds the parking area. -/
theorem le_quota_quotaRaised (s : State) (c park : Nat) : park ≤ quota (quotaRaised s c park) c 2 := by
  unfold quotaRaised
  split
  case isTrue => simp [quota]
  case isFalse h => omega

theorem quotaRaised_only (s : State) (c park : Nat) : ∃ o, quotaRaised s c park = { s with od := o } := by
  unfold quotaRaised
  split
  · exact ⟨_, rfl⟩
  · exact ⟨s.od, rfl⟩

/-- The state a creation leaves: the croft with a key of its own, its counters and its command's status 0. -/
def croftMade (s : State) (c : Nat) (k : Croft) : State :=
  let s2 := resetCounters (putCroft s c k) c
  croftStatus { s2 with sec := { s2.sec with keys := setIns s2.sec.keys s2.sec.nextKey, nextKey := s2.sec.nextKey + 1 }, savePending := true } c 0

theorem croftMade_spec (s : State) (c : Fin 32) (k : Croft) :
    croft? (croftMade s c.val k) c.val = some k ∧ s.sec.nextKey ∈ (croftMade s c.val k).sec.keys ∧
      odGet (croftMade s c.val k) (0x3000 + c.val) 9 = 0 ∧ quota (croftMade s c.val k) c.val 2 = quota s c.val 2 := by
  refine ⟨by simp [croftMade, croft?, croftStatus, putCroft], by simp [croftMade, croftStatus, mem_setIns_self], by simp [croftMade, croftStatus], ?_⟩
  unfold croftMade croftStatus
  dsimp only
  unfold quota
  rw [odGet_odPut_ne _ _ _ _ _ _ (odKey_ne (by decide) (by decide) (by omega))]
  exact (quota_resetCounters (putCroft s c.val k) c).trans (odGet_congr rfl _ _)

theorem croftCreate_of_admitted {s : State} {c : Nat} (hnew : croft? s c = none) (hfree : enginesFree s c (stagedMask s c) = true)
    (hmap : mapValid (stagedMask s c) (stagedMap s c) = true) (hshare : otherShares s c + stagedShare s c ≤ 100)
    (hpark : parkArea (stagedMask s c) (stagedMap s c) ≤ quota s c 2 ∨
      otherT1 s c + parkArea (stagedMask s c) (stagedMap s c) ≤ t1Available) :
    croftCreate s c = croftMade (quotaRaised s c (parkArea (stagedMask s c) (stagedMap s c))) c
      (croftNew (stagedMask s c) (stagedMap s c) (stagedShare s c)
        (quotaRaised s c (parkArea (stagedMask s c) (stagedMap s c))).sec.nextKey) := by
  unfold croftCreate
  dsimp only
  rw [hnew, if_neg (by simp), if_neg (by simp [hfree]), if_neg (by simp [hmap]), if_neg (by omega), if_neg (by simp; omega)]
  rfl

/-! ### A croft changed, removed and purged (R263, R264) -/

theorem croftApply_of_admitted {s : State} {c : Nat} {k : Croft} (hcroft : croft? s c = some k)
    (hfree : enginesFree s c (stagedMask s c) = true) (hmap : mapValid (stagedMask s c) (stagedMap s c) = true)
    (hshare : otherShares s c + stagedShare s c ≤ 100)
    (hquota : t1Taken s c k - k.park + parkArea (stagedMask s c) (stagedMap s c) ≤ quota s c 2) :
    croftApply s c = if k.run.isSome then
        putCroft (croftStatus s c 0) c { k with
          state := if k.state = 3 then 3 else 2, deferred := k.deferred ++ [.apply (stagedMask s c) (stagedMap s c) (stagedShare s c)] }
      else applyNow (croftStatus s c 0) c (stagedMask s c) (stagedMap s c) (stagedShare s c) := by
  unfold croftApply
  dsimp only
  rw [hcroft]
  dsimp only
  rw [if_neg (by simp [hfree]), if_neg (by simp [hmap]), if_neg (by omega), if_neg (by omega)]

theorem croftRemove_of_jobs {s : State} {c : Nat} {k : Croft} (hcroft : croft? s c = some k) (hjobs : openJobs k ≠ []) :
    croftRemove s c = odPut s (0x3000 + c) 9 6 := by
  simp [croftRemove, hcroft, hjobs, croftStatus]

theorem croftRemove_of_empty {s : State} {c : Nat} {k : Croft} (hcroft : croft? s c = some k) (hjobs : openJobs k = [])
    (hstore : storeEmptyNow k.store = true) (hns : ∀ x ∈ s.namespaces, x.2.owner ≠ c) :
    croftRemove s c = odPut (croftGone s c k) (0x3000 + c) 9 0 := by
  have hany : s.namespaces.any (fun x => x.2.owner = c) = false := by simpa using hns
  simp [croftRemove, hcroft, hjobs, hstore, hany, croftStatus]

theorem odGet_croftPurge_of_running {s : State} {c : Nat} {k : Croft} {r : RunStep} (hcroft : croft? s c = some k) (hrun : k.run = some r) :
    odGet (croftPurge s c) (0x3000 + c) 9 = 0 := by
  simp [croftPurge, hcroft, hrun, croftStatus]

/-- Settles O43: each command by the checks it makes, in their order. -/
theorem croftCommands : Obligations.CroftCommands := by
  unfold Obligations.CroftCommands
  intro c s hpower hreeve
  dsimp only
  rw [exec_croftCreate hpower hreeve, exec_croftApply hpower hreeve, exec_croftRemove hpower hreeve, exec_croftRemoveAndPurge hpower hreeve]
  refine ⟨fun hnew hfree hmap hshare hpark => ?_, fun k hcroft => ⟨?_, fun hfree hmap hshare hquota => ⟨fun hrun => ?_, fun hrun => ?_⟩,
    fun hjobs => ?_, fun hjobs hstore hns => ?_, fun hrun => ?_, fun r hrun => ?_⟩, fun hnone => ⟨?_, ?_, ?_⟩⟩
  · obtain ⟨o, hraised⟩ := quotaRaised_only s c.val (parkArea (stagedMask s c.val) (stagedMap s c.val))
    have hquota := le_quota_quotaRaised s c.val (parkArea (stagedMask s c.val) (stagedMap s c.val))
    refine ⟨_, rfl, ?_⟩
    rw [croftCreate_of_admitted hnew hfree hmap hshare hpark]
    obtain ⟨hcroft, hkey, hstatus, hkept⟩ := croftMade_spec (quotaRaised s c.val (parkArea (stagedMask s c.val) (stagedMap s c.val))) c
      (croftNew (stagedMask s c.val) (stagedMap s c.val) (stagedShare s c.val) s.sec.nextKey)
    rw [← hkept] at hquota
    rw [hraised] at hcroft hkey hstatus hquota ⊢
    exact ⟨hcroft, hkey, hstatus, hquota, rfl⟩
  · simp [croftCreate, hcroft, croftStatus]
  · rw [croftApply_of_admitted hcroft hfree hmap hshare hquota, if_neg (by simp [hrun])]
    rfl
  · rw [croftApply_of_admitted hcroft hfree hmap hshare hquota, if_pos (by simpa [Option.isSome_iff_ne_none] using hrun)]
    rfl
  · exact congrArg _ (croftRemove_of_jobs hcroft hjobs)
  · exact congrArg _ (croftRemove_of_empty hcroft hjobs hstore hns)
  · simp [croftPurge, hcroft, hrun]
  · exact ⟨_, rfl, odGet_croftPurge_of_running hcroft hrun⟩
  · simp [croftApply, hnone, croftStatus]
  · simp [croftRemove, hnone, croftStatus]
  · simp [croftPurge, hnone, croftStatus]

end Sys2Proof.Machine
end

section
/-! PROOFS of the step and of the engine instructions: what each does where its queue takes it (R112, R119, R120, R122). -/

namespace Sys2Proof.Machine

open Sys2Proof.Claims

/-! ### The step -/

/-- Settles O1: by the two cases of the queue. -/
theorem stepRunsTheFrontCommand : Obligations.StepRunsTheFrontCommand := by
  unfold Obligations.StepRunsTheFrontCommand
  exact fun s => ⟨fun c rest hpending => by simp [step, hpending], fun hpending => by simp [step, hpending]⟩

/-! ### Instructions on their own virtual engine -/

/-- An instruction that is an operation on its own virtual engine issues. -/
theorem issues_of_engPure {s : State} {c v q op : Nat} {w : IWord} {f : EngEnv → EngRes} {i : Instr}
    (hexec : exec i s = .next (engPure s c v q op w f)) : Issues s c v q op w f i := by
  intro e ve fl htaken hf
  rw [hexec, engPure_of_taken htaken hf]

theorem exec_vcvt (c : Fin 32) (v : Fin 64) (w : IWord) (s : State) :
    exec (.vcvt c v w) s = .next (engPure s c v 2 0x33 w (fun e =>
      if fld w 88 81 < imgOspecs e.im then doVcvt e.r.ctx e.ve w (ospecAt e.im (fld w 88 81)) else .fault 0x51 (fld w 88 81))) := rfl

/-- Settles O3: each is `engPure` of its operation, MAC with the rows its array then streams. -/
theorem arrayAndVectorInstructionsIssue : Obligations.ArrayAndVectorInstructionsIssue := by
  unfold Obligations.ArrayAndVectorInstructionsIssue
  intro c v q w s
  refine ⟨issues_of_engPure rfl, issues_of_engPure rfl, issues_of_engPure rfl, issues_of_engPure rfl, issues_of_engPure rfl,
    issues_of_engPure rfl, issues_of_engPure rfl, issues_of_engPure rfl, issues_of_engPure rfl, issues_of_engPure rfl, issues_of_engPure rfl,
    issues_of_engPure rfl, fun e ve fl => ⟨fun htaken hmac => ?_, fun htaken hspec hcvt => ?_⟩⟩
  · rw [exec_mac, engPure_of_taken (f := fun e => doMac e.r.ctx e.ve w) htaken hmac]
  · rw [exec_vcvt, engPure_of_taken htaken]
    show (if fld w 88 81 < imgOspecs e.im then _ else _) = _
    rw [if_pos hspec]
    exact hcvt

/-! ### Instructions that reach further -/

/-- An instruction whose operation reaches beyond its virtual engine issues, and then its own work follows. -/
theorem issuesWide_of_engPlain {s : State} {c v q op : Nat} {w : IWord} {f : EngEnv → EngOut} {post : State → State} {i : Instr}
    (hexec : exec i s = .next (post (engPlain s c v q op w f))) : IssuesWide s c v q op w f post i := by
  intro e t fl htaken hf
  rw [hexec, engPlain, engIssue_of_taken htaken hf]
  rfl

/-- Settles O5: each is `engPlain` of its operation, the dispatcher's work after those that reach other queues. -/
theorem sharedInstructionsIssue : Obligations.SharedInstructionsIssue := by
  unfold Obligations.SharedInstructionsIssue
  intro c v q w s
  exact ⟨issuesWide_of_engPlain rfl, issuesWide_of_engPlain rfl, issuesWide_of_engPlain rfl, issuesWide_of_engPlain rfl,
    issuesWide_of_engPlain rfl, issuesWide_of_engPlain rfl, issuesWide_of_engPlain rfl, issuesWide_of_engPlain rfl,
    issuesWide_of_engPlain rfl, issuesWide_of_engPlain rfl⟩

/-! ### GATE and STEP (R119, R120) -/

theorem doGate_of_sound {s : State} {c v q : Nat} {w : IWord} {e : EngEnv} (hlive : gLive w ≤ 96)
    (hwaits : gWaits w = true → gArrive w ≠ 0 ∧ declGate (semAt e.im v (gSem w)) = true) :
    doGate s c v q w e = .done (setVe s c v (veSetQueue e.ve q { veQueue e.ve q with gate := some w, stalledOn := none })) noFlags := by
  unfold doGate
  rw [if_neg, if_neg]
  · simp only [Bool.and_eq_true, Bool.not_eq_true', not_and, Bool.not_eq_false]
    exact fun h => (hwaits h).2
  · simp only [Bool.or_eq_true, Bool.and_eq_true, decide_eq_true_eq, not_or, not_and, not_lt]
    exact ⟨hlive, fun h => (hwaits h).1⟩

theorem exec_gate (c : Fin 32) (v : Fin 64) (q : Fin 4) (w : IWord) (s : State) :
    exec (.gate c v q w) s = .next (engIssue s c v q 2 w (doGate s c v q w) (fun t => settle t c)) := rfl

theorem exec_step (c : Fin 32) (v : Fin 64) (q : Fin 4) (w : IWord) (s : State) :
    exec (.step c v q w) s = .next (engIssue s c v q 3 w (doStep s c v q w) (fun t => settle (headerSignal t c v q w (queueOff s c v q)) c)) := rfl

theorem queueOff_of_env {s : State} {c v q : Nat} {e : EngEnv} (h : engEnv s c v = some e) : queueOff s c v q = (veQueue e.ve q).off := by
  rw [queueOff, h]

/-- Settles O6: GATE within its field limits and STEP leave their word in the queue. -/
theorem barrierInstructionsIssue : Obligations.BarrierInstructionsIssue := by
  unfold Obligations.BarrierInstructionsIssue
  refine fun c v q w s e => ⟨fun htaken hlive hwaits => ?_, fun htaken => ?_⟩
  · rw [exec_gate, engIssue_of_taken htaken (doGate_of_sound (e := waited e w) hlive hwaits)]
  · rw [exec_step, engIssue_of_taken htaken rfl, queueOff_of_env htaken.1]

end Sys2Proof.Machine
end

section
/-! PROOFS of the life of a step: its start, its end, its limits, the completions inside it, launch counts and batches (R122, R128, R167, R253, R254, R266 to R272). -/

namespace Sys2Proof.Machine

open Sys2Proof.Claims

/-! ### STEP_START (R254, R266, R271) -/

theorem exec_stepStart (c : Fin 32) (s : State) : exec (.stepStart c) s = .next (stepStart s c.val) := rfl

/-- Settles O8: the ready step that is chosen once the cancels of its job are taken starts, or is dropped where it has missed its count. -/
theorem stepStartRunsTheBestReadyStep : Obligations.StepStartRunsTheBestReadyStep := by
  unfold Obligations.StepStartRunsTheBestReadyStep
  intro c s k k' b j q hcroft hready hcroft' hready' hmay hstage
  dsimp only
  have hfound : (croft? s c.val).bind bestReady = some b := by rw [hcroft, Option.bind_some, hready]
  have hstart : stepStart s c.val =
      if missed q (lateness (takeCancels s c.val b.1.id) j q) then dropMissed (takeCancels s c.val b.1.id) c.val j q
      else
        let s1 := wakeCroft (if !q.began && (lateness (takeCancels s c.val b.1.id) j q).isSome then bump (takeCancels s c.val b.1.id) 0xA360 1 1
          else takeCancels s c.val b.1.id) c.val
        let q' := { q with late := lateness (takeCancels s c.val b.1.id) j q, began := true }
        if q.kind = .program then startProgram s1 c.val k' j q' else startBuiltin s1 c.val k' j q' := by
    simp [stepStart, hfound, hcroft', hready', hmay, hstage]
  rw [exec_stepStart, hstart]
  refine ⟨fun hmissed => by rw [if_pos hmissed], fun hmet => ⟨fun hkind => ?_, fun hkind => ?_⟩⟩
  · rw [if_neg (by simp [hmet])]
    simp only [if_pos hkind]
  · rw [if_neg (by simp [hmet])]
    simp only [if_neg hkind]

/-! ### BATCH_STEP_END -/

theorem exec_batchStepEnd {s : State} (hpower : powered s = true) (c : Fin 32) :
    exec (.batchStepEnd c) s = .next (batchStepEnd s c.val) := by
  show execBatchStepEnd c s = _
  rw [execBatchStepEnd, if_pos hpower]

theorem endProgress_of_merged {s : State} {c : Nat} {e : EngEnv} {ls : List (SelGroup × Nat × WList)} (henv : stepEnv s c = some e)
    (hended : e.r.ended = true) (hresult : e.r.orResult = none) (hheld : e.r.orHeld = none) (hmerge : mergeAll s c e = .ok ls) :
    endProgress s c = closeProgress (imagesOut s c e) c e ls := by
  simp [endProgress, henv, hended, hresult, hheld, hmerge]

/-- In a job without a group no image goes out and the step's end is decided at once. -/
theorem closeProgress_of_no_group {s : State} {c : Nat} {e : EngEnv} (hgroup : e.j.group = none) (ls : List (SelGroup × Nat × WList)) :
    closeProgress (imagesOut s c e) c e ls = decideStep s c e e.r.overflow ls := by
  simp [closeProgress, imagesOut, hgroup]

/-- Settles O9: by the kind of the croft's running step. -/
theorem batchStepEndClosesAFinishedStep : Obligations.BatchStepEndClosesAFinishedStep := by
  unfold Obligations.BatchStepEndClosesAFinishedStep
  intro c s hpower
  rw [exec_batchStepEnd hpower]
  refine ⟨fun k r e ls hrun hkind henv hended hresult hheld hmerge => ?_, fun k r q t hrun hback hkind hticket => ?_,
    fun k r key o hrun hback hkind => ?_⟩
  · have hend : batchStepEnd s c.val = closeProgress (imagesOut s c.val e) c.val e ls := by
      simp [batchStepEnd, hrun, hkind, endProgress_of_merged henv hended hresult hheld hmerge]
    exact ⟨fun hgroup => by rw [hend, closeProgress_of_no_group hgroup], fun g _ => by rw [hend]⟩
  · simp only [batchStepEnd, builtinEnd, hrun, hkind, hback, hticket]
    rfl
  · simp only [batchStepEnd, builtinEnd, hrun, hkind, hback]
    rfl

/-! ### The two limits, and completions inside a step -/

theorem exec_stepTimeLimit {s : State} {c : Fin 32} {k : Croft} {r : RunStep} (hpower : powered s = true)
    (hrun : runOf s c.val = some (k, r)) (hstop : stoppable r = true) :
    exec (.stepTimeLimit c) s = .next (faultStep s c.val 0x59 0xFF 0 0 0) := by
  show execStepTimeLimit c s = _
  simp [execStepTimeLimit, hrun, hpower, hstop]

theorem exec_preemptionDeadline {s : State} {c : Fin 32} {k : Croft} {r : RunStep} (hpower : powered s = true)
    (hrun : runOf s c.val = some (k, r)) (hstop : stoppable r = true) (hpreempt : r.preempt.isSome = true) :
    exec (.preemptionDeadline c) s = .next (abortOwn true s c.val) := by
  show execPreemptionDeadline c s = _
  simp [execPreemptionDeadline, hrun, hpower, hstop, hpreempt]

/-- An instruction that is no MAC leaves its queue, and its header signals. -/
theorem instrComplete_of_not_mac {s : State} {c v q ix : Nat} {e : EngEnv} {f : Inflight} (henv : engEnv s c v = some e)
    (hflight : (veQueue e.ve q).inflight[ix]? = some f) (hmac : wop f.word ≠ 0x22) :
    instrComplete s c v q ix = settle (headerSignal (setVe s c v (veSetQueue e.ve q
      { veQueue e.ve q with inflight := (veQueue e.ve q).inflight.eraseIdx ix })) c v q f.word f.off) c := by
  simp [instrComplete, henv, hflight, hmac]

theorem promoArrive_of_not_served {s : State} {c ix : Nat} {k : Croft} {p : Promo} (hcroft : croft? s c = some k)
    (hpromo : k.promos[ix]? = some p) (hserved : promoServed s c k ix p = false) : promoArrive s c ix = s := by
  simp [promoArrive, hcroft, hpromo, hserved]

theorem exec_promotionComplete {s : State} (hpower : powered s = true) (c : Fin 32) (ix : Nat) :
    exec (.promotionComplete c ix) s = .next (settle (promoArrive s c.val ix) c.val) := by
  show execPromotionComplete c ix s = _
  rw [execPromotionComplete, if_pos hpower]

/-- Settles O10: each event by its own operation on the running step. -/
theorem limitsAndCompletionsOfARunningStep : Obligations.LimitsAndCompletionsOfARunningStep := by
  unfold Obligations.LimitsAndCompletionsOfARunningStep
  intro c s
  refine ⟨fun k r hpower hrun hstop => ⟨exec_stepTimeLimit hpower hrun hstop, exec_preemptionDeadline hpower hrun hstop⟩,
    fun v q ix e f henv hflight hmac => ?_, fun ix k p sh hpower _ _ _ _ => exec_promotionComplete hpower c ix,
    fun ix k p hpower hcroft hpromo hserved => ?_⟩
  · exact congrArg _ (instrComplete_of_not_mac henv hflight hmac)
  · rw [exec_promotionComplete hpower, promoArrive_of_not_served hcroft hpromo hserved]

/-! ### Launch counts and batches (R253, R254, R269) -/

theorem exec_launchCountReached {s : State} (hpower : powered s = true) (c : Fin 32) (job : Nat) :
    exec (.launchCountReached c job) s = .next (launchReached s c.val job) := by
  show execLaunchCountReached c job s = _
  rw [execLaunchCountReached, if_pos hpower]

theorem exec_batchWaitExpiry {s : State} (hpower : powered s = true) (c : Fin 32) (job : Nat) :
    exec (.batchWaitExpiry c job) s = .next (formBatch s c.val job) := by
  show execBatchWaitExpiry c job s = _
  rw [execBatchWaitExpiry, if_pos hpower]

theorem launchReached_of_waiting {s : State} {c job ix n : Nat} {j : Job} {q : QStep} {byJob strict : Bool} {t : Ticket}
    (hjob : jobOf s c job = some j) (hwaiting : waitingLaunch s j = some (ix, q)) (hlaunch : q.launch = some (n, byJob, strict))
    (hticket : q.ticket = some t) :
    launchReached s c job =
      let unsync : Bool := !byJob && !bellSound s
      let s1 := markReady (modJob s c job (fun j => { j with steps := j.steps.set ix { q with reached := some (clock s), unsync := unsync } })) c
      if strict && (unsync || ix ≠ 0 || !startsNow s1 c job) then
        launchRefused (markReady (modJob s c job (fun j => { j with steps := j.steps.eraseIdx ix })) c) t 0x30
      else s1 := by
  simp only [launchReached, hjob, hwaiting, hlaunch, hticket]

/-- A step whose count is met is refused where its policy is strict and it cannot start at once. -/
theorem launch_late_iff {strict unsync starts : Bool} {ix : Nat} :
    (strict && (unsync || decide (ix ≠ 0) || !starts)) = true ↔ strict = true ∧ (unsync = true ∨ ix ≠ 0 ∨ starts = false) := by
  simp [or_assoc]

/-- A batch is what fits the block rows. -/
theorem formBatch_of_fitting {s : State} {c job : Nat} {j : Job} {q : ServReq} {l : List ServReq} (hjob : jobOf s c job = some j)
    (hfit : takeRows (blockRows s c) j.reqs = q :: l) :
    formBatch s c job = queueStep (modJob s c job (fun j => { j with reqs := j.reqs.drop (l.length + 1) })) c job (servingStep (q :: l)) := by
  simp [formBatch, hjob, hfit]

/-- Where not even the first request fits, it is a batch of its own. -/
theorem formBatch_of_oversize {s : State} {c job : Nat} {j : Job} {q : ServReq} {l : List ServReq} (hjob : jobOf s c job = some j)
    (hfit : takeRows (blockRows s c) j.reqs = []) (hreqs : j.reqs = q :: l) :
    formBatch s c job = queueStep (modJob s c job (fun j => { j with reqs := j.reqs.drop 1 })) c job (servingStep [q]) := by
  rw [hreqs] at hfit
  simp [formBatch, hjob, hreqs, hfit]

/-- Settles O11: a launch count met under the late policy that the step names, and the batch of the requests that fit. -/
theorem launchCountsAndBatches : Obligations.LaunchCountsAndBatches := by
  unfold Obligations.LaunchCountsAndBatches
  intro c job s j hpower hjob
  rw [exec_launchCountReached hpower, exec_batchWaitExpiry hpower]
  refine ⟨fun ix q n byJob strict t hwaiting hlaunch hticket => ?_, fun hnone => ?_, fun q l hfit hreqs => ?_, fun q l hfit => ?_⟩
  · dsimp only
    rw [launchReached_of_waiting hjob hwaiting hlaunch hticket]
    refine ⟨fun hstart => congrArg _ (if_neg fun hlate => ?_), fun hstrict hlate => congrArg _ (if_pos (launch_late_iff.2 ⟨hstrict, hlate⟩))⟩
    obtain ⟨hstrict, hlate⟩ := launch_late_iff.1 hlate
    rcases hstart with hloose | ⟨hsync, hfirst, hnow⟩
    · simp [hstrict] at hloose
    · rcases hlate with hunsync | hix | hnot
      · exact absurd hunsync (by rw [hsync]; decide)
      · exact hix hfirst
      · exact absurd hnow (by rw [hnot]; decide)
  · simp [launchReached, hjob, hnone]
  · rw [formBatch_of_oversize hjob hfit hreqs]
  · rw [formBatch_of_fitting hjob hfit]

end Sys2Proof.Machine
end

section
/-! PROOFS of the work descriptors that queue work: how an accepted descriptor reaches its effect, jobs, steps, requests and vector sets (R253, R254, R309 to R313). -/

namespace Sys2Proof.Machine

open Sys2Proof.Claims

/-! ### From an accepted descriptor to its effect -/

theorem withDescriptor_of_accepted {s : State} {f : Fin 33} {ring : Nat} {d : Desc} {op minStage c : Nat}
    (h : Accepted s f ring d op minStage c) (notReady : Nat) (effect : State → Nat → Ticket → State) :
    withDescriptor s f ring d op minStage notReady effect = effect (fetched s f ring d) c (ticketOf s f ring d) := by
  obtain ⟨hfetch, hop, hcroft, hopen, hscope, henvelope, hstage, hrelearn⟩ := h
  have hown : (decide (f.val ≠ 0) && decide ((pf1Of s f.val).scope ≠ c)) = false := by
    rcases hscope with hf | hc
    · simp [hf]
    · simp [hc]
  have hready : (decide (s.power.stage < minStage) || (valveRelearning s && stepOpcodes.contains op)) = false := by
    rw [Bool.or_eq_false_iff, Bool.and_eq_false_iff]
    exact ⟨decide_eq_false (not_lt.2 hstage), by simpa [Classical.or_iff_not_imp_left] using hrelearn⟩
  unfold withDescriptor
  rw [hfetch, hop, hcroft]
  dsimp only
  rw [hopen, henvelope, hown, hready]
  simp [fetched, ticketOf]

theorem withStore_of_accepted {s : State} {f : Fin 33} {ring : Nat} {d : Desc} {op minStage uses flags c : Nat} {k : Croft}
    (h : StoreAccepted s f ring d op minStage uses flags c k) (effect : State → Nat → Ticket → Croft → State) :
    withStore s f ring d op minStage uses flags effect = effect (fetched s f ring d) c (ticketOf s f ring d) k := by
  obtain ⟨haccepted, hcroft, hfields⟩ := h
  rw [withStore, withDescriptor_of_accepted haccepted, hcroft]
  exact if_pos hfields

theorem withStoreChange_of_accepted {s : State} {f : Fin 33} {ring : Nat} {d : Desc} {op uses flags c : Nat} {k : Croft}
    (h : ChangeAccepted s f ring d op uses flags c k) (effect : State → Nat → Ticket → Croft → State) :
    withStoreChange s f ring d op uses flags effect = effect (fetched s f ring d) c (ticketOf s f ring d) k := by
  obtain ⟨hstore, hwritable⟩ := h
  rw [withStoreChange, withStore_of_accepted hstore, if_neg (by simp [hwritable])]

@[simp] theorem fetched_power (s : State) (f : Fin 33) (ring : Nat) (d : Desc) : (fetched s f ring d).power = s.power := by
  unfold fetched takeTicket
  dsimp only
  split <;> simp

/-! ### OPEN and CLOSE (R312) -/

theorem exec_openJob {s : State} {f : Fin 33} {ring : Nat} {d : Desc} {c : Nat} (h : Accepted s f ring d 1 3 c) :
    exec (.openJob f ring d) s = .next (wakeKept (openDesc (fetched s f ring d) c (ticketOf s f ring d) d)) :=
  congrArg Host.Outcome.next (withDescriptor_of_accepted h 5 _)

theorem openJobReq_of_admitted {s : State} {c : Nat} {k : Croft} {r : OpenReq} {im : Image} {b : BSet} (hcroft : croft? s c = some k)
    (hrefusal : openRefusal s k r = none) (himage : mapGet? k.images r.image = some im) (hbset : mapGet? k.bsets r.bset = some b)
    (htrain : (openTrain s c im.bytes r).all trainOk = true) (t : Ticket) :
    openJobReq s c t r = openWith s c k t im.bytes b r (openTrain s c im.bytes r) := by
  simp [openJobReq, hcroft, hrefusal, himage, hbset, htrain]

/-- The request an OPEN descriptor without training state makes, `g` its group record. -/
def openReqOf (d : Desc) (g : Option (List Byte)) : OpenReq :=
  ⟨bytesAt d 16 4, bytesAt d 20 4, byteOf d 24, byteOf d 25, bytesAt d 26 2, bytesAt d 32 8, none, bytesAt d 48 8, g, none⟩

theorem openDesc_of_fields {s : State} {d : Desc} {g : Option (List Byte)} (hprio : byteOf d 24 ≤ 7) (hflags : byteOf d 25 ≤ 31)
    (hnotrain : byteOf d 25 / 2 % 2 = 0) (hreserved : descZero d 28 31 = true) (htrain : descZero d 40 47 = true)
    (htally : byteOf d 25 / 4 % 2 = 0 → descZero d 48 55 = true) (hnogroup : byteOf d 25 / 16 % 2 = 0 → descZero d 56 63 = true)
    (hgroup : flagRead s (byteOf d 25 / 16 % 2 = 1) (bytesAt d 56 8) 544 = some g) (c : Nat) (t : Ticket) :
    openDesc s c t d = openJobReq s c t (openReqOf d g) := by
  have hnone : flagRead s (decide (byteOf d 25 / 2 % 2 = 1)) (bytesAt d 40 8) 64 = some none := by simp [flagRead, hnotrain]
  unfold openDesc
  dsimp only
  rw [if_neg, hnone, hgroup]
  · rfl
  · simp only [Bool.or_eq_true, Bool.and_eq_true, decide_eq_true_eq, Bool.not_eq_true', hreserved, htrain, not_or, not_and]
    refine ⟨⟨⟨⟨⟨by omega, by omega⟩, by simp⟩, by simp⟩, fun h => by simp [htally h]⟩, fun h => by simp [hnogroup h]⟩

theorem exec_closeJob {s : State} {f : Fin 33} {ring : Nat} {d : Desc} {c : Nat} {j : Job} (h : Accepted s f ring d 4 3 c)
    (hreserved : descZero d 16 63 = true) (hjob : lookJob (fetched s f ring d) c d (fun x => x < 2) = .inl j) (hopen : j.closing = none) :
    exec (.closeJob f ring d) s = .next (closeOne (fetched s f ring d) c j (ticketOf s f ring d)) := by
  refine congrArg Host.Outcome.next ((withDescriptor_of_accepted h 5 _).trans ?_)
  simp only [hreserved, hjob, hopen]
  rfl

/-- Settles O13: the descriptor's fields make the request that opens the job, and an open job closes. -/
theorem jobsOpenAndClose : Obligations.JobsOpenAndClose := by
  unfold Obligations.JobsOpenAndClose
  intro f ring d s c k hcroft
  refine ⟨fun g im b haccepted hprio hflags hnotrain hreserved htrain htally hnogroup hgroup => ?_, fun j haccepted hreserved hjob hopen =>
    exec_closeJob haccepted hreserved hjob hopen⟩
  intro r hrefusal himage hbset hstate
  rw [exec_openJob haccepted, openDesc_of_fields hprio hflags hnotrain hreserved htrain htally hnogroup hgroup,
    openJobReq_of_admitted (r := openReqOf d g) hcroft hrefusal himage hbset hstate]
  rfl

/-! ### STEP and REQUEST (R253, R254, R269, R312) -/

theorem acceptStep_of_no_launch {s : State} {d : Desc} {t : Ticket} (h : (stepOf d t).launch = none) (c : Nat) (j : Job) :
    acceptStep s c j d t = queueStep s c j.id (stepOf d t) := by
  simp [acceptStep, h]

theorem acceptRequest_of_read {s : State} {c : Nat} {d : Desc} {b : List Byte} (hrows : bytesAt d 16 2 ≠ 0)
    (hfit : bytesAt d 16 2 ≤ blockRows s c) (hread : hostRead s (bytesAt d 32 8) (bytesAt d 16 2 * bytesAt d 20 4) = some b) (j : Job) (t : Ticket) :
    acceptRequest s c j d t = batchNow c j.id (j.reqs.length + 1) (modJob s c j.id (fun j => { j with
      reqs := j.reqs ++ [⟨bytesAt d 16 2, bytesAt d 20 4, bytesAt d 24 4, b, bytesAt d 40 8, clock s, t⟩] })) := by
  simp [acceptRequest, hrows, not_lt.2 hfit, hread]

/-- Settles O14: each is queued on the job its descriptor names. -/
theorem stepsAndRequestsAreQueued : Obligations.StepsAndRequestsAreQueued := by
  unfold Obligations.StepsAndRequestsAreQueued
  intro f ring d s c k hcroft
  refine ⟨fun j im haccepted hflags hreserved hrest hjob himage hentry hlaunch => ?_, fun j b haccepted hreserved hrest hlast hjob hrows hfit hread => ?_⟩
  · refine congrArg Host.Outcome.next ((withDescriptor_of_accepted haccepted 5 _).trans ?_)
    simp only [hcroft, hjob, Option.bind_some, himage, Option.elim_some]
    rw [if_neg (by simp [hreserved, hrest, hflags]), if_neg (not_le.2 hentry), acceptStep_of_no_launch hlaunch]
  · refine congrArg Host.Outcome.next ((withDescriptor_of_accepted haccepted 5 _).trans ?_)
    simp only [hreserved, hrest, hlast, hjob]
    exact acceptRequest_of_read hrows hfit hread j _

/-! ### SEARCH, SETCREATE and COMPACT (R182 to R184) -/

theorem acceptBatch_of_admitted {s : State} {c : Nat} {k : Croft} {b0 : List Byte} {e out len : Nat} {m : FMap Obj} {h : SetHdr} {o : FMap Sheaf}
    {hw : Nat} (hstage : s.power.stage = 3) (htable : qbTableOk b0 = true) (hepoch : epochMap k.store (qbEpoch b0) = some (e, m))
    (hset : batchSet s ⟨fillRecord s c e b0, e, m, out, len, false⟩ = some (h, o, hw)) (hlimits : qbLimitsOk (fillRecord s c e b0) h hw false = true)
    (hroom : ownRoom k 2 = true) (hpred : (predTerms (h.attr / 4) (sub (fillRecord s c e b0) 128 272)).isSome = true)
    (hout : batchOut (fillRecord s c e b0) ≤ len) (t : Ticket) :
    acceptBatch s c k t b0 out len = queueBatch s c t ⟨fillRecord s c e b0, e, m, out, len, false⟩ := by
  have hpred' : (predTerms (h.attr / 4) (sub (fillRecord s c e b0) 128 272)).isNone = false := by
    rw [Option.isNone_eq_false_iff]
    exact hpred
  have hearly : decide (s.power.stage < 3) = false := by rw [hstage]; rfl
  simp only [acceptBatch, hearly, htable, hepoch, hset, hlimits, hpred', hroom]
  rw [if_neg (not_lt.2 hout)]
  rfl

/-- Settles O15: by the checks each descriptor passes. -/
theorem vectorSetCommands : Obligations.VectorSetCommands := by
  unfold Obligations.VectorSetCommands
  intro f ring d s c k hcroft
  refine ⟨fun b0 e m h o hw haccepted hreserved hread hstage htable hepoch => ?_,
    fun b cb r haccepted hreserved hwritable hread hnew hroom hhdr hnumber hbook => ?_,
    fun e m key o haccepted hreserved hwritable hepoch hset hroom hnodes => ?_⟩
  · intro b r hset hlimits hroom hpred hout
    refine congrArg Host.Outcome.next ((withDescriptor_of_accepted haccepted 0x25 _).trans ?_)
    simp only [hreserved, hread, hcroft]
    exact acceptBatch_of_admitted ((congrArg Power.stage (fetched_power s f ring d)).trans hstage) htable hepoch hset hlimits hroom hpred hout _
  · intro m0 m o hrebuilt
    refine congrArg Host.Outcome.next ((withDescriptor_of_accepted haccepted 5 _).trans ?_)
    simp only [hcroft, hreserved, hwritable, hread, createSet, hnew, hroom, hhdr, hnumber, hbook]
    exact (by rw [hrebuilt]; rfl)
  · refine congrArg Host.Outcome.next ((withDescriptor_of_accepted haccepted 5 _).trans ?_)
    simp only [hreserved, hcroft, compactSet, Option.bind_some, hepoch, hset, hnodes, hroom, Option.any_some, hwritable]
    rfl

/-! ### Compactions and reads without a descriptor (R183, R195) -/

theorem exec_droverReadsReturned {s : State} (hpower : powered s = true) (c : Fin 32) (n : Nat) :
    exec (.droverReadsReturned c n) s = .next (readsReturned s c.val n) := by
  show execDroverReadsReturned c n s = _
  rw [execDroverReadsReturned, if_pos hpower]

/-- Settles O16: the trigger's checks, and the reads of a context that is held or not. -/
theorem droverEvents : Obligations.DroverEvents := by
  unfold Obligations.DroverEvents
  intro c s hpower
  refine ⟨fun set k e m key o hstage hcroft hepoch hset hshare hover hnodes hidle hroom hwritable => ?_, fun n m ix k r hrun hcontext => ?_,
    fun n k r hrun hcontext => ?_⟩
  · show execCompactionTrigger c set s = _
    have htrigger : ¬ (o.hw - o.live) * 100 ≤ odGet s (0x3580 + c.val) 1 * o.hw := not_le.2 hover
    simp [execCompactionTrigger, hpower, hstage, compactionTrigger, hcroft, hepoch, hset, hshare, htrigger, hnodes, hidle, hroom, hwritable]
  · rw [exec_droverReadsReturned hpower]
    simp only [readsReturned, hrun, hcontext]
    rfl
  · rw [exec_droverReadsReturned hpower]
    unfold readsReturned
    rw [hrun]
    dsimp only
    split
    case h_1 m ix hheld => exact absurd hheld (hcontext m ix)
    case h_2 => rfl

end Sys2Proof.Machine
end

section
/-! PROOFS of the segment store's commands: the open state, reads of an epoch, commits, retained epochs and secure deallocation (R220 to R240, R313, R329, R330). -/

namespace Sys2Proof.Machine

open Sys2Proof.Claims

/-! ### Commands that place contents in the open state -/

/-- Only a vector set's attributes follow its contents. -/
theorem refreshObj_of_not_set {o : Obj} (h : o.isSet = false) (s : State) : refreshObj s o = o := by
  simp [refreshObj, h]

@[simp] theorem placeSerials_isSet (o : Obj) (index : Nat) (serials : List Nat) : (placeSerials o index serials).isSet = o.isSet := rfl

theorem writeSegments_of_plain {s : State} {c : Nat} {k : Croft} {d : Desc} {t : Ticket} {b : List Byte} {r : List Nat × State}
    (hraw : stRaw d = false) (hset : ((objOf k.store.openState (stKey d)).getD ⟨[], false, 0, 0⟩).isSet = false)
    (hindex : stIndex d ≤ ((objOf k.store.openState (stKey d)).getD ⟨[], false, 0, 0⟩).segs.length) (hlast : stIndex d + stCount d ≤ 2 ^ 32)
    (hroom : objRoom k.store (stKey d) = true)
    (hplaced : addSegments c (stClass d) (newOp s c (some t) none 0 0).1 (((List.range (stCount d)).map (writePart false b)).zipIdx.map (fun p =>
      some (plainSegment c (stKey d) (stIndex d + p.2) (openEpoch k.store) p.1))) (newOp s c (some t) none 0 0).2 = some r) :
    writeSegments s c t k d b = opFinish (setObj r.2 c (stKey d)
      (placeSerials ((objOf k.store.openState (stKey d)).getD ⟨[], false, 0, 0⟩) (stIndex d) r.1)) (newOp s c (some t) none 0 0).1 := by
  unfold writeSegments
  simp only [hraw, Bool.false_and, hset, hroom, Bool.false_eq_true, if_false, Bool.not_true]
  rw [if_neg (by simpa [hindex] using hlast), hplaced]
  dsimp only
  rw [refreshObj_of_not_set (by rw [placeSerials_isSet, hset])]

theorem exec_write {s : State} {f : Fin 33} {ring : Nat} {d : Desc} {c : Nat} {k : Croft} {b : List Byte}
    (h : ChangeAccepted s f ring d 0x10 (1 + 2 + 8 + 16 + 64) 8 c k) (hraw : stRaw d = false) (hcount : stCount d ≠ 0) (hmost : stCount d ≤ 64)
    (hread : hostRead (fetched s f ring d) (stAddr d) (stCount d * 1049600) = some b) :
    exec (.write f ring d) s = .next (writeSegments (fetched s f ring d) c (ticketOf s f ring d) k d b) := by
  refine congrArg Host.Outcome.next ((withStoreChange_of_accepted h _).trans ?_)
  simp [hraw, hcount, not_lt.2 hmost, hread]

theorem persistEffect_of_admitted {s : State} {c : Nat} {k : Croft} {d : Desc} {t : Ticket} {b : Binding} {r : List Nat × State}
    (hbinding : persistBinding k d = some b) (hcount : stCount d ≠ 0) (hkind : b.kind = 0) (halign : stIndex d % 32 = 0)
    (hset : ((objOf k.store.openState (stKey d)).getD ⟨[], false, 0, 0⟩).isSet = false) (hrange : stIndex d + stCount d ≤ b.count)
    (hindex : stIndex d / 32 ≤ ((objOf k.store.openState (stKey d)).getD ⟨[], false, 0, 0⟩).segs.length)
    (hlast : stIndex d / 32 + persistPlaces (stCount d) ≤ 2 ^ 32) (hroom : objRoom k.store (stKey d) = true) (hrun : k.run.isSome = true)
    (hplaced : placeNews c (stClass d) ((List.range (persistPlaces (stCount d))).map (fun x =>
      persistBlank c (stKey d) (stIndex d / 32 + x) (openEpoch k.store))) (newOp s c (some t) none 0 0).2 = some r) :
    persistEffect d s c t k = modStore (modOp (setObj r.2 c (stKey d)
        (placeSerials ((objOf k.store.openState (stKey d)).getD ⟨[], false, 0, 0⟩) (stIndex d / 32) r.1)) (newOp s c (some t) none 0 0).1
      (fun x => { x with left := x.left + 1 })) c (fun st => { st with
        persists := st.persists ++ [⟨(newOp s c (some t) none 0 0).1, r.1, stBinding d / 256, stBinding d % 256, stIndex d, stCount d⟩] }) := by
  unfold persistEffect
  rw [hbinding]
  dsimp only
  rw [if_neg (by simp [hcount, hkind, halign, hset]), if_neg (by simpa [hrange, hindex] using hlast), if_neg (by simp [hroom]), hplaced]
  exact if_pos hrun

theorem updateSet_of_fitting {s : State} {c : Nat} {d : Desc} {t : Ticket} {b : List Byte} {x : Obj} {es : List UEntry} {y : Obj × State}
    (hentries : parseEntries (imgHdr (objImg s x)) (b.length + 1) x.hw b = some es) :
    let r := es.foldl (applyEntry (imgHdr (objImg s x))) ⟨objImg s x, x.hw, none, 0, 0, false⟩
    let p := newOp s c (some t) none r.inserts (r.first.getD 0)
    r.full = false → rebuildSet p.2 c (stKey d) p.1 x r.img r.hw = some y →
    updateSet s c t d x b = opFinish (modOp (modStore (setObj y.2 c (stKey d) y.1) c (fun st => { st with notFound := st.notFound + r.notFound })) p.1
      (fun z => { z with status := 0 })) p.1 := by
  intro r p hfull hrebuilt
  simp only [updateSet, hentries]
  show (match rebuildSet p.2 c (stKey d) p.1 x r.img r.hw with
    | none => done s t 0x12
    | some x => opFinish (modOp (modStore (setObj x.2 c (stKey d) x.1) c (fun st => { st with notFound := st.notFound + r.notFound })) p.1
      (fun y => { y with status := if r.full then 0x27 else 0 })) p.1) = _
  rw [hrebuilt]
  simp [hfull]

/-- Settles O17: by the checks of each command, in their order. -/
theorem openStateCommands : Obligations.OpenStateCommands := by
  unfold Obligations.OpenStateCommands
  intro f ring d s c k S T o
  refine ⟨fun b r haccepted hraw hcount hmost hread => ?_, fun b r haccepted hbinding => ?_, fun b x es y haccepted hread hobj hset => ?_,
    fun e m haccepted hepoch hroom => ?_, fun x haccepted hobj => ⟨fun hindex => ?_, fun hpos hlen hset => ?_⟩⟩
  · intro old hset hindex hlast hroom hplaced
    rw [exec_write haccepted hraw hcount hmost hread]
    exact congrArg Host.Outcome.next (writeSegments_of_plain hraw hset hindex hlast hroom hplaced)
  · intro old n hcount hkind halign hset hrange hindex hlast hroom hrun hplaced
    refine congrArg Host.Outcome.next ((withStoreChange_of_accepted haccepted _).trans ?_)
    exact persistEffect_of_admitted hbinding hcount hkind halign hset hrange hindex hlast hroom hrun hplaced
  · intro img hentries r p hfull hrebuilt
    refine congrArg Host.Outcome.next ((withStoreChange_of_accepted haccepted _).trans ?_)
    simp only [show hostRead (fetched s f ring d) (stAddr d) (stCount d) = some b from hread, hobj, hset, if_true]
    exact updateSet_of_fitting hentries hfull hrebuilt
  · refine congrArg Host.Outcome.next ((withStoreChange_of_accepted haccepted _).trans ?_)
    simp only [hepoch]
    refine if_neg ?_
    rcases hroom with hnone | hroom
    · simp [hnone]
    · simp [hroom]
  · refine congrArg Host.Outcome.next ((withStoreChange_of_accepted haccepted _).trans ?_)
    simp [hobj, hindex, S, T]
  · refine congrArg Host.Outcome.next ((withStoreChange_of_accepted haccepted _).trans ?_)
    simp only [hobj, hset]
    rw [if_neg (not_lt.2 hlen), if_neg (by simp), if_neg (by omega)]

/-! ### READ and MANIFEST -/

theorem readPlain_of_sound {s : State} {c : Nat} {d : Desc} {o : Obj} {segs : List (Nat × Segment)}
    (hrange : stIndex d + stCount d ≤ 32 * o.segs.length)
    (hsegs : segsAt s c (stKey d) o (stIndex d / 32) ((stIndex d + stCount d + 31) / 32 - stIndex d / 32) = some segs)
    (hagree : segs.any (fun g => segConflict s g.1) = false) (hwhole : (readSheaves segs (stIndex d) (stCount d)).any (·.isNone) = false)
    (hwritable : hostWritable s (stAddr d) (stCount d * 32768) = true) (t : Ticket) (e : Nat) :
    readPlain s c t d e o = complete (readCounted (writeBodies (stAddr d) (readSheaves segs (stIndex d) (stCount d)) s) c 32768
      (sheafSegs segs (stIndex d) (stCount d))) t 0 0 0 e 0 none := by
  simp only [readPlain, hsegs, hagree, hwhole, hwritable]
  rw [if_neg (not_lt.2 hrange)]
  rfl

theorem readRaw_of_sound {s : State} {c : Nat} {d : Desc} {o : Obj} {segs : List (Nat × Segment)}
    (hrange : stIndex d + stCount d ≤ o.segs.length) (hsegs : segsAt s c (stKey d) o (stIndex d) (stCount d) = some segs)
    (hwritable : hostWritable s (stAddr d) (stCount d * 1049728) = true) (t : Ticket) (e : Nat) :
    readRaw s c t d e o = complete (readCounted (hostWrite s (stAddr d)
      (segs.flatMap (fun g => segHeader g.2 g.1 (g.1 = 0) ++ segBody g.2))) c 1048576 segs) t 0 (if segs.any (fun g => g.2.poison) then 2 else 0) 0 e 0 none := by
  simp only [readRaw, hsegs, hwritable]
  rw [if_neg (not_lt.2 hrange)]
  rfl

/-- Settles O18: of an epoch that is found and an object in it. -/
theorem readsOfAnEpoch : Obligations.ReadsOfAnEpoch := by
  unfold Obligations.ReadsOfAnEpoch
  intro f ring d s c k e m hepoch S T
  refine ⟨fun o segs haccepted hcount hobj => ⟨fun hraw hrange hsegs hagree hwhole hwritable => ?_, fun hraw hrange hsegs hwritable => ?_⟩,
    fun haccepted => ?_⟩
  · refine congrArg Host.Outcome.next ((withStore_of_accepted haccepted _).trans ?_)
    simp only [hcount, if_false, hepoch, hobj, hraw, Bool.false_eq_true]
    exact readPlain_of_sound hrange hsegs hagree hwhole hwritable _ _
  · refine congrArg Host.Outcome.next ((withStore_of_accepted haccepted _).trans ?_)
    simp only [hcount, if_false, hepoch, hobj, hraw, if_true]
    exact readRaw_of_sound hrange hsegs hwritable _ _
  · intro l hwritable
    refine congrArg Host.Outcome.next ((withStore_of_accepted haccepted _).trans ?_)
    simp only [hepoch]
    exact if_neg (by simpa [S, l] using hwritable)

/-! ### Commits -/

theorem sealedCommit_of_durable {s : State} {c : Nat} {k : Croft} {x : Commit} {l : List Commit} (hcroft : croft? s c = some k)
    (hcommits : k.store.commits = x :: l) (hdone : x.covered.any (fun n => s.ops.any (fun o => o.id = n)) = false)
    (hwritable : storeReadOnly s k = false) (hstage : s.power.stage = 3) (hclean : poisonedNew s x.frozen k.store.epochs = none) :
    sealedCommit s c = durableCommit s c k x := by
  simp only [sealedCommit, hcroft, hcommits, hdone, hwritable, hstage, hclean]
  rfl

/-- Settles O19: by the effect of each command. -/
theorem commitsAndTheOpenState : Obligations.CommitsAndTheOpenState := by
  unfold Obligations.CommitsAndTheOpenState
  intro s k
  dsimp only
  refine ⟨fun f ring d c => ⟨fun haccepted => ?_, fun e m haccepted hepoch hempty => ?_, fun haccepted => ?_⟩,
    fun c x l hcroft hcommits hdone hwritable hstage hclean => ?_⟩
  · exact congrArg Host.Outcome.next (withStore_of_accepted haccepted _)
  · refine congrArg Host.Outcome.next ((withStoreChange_of_accepted haccepted _).trans ?_)
    simp only [hepoch]
    refine if_neg ?_
    rcases hempty with hempty | hflag
    · simp [hempty]
    · simp [hflag]
  · exact congrArg Host.Outcome.next (withStoreChange_of_accepted haccepted _)
  · exact congrArg Host.Outcome.next (sealedCommit_of_durable hcroft hcommits hdone hwritable hstage hclean)

/-! ### Retained epochs -/

theorem holdJob_of_admitted {s : State} {c : Nat} {k : Croft} {d : Desc} {j : Job} {keys : List Nat} (hjob : mapGet? k.jobs (stIndex d) = some j)
    (hfault : j.faulted = false) (hkind : j.kind ≤ 1) (hobj : (objOf k.store.openState (stKey d)).any (·.isSet) = false)
    (hrising : ascending keys = true) (hkeys : keys.all (fun x => (objOf k.store.openState x).isSome) = true)
    (hroom : objRoom k.store (stKey d) = true)
    (hholds : k.store.holds.length + pendingHolds k - (if j.holdReq.isSome then 1 else 0) < 64)
    (hepochs : j.holdReq.isSome = true ∨ epochRoom k = true) (hgroup : j.group = none) (hlatest : stEpoch d = epochLatest) (hrun : k.run = none)
    (t : Ticket) :
    let h : HoldReq := ⟨j.id, stAddr d, keys, stFlags d = 4, stKey d, stEpoch d, t⟩
    holdJob s c k t d keys = holdProceed (modJob (dropHold s j) c j.id (fun j => { j with holdReq := some h })) c j.id h := by
  have hroomy : (decide (64 ≤ k.store.holds.length + pendingHolds k - (if j.holdReq.isSome then 1 else 0)) ||
      (j.holdReq.isNone && !epochRoom k)) = false := by
    rw [Bool.or_eq_false_iff]
    refine ⟨decide_eq_false (not_le.2 hholds), ?_⟩
    rcases hepochs with hsome | hroom
    · rw [Option.isNone_eq_false_iff.2 hsome, Bool.false_and]
    · rw [hroom, Bool.not_true, Bool.and_false]
  unfold holdJob
  simp only [hjob]
  rw [if_neg (by simp [hfault, not_lt.2 hkind, hobj, hrising]), if_neg (by rw [hkeys]; decide), if_neg (by simp [hroom]), hroomy, if_neg (by simp),
    if_neg (by simp [hgroup, hlatest]), if_neg (by simp [hgroup, hrun])]

theorem exec_hold {s : State} {f : Fin 33} {ring : Nat} {d : Desc} {c : Nat} {k : Croft} {b : List Byte}
    (h : StoreAccepted s f ring d 0x20 3 (1 + 2 + 4 + 8 + 16) 4 c k) (hcount : stCount d ≠ 0) (hmost : stCount d ≤ 16)
    (hread : hostRead (fetched s f ring d) (stAddr d) (8 * stCount d) = some b) :
    exec (.hold f ring d) s = .next (holdJob (fetched s f ring d) c k (ticketOf s f ring d) d
      ((List.range (stCount d)).map (fun x => leAt b (8 * x) 8))) := by
  refine congrArg Host.Outcome.next ((withStore_of_accepted h _).trans ?_)
  simp [hcount, not_lt.2 hmost, hread]

theorem exec_resume {s : State} {f : Fin 33} {ring : Nat} {d : Desc} {c : Nat} {k : Croft} {x : List Byte}
    (h : StoreAccepted s f ring d 0x21 3 (4 + 8) 0 c k) (hread : hostRead (fetched s f ring d) (stAddr d) 656 = some x)
    (hflag : leAt (sub x 0 128) 9 1 / 16 % 2 = 0) (haddr : leAt (sub x 0 128) 24 8 = 0) :
    exec (.resume f ring d) s = .next (resumeBlock (fetched s f ring d) c k (ticketOf s f ring d) d (sub x 0 128) (sub x 128 528) none) := by
  show execResume f ring d s = _
  rw [execResume, withStore_of_accepted h]
  simp [hread, hflag, haddr, flagRead]

/-- The request that resumes a held job from its record `b`, its header `h` and its state object `o` of epoch `e`. -/
def resumeReq (s : State) (h b : List Byte) (e : Nat) (m : FMap Obj) (o : Obj) : OpenReq :=
  let st := stateBytes s o
  ⟨leAt h 0 4, leAt h 4 4, leAt h 8 1, leAt h 9 1, leAt h 10 2, leAt b 160 8,
    if leAt b 9 1 / 2 % 2 = 1 then some (sub st 0 64) else none, leAt h 16 8, none,
    some ⟨leAt b 6 2, leAt st 64 8,
      (List.range 2048).filterMap (fun n => if leAt st (128 + n) 1 = 0 then none else some (n, leAt st (128 + n) 1)),
      leAt b 176 8, e, m⟩⟩

theorem resumeBlock_of_admitted {s : State} {c : Nat} {k : Croft} {t : Ticket} {d : Desc} {h b : List Byte} {im : Image} {bs : BSet} {e : Nat}
    {m : FMap Obj} {o : Obj} (hrecord : holdRecOk b = true) (hsigned : holdSigned s b = true) (hheader : resumeHdrOk h = true)
    (hlevel : levelAllowed s c (leAt b 6 2) = true) (himage : mapGet? k.images (leAt h 0 4) = some im)
    (hbset : mapGet? k.bsets (leAt h 4 4) = some bs) (hepoch : epochMap k.store (stEpoch d) = some (e, m)) (hdigest : imageDigest im = sub b 32 64)
    (hweights : weightDigest s m ((List.range (leAt b 10 2)).map (fun n => leAt b (200 + 8 * n) 8)) = some (sub b 96 64))
    (hobj : objOf m (leAt b 24 8) = some o) (hgroup : groupAgrees b none = true) :
    resumeBlock s c k t d h b none = openJobReq s c t (resumeReq s h b e m o) := by
  unfold resumeBlock
  dsimp only
  rw [if_neg (by simp [hrecord, hsigned, hheader]), if_neg (by simp [hlevel]), himage, hbset, hepoch]
  dsimp only
  rw [if_neg (by simp [hdigest]), if_neg (by simp [hweights]), hobj]
  dsimp only
  rw [if_neg (by simp [hgroup])]
  rfl

/-- Settles O20: by the checks of each command, in their order. -/
theorem retainedEpochs : Obligations.RetainedEpochs := by
  unfold Obligations.RetainedEpochs
  intro f ring d s c k S T
  refine And.intro (fun e m hepoch => And.intro (fun haccepted hroom => ?_) (And.intro (fun haccepted hold hunheld => ?_)
    fun b haccepted hheld => ?_)) (And.intro ?_ ?_)
  · refine congrArg Host.Outcome.next ((withStoreChange_of_accepted haccepted _).trans ?_)
    simp only [hepoch]
    refine if_neg ?_
    rcases hroom with hsnap | hhold | hroom
    · simp [show e ∈ k.store.snaps by simpa using hsnap]
    · simp [hhold]
    · simp [hroom]
  · refine congrArg Host.Outcome.next ((withStoreChange_of_accepted haccepted _).trans ?_)
    simp only [hepoch]
    exact if_neg (by simp [hold, hunheld])
  · refine congrArg Host.Outcome.next ((withStoreChange_of_accepted haccepted _).trans ?_)
    simp only [hepoch]
    exact if_neg (by simp [hheld])
  · intro b j haccepted hcount hmost hread hjob hfault hkind hobj keys hrising hkeys hroom hholds hepochs hgroup hlatest hrun h
    rw [exec_hold haccepted hcount hmost hread]
    exact congrArg Host.Outcome.next (holdJob_of_admitted hjob hfault hkind hobj hrising hkeys hroom hholds hepochs hgroup hlatest hrun _)
  · intro x im bs e m o haccepted hread h b st hflag haddr hrecord hsigned hheader hlevel himage hbset hepoch hdigest hweights hobj hgroup r hrefusal htrain
    rw [exec_resume haccepted hread hflag haddr, resumeBlock_of_admitted hrecord hsigned hheader hlevel himage hbset hepoch hdigest hweights hobj hgroup]
    obtain ⟨-, hcroft, -⟩ := haccepted
    exact congrArg Host.Outcome.next (openJobReq_of_admitted hcroft hrefusal himage hbset htrain T)

/-! ### Secure deallocation (R329, R330) -/

theorem exec_secdealloc {s : State} {f : Fin 33} {ring : Nat} {d : Desc} {c : Nat} {k : Croft} (h : Accepted s f ring d 0x81 3 c)
    (hcroft : croft? (fetched s f ring d) c = some k) (hfields : stFieldsOk d (1 + 2 + 8 + 16) 1 = true)
    (hwritable : storeReadOnly (fetched s f ring d) k = false) :
    exec (.secdealloc f ring d) s = .next (secdealloc (fetched s f ring d) c (ticketOf s f ring d) k d) := by
  refine congrArg Host.Outcome.next ((withDescriptor_of_accepted h 0x15 _).trans ?_)
  simp [hcroft, hfields, hwritable]

/-- Settles O21: of a key whose segments are found, by whether a PERSIST still names one of them. -/
theorem secureDeallocationOfSegments : Obligations.SecureDeallocationOfSegments := by
  unfold Obligations.SecureDeallocationOfSegments
  intro s
  dsimp only
  refine ⟨fun f ring d c k haccepted hcroft hfields hwritable hobjs hhost => ?_, fun seq x hpower hfind => ?_⟩
  · have hfound : (objsOfKey k (stKey d)).isEmpty = false := by simpa using hobjs
    rw [exec_secdealloc haccepted hcroft hfields hwritable]
    refine ⟨fun hfree => congrArg Host.Outcome.next ?_, fun hnamed => congrArg Host.Outcome.next ?_⟩
    · unfold secdealloc
      simp only [hfound, Bool.false_eq_true, if_false]
      rw [if_neg (by simpa using hhost), if_neg (by rw [show (k.store.persists.any _) = false from hfree]; decide)]
    · unfold secdealloc
      simp only [hfound, Bool.false_eq_true, if_false]
      rw [if_neg (by simpa using hhost), if_pos hnamed]
  · show execSecdeallocEraseDone seq s = _
    rw [execSecdeallocEraseDone, hfind]
    exact congrArg Host.Outcome.next (if_pos hpower)

end Sys2Proof.Machine
end

section
/-! PROOFS of the admin ring's commands: how an accepted command reaches its effect, rings, images, Almanacs, binding sets and exports (R306, R317, R438). -/

namespace Sys2Proof.Machine

open Sys2Proof.Claims

/-! ### From an accepted command to its effect -/

theorem withAdmin_of_accepted {s : State} {f : Fin 33} {d : Desc} {op used minStage : Nat} (h : AdminAccepted s f d op used minStage)
    (effect : State → Nat → Ticket → State) :
    withAdmin s f d op used minStage effect = effect (fetched s f adminRing d) (adCroft d) (ticketOf s f adminRing d) := by
  obtain ⟨hfetch, hidle, hop, hscope, hcroft, henvelope, hunused, hreeve, hstage⟩ := h
  have hbound : (decide (f.val ≠ 0) && decide ((pf1Of s f.val).scope = 0xFF)) = false := by
    rcases hscope with hf | ⟨hc, -⟩
    · simp [hf]
    · simp [hc]
  have hown : (decide (f.val ≠ 0) && decide (adCroft d ≠ (pf1Of s f.val).scope)) = false := by
    rcases hscope with hf | ⟨-, hc⟩
    · simp [hf]
    · simp [hc]
  have hrange : decide (31 < adCroft d) = false := decide_eq_false (not_lt.2 hcroft)
  unfold withAdmin
  rw [hfetch, hidle, hop]
  dsimp only
  rw [hbound, hown, hrange, henvelope, hunused, hreeve, if_neg (by decide), if_neg (by simp), if_neg (by decide), if_neg (by decide),
    if_neg (by decide), if_neg (not_lt.2 hstage)]
  rfl

theorem withAdminCroft_of_accepted {s : State} {f : Fin 33} {d : Desc} {op used minStage : Nat} {k : Croft}
    (h : AdminAccepted s f d op used minStage) (hcroft : croft? (fetched s f adminRing d) (adCroft d) = some k)
    (effect : State → Nat → Ticket → Croft → State) :
    withAdminCroft s f d op used minStage effect = effect (fetched s f adminRing d) (adCroft d) (ticketOf s f adminRing d) k := by
  rw [withAdminCroft, withAdmin_of_accepted h, hcroft]

/-- A fetch changes its function's rings and its croft alone. -/
theorem fetched_only (s : State) (f : Fin 33) (ring : Nat) (d : Desc) : ∃ p k, fetched s f ring d = { s with pf1 := p, crofts := k } :=
  takeTicket_only s f.val ring d

@[simp] theorem fetched_nextHandle (s : State) (f : Fin 33) (ring : Nat) (d : Desc) : (fetched s f ring d).nextHandle = s.nextHandle := by
  obtain ⟨p, k, h⟩ := fetched_only s f ring d
  rw [h]

@[simp] theorem fetched_exports (s : State) (f : Fin 33) (ring : Nat) (d : Desc) : (fetched s f ring d).exports = s.exports := by
  obtain ⟨p, k, h⟩ := fetched_only s f ring d
  rw [h]

/-! ### Rings -/

/-- The fields of a ring that its command names in range: its size, its place and its number. -/
theorem ring_fields {d : Desc} {f : Nat} (hsize : ringSizeOk (bytesAt d 20 4) = true) (hplace : bytesAt d 24 8 % 4096 = 0)
    (hreserved : descZero d 18 19 = true) (hnumber : bytesAt d 16 2 < ringCount f) :
    (!descZero d 18 19 || decide (ringCount f ≤ bytesAt d 16 2) || !ringSizeOk (bytesAt d 20 4) || decide (bytesAt d 24 8 % 4096 ≠ 0)) = false := by
  simp [hsize, hplace, hreserved, hnumber]

theorem makeWRing_of_free {s : State} {f : Nat} {d : Desc} (hfields : (!descZero d 18 19 || decide (ringCount f ≤ bytesAt d 16 2) ||
      !ringSizeOk (bytesAt d 20 4) || decide (bytesAt d 24 8 % 4096 ≠ 0)) = false) (hfree : mapGet? (pf1Of s f).wr (bytesAt d 16 2) = none)
    (hcomp : bytesAt d 32 2 < ringCount f) (hmade : (mapGet? (pf1Of s f).cr (bytesAt d 32 2)).isSome = true) (c : Nat) (t : Ticket) :
    makeWRing s f c t d = done (putPf1 s f { pf1Of s f with
      wr := mapSet (pf1Of s f).wr (bytesAt d 16 2) (newWRing (bytesAt d 20 4) (bytesAt d 24 8) c (bytesAt d 32 2)) }) t 0 := by
  have hmade' : (mapGet? (pf1Of s f).cr (bytesAt d 32 2)).isNone = false := by
    rw [Option.isNone_eq_false_iff]
    exact hmade
  unfold makeWRing
  dsimp only
  rw [hfields, hfree, hmade', if_neg (by decide), if_neg (by simp), if_neg (by simp [hcomp])]

theorem makeCRing_of_free {s : State} {f : Nat} {d : Desc} (hfields : (!descZero d 18 19 || decide (ringCount f ≤ bytesAt d 16 2) ||
      !ringSizeOk (bytesAt d 20 4) || decide (bytesAt d 24 8 % 4096 ≠ 0)) = false) (hfree : mapGet? (pf1Of s f).cr (bytesAt d 16 2) = none)
    (hvector : bytesAt d 32 2 < vectorCount f) (t : Ticket) :
    makeCRing s f t d = done (putPf1 s f { pf1Of s f with
      cr := mapSet (pf1Of s f).cr (bytesAt d 16 2) (newCRing (bytesAt d 20 4) (bytesAt d 24 8) (bytesAt d 32 2) (byteOf d 34) (byteOf d 35)) }) t 0 := by
  unfold makeCRing
  dsimp only
  rw [hfields, hfree, if_neg (by simp [hvector]), if_neg (by simp)]

theorem setEventRing_of_none {s : State} {c : Nat} {k : Croft} {d : Desc} (hreserved : descZero d 20 23 = true) (hsize : bytesAt d 16 4 = 0)
    (f : Nat) (t : Ticket) : setEventRing s f c t k d = done (putCroft s c { k with ering := none }) t 0 := by
  simp [setEventRing, hreserved, hsize]

theorem ringSizeOk_ne_zero {n : Nat} (h : ringSizeOk n = true) : n ≠ 0 := by
  rintro rfl
  revert h
  decide

theorem setEventRing_of_fields {s : State} {c f : Nat} {k : Croft} {d : Desc} (hreserved : descZero d 20 23 = true)
    (hsize : ringSizeOk (bytesAt d 16 4) = true) (hplace : bytesAt d 24 8 % 4096 = 0) (hvector : bytesAt d 32 2 < vectorCount f) (t : Ticket) :
    setEventRing s f c t k d = done (overflowEvent (putCroft s c { k with
      ering := some ⟨f, bytesAt d 16 4, bytesAt d 24 8, bytesAt d 32 2, 0, 0, false⟩ }) c) t 0 := by
  simp [setEventRing, hreserved, hsize, hplace, hvector, ringSizeOk_ne_zero hsize]

/-- Settles O22: each command with its fields in range. -/
theorem adminRingCommands : Obligations.AdminRingCommands := by
  unfold Obligations.AdminRingCommands
  intro f d s S T p n ringOk
  refine ⟨fun haccepted hring hfree hcomp hmade => ?_, fun w haccepted hnumber hring hstays => ?_, fun haccepted hring hfree hvector => ?_,
    fun haccepted hnumber hmade hunused => ?_, fun k haccepted hcroft => ⟨fun hsize hreserved => ?_, fun hsize hplace hreserved hvector => ?_⟩⟩
  · obtain ⟨hsize, hplace, hreserved, hrange⟩ := hring
    exact congrArg Host.Outcome.next ((withAdmin_of_accepted haccepted _).trans
      (makeWRing_of_free (ring_fields hsize hplace hreserved hrange) hfree hcomp hmade _ _))
  · refine congrArg Host.Outcome.next ((withAdmin_of_accepted haccepted _).trans ?_)
    unfold removeWRing
    dsimp only
    rw [if_neg hnumber, show mapGet? (pf1Of (fetched s f adminRing d) f.val).wr (bytesAt d 16 2) = some w from hring]
    exact if_neg (by simp [hstays])
  · obtain ⟨hsize, hplace, hreserved, hrange⟩ := hring
    exact congrArg Host.Outcome.next ((withAdmin_of_accepted haccepted _).trans
      (makeCRing_of_free (ring_fields hsize hplace hreserved hrange) hfree hvector _))
  · have hmade' : (mapGet? (pf1Of (fetched s f adminRing d) f.val).cr (bytesAt d 16 2)).isNone = false := by
      rw [Option.isNone_eq_false_iff]
      exact hmade
    refine congrArg Host.Outcome.next ((withAdmin_of_accepted haccepted _).trans ?_)
    unfold removeCRing
    dsimp only
    rw [hmade', if_neg (by simpa using hnumber)]
    exact if_neg (by rw [show (pf1Of (fetched s f adminRing d) f.val).wr.any _ = false from hunused]; decide)
  · exact congrArg Host.Outcome.next ((withAdminCroft_of_accepted haccepted hcroft _).trans (setEventRing_of_none hreserved hsize _ _))
  · exact congrArg Host.Outcome.next ((withAdminCroft_of_accepted haccepted hcroft _).trans
      (setEventRing_of_fields hreserved hsize hplace hvector _))

/-! ### Images, Almanacs, binding sets and exports -/

/-- Settles O23: each command by its checks, in their order. -/
theorem adminObjectCommands : Obligations.AdminObjectCommands := by
  unfold Obligations.AdminObjectCommands
  intro f d s k hcroft S T c
  refine ⟨fun b haccepted hread hreason hroom => ?_, fun haccepted hmade hidle halmanac => ?_,
    fun haccepted => ⟨fun hrun => ?_, fun im b hrun himage hread hreason => ?_⟩, fun b t haccepted hcount hmost hread hbound => ?_,
    fun haccepted hmade hidle hunexported => ?_, fun b haccepted hbset hkind hflag hpeer hfree => ?_, fun x haccepted hexport howner hunbound => ?_⟩
  · refine congrArg Host.Outcome.next ((withAdminCroft_of_accepted haccepted hcroft _).trans ?_)
    unfold loadImage
    rw [show hostRead (fetched s f adminRing d) (bytesAt d 16 8) (bytesAt d 24 8) = some b from hread]
    dsimp only
    rw [show loadReason (fetched s f adminRing d) (adCroft d) (cellsOf 0 0 b) (bytesAt d 24 8) = none from hreason, fetched_nextHandle]
    exact if_neg (by simpa using hroom)
  · refine congrArg Host.Outcome.next ((withAdminCroft_of_accepted haccepted hcroft _).trans ?_)
    unfold removeImage
    rw [if_neg (by simpa [Option.isSome_iff_ne_none] using hmade), hidle, halmanac]
    rfl
  · refine congrArg Host.Outcome.next ((withAdminCroft_of_accepted haccepted hcroft _).trans ?_)
    exact if_pos hrun
  · refine congrArg Host.Outcome.next ((withAdminCroft_of_accepted haccepted hcroft _).trans ?_)
    refine (if_neg (by simp [hrun])).trans ?_
    unfold ldalmEffect
    rw [hcroft]
    dsimp only
    rw [himage]
    dsimp only
    rw [show hostRead (fetched s f adminRing d) (bytesAt d 16 8) (bytesAt d 24 8) = some b from hread]
    dsimp only
    rw [show almReason (fetched s f adminRing d) (adCroft d) k im b = none from hreason]
  · refine congrArg Host.Outcome.next ((withAdminCroft_of_accepted haccepted hcroft _).trans ?_)
    unfold makeBinding
    dsimp only
    rw [if_neg (by simp [hcount, hmost]), show hostRead (fetched s f adminRing d) (bytesAt d 16 8) (64 * bytesAt d 24 4) = some b from hread]
    dsimp only
    rw [fetched_nextHandle, hbound]
  · refine congrArg Host.Outcome.next ((withAdminCroft_of_accepted haccepted hcroft _).trans ?_)
    unfold removeBinding
    rw [if_neg (by simpa [Option.isSome_iff_ne_none] using hmade), hidle, fetched_exports, hunexported]
    rfl
  · intro x
    refine congrArg Host.Outcome.next ((withAdminCroft_of_accepted haccepted hcroft _).trans ?_)
    unfold makeExport
    dsimp only
    rw [hbset]
    dsimp only
    rw [hkind, if_neg (by simp [hflag]; exact hpeer), fetched_exports, hfree]
    rfl
  · refine congrArg Host.Outcome.next ((withAdminCroft_of_accepted haccepted hcroft _).trans ?_)
    unfold removeExport
    rw [fetched_exports, hexport]
    dsimp only
    rw [if_neg (not_not.2 howner), hunbound]
    unfold dropExport
    rw [fetched_exports]
    rfl

end Sys2Proof.Machine
end

section
/-! PROOFS of the host interface: doorbells, functions started and reset, registers, and the time threshold (R304, R307, R309, R316, R319). -/

namespace Sys2Proof.Machine

@[simp] theorem pf1Of_putPf1_self (s : State) (f : Nat) (p : Pf1) : pf1Of (putPf1 s f p) f = p := by simp [pf1Of, putPf1]

/-! ### Doorbells (R309) -/

theorem exec_workRingTailDoorbell {s : State} (h : pcieUp s = true) (f : Fin 33) (n : Nat) (v : W32) :
    exec (.workRingTailDoorbell f n v) s = .next (tailDoorbell s f.val n (fld v 15 0)) := by
  show execWorkRingTailDoorbell f n v s = _
  rw [execWorkRingTailDoorbell, if_pos h]

theorem exec_completionRingHeadDoorbell {s : State} (h : pcieUp s = true) (f : Fin 33) (n : Nat) (v : W32) :
    exec (.completionRingHeadDoorbell f n v) s = .next (compDoorbell s f.val n (fld v 15 0)) := by
  show execCompletionRingHeadDoorbell f n v s = _
  rw [execCompletionRingHeadDoorbell, if_pos h]

theorem exec_eventRingHeadDoorbell {s : State} (h : pcieUp s = true) (f : Fin 33) (c : Fin 32) (v : W32) :
    exec (.eventRingHeadDoorbell f c v) s = .next (eventDoorbell s f.val c.val (fld v 15 0)) := by
  show execEventRingHeadDoorbell f c v s = _
  rw [execEventRingHeadDoorbell, if_pos h]

theorem tailDoorbell_of_ring {s : State} {f n : Nat} {w : WRing} (hen : (pf1Of s f).en = true) (hring : mapGet? (pf1Of s f).wr n = some w) (x : Nat) :
    tailDoorbell s f n x =
      if w.size ≤ x then ringError (putPf1 s f { pf1Of s f with wr := mapSet (pf1Of s f).wr n { w with error := true } }) f w.croft n 0
      else putPf1 s f { pf1Of s f with wr := mapSet (pf1Of s f).wr n { w with tail := x } } := by
  simp [tailDoorbell, hring, hen]

theorem compDoorbell_of_ring {s : State} {f n : Nat} {r : CRing} (hen : (pf1Of s f).en = true) (hring : mapGet? (pf1Of s f).cr n = some r) (x : Nat) :
    compDoorbell s f n x =
      if r.size ≤ x then ringError (putPf1 s f { pf1Of s f with cr := mapSet (pf1Of s f).cr n { r with error := true } }) f (compCroft (pf1Of s f) n) n 1
      else putPf1 s f { pf1Of s f with cr := mapSet (pf1Of s f).cr n { r with head := x } } := by
  simp [compDoorbell, hring, hen]

theorem eventDoorbell_of_ring {s : State} {f c : Nat} {k : Croft} {e : ERing} (hen : (pf1Of s f).en = true) (hcroft : croft? s c = some k)
    (hring : k.ering = some e) (hfn : e.fn = f) (x : Nat) :
    eventDoorbell s f c x = if e.size ≤ x then ringError (putCroft s c { k with ering := some { e with error := true } }) f c c 2
      else overflowEvent (putCroft s c { k with ering := some { e with head := x } }) c := by
  simp [eventDoorbell, hcroft, hring, hfn, hen]

/-- Settles O24: a doorbell moves its index below the ring's size, and puts the ring into ring-error from there on. -/
theorem doorbellsMoveRings : Obligations.DoorbellsMoveRings := by
  unfold Obligations.DoorbellsMoveRings
  intro f n c v s hup hen
  rw [exec_workRingTailDoorbell hup, exec_completionRingHeadDoorbell hup, exec_eventRingHeadDoorbell hup]
  refine ⟨fun w hring => ?_, fun r hring => ?_, fun k e hcroft hring hfn => ?_⟩
  · rw [tailDoorbell_of_ring hen hring]
    exact ⟨fun hlt => by rw [if_neg (not_le.2 hlt)], fun hle => by rw [if_pos hle]⟩
  · rw [compDoorbell_of_ring hen hring]
    exact ⟨fun hlt => by rw [if_neg (not_le.2 hlt)], fun hle => by rw [if_pos hle]⟩
  · rw [eventDoorbell_of_ring hen hcroft hring hfn]
    exact ⟨fun hlt => by rw [if_neg (not_le.2 hlt)], fun hle => by rw [if_pos hle]⟩

/-! ### Functions started and reset (R307, R319) -/

theorem enableFn_of_rings {s : State} {f : Nat} {r : WRing × CRing} (hen : (pf1Of s f).en = false) (hfatal : (pf1Of s f).fatal = false)
    (hrings : adminRings (pf1Of s f) = some r) :
    enableFn s f = putPf1 s f { pf1Of s f with en := true, wr := [(0xFFFF, r.1)], cr := [(0xFFFF, r.2)] } := by
  simp [enableFn, hen, hfatal, hrings]

theorem pf1Of_resetPf1 (s : State) (f : Nat) :
    pf1Of (resetPf1 s f) f = { pf1Reset with scope := boundCroft s f, nextOrd := (pf1Of (dropFunction s f) f).nextOrd } :=
  pf1Of_putPf1_self _ _ _

/-- Settles O25: each event by its own operation on the function. -/
theorem functionsStartAndReset : Obligations.FunctionsStartAndReset := by
  unfold Obligations.FunctionsStartAndReset
  intro f s hup
  refine ⟨fun r hen hfatal hrings => ?_, fun hen => ?_, ⟨resetPf1 s f.val, ?_, pf1Of_resetPf1 s f.val⟩, ?_, fun port => ?_⟩
  · show execCtrlEnSet f s = _
    rw [execCtrlEnSet, if_pos hup, enableFn_of_rings hen hfatal hrings]
  · show execCtrlEnClear f s = _
    rw [execCtrlEnClear, if_pos (by rw [hup, hen]; rfl)]
  · show execPf1Flr f s = _
    rw [execPf1Flr, if_pos hup]
  · show execPf0Flr f s = _
    rw [execPf0Flr, if_pos hup]
  · show execHotReset port s = _
    rw [execHotReset, if_pos hup]

/-! ### Register writes -/

theorem exec_registerWrite_bar {s : State} (h : pcieUp s = true) (f : Fin 33) (offset width : Nat) (v : W64) :
    exec (.registerWrite (.bar f) offset width v) s = .next (barWrite s f.val offset width v.toNat) := by
  show execRegisterWrite (.bar f) offset width v s = _
  simp only [execRegisterWrite, h]
  rfl

theorem exec_registerWrite_msix {s : State} (h : pcieUp s = true) (f : Fin 33) (offset width : Nat) (v : W64) :
    exec (.registerWrite (.msix f) offset width v) s = .next (msixWrite s f.val offset width v.toNat) := by
  show execRegisterWrite (.msix f) offset width v s = _
  simp only [execRegisterWrite, h]
  rfl

theorem exec_registerWrite_nvme {s : State} (h : pcieUp s = true) (k : Fin 33) (offset width : Nat) (v : W64) :
    exec (.registerWrite (.nvme k) offset width v) s = .next (nvmeRegWrite s k.val offset width v.toNat) := by
  show execRegisterWrite (.nvme k) offset width v s = _
  simp only [execRegisterWrite, h]
  rfl

theorem exec_registerWrite_reeve {s : State} (h : alive s = true) (offset width : Nat) (v : W64) :
    exec (.registerWrite .reeve offset width v) s = .next (reeveWrite s offset width v.toNat) := by
  show execRegisterWrite .reeve offset width v s = _
  simp only [execRegisterWrite, h]
  rfl

/-- The two halves of an address register written one after the other are the value written. -/
theorem putHalf_both (x v : W64) : putHalf (putHalf x false (v.toNat % 2 ^ 32)) true (v.toNat / 2 ^ 32) = v := by
  have hv : v.toNat < 2 ^ 64 := v.isLt
  have hx : x.toNat < 2 ^ 64 := x.isLt
  apply BitVec.eq_of_toNat_eq
  simp only [putHalf, Bool.false_eq_true, if_false, if_true, BitVec.toNat_ofNat]
  omega

theorem awq_barWrite (s : State) (f : Nat) (v : W64) : (pf1Of (barWrite s f 0x18 8 v.toNat) f).awq = v := by
  simpa [barWrite, barWord] using putHalf_both (pf1Of s f).awq v

theorem acq_barWrite (s : State) (f : Nat) (v : W64) : (pf1Of (barWrite s f 0x20 8 v.toNat) f).acq = v := by
  simpa [barWrite, barWord] using putHalf_both (pf1Of s f).acq v

theorem msixWrite_mask {s : State} {f n v : Nat} (hvector : n < vectorCount f) (hodd : v % 2 = 1) :
    msixWrite s f (16 * n + 12) 4 v = putPf1 s f { pf1Of s f with masked := setIns (pf1Of s f).masked n } := by
  have halign : (16 * n + 12) % 4 = 0 := by omega
  have hnumber : (16 * n + 12) / 16 = n := by omega
  have hfield : (16 * n + 12) % 16 = 12 := by omega
  have hlow : v % 2 ^ 32 % 2 = 1 := by omega
  unfold msixWrite
  rw [if_pos (by simp [halign])]
  unfold msixWord
  dsimp only
  rw [hnumber, if_neg (not_le.2 hvector), if_pos hfield, if_pos hlow]

/-- Settles O26: each register by its offset. -/
theorem registerWritesTakeEffect : Obligations.RegisterWritesTakeEffect := by
  unfold Obligations.RegisterWritesTakeEffect
  intro f v s
  refine ⟨fun hup => ⟨?_, ?_, ⟨_, exec_registerWrite_bar hup f _ _ v, awq_barWrite s f.val v⟩, ⟨_, exec_registerWrite_bar hup f _ _ v, acq_barWrite s f.val v⟩,
    ?_, ?_, ?_, fun n hvector hodd => ?_, fun n hmasked => ?_⟩, fun halive o hrange halign => ?_⟩
  · rw [exec_registerWrite_bar hup]
    rfl
  · rw [exec_registerWrite_bar hup]
    rfl
  · rw [exec_registerWrite_nvme hup]
    rfl
  · rw [exec_registerWrite_nvme hup]
    simp [nvmeRegWrite]
  · rw [exec_registerWrite_nvme hup]
    simp [nvmeRegWrite]
  · rw [exec_registerWrite_msix hup, msixWrite_mask hvector hodd]
  · show execMsixUnmask f n s = _
    rw [execMsixUnmask, if_pos (by rw [hup, hmasked]; rfl)]
  · rw [exec_registerWrite_reeve halive]
    simp [reeveWrite, hrange, halign]

/-! ### The time threshold of a completion ring (R316) -/

theorem interrupt_only (s : State) (f v : Nat) : ∃ p, interrupt s f v = putPf1 s f p ∧ p.cr = (pf1Of s f).cr ∧
    ((pf1Of s f).masked.contains v = false → mapGet p.interrupts v 0 = mapGet (pf1Of s f).interrupts v 0 + 1) ∧
    ((pf1Of s f).masked.contains v = true → v ∈ p.pba) := by
  unfold interrupt
  dsimp only
  by_cases hmask : (pf1Of s f).masked.contains v = true
  · rw [if_pos hmask]
    exact ⟨_, rfl, rfl, fun h => absurd hmask (by rw [h]; decide), fun _ => mem_setIns_self _ _⟩
  · rw [if_neg hmask]
    exact ⟨_, rfl, rfl, fun _ => by simp, fun h => absurd h hmask⟩

/-- Settles O27: the ring's vector is signalled or left pending, and the ring counts anew. -/
theorem timeThresholdSignalsTheRing : Obligations.TimeThresholdSignalsTheRing := by
  unfold Obligations.TimeThresholdSignalsTheRing
  intro f n x s hup hring htime hcount
  obtain ⟨p, hstate, hcr, hsent, hpending⟩ := interrupt_only
    (putPf1 s f.val { pf1Of s f.val with cr := mapSet (pf1Of s f.val).cr n { x with unsignalled := 0 } }) f.val x.vector
  rw [pf1Of_putPf1_self] at hcr hsent hpending
  have hexec : exec (.interruptTimeThreshold f (.completion n)) s = .next (putPf1 (putPf1 s f.val
      { pf1Of s f.val with cr := mapSet (pf1Of s f.val).cr n { x with unsignalled := 0 } }) f.val p) := by
    rw [← hstate]
    show execInterruptTimeThreshold f (.completion n) s = _
    simp [execInterruptTimeThreshold, hring, hup, htime, hcount]
  refine ⟨_, hexec, ?_, ?_, ?_, rfl⟩
  · rw [pf1Of_putPf1_self, hcr, mapGet?_mapSet, if_pos rfl]
  · rw [pf1Of_putPf1_self]
    exact hsent
  · rw [pf1Of_putPf1_self]
    exact hpending

end Sys2Proof.Machine
end

section
/-! PROOFS of the NVMe controllers: start and reset, how an accepted command reaches its effect, queues, information, management, format and sanitize, and sectors (R320 to R330). -/

namespace Sys2Proof.Machine

open Sys2Proof.Claims

/-! ### Start and reset (R320, R322) -/

@[simp] theorem nvmeOf_putNvme_self (s : State) (k : Nat) (x : Nvme) : nvmeOf (putNvme s k x) k = x := by simp [nvmeOf, putNvme]

theorem enableNvme_of_disabled {s : State} {k : Nat} (h : (nvmeOf s k).en = false) :
    enableNvme s k = putNvme s k { adminQueues (nvmeOf s k) with en := true, rdy := 2 ≤ s.power.stage } := by
  simp [enableNvme, h]

/-- A reset controller holds what outlives a reset alone. -/
theorem nvmeOf_resetNvme (s : State) (k : Nat) : nvmeOf (resetNvme s k) k = nvmeKept (nvmeOf s k) := nvmeOf_putNvme_self s k _

theorem nvmeOf_clearNvme (s : State) (k : Nat) : nvmeOf (clearNvme s k) k =
    { nvmeKept (nvmeOf s k) with aqa := (nvmeOf s k).aqa, asq := (nvmeOf s k).asq, acq := (nvmeOf s k).acq } := by
  rw [← nvmeOf_resetNvme]
  exact nvmeOf_putNvme_self ..

/-- Settles O28: by the operation that CC.EN starts. -/
theorem nvmeControllersStartAndReset : Obligations.NvmeControllersStartAndReset := by
  unfold Obligations.NvmeControllersStartAndReset
  intro k s hup
  refine ⟨fun hen => ?_, fun hen => ?_⟩
  · have hexec : exec (.ccEnSet k) s = .next (putNvme s k.val { adminQueues (nvmeOf s k.val) with en := true, rdy := 2 ≤ s.power.stage }) := by
      show execCcEnSet k s = _
      rw [execCcEnSet, if_pos hup, enableNvme_of_disabled hen]
    refine ⟨_, hexec, rfl, ?_⟩
    rw [nvmeOf_putNvme_self]
    exact ⟨rfl, decide_eq_true_iff, rfl, rfl⟩
  · have hexec : exec (.ccEnClear k) s = .next (clearNvme s k.val) := by
      show execCcEnClear k s = _
      rw [execCcEnClear, if_pos (by rw [hup, hen]; rfl)]
    refine ⟨_, hexec, ?_⟩
    rw [nvmeOf_clearNvme]
    exact ⟨rfl, rfl, rfl, rfl, rfl, rfl, rfl⟩

/-! ### From an accepted command to its effect -/

theorem withNvme_of_accepted {s : State} {k : Fin 33} {q : Nat} {e : Desc} {op : Nat} (h : NvmeAccepted s k q e op)
    (effect : State → NTicket → State) : withNvme s k q e op effect = effect (taken s k q e) (nticketOf s k q e) := by
  obtain ⟨htakes, hop, hgate⟩ := h
  unfold withNvme
  rw [htakes, hop]
  dsimp only
  rw [hgate, if_neg (by decide), if_neg (not_not.2 rfl), if_neg (by decide), if_neg (by decide)]
  rfl

theorem withIo_of_accepted {s : State} {k : Fin 33} {q : Nat} {e : Desc} {op : Nat} (hq : q ≠ 0) (h : NvmeAccepted s k q e op)
    (effect : State → NTicket → State) : withIo s k q e op effect = effect (taken s k q e) (nticketOf s k q e) := by
  rw [withIo, if_neg hq, withNvme_of_accepted h]

/-- Data that can be delivered is, and its command completes. -/
theorem dataOut_of_delivers {s : State} {e : Desc} {b : List Byte} {l : List (Nat × Nat)} (h : Delivers s e b.length l) (t : NTicket) (dw0 : Nat) :
    dataOut s t e b dw0 = nvmeDone (writePieces s l b) t dw0 := by
  obtain ⟨hpieces, hwritable⟩ := h
  rw [dataOut, hpieces]
  exact if_pos hwritable

theorem isNone_of_isSome {α : Type} {o : Option α} (h : o.isSome = true) : o.isNone = false := Option.isNone_eq_false_iff.2 h

/-! ### Queues -/

/-- Settles O29: each command with its fields in range. -/
theorem nvmeQueueCommands : Obligations.NvmeQueueCommands := by
  unfold Obligations.NvmeQueueCommands
  intro k e s S T x
  refine ⟨fun haccepted hfields hvector => ?_, fun haccepted hfields hcq hmade => ?_, fun haccepted hid hmade => ?_,
    fun haccepted hid hmade hunused => ?_⟩
  · refine congrArg Host.Outcome.next ((withNvme_of_accepted haccepted _).trans ?_)
    dsimp only
    rw [if_neg (not_not.2 hfields), if_neg (not_le.2 hvector)]
  · refine congrArg Host.Outcome.next ((withNvme_of_accepted haccepted _).trans ?_)
    dsimp only
    rw [if_neg (not_not.2 hfields), isNone_of_isSome hmade, if_neg (by simp [hcq])]
  · refine congrArg Host.Outcome.next ((withNvme_of_accepted haccepted _).trans ?_)
    dsimp only
    rw [isNone_of_isSome hmade, if_neg (by simp [hid])]
  · refine congrArg Host.Outcome.next ((withNvme_of_accepted haccepted _).trans ?_)
    dsimp only
    rw [isNone_of_isSome hmade, if_neg (by simp [hid]), hunused]
    rfl

/-! ### Information -/

/-- Settles O30: each command's answer. -/
theorem nvmeInformationCommands : Obligations.NvmeInformationCommands := by
  unfold Obligations.NvmeInformationCommands
  intro k e s S T x
  refine ⟨fun b l haccepted hpage => ?_, fun b l haccepted hdata hdelivers => ?_, fun haccepted hasked hid => ?_,
    fun haccepted hvalue hsave hfeature => ?_, fun haccepted hfeature hselect => ?_, fun haccepted => ⟨fun dw0 l hevents => ?_, fun hevents hroom => ?_⟩⟩
  · intro n s1 hdelivers
    refine congrArg Host.Outcome.next ((withNvme_of_accepted haccepted _).trans ?_)
    dsimp only
    rw [show logPage (taken s k 0 e) k.val (cdw e 10 % 256) = some b from hpage]
    exact dataOut_of_delivers hdelivers _ _
  · refine congrArg Host.Outcome.next ((withNvme_of_accepted haccepted _).trans ?_)
    rw [show identifyData (taken s k 0 e) k.val e = .ok b from hdata]
    exact dataOut_of_delivers hdelivers _ _
  · refine congrArg Host.Outcome.next ((withNvme_of_accepted haccepted _).trans ?_)
    dsimp only
    rw [show (nvmeOf (taken s k 0 e) k.val).aers.contains (cdw e 10 / 65536) = true from hasked, if_pos (by simp [hid])]
  · refine congrArg Host.Outcome.next ((withNvme_of_accepted haccepted _).trans ?_)
    dsimp only
    rw [if_neg (not_not.2 hvalue), if_neg (by omega), if_neg hfeature]
  · refine congrArg Host.Outcome.next ((withNvme_of_accepted haccepted _).trans ?_)
    dsimp only
    rw [hfeature, hselect, if_neg (by decide), if_pos rfl]
  · refine congrArg Host.Outcome.next ((withNvme_of_accepted haccepted _).trans ?_)
    dsimp only
    rw [show (nvmeOf (taken s k 0 e) k.val).aens = dw0 :: l from hevents]
  · refine congrArg Host.Outcome.next ((withNvme_of_accepted haccepted _).trans ?_)
    dsimp only
    rw [show (nvmeOf (taken s k 0 e) k.val).aens = [] from hevents]
    exact if_neg (not_le.2 hroom)

/-! ### Namespaces and firmware (R324, R326) -/

theorem nsCreate_of_free {s : State} {n : Nat} (h : freeNsid s = some n) (t : NTicket) (size : Nat) :
    nsCreate s t size = nvmeDone (odSave { s with
      namespaces := mapSet s.namespaces n ⟨size, none, s.sec.nextKey, 0xFF, [], [], []⟩
      sec := { s.sec with keys := setIns s.sec.keys s.sec.nextKey, nextKey := s.sec.nextKey + 1 } }) t n := by
  rw [nsCreate, h]

theorem nsManage_create {s : State} {e : Desc} {b : List Byte} (hselect : cdw e 10 % 16 = 0) (hcsi : cdw e 11 / 2 ^ 24 = 0)
    (hdata : dataIn s e 4096 = .ok b) (hsize : leAt b 0 8 ≠ 0) (hdps : leAt b 29 1 = 0) (hnmic : leAt b 30 1 % 2 = 0) (hcap : leAt b 8 8 = leAt b 0 8)
    (hformat : leAt b 26 1 = 0) (hroom : poolUsed s + 4096 * leAt b 0 8 ≤ userPool) (t : NTicket) : nsManage s t e = nsCreate s t (leAt b 0 8) := by
  unfold nsManage
  dsimp only
  rw [if_pos hselect, if_neg (not_not.2 hcsi), hdata]
  dsimp only
  rw [if_neg (by simp [hsize, hdps, hnmic]), if_neg (not_not.2 hcap), if_neg (not_not.2 hformat), if_neg (not_lt.2 hroom)]

theorem nsManage_delete {s : State} {e : Desc} (hselect : cdw e 10 % 16 = 1) (hlow : 1 ≤ sqNsid e) (hhigh : sqNsid e ≤ 256)
    (hmade : (nsOf s (sqNsid e)).isSome = true) (t : NTicket) : nsManage s t e = nvmeDone (nsGone s (sqNsid e)) t 0 := by
  unfold nsManage
  dsimp only
  rw [if_neg (by omega), if_pos hselect, if_neg (by omega), if_neg (by simp; omega), isNone_of_isSome hmade]
  rfl

theorem nsAttachment_attach {s : State} {e : Desc} {n : Namespace} {b : List Byte} {m : Nat} (hlow : 1 ≤ sqNsid e) (hhigh : sqNsid e ≤ 256)
    (hns : nsOf s (sqNsid e) = some n) (hdata : dataIn s e 4096 = .ok b) (hselect : cdw e 10 % 16 = 0) (hfree : n.ctrl = none)
    (hnamed : ctrlsNamed b = .ok [m]) (t : NTicket) : nsAttachment s t e = nvmeDone (nsAttach s (sqNsid e) n m) t 0 := by
  unfold nsAttachment
  rw [if_neg (by simp; omega), hns]
  dsimp only
  rw [hdata]
  dsimp only
  rw [hnamed]
  dsimp only
  rw [if_pos hselect, hfree]

theorem nsAttachment_detach {s : State} {e : Desc} {n : Namespace} {b : List Byte} {l : List Nat} (hlow : 1 ≤ sqNsid e) (hhigh : sqNsid e ≤ 256)
    (hns : nsOf s (sqNsid e) = some n) (hdata : dataIn s e 4096 = .ok b) (hselect : cdw e 10 % 16 = 1) (hnamed : ctrlsNamed b = .ok l)
    (hattached : l.all (fun m => n.ctrl = some m) = true) (t : NTicket) : nsAttachment s t e = nvmeDone
      { s with namespaces := mapSet s.namespaces (sqNsid e) { n with ctrl := none, owner := 0xFF } } t 0 := by
  unfold nsAttachment
  rw [if_neg (by simp; omega), hns]
  dsimp only
  rw [hdata]
  dsimp only
  rw [hnamed]
  dsimp only
  rw [if_neg (by omega), if_pos hselect, if_pos hattached]

theorem fwDownload_of_piece {s : State} {k : Nat} {e : Desc} {b : List Byte} (hlength : 4 * (cdw e 10 + 1) % 4096 = 0)
    (hplace : 4 * cdw e 11 % 4096 = 0) (hend : 4 * cdw e 11 + 4 * (cdw e 10 + 1) ≤ 8388608) (hmost : 4 * (cdw e 10 + 1) ≤ 262144)
    (hdata : dataIn s e (4 * (cdw e 10 + 1)) = .ok b) (t : NTicket) :
    fwDownload s k t e = nvmeDone (putNvme s k { nvmeOf s k with
      staging := memPutL 0 (memClear (nvmeOf s k).staging (4 * cdw e 11) (4 * (cdw e 10 + 1))) (4 * cdw e 11) b }) t 0 := by
  unfold fwDownload
  dsimp only
  rw [if_neg (by simp only [Bool.or_eq_true, decide_eq_true_eq, not_or]; omega), hdata]

/-- With no commit under way there is nothing to finish. -/
theorem commitFinish_of_idle {s : State} (h : s.sec.commit = none) : commitFinish s = s := by
  have hadvance : commitAdvance s = s := by simp [commitAdvance, h]
  simp [commitFinish, hadvance]

theorem commitOn_activate {s : State} {path slot : Nat} (hidle : s.sec.commit = none) (hslot : slot = 1 ∨ slot = 2) (hsound : slotSound s slot = true)
    (hfilled : (slotOf s slot).activation ≠ none ∨ (slotOf s slot).fw ≠ []) (reply : Option NTicket) :
    commitOn s path slot 2 reply = commitDone (activateSlot s slot) path reply 0 := by
  have hempty : ((slotOf s slot).activation.isNone && (slotOf s slot).fw.isEmpty) = false := by
    rw [Bool.and_eq_false_iff]
    exact hfilled.imp (fun h => by simpa [Option.isSome_iff_ne_none] using h) fun h => by simpa using h
  unfold commitOn
  dsimp only
  rw [commitFinish_of_idle hidle, if_neg (by decide), if_neg (by simp; omega), if_pos rfl, hempty, hsound]
  rfl

/-- Settles O31: by the checks of each command, in their order. -/
theorem nvmeManagementCommands : Obligations.NvmeManagementCommands := by
  unfold Obligations.NvmeManagementCommands
  intro k e s S T
  refine ⟨fun b n haccepted hselect hcsi hdata hsize hdps hnmic hcap hformat hroom hfree => ?_, fun haccepted hselect hlow hhigh hmade => ?_,
    fun n b haccepted hlow hhigh hns hdata => ⟨fun m hselect hfree hnamed => ?_, fun l hselect hnamed hattached => ?_⟩,
    fun b haccepted => ?_, fun haccepted => ?_, fun slot haccepted hidle hslot hnumber haction hsound hfilled => ?_⟩
  · exact congrArg Host.Outcome.next ((withNvme_of_accepted haccepted _).trans
      ((nsManage_create hselect hcsi hdata hsize hdps hnmic hcap hformat hroom _).trans (nsCreate_of_free hfree _ _)))
  · exact congrArg Host.Outcome.next ((withNvme_of_accepted haccepted _).trans (nsManage_delete hselect hlow hhigh hmade _))
  · exact congrArg Host.Outcome.next ((withNvme_of_accepted haccepted _).trans (nsAttachment_attach hlow hhigh hns hdata hselect hfree hnamed _))
  · exact congrArg Host.Outcome.next ((withNvme_of_accepted haccepted _).trans
      (nsAttachment_detach hlow hhigh hns hdata hselect hnamed hattached _))
  · intro n o hlength hplace hend hmost hdata
    exact congrArg Host.Outcome.next ((withNvme_of_accepted haccepted _).trans (fwDownload_of_piece hlength hplace hend hmost hdata _))
  · exact congrArg Host.Outcome.next (withNvme_of_accepted haccepted _)
  · refine congrArg Host.Outcome.next ((withNvme_of_accepted haccepted _).trans ?_)
    have hpath : k.val ≠ 33 := by omega
    rw [hnumber, haction, commitOn_activate hidle hslot hsound hfilled, commitDone, if_neg hpath]
    rfl

/-! ### Format and sanitize (R325, R327) -/

theorem formatNs_of_admitted {s : State} {k : Nat} {e : Desc} {n : Namespace} (hlow : 1 ≤ sqNsid e) (hhigh : sqNsid e ≤ 256)
    (hns : nsOf s (sqNsid e) = some n) (hformat : cdw e 10 % 16 = 0) (hfields : cdw e 10 / 16 % 32 = 0) (hsettings : cdw e 10 / 512 % 8 ≤ 2)
    (hwritable : s.mediaReadOnly = false) (t : NTicket) :
    formatNs s k t e = if cdw e 10 / 512 % 8 = 1 then deallocSectors s k (sqNsid e) (allMapped s (sqNsid e) n) false true t
      else if cdw e 10 / 512 % 8 = 2 then nvmeDone (wipeNs (odSave (odSave (newNsKey s (sqNsid e)))) (sqNsid e) n) t 0
      else nvmeDone (wipeNs s (sqNsid e) n) t 0 := by
  unfold formatNs
  dsimp only
  rw [if_neg (by omega), if_neg (by simp; omega), hns]
  dsimp only
  rw [if_neg (not_not.2 hformat), if_neg (by simp only [Bool.or_eq_true, decide_eq_true_eq, not_or]; omega), if_neg (by simp [hwritable])]

theorem sanitizeCmd_of_idle {s : State} {e : Desc} (hidle : s.sanitize.running = false) (hkeep : cdw e 10 / 512 % 2 = 0) (t : NTicket) :
    sanitizeCmd s t e = if cdw e 10 % 8 = 1 then nvmeDone { s with sanitize := { s.sanitize with failed := false } } t 0
      else if cdw e 10 % 8 = 2 then (if s.mediaReadOnly then nvmeFail s t ncWriteProtected else nvmeDone (sanitizeStart s 2) t 0)
      else if cdw e 10 % 8 = 4 then nvmeDone (sanitizeStart s 4) t 0
      else nvmeFail s t ncInvalidField := by
  unfold sanitizeCmd
  dsimp only
  rw [if_neg (by simp [hidle]), if_neg (by omega)]

/-- Settles O32: by the erase setting and by the sanitize action. -/
theorem formatAndSanitize : Obligations.FormatAndSanitize := by
  unfold Obligations.FormatAndSanitize
  intro k e s S T
  refine ⟨fun n haccepted hlow hhigh hns hformat hfields hwritable => ?_, fun haccepted hidle hkeep => ?_⟩
  · have hformatted (hsettings : cdw e 10 / 512 % 8 ≤ 2) : exec (.formatNvm k e) s = .next _ := congrArg Host.Outcome.next
      ((withNvme_of_accepted haccepted _).trans (formatNs_of_admitted hlow hhigh hns hformat hfields hsettings hwritable _))
    refine ⟨fun h => ?_, fun h => ?_, fun h => ?_⟩
    · rw [hformatted (by omega), if_neg (by omega), if_neg (by omega)]
    · rw [hformatted (by omega), if_pos h]
    · rw [hformatted (by omega), if_neg (by omega), if_pos h]
  · have hsanitized : exec (.sanitize k e) s = .next _ := congrArg Host.Outcome.next
      ((withNvme_of_accepted haccepted _).trans (sanitizeCmd_of_idle hidle hkeep _))
    rw [hsanitized]
    refine ⟨fun h => ?_, fun h hwritable => ?_, fun h => ?_⟩
    · rw [if_pos h]
    · rw [if_neg (by omega), if_pos h, if_neg (by simpa using hwritable)]
    · rw [if_neg (by omega), if_neg (by omega), if_pos h]

/-! ### Changes of sectors (R322, R323, R329) -/

/-- Settles O34: by the checks of each command, in their order. -/
theorem nvmeChangesOfSectors : Obligations.NvmeChangesOfSectors := by
  unfold Obligations.NvmeChangesOfSectors
  intro k q e s n hq S T hwritable
  refine ⟨fun b haccepted hrange hdata => ?_, fun haccepted hrange => ?_, fun b hns => ?_⟩
  · refine congrArg Host.Outcome.next ((withIo_of_accepted hq haccepted _).trans ?_)
    unfold writeSectors
    rw [show ioRange (taken s k q e) k.val e maxBlocks = .ok n from hrange]
    dsimp only
    rw [if_neg (by simpa using hwritable), show dataIn (taken s k q e) e (4096 * ioBlocks e) = .ok b from hdata]
  · have hzeroed : exec (.writeZeroes k q e) s = .next (if cdw e 12 / 2 ^ 25 % 2 = 1 then deallocateSectors S T (sqNsid e) (ioSectors e)
        else changeSectors (countHostBytes S (4096 * ioBlocks e)) T (sqNsid e) false ((ioSectors e).map (fun n => (n, List.replicate 4096 0)))) := by
      refine congrArg Host.Outcome.next ((withIo_of_accepted hq haccepted _).trans ?_)
      unfold zeroSectors
      rw [show ioRange (taken s k q e) k.val e 65536 = .ok n from hrange]
      exact if_neg (by simpa using hwritable)
    rw [hzeroed]
    exact ⟨fun h => by rw [if_pos h], fun h => by rw [if_neg (by omega)]⟩
  · intro r hdata hranges
    refine ⟨fun haccepted hdeallocate => ?_, fun haccepted hfields hzero => ?_⟩
    · refine congrArg Host.Outcome.next ((withIo_of_accepted hq haccepted _).trans ?_)
      unfold datasetManagement
      rw [show nsNamed (taken s k q e) k.val (sqNsid e) = .ok n from hns]
      dsimp only
      rw [show dataIn (taken s k q e) e (16 * (cdw e 10 % 256 + 1)) = .ok b from hdata]
      dsimp only
      rw [if_neg (by simpa using hranges), if_neg (by omega), if_neg (by simpa using hwritable)]
    · refine congrArg Host.Outcome.next ((withIo_of_accepted hq haccepted _).trans ?_)
      unfold secureDealloc
      rw [show nsNamed (taken s k q e) k.val (sqNsid e) = .ok n from hns]
      dsimp only
      rw [hzero, if_neg (by simpa using hfields), if_neg (by simpa using hwritable),
        show dataIn (taken s k q e) e (16 * (cdw e 10 % 256 + 1)) = .ok b from hdata]
      exact if_neg (by simpa using hranges)

end Sys2Proof.Machine
end

section
/-! PROOFS of the NVMe reads of sectors: a buffered sector shorter than a sector parts the count of a Read from what is delivered. -/

namespace Sys2Proof.Machine

open Sys2Proof.Claims

/-! ### A sector buffered with no bytes -/

/-- A namespace of 8 sectors attached to controller 0. -/
def eightSectors : Namespace := ⟨8, some 0, 1, 0xFF, [], [], []⟩

/-- A module at full service whose controller 0 holds namespace 1, its sector 7 in a protected buffer that holds no bytes for it, and a host that faults on the page at 0x1000. -/
def emptySector : State :=
  { State.reset with
    perst := false, linkUp := true, power := { powerReset with stage := 3 }
    host := ⟨[], [(0x1000, 4096)], []⟩
    nvme := [(0, { nvmeReset with
      en := true, rdy := true, sq := [(0, ⟨16, 0x8000, 0, 0⟩), (1, ⟨16, 0x9000, 1, 0⟩)]
      cq := [(0, ⟨16, 0xA000, 0, 0, true⟩), (1, ⟨16, 0xB000, 0, 1, true⟩)] })]
    namespaces := [(1, eightSectors)]
    packages := [(0, { packageNew with progs := [⟨[], .nsData, 0, true, 0, false, [(1, 7, [])]⟩] })] }

/-- Read of that sector into the page at 0x1000. -/
def readEmptySector : Desc := 2 + 1 <<< 32 + 0x1000 <<< 192 + 7 <<< 320

/-- How many Reads controller 0 counts. -/
def readsOf (s : State) : Nat := (nvmeOf s 0).reads

/-- How many Reads controller 0 counts after a command. -/
def readsAfter (o : Out) : Option Nat :=
  match o with
  | .next s => some (readsOf s)
  | _ => none

/-- The Read is accepted, its sector is found in the buffer, and the 0 bytes of it can be delivered. -/
theorem readEmptySector_accepted : NvmeAccepted emptySector 0 1 readEmptySector 0x02 := by
  refine ⟨?_, ?_, ?_⟩ <;> decide +kernel

theorem readEmptySector_found : (ioSectors readEmptySector).find? (sectorBad (taken emptySector 0 1 readEmptySector) (sqNsid readEmptySector)) = none ∧
    ioRange (taken emptySector 0 1 readEmptySector) 0 readEmptySector maxBlocks = .ok eightSectors := by
  constructor <;> decide +kernel

/-- The state as the Read counts. -/
def readCountedState : State :=
  countRead512 (nvmeCount (taken emptySector 0 1 readEmptySector) 0 0x0C (4096 * (ioSectors readEmptySector).length)) 0 (ioSectors readEmptySector).length

/-- The bytes of the sector. -/
def emptyBytes : List Byte := (ioSectors readEmptySector).flatMap (sectorBytes (taken emptySector 0 1 readEmptySector) (sqNsid readEmptySector))

theorem readEmptySector_delivers : Delivers readCountedState readEmptySector emptyBytes.length [(0x1000, 0)] := by
  constructor <;> decide +kernel

/-- The completion the statement claims counts the Read. -/
theorem readsOf_claimed : readsOf (nvmeDone (writePieces readCountedState [(0x1000, 0)] emptyBytes) (nticketOf emptySector 0 1 readEmptySector) 0) = 1 := by
  decide +kernel

/-- The command of 0 bytes to a page that faults is delivered, and is not counted: 4,096 bytes would not have fitted. -/
theorem readsAfter_readEmptySector : readsAfter (exec (.nvmeRead 0 1 readEmptySector) emptySector) = some 0 := by decide +kernel

/-- Refutes O33: a protected buffer may hold fewer bytes of a sector than 4,096; where those can be delivered and 4,096 could not, Read delivers them and completes, but counts nothing. -/
theorem not_nvmeReadsOfSectors : ¬ Obligations.NvmeReadsOfSectors := by
  unfold Obligations.NvmeReadsOfSectors
  intro h
  obtain ⟨-, hsectors⟩ := h 0 1 readEmptySector emptySector (by decide)
  obtain ⟨hfound, hrange⟩ := readEmptySector_found
  obtain ⟨hread, -⟩ := hsectors eightSectors hfound
  have hclaim := hread [(0x1000, 0)] readEmptySector_accepted hrange readEmptySector_delivers
  have hcounts := readsAfter_readEmptySector
  rw [hclaim] at hcounts
  exact absurd (readsOf_claimed.symm.trans (Option.some.inj hcounts)) (by decide)

end Sys2Proof.Machine
end

section
/-! PROOFS of the dictionary's services: sessions, reads, writes, notifications, its own events, authorisation and attestation (R393 to R402, R454). -/

namespace Sys2Proof.Machine

open Sys2Proof.Claims

/-! ### The service a request of a session reaches -/

theorem rqSvc_of_taken {s : State} {r : OdReq} {svc : Nat} {n : Session} (h : OdTaken s r svc n) : rqSvc r.pdu = svc := by
  obtain ⟨⟨⟨-, -, -, hsvc, -⟩, -⟩, -⟩ := h
  exact hsvc

/-! ### Sessions (R393, R414) -/

theorem odOpenRun_of_free {s : State} {t src sid : Nat} {b : List Byte} (hperiod : periodOk (leNat (rqData b)) = true)
    (hfree : sessionNumber s = some sid) :
    odOpenRun s t src b = odAnswer (cvAlive { sessionGone s sid with
      sessions := mapSet (sessionGone s sid).sessions sid (sessionNew s t src b) } 0 (rqAlive b + (sid - 1) * 65536 + 2 ^ 20))
      sid (rqHeader b) 0 0 0 (leBytes 2 sid) := by
  simp [odOpenRun, hperiod, hfree]

/-- Settles O35: by the runs of the two services. -/
theorem sessionsOpenAndClose : Obligations.SessionsOpenAndClose := by
  unfold Obligations.SessionsOpenAndClose
  intro r s b S
  refine ⟨fun sid hheard hperiod hfree => ?_, fun n htaken => ?_⟩
  · refine (odRow_of_heard hheard (by decide)).trans (congrArg Host.Outcome.next ?_)
    obtain ⟨-, -, -, hsvc, -⟩ := hheard
    rw [odRequest, if_pos hsvc]
    exact odOpenRun_of_free hperiod hfree
  · refine (odRow_of_taken htaken (by decide) (by decide) (by decide)).trans (congrArg Host.Outcome.next ?_)
    rw [odService, rqSvc_of_taken htaken]
    rfl

/-! ### Reads (R396, R397) -/

theorem frozenValue_of_start (s : State) (sid key : Nat) : frozenValue s sid key 0 = none := by
  unfold frozenValue
  split <;> simp

theorem odSegment_of_fetched {s t : State} {sid off n : Nat} {b : List Byte} {e : OdEntry} {v : List Byte}
    (hfrozen : frozenValue s sid (rqKey b) off = none) (hfetch : odFetch s sid e (rqIndex b) (rqSub b) = (0, v, t)) (hoff : off < v.length) :
    odSegment s sid b e off n = odAnswer
      { t with sessions := mapMod t.sessions sid (fun x => { x with frozen := some (rqKey b, off, v) }) } sid (rqHeader b) 0
      (if v.length ≤ off + n then 1 else 0) e.ty ((v.drop off).take n) := by
  simp [odSegment, hfrozen, hfetch, segmentAnswer, hoff]

theorem odReadRun_of_entry {s : State} {b : List Byte} {e : OdEntry} (hbar : readBar (rqIndex b) (rqSub b) = 0)
    (hentry : odFind (rqIndex b) (rqSub b) = some e) (sid : Nat) :
    odReadRun s sid b = if odIsBytes e.ty then odSegment s sid b e 0 1024
      else odAnswer (odFetch s sid e (rqIndex b) (rqSub b)).2.2 sid (rqHeader b) (odFetch s sid e (rqIndex b) (rqSub b)).1 0 e.ty
        (odFetch s sid e (rqIndex b) (rqSub b)).2.1 := by
  simp [odReadRun, hbar, hentry]

theorem odReadSegmentRun_of_entry {s : State} {b : List Byte} {e : OdEntry} (hbar : readBar (rqIndex b) (rqSub b) = 0)
    (hentry : odFind (rqIndex b) (rqSub b) = some e) (hbytes : odIsBytes e.ty = true) (sid : Nat) :
    odReadSegmentRun s sid b = odSegment s sid b e (rqOffset b) (rqLength b) := by
  simp [odReadSegmentRun, hbar, hentry, hbytes]

/-- Settles O36: of an entry that may be read and whose value is fetched. -/
theorem dictionaryReads : Obligations.DictionaryReads := by
  unfold Obligations.DictionaryReads
  intro r s n e v t b sid hbar hentry hfetch
  refine ⟨fun htaken hscalar => ?_, fun htaken hbytes hlong => ?_, fun htaken hbytes hfrozen hlong => ?_⟩
  · refine (odRow_of_taken htaken (by decide) (by decide) (by decide)).trans (congrArg Host.Outcome.next ?_)
    rw [odService, rqSvc_of_taken htaken]
    exact (odReadRun_of_entry hbar hentry sid).trans (by rw [hscalar, hfetch]; rfl)
  · refine (odRow_of_taken htaken (by decide) (by decide) (by decide)).trans (congrArg Host.Outcome.next ?_)
    rw [odService, rqSvc_of_taken htaken]
    refine (odReadRun_of_entry hbar hentry sid).trans ((if_pos hbytes).trans ?_)
    rw [odSegment_of_fetched (frozenValue_of_start _ _ _) hfetch hlong, Nat.zero_add, List.drop_zero]
  · refine (odRow_of_taken htaken (by decide) (by decide) (by decide)).trans (congrArg Host.Outcome.next ?_)
    rw [odService, rqSvc_of_taken htaken]
    exact (odReadSegmentRun_of_entry hbar hentry hbytes sid).trans (odSegment_of_fetched hfrozen hfetch hlong)

/-! ### Writes (R395, R398) -/

theorem odWriteRun_of_value {s : State} {sid t : Nat} {b : List Byte} {e : OdEntry} (hbar : writeBar s sid t (rqIndex b) (rqSub b) = 0)
    (hentry : odFind (rqIndex b) (rqSub b) = some e) (hvalue : valueBar s e (rqIndex b) (rqSub b) (rqType b) (rqData b) = 0) :
    odWriteRun s sid t b = scalarWrite s sid (rqHeader b) e (rqIndex b) (rqSub b) (leNat (rqData b)) [] := by
  simp [odWriteRun, hbar, hentry, hvalue]

theorem compareRun_of_equal {s : State} {sid : Nat} {b : List Byte} {e : OdEntry} (haccess : e.acc ≠ 1) (hscalar : odIsBytes e.ty = false)
    (htype : rqType b = e.ty) (hlength : (rqData b).length = 2 * odTyLen e.ty)
    (hfound : (rqData b).take (odTyLen e.ty) = leBytes (odTyLen e.ty) (odScalar s sid (rqIndex b) (rqSub b)))
    (hvalue : valueBar s e (rqIndex b) (rqSub b) (rqType b) ((rqData b).drop (odTyLen e.ty)) = 0) :
    compareRun s sid b e = scalarWrite s sid (rqHeader b) e (rqIndex b) (rqSub b) (leNat ((rqData b).drop (odTyLen e.ty)))
      (leBytes (odTyLen e.ty) (odScalar s sid (rqIndex b) (rqSub b))) := by
  unfold compareRun
  dsimp only
  rw [if_neg haccess, if_neg (by simp [hscalar, htype, hlength]), if_neg (not_not.2 hfound), if_neg (not_not.2 hvalue)]

theorem odCompareRun_of_entry {s : State} {sid t : Nat} {b : List Byte} {e : OdEntry} (hbar : writeBar s sid t (rqIndex b) (rqSub b) = 0)
    (hentry : odFind (rqIndex b) (rqSub b) = some e) : odCompareRun s sid t b = compareRun s sid b e := by
  simp [odCompareRun, hbar, hentry]

theorem odWriteSegmentRun_of_segment {s : State} {sid t : Nat} {b : List Byte} {e : OdEntry} (hbar : writeBar s sid t (rqIndex b) (rqSub b) = 0)
    (hentry : odFind (rqIndex b) (rqSub b) = some e) (hsegment : segmentBar s sid b e = 0) :
    odWriteSegmentRun s sid t b = placeSegment s sid b e := by
  simp [odWriteSegmentRun, hbar, hentry, hsegment]

theorem placeSegment_of_not_final {b : List Byte} (h : rqFlags b % 2 = 0) (s : State) (sid : Nat) (e : OdEntry) :
    placeSegment s sid b e = odAnswer { s with staging := some { stagingOf s sid (rqKey b) with
      bytes := memPutL 0 (stagingOf s sid (rqKey b)).bytes (rqOffset b) (rqData b)
      spans := (stagingOf s sid (rqKey b)).spans ++ [(rqOffset b, rqOffset b + (rqData b).length)] } } sid (rqHeader b) 0 0 e.ty [] := by
  unfold placeSegment
  dsimp only
  rw [if_neg (by omega)]

/-- Settles O37: of an entry that may be written. -/
theorem dictionaryWrites : Obligations.DictionaryWrites := by
  unfold Obligations.DictionaryWrites
  intro r s n e b sid A hbar hentry
  refine ⟨fun htaken hvalue => ?_, ?_, fun htaken hsegment hmore => ?_⟩
  · refine (odRow_of_taken htaken (by decide) (by decide) (by decide)).trans (congrArg Host.Outcome.next ?_)
    rw [odService, rqSvc_of_taken htaken]
    exact odWriteRun_of_value hbar hentry hvalue
  · intro w found htaken haccess hscalar htype hlength hfound hvalue
    refine (odRow_of_taken htaken (by decide) (by decide) (by decide)).trans (congrArg Host.Outcome.next ?_)
    rw [odService, rqSvc_of_taken htaken]
    exact (odCompareRun_of_entry hbar hentry).trans (compareRun_of_equal haccess hscalar htype hlength hfound hvalue)
  · refine (odRow_of_taken htaken (by decide) (by decide) (by decide)).trans (congrArg Host.Outcome.next ?_)
    rw [odService, rqSvc_of_taken htaken]
    exact (odWriteSegmentRun_of_segment hbar hentry hsegment).trans (placeSegment_of_not_final hmore A sid e)

/-! ### Notifications (R399, R400) -/

theorem odRow_notifyAck {s : State} {r : OdReq} {n : Session} (h : OdSession s r 9 n) :
    odRow 9 r s = .next (notifyDrop (odDrainAll s) (rqSession r.pdu) (rqAlive r.pdu)) := by
  obtain ⟨hheard, hsession, htransport, hsource⟩ := h
  obtain ⟨-, -, -, hsvc, -⟩ := id hheard
  rw [odRow_of_heard hheard (by decide)]
  simp [odRequest, hsvc, hsession, htransport, hsource, odAckRun]

theorem notifyAgain_of_few {x : Notify} (h : x.resends < 5) (s : State) (sid : Nat) (n : Session) :
    notifyAgain s sid n x = transmit { s with sessions := mapSet s.sessions sid { n with
      unacked := n.unacked.map (fun y => if y.seq = x.seq then { y with resends := y.resends + 1 } else y) } } n.transport
      (pdu 8 0 0 sid x.seq 0 0 0 0 x.entry) := by
  rw [notifyAgain, if_neg (not_le.2 h)]

/-- Settles O38: by the runs of the two services, and of a resend that is not the last. -/
theorem notifications : Obligations.Notifications := by
  unfold Obligations.Notifications
  refine fun s => ⟨fun r n => ⟨fun htaken => ?_, fun hsession => odRow_notifyAck hsession⟩, fun se seq n x halive hreeve hsession hfound htries => ?_⟩
  · refine (odRow_of_taken htaken (by decide) (by decide) (by decide)).trans (congrArg Host.Outcome.next ?_)
    rw [odService, rqSvc_of_taken htaken]
    rfl
  · show execNotifyResend se seq s = _
    rw [execNotifyResend, hsession]
    dsimp only
    rw [hfound]
    dsimp only
    rw [if_pos (by rw [halive, hreeve]; rfl), notifyAgain_of_few htries]

/-! ### What the clock and the dictionary's own commands do -/

theorem restoreBar_of_free {s : State} (hconflict : s.dictConflict = false) (hcrofts : s.crofts = []) : restoreBar s = 0 := by
  simp [restoreBar, hconflict, hcrofts]

/-- Settles O39: each event in a state that admits it. -/
theorem dictionaryEvents : Obligations.DictionaryEvents := by
  unfold Obligations.DictionaryEvents
  refine fun s => ⟨fun se n halive hreeve hsession hperiod => ?_, fun halive hreeve => ?_, fun hup => ?_, fun hup hconflict => ?_,
    fun hup hconflict hcrofts => ?_⟩
  · show execSessionSupervisionExpiry se s = _
    simp [execSessionSupervisionExpiry, hsession, halive, hreeve, hperiod]
  · show execStagingBufferTimeout s = _
    simp [execStagingBufferTimeout, halive, hreeve]
  · show execDictionarySave s = _
    rw [execDictionarySave, if_pos hup]
  · show execSaveNow s = _
    simp [execSaveNow, hup, hconflict]
  · show execRestoreDefaults s = _
    simp [execRestoreDefaults, hup, restoreBar_of_free hconflict hcrofts]

/-! ### Authorisation, attestation and port settings (R454, R455) -/

theorem onSession_of_open {s : State} {se : Fin 16} {n : Session} (hup : odUp s = true) (hsession : mapGet? s.sessions (se.val + 1) = some n)
    (f : Nat → State) : onSession se s f = .next (f (se.val + 1)) := by
  simp [onSession, hup, hsession]

theorem recordWrite_of_sound {s : State} {sid : Nat} {n : Session} {b : List Byte} (hsession : mapGet? s.sessions sid = some n)
    (hrecord : recordOk s n b = true) :
    (recordWrite s sid b).2 = { s with sessions := mapSet s.sessions sid { n with scope := leAt b 552 4, authNonce := [] } } := by
  simp [recordWrite, hsession, hrecord]

theorem reportFor_of_nonce {s : State} {sid : Nat} {n : Session} (hsession : mapGet? s.sessions sid = some n) (hnonce : n.attNonce ≠ []) :
    reportFor s sid = (0, attReport s n.attNonce) := by
  simp [reportFor, hsession, hnonce]

theorem sub_whole {b : List Byte} {n : Nat} (h : b.length = n) : sub b 0 n = b := by
  simp [sub, ← h]

/-- Settles O42: of a session that is open. -/
theorem authorisationAndAttestation : Obligations.AuthorisationAndAttestation := by
  unfold Obligations.AuthorisationAndAttestation
  intro se s n hup hsession sid
  refine ⟨?_, fun b hrecord => ?_, ⟨{ s with sessions := mapMod s.sessions sid (fun n => { n with scope := 0 }) }, ?_, by simp [sid, hsession], rfl⟩,
    fun b hlength => ⟨nonceWrite s sid b, ?_, by simp [nonceWrite, hsession, sid, sub_whole hlength], rfl⟩, fun hnonce => ?_,
    fun p item v hconflict hitem => ?_⟩
  · show execAuthorisationNonceRead se s = _
    rw [execAuthorisationNonceRead, onSession_of_open hup hsession]
  · show execAuthorisationRecord se b s = _
    rw [execAuthorisationRecord, onSession_of_open hup hsession, recordWrite_of_sound hsession hrecord]
  · show execAuthorisationExpiry se s = _
    rw [execAuthorisationExpiry, onSession_of_open hup hsession]
  · show execAttestationNonce se b s = _
    rw [execAttestationNonce, onSession_of_open hup hsession, if_pos hlength]
  · show execAttestationReport se s = _
    rw [execAttestationReport, onSession_of_open hup hsession, reportFor_of_nonce hsession hnonce]
  · show execKamlinPortConfig p item v s = _
    simp [execKamlinPortConfig, hup, hconflict, hitem]

end Sys2Proof.Machine
end

section
/-! PROOFS of the Reeve's registers and of what the reset state holds (R406, R408, R413 to R415). -/

namespace Sys2Proof.Machine

/-! ### The watchdog's service pair (R415) -/

theorem exec_watchdogService {s : State} (halive : alive s = true) (hup : s.reeveUp = true) (v : W32) :
    exec (.watchdogService v) s = .next (watchdogKey s v.toNat) := by
  show execWatchdogService v s = _
  rw [execWatchdogService, if_pos (by rw [halive, hup]; rfl)]

theorem watchdogKey_first {s : State} {v : Nat} (hhalf : s.watchdog.half = false) (hkey : v % 65536 = 0x5A5A) :
    watchdogKey s v = { s with watchdog := { s.watchdog with half := true } } := by
  simp [watchdogKey, hhalf, hkey]

/-- The second key: it reloads the watchdog from the window's opening on, and restarts the Reeve before it. -/
theorem watchdogKey_second {s : State} {v : Nat} (hhalf : s.watchdog.half = true) (hkey : v % 65536 = 0xA5A5) :
    watchdogKey s v = if watchdogWindow s ≤ unitsSince s then { s with watchdog := { s.watchdog with half := false, served := clock s } }
      else reeveRestart s 0 s.slotId := by
  simp [watchdogKey, hhalf, hkey]

/-! ### The code flash's unlock and commands (R408) -/

theorem exec_fkey {s : State} (h : alive s = true) (v : W32) : exec (.fkey v) s = .next (flashKey s v.toNat) := by
  show execFkey v s = _
  rw [execFkey, if_pos h]

theorem exec_fcmdWrite {s : State} (h : alive s = true) (v : W32) : exec (.fcmdWrite v) s = .next (flashCmd s v.toNat) := by
  show execFcmdWrite v s = _
  rw [execFcmdWrite, if_pos h]

theorem exec_flashErase {s : State} (h : alive s = true) (hcmd : s.flash.fcmd = 2) (v : W32) :
    exec (.flashErase v) s = .next (flashAddr s v.toNat) := by
  show execFlashErase v s = _
  rw [execFlashErase, if_pos (by simp [h, hcmd])]

theorem exec_flashBlankCheck {s : State} (h : alive s = true) (hcmd : s.flash.fcmd = 3) (v : W32) :
    exec (.flashBlankCheck v) s = .next (flashAddr s v.toNat) := by
  show execFlashBlankCheck v s = _
  rw [execFlashBlankCheck, if_pos (by simp [h, hcmd])]

section Idle
variable {s : State} (hidle : fsHas s fsBusy = false)
include hidle

theorem flashKey_first (hkey : fsHas s fsKeyErr = false) (hlock : s.flash.lock = 0) :
    flashKey s 0x0F1E2D3C = { s with flash := { s.flash with lock := 1 } } := by
  simp [flashKey, hidle, hkey, hlock]

theorem flashKey_second (hkey : fsHas s fsKeyErr = false) (hlock : s.flash.lock = 1) (v : Nat) :
    flashKey s v = if v = 0xC3D2E1F0 then { s with flash := { s.flash with lock := 2 } } else flashRefuse s fsKeyErr := by
  simp [flashKey, hidle, hkey, hlock]

theorem flashCmd_of_unlocked (hlock : s.flash.lock = 2) {v : Nat} (hlow : 1 ≤ v % 16) (hhigh : v % 16 ≤ 3) :
    flashCmd s v = { s with flash := { s.flash with lock := 3, fcmd := v % 16 } } := by
  simp [flashCmd, hidle, hlock, hlow, hhigh]

theorem flashCmd_of_locked (hlock : s.flash.lock < 2) (v : Nat) : flashCmd s v = flashRefuse s fsKeyErr := by
  simp [flashCmd, hidle, hlock]

theorem flashHigh_of_prot (hlock : s.flash.lock = 5) (hprot : sectorProt s (sectorOf s.flash.faddr) = true) (v : Nat) :
    flashHigh s v = flashRefuse { s with flash := { s.flash with dhi := v } } fsProt := by
  simp [flashHigh, hidle, hlock, hprot]

theorem flashHigh_of_erased (hlock : s.flash.lock = 5) (hprot : sectorProt s (sectorOf s.flash.faddr) = false)
    (hword : wordErased s s.flash.faddr = true) (v : Nat) : flashHigh s v = flashStart { s with flash := { s.flash with dhi := v } } := by
  simp [flashHigh, hidle, hlock, hprot, hword]

/-- The address of an erase or a blank check over a sector that is not protected starts it. -/
theorem flashAddr_starts {v : Nat} (hlock : s.flash.lock = 3) (hcmd : s.flash.fcmd ≠ 1) (hprot : sectorProt s (sectorOf (v % 2 ^ 21)) = false) :
    flashAddr s v = flashStart { s with flash := { s.flash with faddr := v % 2 ^ 21 } } := by
  simp only [flashAddr, hidle, hlock, flashCommand, hprot]
  simp [hcmd]

end Idle

theorem flashFinish_lock_of_busy {s : State} (hbusy : fsHas s fsBusy = true) : (flashFinish s).flash.lock = 0 := by
  simp [flashFinish, hbusy, flashLock]

/-! ### The check-value units (R413, R414) -/

theorem exec_cvctlInit {s : State} (h : alive s = true) (n : Fin 3) {v : W32} (hinit : v.toNat % 2 = 1) :
    exec (.cvctlInit n v) s = .next (cvControl s n.val v.toNat) := by
  show execCvctlInit n v s = _
  rw [execCvctlInit, if_pos (by simp [h, hinit])]

theorem exec_cvctlFin {s : State} (h : alive s = true) (n : Fin 3) {v : W32} (hfin : v.toNat / 2 % 2 = 1) :
    exec (.cvctlFin n v) s = .next (cvControl s n.val v.toNat) := by
  show execCvctlFin n v s = _
  rw [execCvctlFin, if_pos (by simp [h, hfin])]

/-- INIT without FIN: the running value starts afresh and the status is cleared. -/
theorem cvControl_init (s : State) (n : Nat) {v : Nat} (hinit : v % 2 = 1) (hfin : v / 2 % 2 = 0) :
    cvControl s n v = putUnit s n { unitOf s n with ctl := v % 16 / 4 * 4, value := cvInit n, stat := 0 } := by
  simp [cvControl, hinit, hfin]

theorem cvFinish_of_no_compare {s : State} {n : Nat} (h : (unitOf s n).ctl / 4 % 2 = 0) : cvFinish s n = s := by
  simp [cvFinish, h]

@[simp] theorem unitOf_putUnit_self (s : State) (n : Nat) (u : CheckUnit) : unitOf (putUnit s n u) n = u := by simp [unitOf, putUnit]

/-- FIN without CMPEN and without INIT: only the control bits change. -/
theorem cvControl_fin (s : State) (n : Nat) {v : Nat} (hinit : v % 2 = 0) (hfin : v / 2 % 2 = 1) (hcmp : v % 16 / 4 * 4 / 4 % 2 = 0) :
    cvControl s n v = putUnit s n { unitOf s n with ctl := v % 16 / 4 * 4 } := by
  simp only [cvControl, hinit, hfin, if_true, zero_ne_one, if_false]
  exact cvFinish_of_no_compare (by rw [unitOf_putUnit_self]; exact hcmp)

/-- Settles O55: each write by the rule of its register, in the state of the unlock, of the watchdog and of the unit. -/
theorem reeveRegisters : Obligations.ReeveRegisters := by
  unfold Obligations.ReeveRegisters
  intro s halive
  refine ⟨fun cause x => ⟨_, ?_, rfl⟩, ?_, fun v hup => ?_, fun hfree => ?_, fun hbusy => ?_, fun n v => ?_⟩
  · show execReeveRestart cause x s = _
    rw [execReeveRestart, if_pos halive]
  · show execWatchdogTimeout s = _
    rw [execWatchdogTimeout, if_pos halive]
  · rw [exec_watchdogService halive hup]
    refine ⟨fun hhalf hkey => ?_, fun hhalf hkey hwin => ?_, fun hhalf hkey hwin => ?_⟩
    · rw [watchdogKey_first hhalf hkey]
    · rw [watchdogKey_second hhalf hkey, if_pos hwin]
    · rw [watchdogKey_second hhalf hkey, if_neg (not_le.2 hwin)]
  · have hidle : fsHas s fsBusy = false := by simp [fsHas, fsBusy, hfree]
    have hclear : s.flash.fstat / 4 % 2 = 0 → fsHas s fsKeyErr = false := fun h => by simp [fsHas, fsKeyErr, h]
    refine ⟨fun hkey hlock => ?_, fun hkey hlock => ?_, fun v hkey hlock hv => ?_, fun v hlock hlow hhigh => ?_, fun v hlock => ?_,
      fun v hlock hprot hword => ?_, fun v hlock hprot => ?_, fun v hlock hprot => ⟨fun hcmd => ?_, fun hcmd => ?_⟩⟩
    · rw [exec_fkey halive]
      exact congrArg Host.Outcome.next (flashKey_first hidle (hclear hkey) hlock)
    · rw [exec_fkey halive, flashKey_second hidle (hclear hkey) hlock, if_pos (by decide)]
    · rw [exec_fkey halive, flashKey_second hidle (hclear hkey) hlock, if_neg hv]
      rfl
    · rw [exec_fcmdWrite halive, flashCmd_of_unlocked hidle hlock hlow hhigh]
    · rw [exec_fcmdWrite halive, flashCmd_of_locked hidle hlock]
      rfl
    · rw [exec_flashProgram_of_alive halive, flashHigh_of_erased hidle hlock hprot hword]
      rfl
    · rw [exec_flashProgram_of_alive halive, flashHigh_of_prot hidle hlock hprot]
      rfl
    · rw [exec_flashErase halive hcmd, flashAddr_starts hidle hlock (by rw [hcmd]; decide) hprot]
      rfl
    · rw [exec_flashBlankCheck halive hcmd, flashAddr_starts hidle hlock (by rw [hcmd]; decide) hprot]
      rfl
  · have hrun : fsHas s fsBusy = true := by simp [fsHas, fsBusy, hbusy]
    refine ⟨_, exec_flashOperationDone_of_alive halive, flashFinish_lock_of_busy hrun, fun hcmd => ?_, fun hcmd => ?_⟩
    · rw [flashFinish_fstat_of_busy hrun, flashFinish_bytes_of_busy hrun, flashEffect, if_pos hcmd]
      exact ⟨rfl, rfl⟩
    · rw [flashFinish_bytes_of_busy hrun, flashEffect_of_erase hcmd, sectorErase_bytes]
  · refine ⟨fun hv => ?_, fun hv => ?_, fun w => ?_, fun hv => ?_⟩
    · rw [exec_cvctlInit halive n (by omega), cvControl_init s n.val (by omega) (by omega)]
      rfl
    · rw [exec_cvctlFin halive n (by omega), cvControl_fin s n.val (by omega) (by omega) (by omega)]
      rfl
    · show execCvdata n w v s = _
      rw [execCvdata, if_pos halive]
      rfl
    · show execCvalive n v s = _
      rw [execCvalive, if_pos halive, cvAlive, if_pos (by simp [hv])]
      rfl

/-! ### The reset state (R406, R435) -/

theorem odGet_reset {ix sub : Nat} {e : OdEntry} (h : odFind ix sub = some e) : odGet State.reset ix sub = e.dflt := by
  simp only [odGet, h, show State.reset.od = [] from rfl, List.lookup_nil]

theorem unitOf_reset (n : Nat) : unitOf State.reset n = unitReset n := rfl

/-- The reset value of every unit reads 0: the value of unit 0 is what its final xor takes to 0. -/
theorem cvResult_unitReset (n : Nat) : cvResult n (unitReset n) = 0 := by
  by_cases hn : n = 0
  · subst hn; decide
  · simp [cvResult, unitReset, hn]

/-- Settles O58: each part of the reset state as it is written, the dictionary's entries through their table. -/
theorem whatPowerOnLeaves : Obligations.WhatPowerOnLeaves := by
  unfold Obligations.WhatPowerOnLeaves
  refine ⟨rfl, rfl, rfl, rfl, rfl, rfl, rfl, fun ix sub e h => odGet_reset h, rfl, rfl, rfl, rfl, rfl, rfl, fun n => ?_, rfl, fun n => rfl⟩
  rw [unitOf_reset]
  exact ⟨rfl, rfl, rfl, cvResult_unitReset n⟩

end Sys2Proof.Machine
end

section
/-! PROOFS of the SPDM responder (R451 to R453) and of the MCTP control commands (R400, R401). -/

namespace Sys2Proof.Machine

/-! ### SPDM -/

/-- A message of the row's own code, on a mailbox that is up, reaches the row's answer. -/
theorem spdmRow_of_heard {s : State} {m : List Byte} {code : Nat} (h : Claims.SpdmHeard s m code) (hcode : spdmCodes.contains code = true)
    (f : Fin 2) (go : State) : spdmRow code f m s go = .next go := by
  obtain ⟨hod, hpcie, hlen, hm⟩ := h
  rw [spdmRow, if_neg (by simp [hod, hpcie]; omega), if_neg (by rw [hm, hcode]; decide), if_neg (not_not.2 hm)]

/-- A request of version 1.2 once the algorithms are agreed. -/
theorem spdmAfter_of_negotiated {s : State} {f : Nat} {m : List Byte} (hver : leAt m 0 1 = 0x12) (hphase : (spdmOf s f).phase = 3) (go : State) :
    spdmAfter s f m go = go := by
  rw [spdmAfter, if_neg (not_not.2 hver), if_neg (not_not.2 hphase)]

theorem spdmAfter_of_early {s : State} {f : Nat} {m : List Byte} (hver : leAt m 0 1 = 0x12) (hphase : (spdmOf s f).phase ≠ 3) (go : State) :
    spdmAfter s f m go = spdmError s f spdmUnexpected 0 := by
  rw [spdmAfter, if_neg (not_not.2 hver), if_pos hphase]

theorem leAt_one_spdmHead (code p1 p2 : Nat) (b : List Byte) : leAt (spdmHead code p1 p2 ++ b) 1 1 = code % 256 := by
  simp [leAt, sub, spdmHead, leNat]

/-- A free value of `n` bytes leaves the state but for its counter. -/
theorem freshBytes_eq (n : Nat) (s : State) :
    (freshBytes n s).1.length = n ∧ (freshBytes n s).2 = { s with freeCtr := s.freeCtr + n } := by
  induction n generalizing s with
  | zero => exact ⟨rfl, rfl⟩
  | succ n ih =>
    obtain ⟨hlen, hst⟩ := ih (fresh s).2
    refine ⟨by rw [freshBytes, List.length_cons, hlen], ?_⟩
    rw [freshBytes, hst]
    simp [fresh, Nat.add_assoc, Nat.add_comm 1 n]

/-- Measurements asked for as a count, unsigned: the number of blocks, no block, and a nonce. -/
theorem spdmMeasurements_count {s : State} {f : Nat} {m : List Byte} (hsign : leAt m 2 1 % 2 = 0) (hop : leAt m 3 1 = 0) :
    spdmMeasurements s f m =
      (let b := spdmHead 0x60 6 0 ++ [0, 0, 0, 0] ++ (freshBytes 32 s).1 ++ [0, 0]
       spdmSend { s with freeCtr := s.freeCtr + 32 } f { spdmOf s f with meas := (spdmOf s f).meas ++ m ++ b } b) := by
  have hblocks : spdmBlocks s 0 = [] := if_pos rfl
  simp only [spdmMeasurements, hop, hsign, hblocks, List.flatten_nil, List.length_nil, List.append_nil, if_true]
  rw [if_neg (by simp), if_neg (by simp), (freshBytes_eq 32 s).2]
  rfl

/-- Settles O48: each request by its row, its phase and its own answer. -/
theorem spdmRequests : Obligations.SpdmRequests := by
  unfold Obligations.SpdmRequests
  intro f m s x answer
  refine ⟨fun hheard => ?_, fun hheard hver hphase => ?_, fun hheard hver hphase hbase hmeas => ?_,
    fun hver hphase => ⟨fun hheard => ?_, fun hheard hslot hoff => ?_, fun hheard hslot hlen hsum => ?_, fun hheard hsign hop => ?_⟩,
    fun hver hphase hheard => ?_⟩
  · exact spdmRow_of_heard hheard (by decide) f _
  · refine ⟨_, ?_, leAt_one_spdmHead 0x61 0 0 ([0, Config.spdmExponent, 0, 0] ++ leBytes 4 0x16 ++ leBytes 8 Config.spdmSizes.toNat)⟩
    show execGetCapabilities f m s = _
    rw [execGetCapabilities, spdmRow_of_heard hheard (by decide), if_pos hver, spdmGetCapabilities, if_neg (not_not.2 hphase)]
    rfl
  · refine ⟨_, ?_, leAt_one_spdmHead 0x63 0 0 (leBytes 2 36 ++ [if leAt m 6 1 % 2 = 1 then 1 else 0, 0] ++ leBytes 4 1 ++
      leBytes 4 0x800 ++ leBytes 4 0x20 ++ List.replicate 12 0 ++ [0, 0, 0, 0])⟩
    show execNegotiateAlgorithms f m s = _
    rw [execNegotiateAlgorithms, spdmRow_of_heard hheard (by decide), if_pos hver, spdmAlgorithms, if_neg (not_not.2 hphase),
      if_neg (by simp only [hbase, hmeas]; decide)]
    rfl
  · show execGetDigests f m s = _
    rw [execGetDigests, spdmRow_of_heard hheard (by decide), spdmAfter_of_negotiated hver hphase]
    rfl
  · show execGetCertificate f m s = _
    rw [execGetCertificate, spdmRow_of_heard hheard (by decide), spdmAfter_of_negotiated hver hphase]
  · show execChallenge f m s = _
    rw [execChallenge, spdmRow_of_heard hheard (by decide), spdmAfter_of_negotiated hver hphase]
  · refine ⟨(freshBytes 32 s).1, (freshBytes_eq 32 s).1, ?_⟩
    show execGetMeasurements f m s = _
    rw [execGetMeasurements, spdmRow_of_heard hheard (by decide), spdmAfter_of_negotiated hver hphase, spdmMeasurements_count hsign hop]
    rfl
  · show execGetDigests f m s = _
    rw [execGetDigests, spdmRow_of_heard hheard (by decide), spdmAfter_of_early hver hphase]
    rfl

/-! ### MCTP -/

/-- A control request of the row's own command, on a binding that is up, reaches the row's answer. -/
theorem mctpRow_of_heard {s : State} {b : Fin 2} {m : List Byte} {code : Nat} (h : Claims.MctpHeard s b m code)
    (hcode : mctpCodes.contains code = true) (go : State) : mctpRow code b m s go = .next go := by
  obtain ⟨hup, hlen, htype, hreq, hm⟩ := h
  rw [mctpRow, if_neg (by simp [hup, htype]; omega), if_neg (by rw [hm, hcode]; decide), if_neg (not_not.2 hm)]

/-- Settles O49: each command by its row and its own answer. -/
theorem mctpControlCommands : Obligations.MctpControlCommands := by
  unfold Obligations.MctpControlCommands
  intro b m s
  refine ⟨fun hheard hlen hop hlow hbroadcast => ?_, fun hheard hlen hbroadcast => ?_, fun hheard => ?_, fun hheard hall => ?_,
    fun hheard => ?_, fun hheard hset => ?_, fun a halive hup => ⟨fun ha hnone => ?_, fun hsome => ?_⟩⟩
  · show execSetEndpointId b m s = _
    rw [execSetEndpointId, mctpRow_of_heard hheard (by decide), mctpSetEid, if_neg (not_lt.2 hlen),
      if_neg (by simp only [Bool.or_eq_true, decide_eq_true_eq]; omega)]
    rfl
  · show execSetEndpointId b m s = _
    rw [execSetEndpointId, mctpRow_of_heard hheard (by decide), mctpSetEid, if_neg (not_lt.2 hlen), if_pos (by simp [hbroadcast])]
    rfl
  · show execGetEndpointId b m s = _
    rw [execGetEndpointId, mctpRow_of_heard hheard (by decide), mctpGetEid]
    rfl
  · refine ⟨leBytes 1 1 ++ leBytes 4 (Config.mctpVersion (leAt m 3 1)).toNat, rfl, ?_⟩
    show execGetMctpVersionSupport b m s = _
    rw [execGetMctpVersionSupport, mctpRow_of_heard hheard (by decide), mctpVersions, if_pos (by simp [hall])]
    rfl
  · show execGetMessageTypeSupport b m s = _
    rw [execGetMessageTypeSupport, mctpRow_of_heard hheard (by decide), mctpTypes]
    rfl
  · show execGetVendorDefinedMessageSupport b m s = _
    rw [execGetVendorDefinedMessageSupport, mctpRow_of_heard hheard (by decide), mctpVendor, if_pos hset]
    rfl
  · show execEntdaa a s = _
    rw [execEntdaa, if_pos (by simp [halive, hup, ha, hnone])]
  · show execEntdaa a s = _
    rw [execEntdaa, if_neg (by simp [hsome])]

end Sys2Proof.Machine
end

section
/-! PROOFS of the discrete inputs and the supply (R416 to R418, R441 to R443), and of the staged start and the operating points (R429 to R431, R437 to R439). -/

namespace Sys2Proof.Machine

theorem powered_iff {s : State} : powered s = true ↔ s.power.phase = 1 := by simp [powered]

theorem alive_of_powered {s : State} (h : powered s = true) : alive s = true := by
  simp [alive, powered_iff.1 h]

theorem flushStart_of_powered {s : State} (h : powered s = true) (cause : Nat) : flushStart s cause = flushBegin s cause := if_pos h

/-! ### Inputs -/

@[simp] theorem powered_inputAssert (s : State) (i : Nat) : powered (inputAssert s i) = powered s := by
  simp [powered, inputAssert, putInput]

theorem inputAssert_of_bad {s : State} {i : Nat} (h : inputBad s i = true) : inputAssert s i = putInput s i { inputOf s i with active := true } := by
  simp [inputAssert, h, bump]

/-- A release restarts only a module that has stopped. -/
theorem restartCheck_of_powered {s : State} (h : powered s = true) : restartCheck s = s := by
  rw [restartCheck, if_neg (by simp [powered_iff.1 h])]

theorem exec_pwrfailNAssert {s : State} (h : powered s = true) :
    exec .pwrfailNAssert s = .next (if inputBad s 0 then inputAssert s 0 else flushBegin (inputAssert s 0) 1) := by
  show execPwrfailNAssert s = _
  simp only [execPwrfailNAssert, alive_of_powered h]
  rw [flushStart_of_powered (by rw [powered_inputAssert, h])]
  rfl

/-- An input of no safe action of its own that is found stuck: latched, counted, and its event. -/
theorem inputLatch_of_no_action (s : State) {i : Nat} (h : i = 2 ∨ i = 4) :
    inputLatch s i false = moduleEvent (bump (putInput s i { inputOf s i with stuck := true }) (0xA440 + i) 2 1) 0x0603
      (leBytes 1 i ++ leBytes 1 0) := by
  rcases h with rfl | rfl <;> rfl

/-- Settles O53: each input and each change of the supply by its own rule. -/
theorem inputsAndSupply : Obligations.InputsAndSupply := by
  unfold Obligations.InputsAndSupply
  intro s
  refine ⟨fun hup => ?_, rfl, fun hflush => ⟨?_, ?_⟩, fun hno => ⟨?_, ?_⟩⟩
  · have halive := alive_of_powered hup
    have hphase := powered_iff.1 hup
    refine ⟨fun hgood => ?_, fun hbad => ?_, ?_, ?_, ?_, ?_, fun hgood => ?_, ?_, ?_, ?_, fun x hx => ?_, ?_, ?_, fun v => ?_⟩
    · rw [exec_pwrfailNAssert hup, hgood]
      rfl
    · rw [exec_pwrfailNAssert hup, if_pos hbad, inputAssert_of_bad hbad]
    · show execPwrfailNRelease s = _
      rw [execPwrfailNRelease, if_pos halive]
      exact congrArg Host.Outcome.next (restartCheck_of_powered hup)
    · show execLeakNAssert s = _
      rw [execLeakNAssert, if_pos halive]
    · show execLeakNRelease s = _
      rw [execLeakNRelease, if_pos halive]
      rfl
    · show execPerstNAssert s = _
      rw [execPerstNAssert, if_pos halive]
    · show execPerstNRelease s = _
      simp only [execPerstNRelease, halive, hgood]
      rfl
    · show execWakeNAssert s = _
      simp only [execWakeNAssert, halive, hup]
      rfl
    · show execWakeNRelease s = _
      rw [execWakeNRelease, if_pos halive]
      rfl
    · show execInputFault 1 false s = _
      rw [execInputFault, if_neg (by simp [halive]), if_pos (by decide)]
    · show execInputFault x false s = _
      rw [execInputFault, if_neg (by simp [halive]), if_neg (by simp; omega), if_neg (by simp; omega), inputLatch_of_no_action s hx]
    · show execEnableBreak s = _
      rw [execEnableBreak, if_neg (by rw [hphase]; decide)]
      exact congrArg Host.Outcome.next (if_pos hup)
    · show execInputUndervoltage s = _
      rw [execInputUndervoltage, if_neg (by rw [hphase]; decide)]
      exact congrArg Host.Outcome.next (if_pos hup)
    · show execInputOvervoltage v s = _
      rw [execInputOvervoltage, if_neg (by simp [halive]), if_neg (by rw [hphase]; decide)]
  · show execFlushComplete s = _
    rw [execFlushComplete, if_pos hflush]
  · show execFlushPowerLoss s = _
    rw [execFlushPowerLoss, if_pos hflush]
  · show execFlushComplete s = _
    rw [execFlushComplete, if_neg hno]
  · show execFlushPowerLoss s = _
    rw [execFlushPowerLoss, if_neg hno]

/-! ### The staged start -/

/-- What the saved dictionary's choice leaves: the power state, the packages, the fuses and PERST_N. -/
theorem dictChosen_keeps (s : State) :
    (dictChosen s).power = s.power ∧ (dictChosen s).packages = s.packages ∧ (dictChosen s).fuse = s.fuse ∧ (dictChosen s).perst = s.perst := by
  have hkeep : ∀ (t : State) (cls sev unit place : Nat) (d : List Byte),
      t.power = s.power ∧ t.packages = s.packages ∧ t.fuse = s.fuse ∧ t.perst = s.perst →
      (errorEvent t none cls sev unit place 0 0xFF 0 d).power = s.power ∧ (errorEvent t none cls sev unit place 0 0xFF 0 d).packages = s.packages ∧
      (errorEvent t none cls sev unit place 0 0xFF 0 d).fuse = s.fuse ∧ (errorEvent t none cls sev unit place 0 0xFF 0 d).perst = s.perst := by
    intro t cls sev unit place d h
    obtain ⟨l, ls, n, k, ho, p, se, st, o, heq, -⟩ := errorEvent_only t none cls sev unit place 0 0xFF 0 d
    rw [heq]
    exact h
  unfold dictChosen
  dsimp only
  split
  · exact hkeep _ _ _ _ _ _ ⟨rfl, rfl, rfl, rfl⟩
  · split
    · exact ⟨rfl, rfl, rfl, rfl⟩
    · exact hkeep _ _ _ _ _ _ ⟨rfl, rfl, rfl, rfl⟩

theorem moduleEvent_only (s : State) (cls : Nat) (d : List Byte) :
    ∃ l ls n se st o, moduleEvent s cls d = { s with log := l, logSaved := ls, logSeq := n, sessions := se, sent := st, od := o } ∧
      ∀ j sub', odKey j sub' ≠ odKey 0xA500 5 → odGet (moduleEvent s cls d) j sub' = odGet s j sub' :=
  logEvent_only s cls 0 5 0 0 0xFF 0 d

@[simp] theorem moduleEvent_power (s : State) (cls : Nat) (d : List Byte) : (moduleEvent s cls d).power = s.power := by
  obtain ⟨l, ls, n, se, st, o, heq, -⟩ := moduleEvent_only s cls d
  rw [heq]

/-- A stage reached is recorded in the power state; its event leaves the Bell counter, the link, the packages and the fuses. -/
theorem stageReached_leaves (s : State) (n : Nat) :
    (stageReached s n).power = { s.power with stage := n } ∧ (stageReached s n).bell = s.bell ∧ (stageReached s n).linkUp = s.linkUp ∧
    (stageReached s n).packages = s.packages ∧ (stageReached s n).fuse = s.fuse := by
  unfold stageReached
  obtain ⟨l, ls, q, se, st, o, heq, -⟩ := moduleEvent_only { s with power := { s.power with stage := n } } 0x0610 (leBytes 1 n)
  rw [heq]
  exact ⟨rfl, rfl, rfl, rfl, rfl⟩

/-- What stage 1 starts, of the states of the Bell domain and of the link. -/
theorem beginStart_leaves (s : State) :
    (beginStart s).power = s.power ∧ (beginStart s).bell = bellStart ∧ (beginStart s).linkUp = !s.perst ∧
    (beginStart s).packages = s.packages ∧ (beginStart s).fuse = s.fuse := ⟨rfl, rfl, rfl, rfl, rfl⟩

/-- Stage 1: the Bell counter starts and the link trains unless PERST_N holds it; the packages and the fuses stay. -/
theorem reachStage1_leaves (s : State) :
    (reachStage1 s).power = { s.power with stage := 1 } ∧ (reachStage1 s).bell = bellStart ∧ (reachStage1 s).linkUp = !s.perst ∧
    (reachStage1 s).packages = s.packages ∧ (reachStage1 s).fuse = s.fuse := by
  obtain ⟨hpower, hpack, hfuse, hperst⟩ := dictChosen_keeps s
  obtain ⟨hpower', hbell', hlink', hpack', hfuse'⟩ := beginStart_leaves (kamlinStart (macStart (dictChosen s)))
  obtain ⟨hpower'', hbell'', hlink'', hpack'', hfuse''⟩ := stageReached_leaves (beginStart (kamlinStart (macStart (dictChosen s)))) 1
  have hsame : (kamlinStart (macStart (dictChosen s))).power = (dictChosen s).power ∧
      (kamlinStart (macStart (dictChosen s))).perst = (dictChosen s).perst ∧
      (kamlinStart (macStart (dictChosen s))).packages = (dictChosen s).packages ∧
      (kamlinStart (macStart (dictChosen s))).fuse = (dictChosen s).fuse := ⟨rfl, rfl, rfl, rfl⟩
  obtain ⟨hp, hr, hk, hf⟩ := hsame
  unfold reachStage1
  rw [hpower'', hbell'', hlink'', hpack'', hfuse'', hpower', hbell', hlink', hpack', hfuse', hp, hr, hk, hf, hpower, hperst, hpack, hfuse]
  exact ⟨rfl, rfl, rfl, rfl, rfl⟩

/-! ### Operating points -/

/-- A window's counts and clocks leave the judgement's other power fields. -/
theorem exec_powerLimitWindow_power {s : State} (h : powered s = true) (w : W32) :
    ∃ t, exec (.powerLimitWindow w) s = .next t ∧
      t.power = (lowerClocks (powerJudge { s with power := { s.power with watts := w } } w)).power := by
  refine ⟨_, by show execPowerLimitWindow w s = _; rw [execPowerLimitWindow, if_pos h], ?_⟩
  rw [bump_power, bump_power]

theorem powerJudge_first {s : State} {w : W32} (hover : overLimit s w.toNat = true) (hnone : s.power.windowsOver = 0) :
    powerJudge s w = { s with power := { s.power with windowsOver := 1, msUnder := 0 } } := by
  simp [powerJudge, hover, hnone]

theorem powerDown_point (s : State) (w : W32) : (powerDown s w).power.point = min 3 (max s.power.point (odGet s 0x6310 1) + 1) := by
  unfold powerDown
  dsimp only
  split_ifs
  · rw [moduleEvent_power]
  · rfl

theorem powerJudge_again {s : State} {w : W32} (hover : overLimit s w.toNat = true) (hmore : 1 ≤ s.power.windowsOver) :
    powerJudge s w = powerDown s w := by
  rw [powerJudge, if_pos hover, if_pos hmore]

/-- The end of a cluster's throttling: the set and the clocks alone change. -/
theorem exec_dieThrottleEnd {s : State} (h : powered s = true) {n : Fin 8} (hin : n.val ∈ s.power.throttled) :
    ∃ t pts, exec (.dieThrottleEnd n) s = .next t ∧
      t = { s with power := { s.power with throttled := s.power.throttled.filter (· ≠ n.val), points := pts } } := by
  have hexec : exec (.dieThrottleEnd n) s = execDieThrottleEnd n s := rfl
  rw [hexec, execDieThrottleEnd, if_pos (by simp [h, hin])]
  dsimp only
  split_ifs
  · exact ⟨_, _, rfl, rfl⟩
  · exact ⟨_, s.power.points, rfl, rfl⟩

/-- Settles O54: power-on, each stage, and each rule of the operating points. -/
theorem startAndOperatingPoints : Obligations.StartAndOperatingPoints := by
  unfold Obligations.StartAndOperatingPoints
  intro s
  refine ⟨fun x hen hoff => ⟨_, rfl, ?_⟩, fun x hen => ?_, fun hup => ⟨fun ms hstage hrec => ?_, fun ms hstage hconf hrec => ?_,
    fun ms hstage hconf => ?_, fun ms hstage => ?_, fun part x hlow hhigh => ?_, fun w hover hnone => ?_, fun w hover hmore => ?_, fun n => ?_,
    fun n hin => ?_, fun hdroop => ?_, ?_, ?_⟩⟩
  · show execPowerOn x s = _
    rw [execPowerOn, if_neg (by simp [hen]), if_pos (by simp [hoff])]
  · show execPowerOn x s = _
    rw [execPowerOn, if_pos (by simp [hen])]
  · obtain ⟨hpower, hbell, hlink, hpack, hfuse⟩ := reachStage1_leaves s
    refine ⟨reachStage1 s, ?_, by rw [hpower], hbell, hlink, by rw [hpower]; exact powered_iff.1 hup, hpack, hfuse⟩
    show execStage1Reached ms s = _
    rw [execStage1Reached, if_pos (by simp [hup, hstage, hrec])]
  · show execStage2Reached ms s = _
    rw [execStage2Reached, if_pos (by simp [hup, hstage, hconf, hrec])]
  · show execStage2Reached ms s = _
    rw [execStage2Reached, if_neg (by simp [hconf])]
  · show execStage3Reached ms s = _
    rw [execStage3Reached, if_pos (by simp [hup, hstage])]
  · show execStartStalled part x s = _
    rw [execStartStalled, if_pos (by simp [hup, hlow, hhigh]), stallEvent]
  · obtain ⟨t, ht, hpower⟩ := exec_powerLimitWindow_power hup w
    rw [powerJudge_first (s := { s with power := { s.power with watts := w } }) hover hnone] at hpower
    exact ⟨t, ht, by rw [hpower]; rfl, by rw [hpower]; rfl, by rw [hpower]; rfl⟩
  · obtain ⟨t, ht, hpower⟩ := exec_powerLimitWindow_power hup w
    rw [powerJudge_again (s := { s with power := { s.power with watts := w } }) hover hmore] at hpower
    exact ⟨t, ht, by rw [hpower]; exact powerDown_point _ w⟩
  · show execDieThrottle n s = _
    rw [execDieThrottle, if_pos hup]
  · obtain ⟨t, pts, ht, heq⟩ := exec_dieThrottleEnd hup hin
    exact ⟨t, ht, by rw [heq]; simp, by rw [heq]⟩
  · show execCoreRailDroop s = _
    rw [execCoreRailDroop, if_pos (by simp [hup, hdroop])]
  · show execDroopEnd s = _
    rw [execDroopEnd, if_pos hup]
  · show execCoreRailSettled s = _
    rw [execCoreRailSettled, if_pos hup, raiseClocks]

end Sys2Proof.Machine
end

section
/-! PROOFS of the plant: its commands and re-learns, its readings and timers, and the bank (R407, R418 to R425, R440). -/

namespace Sys2Proof.Machine

/-! ### What notices and the write mode leave -/

theorem nvmeComplete_only (s : State) (t : NTicket) (dw0 status : Nat) :
    ∃ h n, nvmeComplete s t dw0 status = { s with host := h, nvme := n } := by
  unfold nvmeComplete
  dsimp only
  split
  · exact ⟨s.host, s.nvme, rfl⟩
  · split
    · exact ⟨s.host, s.nvme, rfl⟩
    · split
      · exact ⟨s.host, s.nvme, rfl⟩
      · exact ⟨_, _, rfl⟩

theorem nvmeEvent_only (s : State) (k bit dw0 : Nat) : ∃ h n, nvmeEvent s k bit dw0 = { s with host := h, nvme := n } := by
  unfold nvmeEvent
  dsimp only
  split_ifs
  · exact ⟨s.host, s.nvme, rfl⟩
  · split
    · exact ⟨s.host, _, rfl⟩
    · obtain ⟨h, n, heq⟩ := nvmeComplete_only _ _ dw0 0
      exact ⟨h, n, heq⟩

/-- A SMART notice reaches the NVMe controllers and their hosts' memory alone. -/
theorem smartNotice_only (s : State) (bit info : Nat) : ∃ h n, smartNotice s bit info = { s with host := h, nvme := n } := by
  unfold smartNotice
  generalize List.range 33 = l
  induction l generalizing s with
  | nil => exact ⟨s.host, s.nvme, rfl⟩
  | cons k l ih =>
    obtain ⟨h, n, heq⟩ := nvmeEvent_only s k bit (aenDw0 1 info 2)
    obtain ⟨h', n', heq'⟩ := ih { s with host := h, nvme := n }
    exact ⟨h', n', by rw [List.foldl_cons, heq, heq']⟩

theorem moduleEvent_plant (s : State) (cls : Nat) (d : List Byte) : (moduleEvent s cls d).plant = s.plant := by
  obtain ⟨l, ls, n, se, st, o, heq, -⟩ := moduleEvent_only s cls d
  rw [heq]

theorem odGet_moduleEvent (s : State) (cls : Nat) (d : List Byte) {j sub' : Nat} (h : odKey j sub' ≠ odKey 0xA500 5) :
    odGet (moduleEvent s cls d) j sub' = odGet s j sub' := by
  obtain ⟨l, ls, n, se, st, o, -, hod⟩ := moduleEvent_only s cls d
  exact hod j sub' h

theorem modeCheck_plant (s : State) : (modeCheck s).plant = s.plant := by
  unfold modeCheck
  dsimp only
  split_ifs
  · rfl
  · rw [moduleEvent_plant]
  · rfl
  · rw [moduleEvent_plant]

theorem odGet_modeCheck (s : State) {j sub' : Nat} (h : odKey j sub' ≠ odKey 0xA500 5) : odGet (modeCheck s) j sub' = odGet s j sub' := by
  unfold modeCheck
  dsimp only
  split_ifs
  · rfl
  · rw [odGet_moduleEvent _ _ _ h]; rfl
  · rfl
  · rw [odGet_moduleEvent _ _ _ h]; rfl

theorem energyCheck_plant (before s : State) : (energyCheck before s).plant = s.plant := by
  unfold energyCheck
  rw [modeCheck_plant]
  split_ifs
  · obtain ⟨h, n, heq⟩ := smartNotice_only s 4 0
    rw [heq]
  · rfl

theorem odGet_energyCheck (before s : State) {j sub' : Nat} (h : odKey j sub' ≠ odKey 0xA500 5) :
    odGet (energyCheck before s) j sub' = odGet s j sub' := by
  unfold energyCheck
  rw [odGet_modeCheck _ h]
  split_ifs
  · obtain ⟨ho, n, heq⟩ := smartNotice_only s 4 0
    rw [heq]
    rfl
  · rfl

/-! ### Re-learns (R425) -/

theorem relearnEnd_plant (s : State) (st : Nat) : (relearnEnd s st).plant = { s.plant with relearnState := st, refused := false } := by
  rw [relearnEnd, moduleEvent_plant, bump_plant]

theorem odGet_relearnEnd (s : State) (st : Nat) {j sub' : Nat} (h : odKey j sub' ≠ odKey 0xA500 5) (h' : odKey j sub' ≠ odKey 0xA480 2) :
    odGet (relearnEnd s st) j sub' = odGet s j sub' := by
  rw [relearnEnd, odGet_moduleEvent _ _ _ h, odGet_bump_ne _ _ _ _ _ _ h']
  rfl

theorem relearnBankRun_plant (s : State) (clearing : Bool) :
    (relearnBankRun s clearing).plant = { s.plant with relearn := 2, relearnState := 1, clearing := clearing, bank := 3 } := by
  rw [relearnBankRun, modeCheck_plant]

/-- The state of a finished valve re-learn: done where the curve is one, failed where it is not. -/
theorem valveResult_relearnState (s : State) (l : List Nat) : (valveResult s l).plant.relearnState = if curveOk l then 2 else 4 := by
  unfold valveResult
  split_ifs
  · rw [relearnEnd_plant]
  · rw [relearnEnd_plant]

theorem bankLearnt_plant (s : State) (f m : W32) :
    (bankLearnt s f m).plant = { s.plant with bank := if s.plant.bank = 4 then 4 else 0, clearing := false, relearnState := 2, refused := false } := by
  rw [bankLearnt, relearnEnd_plant]
  rfl

/-- The values a bank re-learn leaves in the dictionary. -/
theorem odGet_bankLearnt (s : State) (f m : W32) :
    odGet (bankLearnt s f m) 0x7300 1 = f.toNat ∧ odGet (bankLearnt s f m) 0x7300 2 = m.toNat := by
  have hkey (i : Nat) (hi : i < 256) : odKey 0x7300 i ≠ odKey 0xA500 5 ∧ odKey 0x7300 i ≠ odKey 0xA480 2 :=
    ⟨odKey_ne hi (by decide) (by decide), odKey_ne hi (by decide) (by decide)⟩
  unfold bankLearnt
  rw [odGet_relearnEnd _ _ (hkey 1 (by decide)).1 (hkey 1 (by decide)).2, odGet_relearnEnd _ _ (hkey 2 (by decide)).1 (hkey 2 (by decide)).2]
  show odGet (odPut (odPut (odPut s 0x7300 1 f.toNat) 0x7300 2 m.toNat) 0x7300 3 2) 0x7300 1 = f.toNat ∧
    odGet (odPut (odPut (odPut s 0x7300 1 f.toNat) 0x7300 2 m.toNat) 0x7300 3 2) 0x7300 2 = m.toNat
  rw [odGet_odPut_ne _ _ _ _ _ _ (by decide), odGet_odPut_ne _ _ _ _ _ _ (by decide), odGet_odPut_self,
    odGet_odPut_ne _ _ _ _ _ _ (by decide), odGet_odPut_self]
  exact ⟨rfl, rfl⟩

/-- A bank re-learn's result within the limits is taken. -/
theorem bankResult_of_within {s : State} {f m : W32} (hf : xvFinite (x32 f.toNat) = true) (hm : xvFinite (x32 m.toNat) = true)
    (hflow : (1 : Rat) / 2 ≤ f32Rat f.toNat) (hfhigh : f32Rat f.toNat ≤ 5) (hmlow : 1 ≤ f32Rat m.toNat) (hmhigh : f32Rat m.toNat ≤ 200) :
    bankResult s f m = bankLearnt s f m := by
  rw [bankResult, if_pos (by simp only [hf, hm, hflow, hfhigh, hmlow, hmhigh]; decide)]

section Commands
variable {s : State} (hup : odUp s = true)
include hup

theorem exec_arm (hrec : s.sec.recovery = false) : exec .arm s = .next { s with plant := { s.plant with armed := true } } := by
  show execArm s = _
  rw [execArm, if_pos (by simp [hup, hrec])]

theorem exec_clearPlantStop : exec .clearPlantStop s = .next (clearStop s) := by
  show execClearPlantStop s = _
  rw [execClearPlantStop, if_pos hup]

theorem exec_relearnValveCurve : exec .relearnValveCurve s = .next (relearnValve s) := by
  show execRelearnValveCurve s = _
  rw [execRelearnValveCurve, if_pos hup]

theorem exec_relearnBank : exec .relearnBank s = .next (relearnBank s) := by
  show execRelearnBank s = _
  rw [execRelearnBank, if_pos hup]

theorem exec_bankRelearnInterval_of_ok (hset : odGet s 0x7500 3 ≠ 0) (hok : bankRelearnOk s = true) :
    exec .bankRelearnInterval s = .next (relearnBankRun s false) := by
  show execBankRelearnInterval s = _
  rw [execBankRelearnInterval, if_pos (by simp [hup, hset, hok])]

theorem exec_clearBankFault : exec .clearBankFault s = .next (clearBankFault s) := by
  show execClearBankFault s = _
  rw [execClearBankFault, if_pos hup]

end Commands

theorem clearStop_of_free {s : State} (h : ¬(s.plant.leakStop = true ∧ leaking s = true)) :
    clearStop s = restartCheck { s with plant := { s.plant with leakStop := false, valveFault := false } } := by
  rw [clearStop, if_neg (by simpa using h)]

theorem bankRelearnOk_of_charging {s : State} (hup : powered s = true) (hidle : s.plant.relearnState ≠ 1) (hbank : s.plant.bank < 2) :
    bankRelearnOk s = true := by
  simp [bankRelearnOk, hup, hidle, hbank]

theorem bankRelearnOk_of_running {s : State} (hrun : s.plant.relearnState = 1) : bankRelearnOk s = false := by
  simp [bankRelearnOk, hrun]

theorem relearnValve_of_idle {s : State} (hidle : s.plant.relearnState ≠ 1) : relearnValve s =
    if valveRelearnOk s then { s with plant := { s.plant with relearn := 1, relearnState := 1 } }
    else { s with plant := { s.plant with relearn := 1, relearnState := 3 } } := by
  rw [relearnValve, if_neg hidle, relearnRefused, if_neg hidle]

theorem relearnRefused_of_running {s : State} (hrun : s.plant.relearnState = 1) (proc : Nat) :
    relearnRefused s proc = { s with plant := { s.plant with refused := true } } := if_pos hrun

theorem clearBankFault_of_gone {s : State} (hup : powered s = true) (hbank : s.plant.bank = 4) (hcause : bankCauseHolds s = false)
    (hidle : s.plant.relearnState ≠ 1) : clearBankFault s = relearnBankRun s true := by
  rw [clearBankFault, if_pos (by simp [hup, hbank, hcause, hidle])]

section Completion
variable {s : State} (halive : alive s = true) (hrun : s.plant.relearnState = 1)
include halive hrun

theorem exec_relearnComplete_valve (hproc : s.plant.relearn = 1) (l : List W16) :
    exec (.relearnComplete (.valve l)) s = .next (valveResult s (l.map (·.toNat))) := by
  show execRelearnComplete (.valve l) s = _
  rw [execRelearnComplete, if_neg (by simp [halive, hrun])]
  exact congrArg Host.Outcome.next (if_pos hproc)

theorem exec_relearnComplete_bank (hproc : s.plant.relearn = 2) {f m : W32} (hf : xvFinite (x32 f.toNat) = true)
    (hm : xvFinite (x32 m.toNat) = true) (hflow : (1 : Rat) / 2 ≤ f32Rat f.toNat) (hfhigh : f32Rat f.toNat ≤ 5) (hmlow : 1 ≤ f32Rat m.toNat)
    (hmhigh : f32Rat m.toNat ≤ 200) : exec (.relearnComplete (.bank f m)) s = .next (energyCheck s (bankLearnt s f m)) := by
  show execRelearnComplete (.bank f m) s = _
  rw [execRelearnComplete, if_neg (by simp [halive, hrun]), ← bankResult_of_within hf hm hflow hfhigh hmlow hmhigh]
  exact congrArg Host.Outcome.next (if_pos hproc)

theorem exec_relearnComplete_failed : exec (.relearnComplete .failed) s = .next (energyCheck s (relearnAbort s)) := by
  show execRelearnComplete .failed s = _
  rw [execRelearnComplete, if_neg (by simp [halive, hrun])]

end Completion

/-- Settles O45: each command by what it finds of the procedure that runs, of the leak and of the bank. -/
theorem plantCommands : Obligations.PlantCommands := by
  unfold Obligations.PlantCommands
  intro s hup
  have halive : alive s = true := by
    simp only [odUp, Bool.and_eq_true] at hup
    exact hup.1.1
  refine ⟨exec_arm hup, fun hfree => ?_, fun hstop hleak => ?_, fun hidle => ⟨fun hok => ?_, fun hno => ?_, fun hpow hbank => ⟨?_, fun hset => ?_⟩,
    fun hpow hbank hcause => ?_⟩, fun hrun => ⟨?_, ?_, ?_, ?_, fun l hproc hcurve => ?_, fun f m hproc hf hm h1 h2 h3 h4 => ?_, ?_⟩⟩
  · rw [exec_clearPlantStop hup, clearStop_of_free (fun ⟨h1, h2⟩ => by rcases hfree with h | h <;> simp_all)]
  · rw [exec_clearPlantStop hup, clearStop, if_pos (by simp [hstop, hleak])]
  · rw [exec_relearnValveCurve hup, relearnValve_of_idle hidle, if_pos hok]
  · rw [exec_relearnValveCurve hup, relearnValve_of_idle hidle, if_neg (by simp [hno])]
  · rw [exec_relearnBank hup, relearnBank, if_pos (bankRelearnOk_of_charging hpow hidle hbank), relearnBankRun]
  · rw [exec_bankRelearnInterval_of_ok hup hset (bankRelearnOk_of_charging hpow hidle hbank), relearnBankRun]
  · rw [exec_clearBankFault hup, clearBankFault_of_gone hpow hbank hcause hidle, relearnBankRun]
  · rw [exec_relearnValveCurve hup, relearnValve, if_pos hrun, relearnRefused_of_running hrun]
  · rw [exec_relearnBank hup, relearnBank, if_neg (by simp [bankRelearnOk_of_running hrun]), relearnRefused_of_running hrun]
  · show execBankRelearnInterval s = _
    rw [execBankRelearnInterval, if_neg (by simp [bankRelearnOk_of_running hrun])]
  · rw [exec_clearBankFault hup, clearBankFault, if_neg (by simp [hrun])]
  · rw [exec_relearnComplete_valve halive hrun hproc, valveResult, if_pos hcurve]
  · exact exec_relearnComplete_bank halive hrun hproc hf hm h1 h2 h3 h4
  · exact exec_relearnComplete_failed halive hrun

/-! ### Readings and timers -/

/-- A valve fault: the plant's own fields, the count, and the event's records. -/
theorem valveFaulted_leaves (s : State) (pos : Nat) :
    (valveFaulted s pos).plant = { s.plant with valveFault := true, position := pos, settled := false, target := if s.plant.leakStop then 0 else 10000 } ∧
    odGet (valveFaulted s pos) 0xA480 1 = odGet s 0xA480 1 + 1 ∧
    ∃ l ls n se st o pl, valveFaulted s pos = { s with plant := pl, od := o, log := l, logSeq := n, logSaved := ls, sessions := se, sent := st } := by
  unfold valveFaulted
  dsimp only
  obtain ⟨l, ls, n, se, st, o, heq, hod⟩ := moduleEvent_only (bump s 0xA480 1 1) 0x0600 (leBytes 2 s.plant.target ++ leBytes 2 pos)
  have hcount := hod 0xA480 1 (odKey_ne (by decide) (by decide) (by decide))
  rw [odGet_bump_self] at hcount
  refine ⟨?_, hcount, ?_⟩
  · rw [moduleEvent_plant, bump_plant]
  · rw [heq, bump, if_neg (by decide)]
    exact ⟨l, ls, n, se, st, o, _, rfl⟩

/-- A sensor other than the bank's own found faulted: the plant's list and the event's records. -/
theorem sensorFault_leaves {s : State} {j : Nat} (hbank : j ≠ 21) (hsound : j ∉ s.plant.faulted) :
    (sensorFault s j).plant = { s.plant with faulted := setIns s.plant.faulted j } ∧
    ∃ l ls n se st o pl, sensorFault s j = { s with plant := pl, od := o, log := l, logSeq := n, logSaved := ls, sessions := se, sent := st } := by
  have heq : sensorFault s j = moduleEvent { s with plant := { s.plant with faulted := setIns s.plant.faulted j } } 0x0602 (leBytes 1 j) := by
    rw [sensorFault, if_neg (by simp [sensorBad, hsound]), if_neg hbank]
  obtain ⟨l, ls, n, se, st, o, hev, -⟩ := moduleEvent_only { s with plant := { s.plant with faulted := setIns s.plant.faulted j } } 0x0602 (leBytes 1 j)
  rw [heq, hev]
  exact ⟨rfl, l, ls, n, se, st, o, _, rfl⟩

/-- Settles O46: each reading, timer and command through the rule of its operation, the events through what they leave. -/
theorem plantEvents : Obligations.PlantEvents := by
  unfold Obligations.PlantEvents
  intro s halive
  refine ⟨fun raw pos hup hstage => ⟨_, rfl, ?_⟩, fun pos hnear => ?_, fun pos hsound hfar => ?_, fun j hj hsound => ?_, fun volts hfin hv => ?_,
    fun cause hbank hcause => ?_, fun hbank => ?_, fun hdown hstop => ?_, fun hup hstage => ?_, fun hrun hproc l => ?_,
    fun hrun hproc hbank f m hf hm h1 h2 h3 h4 => ?_⟩
  · show execPlantLoop raw pos s = _
    rw [execPlantLoop, if_pos (by simp [halive, hup, hstage])]
    rfl
  · show execValveSettled pos s = _
    rw [execValveSettled, if_pos (by simp [halive, valveNear, hnear])]
  · obtain ⟨hplant, hcount, l, ls, n, se, st, o, pl, heq⟩ := valveFaulted_leaves s pos.toNat
    refine ⟨valveFaulted s pos.toNat, ?_, hplant, hcount, by rw [heq]⟩
    show execValveFault pos s = _
    rw [execValveFault, if_pos (by simp [halive, hsound, hfar])]
  · obtain ⟨hplant, l, ls, n, se, st, o, pl, heq⟩ := sensorFault_leaves hj hsound
    refine ⟨sensorFault s j.val, ?_, hplant, by rw [heq]⟩
    show execSensorFault j s = _
    rw [execSensorFault, if_pos halive]
  · show execBankEnergyUpdate volts s = _
    rw [execBankEnergyUpdate, if_pos (by simp [halive, hfin])]
    exact congrArg Host.Outcome.next (if_neg (not_lt.2 hv))
  · show execBankFault cause s = _
    rw [execBankFault, if_pos (by simpa [halive] using hcause), bankFault, if_neg hbank]
  · show execBankChargeTargetReached s = _
    rw [execBankChargeTargetReached, if_pos (by simp [halive, hbank])]
  · show execPlantTakeoverTimeout s = _
    rw [execPlantTakeoverTimeout, if_pos (by simp [halive, hdown, hstop])]
  · have hod : odUp s = true := by simp [odUp, halive, hup, hstage]
    refine ⟨fun hrec => ⟨_, exec_arm hod hrec, rfl⟩, fun hphase hfree => ?_, fun hphase hidle hruns hinlet hlow hhigh => ?_,
      fun hphase hidle hbank => ⟨?_, fun hset => ?_⟩, fun hphase hidle hbank hcause => ?_⟩
    · refine ⟨_, exec_clearPlantStop hod, ?_⟩
      rw [clearStop_of_free hfree, restartCheck_of_powered (by exact powered_iff.2 hphase)]
      exact ⟨rfl, rfl⟩
    · have hok : valveRelearnOk s = true := by
        simp only [valveRelearnOk, powered_iff.2 hphase, hinlet, hlow, hhigh, decide_true, Bool.and_true, Bool.not_false, Bool.true_and,
          List.all_eq_true]
        intro p hp
        rw [hruns p hp]
        rfl
      refine ⟨_, exec_relearnValveCurve hod, ?_⟩
      rw [relearnValve_of_idle hidle, if_pos hok]
      exact ⟨rfl, rfl⟩
    · refine ⟨_, exec_relearnBank hod, ?_⟩
      rw [relearnBank, if_pos (bankRelearnOk_of_charging (powered_iff.2 hphase) hidle hbank), relearnBankRun_plant]
      exact ⟨rfl, rfl, rfl⟩
    · refine ⟨_, exec_bankRelearnInterval_of_ok hod hset (bankRelearnOk_of_charging (powered_iff.2 hphase) hidle hbank), ?_⟩
      rw [relearnBankRun_plant]
      exact ⟨rfl, rfl, rfl⟩
    · refine ⟨_, exec_clearBankFault hod, ?_⟩
      rw [clearBankFault_of_gone (powered_iff.2 hphase) hbank hcause hidle, relearnBankRun_plant]
      exact ⟨rfl, rfl, rfl⟩
  · exact ⟨_, exec_relearnComplete_valve halive hrun hproc l, valveResult_relearnState s _⟩
  · obtain ⟨hfar, hmil⟩ := odGet_bankLearnt s f m
    refine ⟨_, exec_relearnComplete_bank halive hrun hproc hf hm h1 h2 h3 h4, ?_⟩
    rw [energyCheck_plant, bankLearnt_plant, odGet_energyCheck _ _ (odKey_ne (by decide) (by decide) (by decide)),
      odGet_energyCheck _ _ (odKey_ne (by decide) (by decide) (by decide)), hfar, hmil, hbank]
    exact ⟨rfl, rfl, rfl, rfl⟩

end Sys2Proof.Machine
end

section
/-! PROOFS of firmware commits on a controller's path, the anti-rollback advance, a module restart and a cleared fault (R326, R416, R435, R450, R457, R458). -/

namespace Sys2Proof.Machine

theorem commitDone_unanswered {path : Nat} (hpath : path ≠ 33) (s : State) (st : Nat) : commitDone s path none st = s := by
  rw [commitDone, if_neg hpath]

section Idle
variable {s : State} {path slot : Nat} (hidle : s.sec.commit = none) (hslot : slot = 1 ∨ slot = 2)
include hidle hslot

/-- A commit of a package whose images all pass, into the slot that does not run, begins. -/
theorem commitOn_replace_sound {action : Nat} (haction : action < 2) (hother : slot ≠ s.sec.running)
    (hsound : packageFails s (packageImages (stagedBytes s path)) = none) (reply : Option NTicket) :
    commitOn s path slot action reply = commitStart s path slot (action = 1) (packageImages (stagedBytes s path)) reply := by
  unfold commitOn
  dsimp only
  rw [commitFinish_of_idle hidle, if_neg (by omega), if_neg (by simp; omega), if_neg (by omega), if_neg hother, hsound]

/-- A commit of a package is refused by the first of its images that fails. -/
theorem commitOn_replace_refused {action : Nat} (haction : action < 2) (hother : slot ≠ s.sec.running) {f : Nat × Nat}
    (hfails : packageFails s (packageImages (stagedBytes s path)) = some f) (reply : Option NTicket) :
    commitOn s path slot action reply = commitDone (imageRefused s f.1 f.2) path reply fwInvalidImage := by
  unfold commitOn
  dsimp only
  rw [commitFinish_of_idle hidle, if_neg (by omega), if_neg (by simp; omega), if_neg (by omega), if_neg hother, hfails]

theorem commitOn_running {action : Nat} (haction : action < 2) (hrun : slot = s.sec.running) (reply : Option NTicket) :
    commitOn s path slot action reply = commitDone s path reply fwInvalidSlot := by
  unfold commitOn
  dsimp only
  rw [commitFinish_of_idle hidle, if_neg (by omega), if_neg (by simp; omega), if_neg (by omega), if_pos hrun]

end Idle

section Ready
variable {s : State} (hready : commitReady s = true) (hrec : s.sec.recovery = false) (path : Fin 34) (slot : Nat)
include hready hrec

theorem exec_firmwareReplace : exec (.firmwareReplace path slot) s = .next (commitOn s path.val slot 0 none) := by
  show execFirmwareReplace path slot s = _
  rw [execFirmwareReplace, if_pos (by simp [hready, hrec])]

theorem exec_firmwareReplaceActivate : exec (.firmwareReplaceActivate path slot) s = .next (commitOn s path.val slot 1 none) := by
  show execFirmwareReplaceActivate path slot s = _
  rw [execFirmwareReplaceActivate, if_pos (by simp [hready, hrec])]

theorem exec_firmwareActivate : exec (.firmwareActivate path slot) s = .next (commitOn s path.val slot 2 none) := by
  show execFirmwareActivate path slot s = _
  rw [execFirmwareActivate, if_pos (by simp [hready, hrec])]

end Ready

theorem commitAdvance_second {s : State} {j : FwJob} (hjob : s.sec.commit = some j) (hstage : j.stage = 2) :
    commitAdvance s = { programBank s j.slot ((j.imgs[0]?).getD []) with sec := { s.sec with commit := some { j with stage := 3 } } } := by
  rw [commitAdvance, hjob]
  exact if_pos hstage

theorem commitLost_leaves {s : State} {j : FwJob} (hjob : s.sec.commit = some j) :
    (commitLost s).sec.commit = none ∧ slotOf (commitLost s) j.slot = ⟨false, [], [], [], [], none⟩ := by
  rw [commitLost, hjob]
  exact ⟨rfl, by simp [slotOf, putSlot]⟩

theorem exec_moduleRestart {s : State} (hup : powered s = true) (hreeve : s.reeveUp = true) (hfree : restartRefused s = false) :
    exec .moduleRestart s = .next (restartNow s) := by
  show execModuleRestart s = _
  rw [execModuleRestart, if_pos (by simp [hup, hreeve, hfree])]

/-- A fault cleared of an input that asks for nothing by itself. -/
theorem faultCleared_of_no_action (s : State) {i : Nat} (h : i = 2 ∨ i = 5) :
    faultCleared s i = putInput s i ⟨(inputOf s i).active, false, false⟩ := by
  rcases h with rfl | rfl <;> exact ite_self _

/-- Settles O47: each command by its checks in their order, the commit's steps by the job that is under way. -/
theorem firmwareAndRestart : Obligations.FirmwareAndRestart := by
  unfold Obligations.FirmwareAndRestart
  intro s hup hreeve
  refine ⟨fun hstage hrec hidle path slot hpath hslot => ?_, fun j hjob => ⟨commitAdvance_second hjob, _, rfl, commitLost_leaves hjob⟩,
    fun hpolicy => ?_, fun hpolicy => ?_, fun hfree hidle => ?_, fun j hfree hjob => ?_, fun hsan => ?_, fun x hx => ?_⟩
  · intro imgs
    have hready : commitReady s = true := by simp [commitReady, hup, hstage, hreeve]
    have hquiet := commitDone_unanswered (show path.val ≠ 33 by omega)
    rw [exec_firmwareReplace hready hrec, exec_firmwareReplaceActivate hready hrec, exec_firmwareActivate hready hrec]
    refine ⟨fun hother hgood => ⟨?_, ?_⟩, fun kind check hother hbad => ?_, fun hrun => ⟨?_, ?_⟩, fun hsound hfilled => ?_⟩
    · exact congrArg Host.Outcome.next (commitOn_replace_sound hidle hslot (by decide) hother hgood none)
    · exact congrArg Host.Outcome.next (commitOn_replace_sound hidle hslot (by decide) hother hgood none)
    · rw [commitOn_replace_refused hidle hslot (by decide) hother hbad, hquiet]
    · rw [commitOn_running hidle hslot (by decide) hrun, hquiet]
    · rw [commitOn_running hidle hslot (by decide) hrun, hquiet]
    · rw [commitOn_activate hidle hslot hsound hfilled, hquiet, activateSlot]
  · show execAdvanceNow s = _
    rw [execAdvanceNow, if_pos (by simp [hup, hreeve]), advanceNow, if_pos hpolicy, raiseCounters]
  · show execAdvanceNow s = _
    rw [execAdvanceNow, if_pos (by simp [hup, hreeve]), advanceNow, if_neg hpolicy]
  · rw [exec_moduleRestart hup hreeve hfree, restartNow, hidle]
  · rw [exec_moduleRestart hup hreeve hfree, restartNow, hjob]
  · show execModuleRestart s = _
    rw [execModuleRestart, if_neg (by simp [restartRefused, hsan])]
  · show execClearFault x s = _
    rw [execClearFault, if_pos (by simp [alive_of_powered hup, hreeve]), faultCleared_of_no_action s hx]

end Sys2Proof.Machine
end

section
/-! PROOFS of the HBM stacks and the clusters: scrubs, monitors, self-refresh, gating and waking (R158, R159, R377 to R380, R385, R433, R434). -/

namespace Sys2Proof.Machine

@[simp] theorem stackOf_putStack_self (s : State) (st : Nat) (h : Stack) : stackOf (putStack s st h) st = h := by simp [stackOf, putStack]

/-! ### Scrubs -/

theorem scrubMayStart_of_bad_range {s : State} {st : Nat}
    (h : odGet s (0x5200 + st) 2 = 0 ∨ odGet s (0x5200 + st) 1 % 32 ≠ 0 ∨ odGet s (0x5200 + st) 2 % 32 ≠ 0 ∨
      stackBytes < odGet s (0x5200 + st) 1 + odGet s (0x5200 + st) 2) : scrubMayStart s st = false := by
  simp only [scrubMayStart, Bool.and_eq_false_iff, decide_eq_false_iff_not]
  omega

/-- A stop finds some number of the range's words scanned. -/
theorem scrubHalt_of_running {s : State} {st : Nat} (h : (stackOf s st).scrub.state = 1) (flags : Nat) :
    ∃ words ≤ (stackOf s st).scrub.length / 32, scrubHalt s st flags = scrubFinish (fresh s).2 st words flags 3 := by
  refine ⟨(fresh s).1.toNat % ((stackOf s st).scrub.length / 32 + 1), ?_, ?_⟩
  · exact Nat.lt_succ_iff.1 (Nat.mod_lt _ (Nat.succ_pos _))
  · rw [scrubHalt, if_pos h]

/-! ### The monitor of the channels (R158) -/

/-- The times a list of channels are given when they raise their events at one time. -/
def hotMarked (m : FMap Nat) (v : Nat) (l : List Nat) : FMap Nat := l.foldl (fun m ch => mapSet m ch v) m

theorem mapGet?_hotMarked (m : FMap Nat) (v : Nat) (l : List Nat) (ch : Nat) :
    mapGet? (hotMarked m v l) ch = if ch ∈ l then some v else mapGet? m ch := by
  induction l generalizing m with
  | nil => simp [hotMarked]
  | cons a l ih =>
    have hstep : hotMarked m v (a :: l) = hotMarked (mapSet m a v) v l := rfl
    rw [hstep, ih, mapGet?_mapSet]
    by_cases hin : ch ∈ l
    · simp [hin]
    · simp [hin]

/-- The event of one hot channel: its time is noted in its stack, the clock stands, and the count goes up by one. -/
theorem raiseHot_leaves (h : Stack) (x : HotPart) (st : Nat) (s : State) (ch : Nat) :
    stackOf (raiseHot h x st s ch) st = { stackOf s st with hotAt := mapSet (stackOf s st).hotAt ch (clock s) } ∧
    clock (raiseHot h x st s ch) = clock s ∧ odGet (raiseHot h x st s ch) 0xA2C0 1 = odGet s 0xA2C0 1 + 1 := by
  have hkept : ∀ (t : State) (c : Option Nat) (d : List Byte),
      (errorEvent t c 3 0 0 st (2 * ch) 0xFF 0 d).hbm = t.hbm ∧ (errorEvent t c 3 0 0 st (2 * ch) 0xFF 0 d).bell = t.bell ∧
      odGet (errorEvent t c 3 0 0 st (2 * ch) 0xFF 0 d) 0xA2C0 1 = odGet t 0xA2C0 1 := by
    intro t c d
    obtain ⟨l, ls, n, k, ho, p, se, snt, o, heq, hod⟩ := errorEvent_only t c 3 0 0 st (2 * ch) 0xFF 0 d
    refine ⟨by rw [heq], by rw [heq], hod 0xA2C0 1 (odKey_ne (by decide) (by decide) (by decide))⟩
  unfold raiseHot
  dsimp only
  obtain ⟨hhbm, hbell, hcount⟩ := hkept (odPut (bump (putStack s st { stackOf s st with hotAt := mapSet (stackOf s st).hotAt ch (clock s) }) 0xA2C0 1 1)
    0xA2C0 2 (32 * st + ch)) (some (hotCroft h x ch))
    ([BitVec.ofNat 8 st, BitVec.ofNat 8 ch] ++ leBytes 8 (onChannel h x ch) ++ leBytes 8 (stackMoved h x) ++ leBytes 1 (hotCroft h x ch))
  refine ⟨?_, ?_, ?_⟩
  · rw [stackOf, hhbm, odPut_hbm, bump_hbm]
    exact stackOf_putStack_self s st _
  · rw [clock, hbell, odPut_bell, bump_bell]
    rfl
  · rw [hcount, odGet_odPut_ne _ _ _ _ _ _ (by decide), odGet_bump_self]
    rfl

/-- The events of a window's hot channels, in turn. -/
theorem raiseHots_leave (h : Stack) (x : HotPart) (st : Nat) (l : List Nat) (s : State) :
    stackOf (l.foldl (raiseHot h x st) s) st = { stackOf s st with hotAt := hotMarked (stackOf s st).hotAt (clock s) l } ∧
    odGet (l.foldl (raiseHot h x st) s) 0xA2C0 1 = odGet s 0xA2C0 1 + l.length := by
  induction l generalizing s with
  | nil => exact ⟨rfl, rfl⟩
  | cons ch l ih =>
    obtain ⟨hstack, hclock, hcount⟩ := raiseHot_leaves h x st s ch
    obtain ⟨hstack', hcount'⟩ := ih (raiseHot h x st s ch)
    rw [List.foldl_cons]
    refine ⟨?_, by rw [hcount', hcount, List.length_cons]; omega⟩
    rw [hstack', hstack, hclock]
    rfl

theorem mem_hotChannels {s : State} {st ch : Nat} {x : HotPart} (hch : ch < 32) :
    ch ∈ hotChannels s st x ↔ ((stackOf s st).hotSet.2.1 * stackMoved (stackOf s st) x < 256 * onChannel (stackOf s st) x ch ∧
      (stackOf s st).hotSet.2.2.1 * 80000000 * (stackOf s st).hotSet.1 < 100 * onChannel (stackOf s st) x ch) ∧
      hotHeld s (stackOf s st) ch = false := by
  simp [hotChannels, isHot, hch]

/-- The state at the end of a window: the hot channels have raised their events, and the next window begins. -/
def hotWindowEnd (s : State) (st : Nat) (x : HotPart) : State :=
  let s1 := (hotChannels s st x).foldl (raiseHot (stackOf s st) x st) s
  putStack s1 st { stackOf s1 st with
    moved := [], hotSet := (odGet s 0x4020 1, odGet s 0x4020 2, odGet s 0x4020 3, odGet s 0x4020 4) }

theorem exec_hotChannelWindow {s : State} (hup : powered s = true) (x : Fin 8) (chs : List (Fin 32)) (bytes : List Nat) (own : Nat) (cs : List (Fin 32)) :
    exec (.hotChannelWindow x chs bytes own (stackOf s x.val).hotSet.1 cs) s = .next (hotWindowEnd s x.val (hotPart chs bytes own cs)) := by
  show execHotChannelWindow x chs bytes own _ cs s = _
  rw [execHotChannelWindow, if_pos (by simp [hup])]
  rfl

theorem hotWindowEnd_leaves (s : State) (st : Nat) (x : HotPart) :
    stackOf (hotWindowEnd s st x) st = { stackOf s st with
      hotAt := hotMarked (stackOf s st).hotAt (clock s) (hotChannels s st x), moved := [],
      hotSet := (odGet s 0x4020 1, odGet s 0x4020 2, odGet s 0x4020 3, odGet s 0x4020 4) } ∧
    odGet (hotWindowEnd s st x) 0xA2C0 1 = odGet s 0xA2C0 1 + (hotChannels s st x).length := by
  obtain ⟨hstack, hcount⟩ := raiseHots_leave (stackOf s st) x st (hotChannels s st x) s
  refine ⟨?_, hcount⟩
  rw [hotWindowEnd, stackOf_putStack_self, hstack]

theorem exec_hotChannelWindow_other {s : State} {ms : Nat} {x : Fin 8} (h : (stackOf s x.val).hotSet.1 ≠ ms) (chs : List (Fin 32))
    (bytes : List Nat) (own : Nat) (cs : List (Fin 32)) : exec (.hotChannelWindow x chs bytes own ms cs) s = .next s := by
  show execHotChannelWindow x chs bytes own ms cs s = _
  rw [execHotChannelWindow, if_neg (by simp [h])]

/-! ### Temperatures and clusters -/

/-- The throttle of a channel after a reading (R159). -/
def throttleAfter (s : State) (st ch : Nat) (d : W32) : Nat :=
  if xLt (x32 (odGet s 0x4020 5)) (x32 d.toNat) then min 3 (mapGet (stackOf s st).throttle ch 0 + 1)
  else if xLt (xAdd (x32 (odGet s 0x4020 5)) (.num (-3) 0)) (x32 d.toNat) then mapGet (stackOf s st).throttle ch 0 else 0

/-- The throttled channels of a stack after a reading: a channel at full rate is not listed. -/
def throttlesAfter (s : State) (st ch : Nat) (d : W32) : FMap Nat :=
  if throttleAfter s st ch d = 0 then mapDel (stackOf s st).throttle ch else mapSet (stackOf s st).throttle ch (throttleAfter s st ch d)

theorem mapGet_throttlesAfter (s : State) (st ch : Nat) (d : W32) : mapGet (throttlesAfter s st ch d) ch 0 = throttleAfter s st ch d := by
  unfold throttlesAfter
  split_ifs with hzero
  · have hgone : mapGet? (mapDel (stackOf s st).throttle ch) ch = none := by simp
    rw [hzero, mapGet, show (mapDel (stackOf s st).throttle ch).lookup ch = none from hgone]
    rfl
  · simp

theorem exec_hbmTemperatureReading {s : State} (hup : powered s = true) (x : Fin 8) (ch : Fin 32) (d : W32) :
    ∃ t, exec (.hbmTemperatureReading x ch d) s = .next t ∧
      mapGet (stackOf t x.val).throttle ch.val 0 = throttleAfter s x.val ch.val d := by
  refine ⟨_, by show execHbmTemperatureReading x ch d s = _; rw [execHbmTemperatureReading, if_pos hup], ?_⟩
  rw [stackOf, bump_hbm]
  show mapGet (stackOf (putStack s x.val { stackOf s x.val with throttle := throttlesAfter s x.val ch.val d }) x.val).throttle ch.val 0 = _
  rw [stackOf_putStack_self]
  exact mapGet_throttlesAfter s x.val ch.val d

theorem exec_clusterWake {s : State} (hup : powered s = true) (n : Fin 8) : exec (.clusterWake n) s = .next (wakeCluster s n.val) := by
  show execClusterWake n s = _
  rw [execClusterWake, if_pos hup]

/-- Settles O44: each command by its own rule; a window's channels through those that raise their events. -/
theorem hbmAndClusterCommands : Obligations.HbmAndClusterCommands := by
  unfold Obligations.HbmAndClusterCommands
  intro x s hup h
  refine ⟨fun hreeve hstage hmay => ?_, fun hreeve hidle hrange => ?_, fun hreeve hrun => ?_, fun hrun => ?_, fun hstage hpatrol hidle => ?_,
    fun ch n hcount hover hrated => ?_, ?_, fun chs bytes own ms cs hms => exec_hotChannelWindow_other hms chs bytes own cs, fun ch d hhot => ?_,
    fun ch d hcool hbelow => ?_, fun hstage hgating hwake hidle => ?_, fun hgating hwork hkept hawake => ?_, fun hgated => ?_, fun hawake => ?_⟩
  · show execScrubStart x s = _
    rw [execScrubStart, if_pos (by simp [hup, hreeve, hstage]), scrubStart, if_pos hmay]
    rfl
  · show execScrubStart x s = _
    rw [execScrubStart, scrubStart, scrubMayStart_of_bad_range hrange]
    exact congrArg Host.Outcome.next (ite_self _)
  · obtain ⟨words, hwords, heq⟩ := scrubHalt_of_running hrun 2
    refine ⟨words, hwords, ?_⟩
    show execScrubStop x s = _
    rw [execScrubStop, if_pos (by simp [hup, hreeve]), heq]
  · show execScrubEnd x s = _
    rw [execScrubEnd, if_pos (by simp only [hup, show (stackOf s x.val).scrub.state = 1 from hrun]; rfl)]
  · refine ⟨(scanRange s x.val 0 (2 ^ 31)).1, (scanRange s x.val 0 (2 ^ 31)).2, rfl, ?_⟩
    show execPatrolScrub x s = _
    rw [execPatrolScrub, if_pos (by simp [hup, hstage, hpatrol, show (stackOf s x.val).scrub.state ≠ 1 from hidle])]
    rfl
  · show execCorrectedRateThreshold x ch s = _
    rw [execCorrectedRateThreshold]
    dsimp only
    rw [show mapGet? (stackOf s x.val).corrected ch.val = some (clock s / 3600000000000, n) from hcount]
    exact congrArg Host.Outcome.next (if_pos (by
      simp [hup, hover, show mapGet (stackOf s x.val).rated ch.val 0 ≠ clock s / 3600000000000 + 1 from hrated]))
  · intro chs bytes own cs part
    obtain ⟨hstack, hcount⟩ := hotWindowEnd_leaves s x.val part
    refine ⟨_, exec_hotChannelWindow hup x chs bytes own cs, by rw [hstack], by rw [hstack], hcount, fun ch => ?_⟩
    have hmem := mem_hotChannels (s := s) (st := x.val) (x := part) ch.isLt
    rw [hstack]
    dsimp only
    rw [mapGet?_hotMarked]
    refine ⟨fun hshare hfloor hheld => if_pos (hmem.2 ⟨⟨hshare, hfloor⟩, hheld⟩), fun hno => if_neg fun hin => ?_⟩
    obtain ⟨⟨hshare, hfloor⟩, hheld⟩ := hmem.1 hin
    rcases hno with hle | hle | hheld'
    · exact absurd hshare (not_lt.2 hle)
    · exact absurd hfloor (not_lt.2 hle)
    · rw [hheld'] at hheld
      exact absurd hheld (by decide)
  · obtain ⟨t, ht, hthrottle⟩ := exec_hbmTemperatureReading hup x ch d
    exact ⟨t, ht, by rw [hthrottle, throttleAfter, if_pos hhot]⟩
  · obtain ⟨t, ht, hthrottle⟩ := exec_hbmTemperatureReading hup x ch d
    exact ⟨t, ht, by rw [hthrottle, throttleAfter, if_neg (by simp [hcool]), if_neg (by simp [hbelow])]⟩
  · show execHbmSelfRefreshEntry x s = _
    rw [execHbmSelfRefreshEntry, if_pos (by
      simp [hup, hstage, gatingOn, hgating, hwake, show (stackOf s x.val).scrub.state ≠ 1 from hidle])]
    rfl
  · show execClusterGate x s = _
    rw [execClusterGate, if_pos (by simp [hup, gatingOn, hgating, hwork, hkept, isGated, hawake])]
    rfl
  · rw [exec_clusterWake hup, wakeCluster, if_pos (by simp [isGated, hgated])]
  · rw [exec_clusterWake hup, wakeCluster, if_neg (by simp [isGated, hawake])]

end Sys2Proof.Machine
end

section
/-! PROOFS of the flash media's commands: programs, reads, collections, refreshes, erases, map pages and metadata blocks (R327, R341, R345 to R348, R353 to R356). -/

namespace Sys2Proof.Machine

@[simp] theorem packageOf_putPackage_self (s : State) (p : Nat) (x : Package) : packageOf (putPackage s p x) p = x := by
  simp [packageOf, putPackage]

theorem packageOf_putPackage_ne (s : State) {p p' : Nat} (h : p' ≠ p) (x : Package) : packageOf (putPackage s p x) p' = packageOf s p' := by
  simp only [packageOf, putPackage, mapGet]
  rw [show (mapSet s.packages p x).lookup p' = mapGet? (mapSet s.packages p x) p' from rfl, mapGet?_mapSet, if_neg h]
  rfl

/-! ### Blocks that may move -/

theorem mayMove_of_sound {s : State} {p : Nat} (hup : powered s = true) (h : (packageOf s p).conflict = false) : mayMove s p = true := by
  simp [mayMove, hup, h]

theorem refreshable_of_full {b : Block} (h : b.st = .full) : refreshable b = true := by simp [refreshable, h]

theorem exec_gleanerCollect {s : State} {p : Fin 48} {n : Nat} (hmove : mayMove s p.val = true) (hvictim : gleanerVictim (packageOf s p.val) = some n) :
    exec (.gleanerCollect p) s = .next (evacuateIn s p.val n 1 .victim 0) := by
  show execGleanerCollect p s = _
  rw [execGleanerCollect, hvictim]
  exact congrArg Host.Outcome.next (if_pos hmove)

theorem exec_wearLevel {s : State} {p : Fin 48} {w n : Nat} (hmove : mayMove s p.val = true)
    (hleast : leastWorn ((fullBlocks (packageOf s p.val)).map (fun b => (blockWear b.2, b.1))) = some (w, n))
    (hspread : wearSpread s (packageOf s p.val) = true) : exec (.wearLevel p) s = .next (evacuateIn s p.val n 3 .victim 0) := by
  show execWearLevel p s = _
  rw [execWearLevel]
  dsimp only
  rw [hleast]
  exact congrArg Host.Outcome.next (if_pos (by rw [hmove, hspread]; rfl))

/-- A suspended erase of a die is counted against its limit of 16 (R356). -/
theorem readSuspend_of_erase {s : State} {p d : Nat} (hpend : ∃ y ∈ (packageOf s p).blocks, dieOf y.1 = d ∧ y.2.st = .erasePending)
    (hfew : mapGet (packageOf s p).suspends d 0 < 16) :
    readSuspend s p d = bump (putPackage s p { packageOf s p with
      suspends := mapSet (packageOf s p).suspends d (mapGet (packageOf s p).suspends d 0 + 1) }) 0xA400 6 1 := by
  obtain ⟨y, hy, hdie, hst⟩ := hpend
  have hany : (packageOf s p).blocks.any (fun b => dieOf b.1 = d && b.2.st = .erasePending) = true :=
    List.any_eq_true.2 ⟨y, hy, by simp [hdie, hst]⟩
  unfold readSuspend
  dsimp only
  rw [if_pos hany, if_pos hfew]

/-! ### Map pages (R346 to R348) -/

theorem openBlock_keeps {x : Package} {kind : BlkKind} {bell : Nat} {q : Nat × Package} (h : openBlock x kind bell = some q) :
    q.2.dirty = x.dirty ∧ q.2.map = x.map := by
  unfold openBlock at h
  split at h
  · cases h
  · obtain ⟨n, -, rfl⟩ := Option.map_eq_some_iff.1 h
    exact ⟨rfl, rfl⟩

theorem openOf_keeps {x : Package} {kind : BlkKind} {bell : Nat} {q : Nat × Package} (h : openOf x kind bell = some q) :
    q.2.dirty = x.dirty ∧ q.2.map = x.map := by
  unfold openOf at h
  split at h
  · cases h
    exact ⟨rfl, rfl⟩
  · exact openBlock_keeps h

/-- A place programmed changes blocks and the journal: the map and the dirty pages stay. -/
theorem placeRef_keeps {x : Package} {kind : BlkKind} {r : BackRef} {bell : Nat} {q : (Nat × Nat) × Package} (h : placeRef x kind r bell = some q) :
    q.2.dirty = x.dirty ∧ q.2.map = x.map := by
  obtain ⟨o, ho, rfl⟩ := Option.map_eq_some_iff.1 h
  exact openOf_keeps ho

/-- The record of a structure's copy: a page row in one package at most, whose map and dirty pages stay. -/
theorem appendRecord_leaves (id : Nat) (s : State) (n p : Nat) :
    (packageOf (appendRecord id s n) p).dirty = (packageOf s p).dirty ∧ (packageOf (appendRecord id s n) p).map = (packageOf s p).map ∧
    ∃ k ≤ 1, ∃ pk, appendRecord id s n = { s with packages := pk, health := { s.health with nandBytes := s.health.nandBytes + 65536 * k } } := by
  unfold appendRecord
  dsimp only
  split
  · exact ⟨rfl, rfl, 0, by decide, s.packages, rfl⟩
  · rename_i q hq
    obtain ⟨hdirty, hmap⟩ := placeRef_keeps hq
    have hbump : ∃ k ≤ 1, ∃ pk, putPackage { s with health := { s.health with nandBytes := s.health.nandBytes + 65536 } } (copyPackage id n) q.2 =
        { s with packages := pk, health := { s.health with nandBytes := s.health.nandBytes + 65536 * k } } :=
      ⟨1, le_refl 1, _, rfl⟩
    by_cases hp : p = copyPackage id n
    · subst hp
      rw [packageOf_putPackage_self]
      exact ⟨hdirty, hmap, hbump⟩
    · rw [packageOf_putPackage_ne _ hp]
      exact ⟨rfl, rfl, hbump⟩

theorem appendRecords_leaves (id : Nat) (s : State) (p : Nat) :
    (packageOf (appendRecords s id) p).dirty = (packageOf s p).dirty ∧ (packageOf (appendRecords s id) p).map = (packageOf s p).map ∧
    ∃ k ≤ 3, ∃ pk, appendRecords s id = { s with packages := pk, health := { s.health with nandBytes := s.health.nandBytes + 65536 * k } } := by
  have hunfold : appendRecords s id = appendRecord id (appendRecord id (appendRecord id s 0) 1) 2 := rfl
  obtain ⟨hd0, hm0, k0, hk0, pk0, h0⟩ := appendRecord_leaves id s 0 p
  obtain ⟨hd1, hm1, k1, hk1, pk1, h1⟩ := appendRecord_leaves id (appendRecord id s 0) 1 p
  obtain ⟨hd2, hm2, k2, hk2, pk2, h2⟩ := appendRecord_leaves id (appendRecord id (appendRecord id s 0) 1) 2 p
  refine ⟨by rw [hunfold, hd2, hd1, hd0], by rw [hunfold, hm2, hm1, hm0], k0 + k1 + k2, by omega, pk2, ?_⟩
  rw [hunfold, h2, h1, h0, Nat.mul_add, Nat.mul_add, Nat.add_assoc s.health.nandBytes, Nat.add_assoc s.health.nandBytes]

/-- What a map page stored at a place leaves: it is clean, and the map points there. -/
theorem headRecord_storePage (x : Package) (page : Nat) (loc : Nat × Nat) :
    page ∉ (headRecord (storePage x page loc)).dirty ∧ mapAt (headRecord (storePage x page loc)) (.mapPage page) = some loc := by
  have hdirty : (headRecord (storePage x page loc)).dirty = x.dirty.filter (· ≠ page) := rfl
  have hmap : (headRecord (storePage x page loc)).map = x.map.filter (fun e => e.1 ≠ .mapPage page) ++ [(.mapPage page, loc)] := rfl
  have hnone : (x.map.filter (fun e => e.1 ≠ .mapPage page)).lookup (.mapPage page) = none := by
    rw [List.lookup_eq_none_iff]
    intro e he
    have hne := of_decide_eq_true (List.mem_filter.1 he).2
    exact bne_iff_ne.2 (Ne.symm hne)
  refine ⟨by rw [hdirty]; simp, ?_⟩
  rw [mapAt, hmap, List.lookup_append, hnone]
  simp

/-- The state after a dirty map page has been written at a place: its head's records follow. -/
def pageWritten (s : State) (p page : Nat) (q : (Nat × Nat) × Package) : State :=
  let s1 := putPackage s p (headRecord (storePage q.2 page q.1))
  appendRecords { s1 with health := { s1.health with nandBytes := s1.health.nandBytes + 16384 } } (headsOf p)

theorem exec_mapPageWriteback {s : State} {p : Fin 48} {page : Nat} {q : (Nat × Nat) × Package} (hup : powered s = true)
    (hdirty : (packageOf s p.val).dirty.contains page = true) (hconf : (packageOf s p.val).conflict = false)
    (hplace : placeRef (packageOf s p.val) .mapPages (.mapPage page) s.bell.count = some q) :
    exec (.mapPageWriteback p page) s = .next (pageWritten s p.val page q) := by
  show execMapPageWriteback p page s = _
  rw [execMapPageWriteback]
  dsimp only
  rw [if_neg (by rw [hup, hdirty, hconf]; decide), hplace]
  rfl

theorem pageWritten_leaves (s : State) (p page : Nat) (q : (Nat × Nat) × Package) :
    page ∉ (packageOf (pageWritten s p page q) p).dirty ∧ mapAt (packageOf (pageWritten s p page q) p) (.mapPage page) = some q.1 ∧
    ∃ k ≤ 3, ∃ pk, pageWritten s p page q = { s with
      packages := pk, health := { s.health with nandBytes := s.health.nandBytes + 16384 + 65536 * k } } := by
  obtain ⟨hdirty, hmap, k, hk, pk, heq⟩ := appendRecords_leaves (headsOf p)
    { putPackage s p (headRecord (storePage q.2 page q.1)) with health := { s.health with nandBytes := s.health.nandBytes + 16384 } } p
  have hput : packageOf { putPackage s p (headRecord (storePage q.2 page q.1)) with
      health := { s.health with nandBytes := s.health.nandBytes + 16384 } } p = headRecord (storePage q.2 page q.1) :=
    packageOf_putPackage_self s p _
  obtain ⟨hclean, hat⟩ := headRecord_storePage q.2 page q.1
  rw [hput] at hdirty hmap
  refine ⟨fun hin => hclean ?_, (congrArg (fun m => m.lookup (BackRef.mapPage page)) hmap).trans hat, k, hk, pk, heq⟩
  rw [← hdirty]
  exact hin

/-! ### Metadata blocks (R341) -/

/-- The state after the full metadata block of a package has been followed by the open one. -/
def rolledOver (s : State) (p : Nat) (b : Nat × Block) (x : Package) : State :=
  let rs := newestRecords (packageOf s p) b.2
  let s1 := putPackage s p (jotBlock (rs.foldl (rewriteRecord s.bell.count) x) b.1 { b.2 with st := .erasePending })
  { s1 with health := { s1.health with nandBytes := s1.health.nandBytes + 65536 * rs.length } }

theorem exec_metadataRollover {s : State} {p : Fin 48} {f : Nat × Block} {q : Nat × Package} (hup : powered s = true)
    (hfull : fullMetadata (packageOf s p.val) = some f) (hopen : openOf (packageOf s p.val) .metadata s.bell.count = some q) :
    exec (.metadataRollover p) s = .next (rolledOver s p.val f q.2) := by
  show execMetadataRollover p s = _
  rw [execMetadataRollover]
  dsimp only
  rw [hfull]
  dsimp only
  rw [if_neg (by rw [hup]; decide), hopen]
  rfl

theorem blockAt_jotBlock_self (x : Package) (n : Nat) (b : Block) : blockAt (jotBlock x n b) n = b := by
  simp [blockAt, jotBlock, jot, putBlock]

theorem blockAt_rolledOver (s : State) (p : Nat) (b : Nat × Block) (x : Package) :
    blockAt (packageOf (rolledOver s p b x) p) b.1 = { b.2 with st := .erasePending } := by
  have hput : packageOf (rolledOver s p b x) p =
      jotBlock ((newestRecords (packageOf s p) b.2).foldl (rewriteRecord s.bell.count) x) b.1 { b.2 with st := .erasePending } :=
    packageOf_putPackage_self s p _
  rw [hput, blockAt_jotBlock_self]

/-- Settles O57: each command in the state of the block it names; a map page and a metadata block through what they leave. -/
theorem mediaCommands : Obligations.MediaCommands := by
  unfold Obligations.MediaCommands
  intro p n s hup x b
  refine ⟨fun j => ?_, fun page level hex hfull => ?_, fun page level hex hpend => ?_, fun hsound hvictim => ?_, fun w hsound hleast hspread => ?_,
    fun hsound hst => ?_, fun hpend => ⟨?_, fun blank => ?_⟩, fun hfull => ⟨fun hsound hlimit => ?_, fun hbelow => ?_, fun hsound => ?_, fun page level => ?_⟩,
    fun hopened => ⟨?_, ?_⟩, fun q hdirty hsound hplace => ?_, fun f q hfull hopen => ?_, fun d hpend hfew => ?_, fun failed hrun => ?_, fun hidle => ?_⟩
  · show execNandProgramComplete p j s = _
    rw [execNandProgramComplete, if_pos hup]
  · show execPageReadComplete p n page level s = _
    have hst : (blockAt (packageOf s p.val) n).st = .full := hfull
    rw [execPageReadComplete]
    dsimp only
    rw [if_neg (by rw [hup, hex]; decide), if_neg (by rw [hst]; decide), if_pos (by simp [blockRead, hst])]
  · show execPageReadComplete p n page level s = _
    rw [execPageReadComplete]
    dsimp only
    rw [if_neg (by rw [hup, hex]; decide), if_pos hpend]
  · exact exec_gleanerCollect (mayMove_of_sound hup hsound) hvictim
  · exact exec_wearLevel (mayMove_of_sound hup hsound) hleast hspread
  · show execRelocation p n s = _
    have hst' : (blockAt (packageOf s p.val) n).st = .victim ∨ (blockAt (packageOf s p.val) n).st = .suspect := hst
    rw [execRelocation]
    exact congrArg Host.Outcome.next (if_pos (by simp [mayMove_of_sound hup hsound, hst']))
  · show execBlockErase p n s = _
    rw [execBlockErase, if_pos (by rw [hup, show (blockAt (packageOf s p.val) n).st = .erasePending from hpend]; rfl)]
  · show execEraseFail p n blank s = _
    rw [execEraseFail, if_pos (by rw [hup, show (blockAt (packageOf s p.val) n).st = .erasePending from hpend]; rfl)]
  · show execDisturbRefresh p n s = _
    rw [execDisturbRefresh]
    exact congrArg Host.Outcome.next (if_pos (by
      rw [mayMove_of_sound hup hsound, refreshable_of_full hfull, decide_eq_true hlimit]; rfl))
  · show execDisturbRefresh p n s = _
    rw [execDisturbRefresh]
    exact congrArg Host.Outcome.next (if_neg (by rw [decide_eq_false (not_le.2 hbelow), Bool.and_false]; decide))
  · show execRetentionRefresh p n s = _
    rw [execRetentionRefresh, if_pos (by rw [mayMove_of_sound hup hsound, refreshable_of_full hfull]; rfl)]
  · show execPatrolRead p n page level s = _
    rw [execPatrolRead, if_pos (by rw [hup, refreshable_of_full hfull]; rfl)]
  · show execProgramFail p n s = _
    rw [execProgramFail, if_pos (by rw [hup, show (blockAt (packageOf s p.val) n).st = .opened from hopened]; rfl)]
  · show execSuspectBlock p n s = _
    rw [execSuspectBlock, if_pos (by rw [hup, show (blockAt (packageOf s p.val) n).st = .opened from hopened]; rfl)]
  · obtain ⟨hclean, hat, k, hk, pk, heq⟩ := pageWritten_leaves s p.val n q
    exact ⟨_, exec_mapPageWriteback hup hdirty hsound hplace, hclean, hat, ⟨k, hk, by rw [heq]⟩, by rw [heq]⟩
  · refine ⟨_, exec_metadataRollover hup hfull hopen, ?_, rfl, rfl⟩
    rw [blockAt_rolledOver]
  · show execReadSuspend p d s = _
    rw [execReadSuspend, if_pos hup, readSuspend_of_erase hpend hfew]
    rfl
  · show execSanitizeComplete failed s = _
    rw [execSanitizeComplete, if_pos (by rw [hup, hrun]; rfl)]
  · show execSanitizeComplete true s = _
    rw [execSanitizeComplete, if_neg (by rw [hidle, Bool.and_false]; decide)]

end Sys2Proof.Machine
end

section
/-! PROOFS of the Kamlin links: flits and replays, recovery, training, timeouts and credits (R282 to R288, R293, R294). -/

namespace Sys2Proof.Machine

@[simp] theorem portOf_putPort_self (s : State) (p : Nat) (x : Port) : portOf (putPort s p x) p = x := by simp [portOf, putPort]

@[simp] theorem putPort_putPort (s : State) (p : Nat) (x y : Port) : putPort (putPort s p x) p y = putPort s p y := by simp [putPort]

/-- A port's own counters do not reach its record. -/
theorem portOf_bump (s : State) (p q sub n : Nat) (hsub : sub < 256) (h : q ≠ 0x9020 + p) : portOf (bump s q sub n) p = portOf s p := by
  rw [portOf, bump_ports, odGet_bump_ne _ _ _ _ _ _ (odKey_ne (by decide) hsub (Ne.symm h))]
  rfl

theorem bump_zero (s : State) (i sub : Nat) : bump s i sub 0 = s := if_pos rfl

/-! ### Flits (R283 to R286) -/

theorem exec_flitReceive {s : State} {p : Fin 8} (hup : powered s = true) (hport : (portOf s p.val).state = 2) (b : List Byte) (decoded : Bool) (n : Nat) :
    exec (.flitReceive p b decoded n) s = .next (receiveFlit s p.val b decoded n) := by
  show execFlitReceive p b decoded n s = _
  rw [execFlitReceive, if_pos (by rw [hup, decide_eq_true hport]; rfl)]

/-- A flit that does not decode or breaks its layout or its CRC, after it has been counted. -/
theorem receiveFlit_bad {s : State} {p : Nat} {b : List Byte} {decoded : Bool} (h : decoded = false ∨ flitOk b = false) (n : Nat) :
    receiveFlit s p b decoded n =
      badFlit (bump (bump s (0xA3A0 + p) 3 n) (0xA3A0 + p) 4 (if decoded then 0 else 1)) p (leAt b 0 2 % 4096) := by
  unfold receiveFlit
  dsimp only
  rw [if_pos (by rcases h with h | h <;> simp [h])]

/-- The flit that is expected next, without an acknowledgement and without a symbol corrected. -/
theorem receiveFlit_expected {s : State} {p : Nat} {b : List Byte} (hport : (portOf s p).state = 2) (hok : flitOk b = true)
    (hack : bitOf (BitVec.ofNat 16 (leAt b 2 2)) 12 = false) (hdata : leAt b 1 1 / 16 = 1) (hseq : leAt b 0 2 % 4096 = (portOf s p).rxSeq) :
    receiveFlit s p b true 0 =
      putPort s p { portOf s p with rxSeq := ((portOf s p).rxSeq + 1) % 4096, asked := false, asks := 0 } := by
  unfold receiveFlit
  dsimp only
  rw [if_pos rfl, bump_zero, bump_zero, if_neg (by simp [hok]), if_neg (show ¬leAt b 1 1 / 16 = 2 by rw [hdata]; decide), hack,
    if_neg (show ¬false = true by decide), if_pos (by rw [hdata, decide_eq_true hport]; rfl), dataFlit]
  exact if_pos hseq

/-! ### Replays and recovery (R284, R286, R287) -/

theorem linkRecovery_of_up {s : State} {p : Nat} (h : (portOf s p).state = 2) : linkRecovery s p = bump (portLost s p 3) (0xA3A0 + p) 5 1 := if_pos h

theorem exec_retryRequest {s : State} {p : Fin 8} (hup : powered s = true) (hport : (portOf s p.val).state = 2) (seq : Fin 4096) :
    exec (.retryRequest p seq) s = .next (replayFrom s p.val seq.val) := by
  show execRetryRequest p seq s = _
  rw [execRetryRequest, if_pos (by rw [hup, decide_eq_true hport]; rfl)]

theorem replayFrom_of_held {s : State} {p seq : Nat} (h : (seq + 4096 - (portOf s p).ackSeq) % 4096 ≤ (portOf s p).replay.length) :
    replayFrom s p seq = pump (sendFlits (putPort s p { portOf s p with
      ackSeq := seq, replay := (portOf s p).replay.drop ((seq + 4096 - (portOf s p).ackSeq) % 4096) }) p seq
      ((portOf s p).replay.drop ((seq + 4096 - (portOf s p).ackSeq) % 4096))) p := by
  have hack : ackTo (portOf s p) seq = some { portOf s p with
      ackSeq := seq, replay := (portOf s p).replay.drop ((seq + 4096 - (portOf s p).ackSeq) % 4096) } := if_neg (not_lt.2 h)
  rw [replayFrom, hack]

theorem replayFrom_of_lost {s : State} {p seq : Nat} (h : (portOf s p).replay.length < (seq + 4096 - (portOf s p).ackSeq) % 4096) :
    replayFrom s p seq = linkRecovery s p := by
  have hack : ackTo (portOf s p) seq = none := if_pos h
  rw [replayFrom, hack]

theorem exec_ackTimeout {s : State} (hup : powered s = true) (p : Fin 8) :
    exec (.ackTimeout p) s = .next (if (portOf s p.val).replay = [] then s else linkRecovery s p.val) := by
  show execAckTimeout p s = _
  rw [execAckTimeout, hup]
  by_cases h : (portOf s p.val).replay = [] <;> simp [h]

theorem exec_creditReturnTimeout {s : State} (hup : powered s = true) (p : Fin 8) :
    exec (.creditReturnTimeout p) s = .next (if (portOf s p.val).awaiting = [] then s else linkRecovery s p.val) := by
  show execCreditReturnTimeout p s = _
  rw [execCreditReturnTimeout, hup]
  by_cases h : (portOf s p.val).awaiting = [] <;> simp [h]

/-! ### Training (R282, R288) -/

/-- Training with every lane good, to a neighbour that no other port reaches: the port is up at four lanes. -/
theorem trained_of_new_neighbour {s : State} {p n : Nat} (hwidth : odGet s (0x9020 + p) 2 ≤ 4) (hother : n ≠ ownAddress s)
    (hnew : reached (putPort { s with kamlinAddr := ownAddress s } p { portOf s p with addr := ownAddress s }) p n = false) :
    trained s p 15 n = routeBack (putPort (putPort { s with kamlinAddr := ownAddress s } p { portOf s p with addr := ownAddress s }) p
      { portOf s p with addr := ownAddress s, width := 4, neighbour := n, state := 2 }) p := by
  have hgood : goodWidth 15 = 4 := rfl
  have hmin : (decide ((4 : Nat) = 0) || decide (4 < odGet s (0x9020 + p) 2)) = false := by
    rw [decide_eq_false (not_lt.2 hwidth)]
    rfl
  unfold trained linkDone
  dsimp only
  rw [hgood, if_neg (by rw [Bool.not_eq_true]; exact hmin), portOf_putPort_self, if_neg hother, hnew]
  simp

/-! ### Credits (R294) -/

theorem exec_creditReturnSend {s : State} {p : Fin 8} (hup : powered s = true) (hport : (portOf s p.val).state = 2) :
    exec (.creditReturnSend p) s = .next (sendCredits s p.val 0 0 0) := by
  show execCreditReturnSend p s = _
  rw [execCreditReturnSend, if_pos (by rw [hup, portUp, decide_eq_true hport]; rfl)]

/-- Settles O50: each event of a link by the port's state and what it holds. -/
theorem kamlinLinks : Obligations.KamlinLinks := by
  unfold Obligations.KamlinLinks
  intro p s hup x
  have hport (q sub n : Nat) (hsub : sub < 256) (h : q ≠ 0x9020 + p.val) : portOf (bump s q sub n) p.val = x := portOf_bump s p.val q sub n hsub h
  refine ⟨fun b decoded n hstate hbad => ?_, fun b hstate hok hack hdata hseq => ?_, fun seq hstate => ?_, fun hreplay hstate => ?_, fun hreplay => ?_,
    fun hawait hstate => ?_, fun hawait => ?_, fun good n hstate => ?_, fun good n hstate hen => ?_, fun n hstate hen hwidth hother => ?_, fun hstate => ?_,
    fun hstate hen => ?_, fun hstate howed => ?_, fun hstate howed => ?_⟩
  · intro s1
    have hs1 : portOf s1 p.val = x := by
      rw [portOf_bump _ _ _ _ _ (by decide) (by omega), hport _ _ _ (by decide) (by omega)]
    rw [exec_flitReceive hup hstate, receiveFlit_bad hbad, badFlit]
    rw [show portOf (bump (bump s (0xA3A0 + p.val) 3 n) (0xA3A0 + p.val) 4 (if decoded = true then 0 else 1)) p.val = x from hs1]
    refine ⟨fun hask => ?_, fun hasked hother => ?_⟩
    · rw [if_neg (by rcases hask with h | h <;> simp [h])]
    · rw [if_pos (by simp [hasked, hother])]
  · rw [exec_flitReceive hup hstate, receiveFlit_expected hstate hok hack hdata hseq]
  · intro n
    rw [exec_retryRequest hup hstate]
    exact ⟨fun hheld => by rw [replayFrom_of_held hheld], fun hlost => by rw [replayFrom_of_lost hlost, linkRecovery_of_up hstate]⟩
  · rw [exec_ackTimeout hup, if_neg hreplay, linkRecovery_of_up hstate]
  · rw [exec_ackTimeout hup, if_pos hreplay]
  · rw [exec_creditReturnTimeout hup, if_neg hawait, linkRecovery_of_up hstate]
  · rw [exec_creditReturnTimeout hup, if_pos hawait]
  · show execRecoveryComplete p good n s = _
    rw [execRecoveryComplete, if_pos (by rw [hup, show (portOf s p.val).state = 3 from hstate]; rfl)]
  · show execTrainingComplete p good n s = _
    rw [execTrainingComplete, if_pos (by rw [hup, show (portOf s p.val).state = 1 from hstate, hen]; rfl)]
  · intro s1 hnew
    show execTrainingComplete p 15 n s = _
    rw [execTrainingComplete, if_pos (by rw [hup, show (portOf s p.val).state = 1 from hstate, hen]; rfl)]
    exact congrArg Host.Outcome.next (trained_of_new_neighbour hwidth hother hnew)
  · show execTrainingFailTimeout p s = _
    have hstate' : (portOf s p.val).state = 1 ∨ (portOf s p.val).state = 3 := hstate
    rw [execTrainingFailTimeout, if_pos (by simp [hup, hstate'])]
    rfl
  · show execDownRetryTimeout p s = _
    rw [execDownRetryTimeout, if_pos (by rw [hup, show (portOf s p.val).state = 4 from hstate, hen]; rfl)]
  · rw [exec_creditReturnSend hup hstate, sendCredits]
    exact congrArg Host.Outcome.next (if_neg (by rw [Bool.not_eq_true]; exact howed))
  · rw [exec_creditReturnSend hup hstate, sendCredits]
    exact congrArg Host.Outcome.next (if_pos howed)

end Sys2Proof.Machine
end

section
/-! PROOFS of the Kamlin frames and of the Bell domain (R248 to R252, R277, R282, R289 to R291, R294, R297, R300 to R303). -/

namespace Sys2Proof.Machine

/-! ### Frames that a port takes in -/

/-- A frame that a port takes in has its effect. -/
theorem withFrame_of_taken {s : State} {p : Fin 8} {b : List Byte} {type : Nat} (h : Claims.FrameTaken s p b type) (effect : State → State) :
    withFrame s p.val b type effect = effect s := by
  obtain ⟨hup, hstate, hok, htype, hstage, hdst⟩ := h
  have hcarries : (decide ((portOf s p.val).state = 2) || (decide ((portOf s p.val).state = 5) && (decide (type = 0x12) || decide (type = 0x13)))) = true := by
    simpa using hstate
  have hhere : ¬(decide (frDst b ≠ (portOf s p.val).addr) && decide (type < 0x12)) = true := by
    simp only [Bool.and_eq_true, decide_eq_true_eq]
    exact fun ⟨hne, hlt⟩ => hne (hdst hlt)
  unfold withFrame
  dsimp only
  rw [if_neg (by rw [hup, hcarries]; decide), if_neg (by simpa [hok, htype] using hstage), if_neg hhere]

/-- A frame that breaks its layout is discarded, whatever its type, on a port that is up. -/
theorem withFrame_of_malformed {s : State} {p : Fin 8} {b : List Byte} (hup : powered s = true) (hstate : (portOf s p.val).state = 2)
    (hbad : frameOk b = false) (type : Nat) (effect : State → State) : withFrame s p.val b type effect = discardFrame s p.val b := by
  unfold withFrame
  dsimp only
  rw [if_neg (by simp [hup, hstate]), if_pos (by rw [hbad]; rfl)]

/-- A frame of the attempt that runs is taken into it. -/
theorem stepFrame_of_now {s : State} {p c q : Nat} {b : List Byte} {j : Job} {k : Croft} (hjob : frameJob s b = some (c, j, q))
    (hcroft : croft? s c = some k) (hturn : frameTurn k j b = .now) : stepFrame s p b = acceptFrame s p c q b := by
  unfold stepFrame
  rw [hjob]
  dsimp only
  rw [hcroft]
  dsimp only
  rw [hturn]

/-! ### Tier TP (R300, R301) -/

section Export
variable {s : State} {b : List Byte} {y : PeerExport} (hexport : mapGet? s.exports (frParam b 0) = some y)
include hexport

theorem tpReadFrame_of_open {z : Binding} (hbind : bindingOf s y.croft y.bset y.index = some z) (hopen : exportOpen y b false = true)
    (hrange : frParam b 1 + frParam b 2 ≤ z.count) (p : Nat) :
    tpReadFrame s p b = (List.range (frParam b 2)).foldl (fun s i => answerRead s y b (frParam b 1 + i)) (noteBound (oweCredits s p b) (frParam b 0) b) := by
  unfold tpReadFrame
  rw [hexport]
  dsimp only
  rw [hbind, if_neg (by simp [hopen, hrange])]

theorem tpWriteFrame_of_closed (hclosed : exportOpen y b true = false) (p : Nat) :
    tpWriteFrame s p b = routingEvent (discardFrame s p b) p b := by
  unfold tpWriteFrame
  rw [hexport]
  dsimp only
  rw [if_pos (by simp [hclosed])]

end Export

/-! ### Group checks (R297) -/

theorem checkFrame_of_job {s : State} {p c : Nat} {b g : List Byte} {j : Job} (hjob : tagJob s (frTag b) = some (c, j)) (hgroup : j.group = some g) :
    checkFrame s p b = oweCredits (checkJob s c j g b) p b := by
  unfold checkFrame
  rw [hjob]
  dsimp only
  rw [hgroup]

theorem checkFrame_of_none {s : State} {p : Nat} {b : List Byte} (hjob : tagJob s (frTag b) = none) : checkFrame s p b = holdFrame s p b := by
  unfold checkFrame
  rw [hjob]

theorem exec_groupCheckTimeout {s : State} {c : Fin 32} {job : Nat} {j : Job} (hup : powered s = true) (hjob : jobOf s c.val job = some j)
    (hgroup : j.group ≠ none) (hwaits : groupReady j = false) (hsound : j.faulted = false) :
    exec (.groupCheckTimeout c job) s = .next (endJob s c.val job 0x43) := by
  show execGroupCheckTimeout c job s = _
  rw [execGroupCheckTimeout, if_neg (by rw [hup]; decide), hjob]
  exact congrArg Host.Outcome.next (if_pos (by simp [Option.isSome_iff_ne_none.2 hgroup, hwaits, hsound]))

/-! ### Link management and forwarding (R282, R289, R290) -/

/-- A neighbour's address that does not clash: it is noted, and a clash that it ends is left. -/
theorem linkManage_of_other {s : State} {p : Nat} {b : List Byte} (hother : leAt b 32 1 ≠ (portOf s p).addr) :
    linkManage s p b = if (portOf s p).state = 5 && !reached s p (leAt b 32 1) then
      routeBack (putPort (oweCredits (putPort s p { portOf s p with neighbour := leAt b 32 1 }) p b) p
        { portOf (oweCredits (putPort s p { portOf s p with neighbour := leAt b 32 1 }) p b) p with state := 2 }) p
      else oweCredits (putPort s p { portOf s p with neighbour := leAt b 32 1 }) p b := if_neg hother

/-- A frame's destination does not lie where its hop class does. -/
theorem frDst_patch_hop (b : List Byte) (v : Byte) : frDst (patch b 1 [v]) = frDst b := by
  have hdrop : (patch b 1 [v]).drop 2 = b.drop 2 := by
    cases b with
    | nil => rfl
    | cons a l => simp [patch]
  simp only [frDst, leAt, sub, hdrop]

/-- A data frame for another module, below the last hop class, with a route: passed on with its class raised. -/
theorem forwardFrame_of_route {s : State} {p q : Nat} {b : List Byte} (hhop : frHop b ≠ 7) (hdata : isControl (frType b) = false)
    (hroute : routePort s (frDst b) = some q) :
    forwardFrame s p b = queueOn s q ⟨patch b 1 [BitVec.ofNat 8 (frHop b + 1)], frClass (patch b 1 [BitVec.ofNat 8 (frHop b + 1)]), 0xFF, some p⟩ := by
  have hcancel : frType b ≠ 0x10 := fun h => by rw [h] at hdata; exact absurd hdata (by decide)
  unfold forwardFrame
  dsimp only
  rw [if_neg hhop, if_neg (by simp [hroute]), if_neg hcancel, hdata, if_neg (show ¬false = true by decide), sendOn]
  dsimp only
  rw [frDst_patch_hop, hroute]

theorem forwardFrame_of_no_route {s : State} {p : Nat} {b : List Byte} (hhop : frHop b ≠ 7) (hdata : isControl (frType b) = false)
    (hroute : routePort s (frDst b) = none) : forwardFrame s p b = discardFrame s p b := by
  have hcancel : frType b ≠ 0x10 := fun h => by rw [h] at hdata; exact absurd hdata (by decide)
  unfold forwardFrame
  dsimp only
  rw [if_neg hhop, if_pos (by simp [hroute, hcancel])]

theorem exec_frameForward {s : State} {p : Fin 8} (hup : powered s = true) (hport : (portOf s p.val).state = 2) (b : List Byte) :
    exec (.frameForward p b) s = .next (if !frameOk b then discardFrame s p.val b
      else if frDst b ≠ (portOf s p.val).addr && frType b < 0x12 then forwardFrame s p.val b else s) := by
  show execFrameForward p b s = _
  rw [execFrameForward, if_pos (by rw [hup, portUp, decide_eq_true hport]; rfl)]

/-- Settles O51: each type by the effect of a frame that is taken in, and the frames that are not for this module by their route. -/
theorem kamlinFrames : Obligations.KamlinFrames := by
  unfold Obligations.KamlinFrames
  intro p b s
  refine ⟨fun c j q k hjob hcroft hturn => ?_, fun y z hexport hbind => ⟨fun h hopen hrange => ?_, fun h hopen hrange => ?_, fun h hclosed => ?_⟩,
    fun h hasked => ?_, fun c e h hdone henv => ?_, fun c j g h hjob hgroup => ?_, fun h hnone => ?_,
    fun c job j hup hjob hc hgroup hwaits hsound => exec_groupCheckTimeout hup hjob hgroup hwaits hsound, fun h => ?_, fun h => ?_,
    fun h hother => ?_, fun hup hport => ⟨fun hok hdst htype => ⟨fun hhop => ?_, fun hhop hdata hroute => ?_, fun q hhop hdata hroute => ?_⟩,
      fun hbad => ⟨?_, ?_⟩⟩⟩
  · have haccept := stepFrame_of_now (p := p.val) hjob hcroft hturn
    exact ⟨fun h => congrArg Host.Outcome.next ((withFrame_of_taken h _).trans haccept),
      fun h => congrArg Host.Outcome.next ((withFrame_of_taken h _).trans haccept),
      fun h => congrArg Host.Outcome.next ((withFrame_of_taken h _).trans haccept),
      fun h => congrArg Host.Outcome.next ((withFrame_of_taken h _).trans haccept),
      fun h => congrArg Host.Outcome.next ((withFrame_of_taken h _).trans haccept)⟩
  · exact congrArg Host.Outcome.next ((withFrame_of_taken h _).trans (tpReadFrame_of_open hexport hbind hopen hrange p.val))
  · exact congrArg Host.Outcome.next (withFrame_of_taken h _)
  · exact congrArg Host.Outcome.next ((withFrame_of_taken h _).trans (tpWriteFrame_of_closed hexport hclosed p.val))
  · exact congrArg Host.Outcome.next (withFrame_of_taken h _)
  · exact congrArg Host.Outcome.next (withFrame_of_taken h _)
  · exact congrArg Host.Outcome.next ((withFrame_of_taken h _).trans (checkFrame_of_job hjob hgroup))
  · exact congrArg Host.Outcome.next ((withFrame_of_taken h _).trans (checkFrame_of_none hnone))
  · exact congrArg Host.Outcome.next (withFrame_of_taken h _)
  · exact congrArg Host.Outcome.next (withFrame_of_taken h _)
  · have hmanage : exec (.linkManagement p b) s = .next (linkManage s p.val b) := congrArg Host.Outcome.next (withFrame_of_taken h _)
    rw [hmanage, linkManage_of_other hother]
    refine ⟨fun hup => ?_, fun hclash hreached => ?_, fun hclash hnew => ?_⟩
    · rw [if_neg (by simp [hup])]
    · rw [if_neg (by rw [hreached]; simp)]
    · rw [if_pos (by rw [hclash, hnew]; rfl)]
  · rw [exec_frameForward hup hport, if_neg (by rw [hok]; decide), if_pos (by simp [hdst, htype]), forwardFrame, if_pos hhop]
  · rw [exec_frameForward hup hport, if_neg (by rw [hok]; decide), if_pos (by simp [hdst, htype]), forwardFrame_of_no_route hhop hdata hroute]
  · rw [exec_frameForward hup hport, if_neg (by rw [hok]; decide), if_pos (by simp [hdst, htype]), forwardFrame_of_route hhop hdata hroute]
  · rw [exec_frameForward hup hport, if_pos (by rw [hbad]; rfl)]
  · exact congrArg Host.Outcome.next (withFrame_of_malformed hup hport hbad 1 _)

/-! ### The Bell domain (R248 to R252, R302, R303) -/

/-- The neighbour's offer that an exchange brings, heard on its port after the request has gone out. -/
def exchangeHeard (s : State) (p : Nat) (x : BellX) : State :=
  hearMaster (bellRequest s p x) p ⟨x.priority.toNat, x.serial.toNat, x.hops.toNat, x.address.toNat⟩

theorem exec_bellExchange {s : State} {p : Fin 8} (hup : powered s = true) (hstage : 1 ≤ s.power.stage) (hport : (portOf s p.val).state = 2) (x : BellX) :
    exec (.bellExchange p x) s = .next (bellExchange s p.val x) := by
  show execBellExchange p x s = _
  rw [execBellExchange, if_pos (by rw [hup, portUp, decide_eq_true hport, decide_eq_true hstage]; rfl)]

theorem bellExchange_of_retried {s : State} {x : BellX} (h : x.retried = true) (p : Nat) : bellExchange s p x = exchangeHeard s p x := by
  unfold bellExchange
  exact if_pos (by simp [h])

/-- An exchange counts for a follower whose neighbour is nearer the same master. -/
theorem bellExchange_of_follower {s : State} {x : BellX} {p : Nat} (hfirst : x.retried = false) (henabled : odGet (exchangeHeard s p x) 0x9100 1 ≠ 0)
    (hfollows : bellMaster (exchangeHeard s p x) = false) (hknown : x.hops ≠ 0xFF) (hnearer : x.hops.toNat < (exchangeHeard s p x).bell.mHops)
    (hsame : x.serial.toNat = (exchangeHeard s p x).bell.mSerial) :
    bellExchange s p x = takeExchange (exchangeHeard s p x) (exchangeError (exchangeHeard s p x) p x) := by
  have hcounts : ¬(x.retried || odGet (exchangeHeard s p x) 0x9100 1 = 0 || bellMaster (exchangeHeard s p x) || x.hops = 0xFF ||
      (exchangeHeard s p x).bell.mHops ≤ x.hops.toNat || x.serial.toNat ≠ (exchangeHeard s p x).bell.mSerial) = true := by
    rw [decide_eq_false henabled, decide_eq_false hknown, decide_eq_false (not_le.2 hnearer), decide_eq_false (not_not.2 hsame), hfirst, hfollows]
    decide
  exact if_neg hcounts

theorem exec_bellPpsEdge {s : State} (hup : powered s = true) (hstage : 1 ≤ s.power.stage) (hgood : inputBad s 2 = false)
    (hlate : s.bell.pps.any (fun t => s.bell.count < t + 100000000) = false) : exec .bellPpsEdge s = .next (ppsEdge (bump s 0xA442 1 1)) := by
  show execBellPpsEdge s = _
  rw [execBellPpsEdge, if_neg (by rw [hup, hgood, hlate, decide_eq_false (by omega : ¬s.power.stage = 0)]; decide)]

/-- A first edge is latched. -/
theorem ppsEdge_first {s : State} (h : s.bell.pps = none) : ppsEdge s = { s with bell := { s.bell with pps := some s.bell.count } } := by
  unfold ppsEdge
  rw [h]

/-- An edge too late is latched and counted. -/
theorem ppsEdge_late {s : State} {n : Nat} (h : s.bell.pps = some n) (hlate : n + 1000100000 < s.bell.count) :
    ppsEdge s = bump { s with bell := { s.bell with pps := some s.bell.count } } 0xA360 4 1 := by
  unfold ppsEdge
  dsimp only
  rw [h]
  exact if_neg (by omega)

theorem exec_bell {s : State} {p : Fin 8} {b : List Byte} (h : Claims.FrameTaken s p b 0x12) : exec (.bell p b) s = .next (bellFrame s p.val b) := by
  show execBell p b s = _
  rw [execBell, withFrame_of_taken h]

/-- Settles O52: exchanges and frames through the offer they bring, holdover by what the ports offer, the pulse by its distance from the last. -/
theorem bellCommands : Obligations.BellCommands := by
  unfold Obligations.BellCommands
  intro s hup
  refine ⟨fun p x hstage hport => ⟨exchangeHeard s p.val x, rfl, fun hretried => ?_, fun hfirst henabled hfollows hknown hnearer hsame => ?_⟩,
    fun p b h hrequest => ?_, fun p b h hresponse => ?_, fun hfollows hlocked => ?_, fun hhold => ⟨fun hoffers => ?_, fun hnone => ?_⟩,
    fun hstage hgood => ⟨fun hfirst => ?_, fun n hpps hearly => ?_, fun n hpps hlate => ?_⟩⟩
  · rw [exec_bellExchange hup hstage hport, bellExchange_of_retried hretried]
  · rw [exec_bellExchange hup hstage hport, bellExchange_of_follower hfirst henabled hfollows hknown hnearer hsame]
  · rw [exec_bell h, bellFrame, if_pos hrequest]
  · rw [exec_bell h, bellFrame, if_neg hresponse]
  · show execHoldoverEntry s = _
    rw [execHoldoverEntry, if_pos (by rw [hup, hfollows, hlocked]; rfl)]
  · show execHoldoverLimit s = _
    rw [execHoldoverLimit, if_pos (by rw [hup, hhold]; rfl), if_neg (by simp [hoffers])]
  · show execHoldoverLimit s = _
    rw [execHoldoverLimit, if_pos (by rw [hup, hhold]; rfl), if_pos (by simp [hnone])]
  · rw [exec_bellPpsEdge hup hstage hgood (by rw [hfirst]; rfl), ppsEdge_first (by rw [bump_bell, hfirst]), bump_bell]
  · show execBellPpsEdge s = _
    rw [execBellPpsEdge, if_pos (by rw [hpps, Option.any_some, decide_eq_true hearly, Bool.or_true])]
  · rw [exec_bellPpsEdge hup hstage hgood (by rw [hpps, Option.any_some, decide_eq_false (by omega)]), ppsEdge_late (by rw [bump_bell, hpps]) (by rw [bump_bell]; exact hlate), bump_bell]

end Sys2Proof.Machine
end
